-- ==== Sys2Proof/Word.lean ====
section
/-! DEFINITION. The word and byte types of the Natriuk Criuri module, little-endian joining and splitting (spec/00 R9)
and the reading and writing of one bit field (spec/00 R8). -/

namespace Sys2Proof

/-- A register: 64 bits (spec/00 R13). -/
abbrev Word := BitVec 64

/-- The smallest addressable unit of every address space of the module. -/
abbrev Byte := BitVec 8

/-- The number that a list of bytes spells, lowest address first (R9). -/
def leNat : List Byte → Nat
  | [] => 0
  | b :: bs => b.toNat + 256 * leNat bs

/-- The `n` bytes of a number, lowest address first (R9). -/
def leBytes : Nat → Nat → List Byte
  | 0, _ => []
  | n + 1, v => BitVec.ofNat 8 v :: leBytes n (v / 256)

/-- The number that a list of bytes spells, highest-order byte first: the network order of a standard header (R9). -/
def beNat (bs : List Byte) : Nat := leNat bs.reverse

/-- The `n` bytes of a number in network order (R9). -/
def beBytes (n v : Nat) : List Byte := (leBytes n v).reverse

/-- Bits `lo + len - 1 .. lo` of a number (R8). -/
def bitsOf (v lo len : Nat) : Nat := v / 2 ^ lo % 2 ^ len

/-- A number with bits `lo + len - 1 .. lo` replaced by `x` (R8). -/
def setBits (v lo len x : Nat) : Nat :=
  v % 2 ^ lo + 2 ^ lo * (x % 2 ^ len) + 2 ^ (lo + len) * (v / 2 ^ (lo + len))

/-- One bit of a number (R8). -/
def bitAt (v i : Nat) : Bool := v.testBit i

/-- `n / d` rounded up. -/
def ceilDiv (n d : Nat) : Nat := (n + d - 1) / d

/-- `n` rounded up to a multiple of `d`. -/
def roundUp (n d : Nat) : Nat := ceilDiv n d * d

/-- The two's-complement reading of the low `w` bits of a number. -/
def sext (w v : Nat) : Int := if bitAt v (w - 1) then (v % 2 ^ w : Nat) - (2 ^ w : Nat) else (v % 2 ^ w : Nat)

/-- The low `w` bits of an integer in two's complement. -/
def toBits (w : Nat) (i : Int) : Nat := (i % (2 ^ w : Nat)).toNat

/-- The number of 1 bits among the low `n` bits. -/
def popCount (n v : Nat) : Nat := ((List.range n).filter (bitAt v)).length

/-- The numbers of the bits that are 1 among the low `n` bits, ascending. -/
def bitList (n v : Nat) : List Nat := (List.range n).filter (bitAt v)

theorem leBytes_length (n v : Nat) : (leBytes n v).length = n := by
  induction n generalizing v with
  | zero => rfl
  | succ n ih => simp [leBytes, ih]

theorem leNat_leBytes (n v : Nat) : leNat (leBytes n v) = v % 256 ^ n := by
  induction n generalizing v with
  | zero => simp [leBytes, leNat, Nat.mod_one]
  | succ n ih => simp [leBytes, leNat, ih, Nat.pow_succ', Nat.mod_mul]

end Sys2Proof
end

