-- ==== Sys2Proof/Syntax.lean ====
section
/-! DEFINITION. The commands that the block takes from outside: one constructor for each row of spec/opcode_table.json, in its
order, with the row's operands; and the types of those operands.

Operands with one meaning throughout: `c` a core; `se` a stream engine of the core; `slot` a command slot; `handle` an operation's
handle; `q` the sequencer that executes, `w` the word it executes, `rs1` and `rs2` its operands' values, `rd` the register it writes;
`a` a global address, `v` a value written; `det` what detection codes find on the way; `bad` whether a sync object's code fails;
`src` the module that sent a message, `tag` and `status` of its header, `body` its bytes; `n` a port, `sub` its sub-port;
`k` a peer module where a fabric timer names one; `t` a Treeline; `pm` the poison marks of granules; `mac` an address of Ethernet.
Operands that say what happened outside the module, or what hardware found, are what the spec leaves to the world: a temperature, an
error, an arrival. -/

namespace Sys2Proof

/-- The UDP checksum of a datagram as received (spec/03 R85). -/
inductive Csum where
  | good | bad | zero
  deriving DecidableEq, Repr, Inhabited

/-- A UDP datagram as it reaches a sub-port (spec/03 R85, R86); of its frame the destination MAC address, the VID and PCP of its tag, and
how many bytes of its priority wait in the receive buffer (spec/15 R498, R502, R503). -/
structure Dgram where
  port : Nat
  sub : Nat
  v6 : Bool
  src : Nat
  dst : Nat
  sport : Nat
  dport : Nat
  dscp : Nat
  ipFrag : Bool
  opts : Bool
  sum : Csum
  payload : List Byte
  mac : Nat := 0
  tag : Option (Nat × Nat) := none
  occ : Nat := 0
  deriving DecidableEq, Repr, Inhabited

/-- A storage or datapath structure whose protection code can detect an error (spec/18 R606): of a core, of Canopy, of a sync unit's
own logic, of the Understory's SRAM and fuses. -/
inductive Sram where
  | clm | acm | slot | laneQ | residue | regFile | mergeBuf | threadSlot | l1 | canopy | syncUnit | understory
  deriving DecidableEq, Repr, Inhabited

/-- Errors detected while a command of a core is worked: none, one corrected by the retry, or one that the retry meets
again (spec/18 R606, R607). -/
inductive Det where
  | none
  | once (m : Sram)
  | twice (m : Sram)
  deriving DecidableEq, Repr, Inhabited

/-- Who executes a sequencer command: the core, and whether in U (spec/12 R373). -/
structure Sq where
  core : Nat
  user : Bool
  deriving DecidableEq, Repr, Inhabited

/-- A watched wait (spec/12 R409): a thread, a sequencer, a stream WAIT step, an engine at an ended empty ring, a merge waiting
for space here, one sent to another home under its tag, an update part. -/
inductive Wait where
  | thread (handle : Nat)
  | seq (core : Nat)
  | stream (core se : Nat)
  | ring (core eng : Nat)
  | merge (i : Nat)
  | sent (tag : Nat)
  | part (id : Nat)
  deriving DecidableEq, Repr, Inhabited

/-- A Salrex packet as a port receives it (spec/15 R504 to R506): port and sub-port, whether in native mode, the sender's IP
address, or its MAC address in native mode, whether that is IPv6, whether it arrived with ECN CE, and its bytes; of its frame and
datagram the destination MAC and IP addresses, the destination UDP port, the DSCP, how its UDP checksum came out, whether it is an IP
fragment or has options, the VID and PCP of its tag, and how many bytes of its priority wait in the receive buffer. -/
structure Rx where
  port : Nat
  sub : Nat
  native : Bool
  src : Nat
  v6 : Bool
  ce : Bool
  bytes : List Byte
  mac : Nat := 0
  dst : Nat := 0
  dport : Nat := 0
  dscp : Nat := 0
  sum : Csum := .good
  frag : Bool := false
  tag : Option (Nat × Nat) := none
  occ : Nat := 0
  deriving DecidableEq, Repr, Inhabited

/-- A frame as a port receives it (spec/15 R497 to R503): port and sub-port, destination MAC address, EtherType, VID and PCP of its
tag, DSCP when it carries IP, whether its FCS is good, its bytes, the destination IP address when it has one, the sequence
number of a test frame and whether its payload is good, and how many bytes of its priority wait in the receive buffer. -/
structure Frame where
  port : Nat
  sub : Nat
  dst : Nat
  etype : Nat
  tag : Option (Nat × Nat)
  dscp : Nat
  fcs : Bool
  len : Nat
  ip : Option (Bool × Nat)
  seq : Nat
  good : Bool
  occ : Nat
  deriving DecidableEq, Repr, Inhabited

/-- The instructions of the test access port by what they reach (spec/19 R643). -/
inductive Tap where
  | bypass | idcode | sample | sensors | extest | scan | wrappers | margin | traffic | other
  deriving DecidableEq, Repr, Inhabited

/-- A query's key (R83): UDP source address (family, address), source port and query ID, or source module and query ID. -/
structure QKey where
  udp : Bool := true
  v6 : Bool := false
  addr : Nat := 0
  port : Nat := 0
  qid : Nat := 0
  deriving DecidableEq, Repr, Inhabited

/-- The units that adopt a COMMIT, each at its own safe point (R562). -/
inductive CUnit where
  | qfe (t : Nat) | tbl | upd | can | mem | hbm (s : Nat) | sfx | eth | cxl | cluster (c : Nat)
  | und | tel
  deriving DecidableEq, Repr, Inhabited

/-- A command of the block. -/
inductive Instr where
  /-- REGISTER_WRITE (spec/00 R16). A write to a register that has no row of its own stores, sets or clears fields by its access
    codes, or is dropped and counted as an illegal or reserved write. -/
  | registerWrite (user : Bool) (off size : Nat) (v : Word)
  /-- HOST_MEM_READ (spec/16 R670). A host CXL.mem read of one 64-byte line through an HDM window returns each byte by its target,
    with poison or hole handling. -/
  | hostMemRead (h : Nat) (det : Det) (bad : Bool)
  /-- HOST_MEM_WRITE (spec/16 R670). A host CXL.mem write of one 64-byte line through an HDM window writes each enabled byte by
    its target, or is dropped. -/
  | hostMemWrite (h : Nat) (data : List Byte) (mask : Nat) (poison : Bool)
  /-- ARM_WORD_WRITE (spec/16 R551). A host write to a slot's arm word is either ignored with ARMDROP or arms the slot; the module
    then copies the record, writes PENDING and checks and starts the command. -/
  | armWordWrite (slot : Nat) (v : Word)
  /-- COMMIT (spec/16 R561). COMMIT snapshots every shadow, checks the set, and either refuses it or increments the epoch and
    starts adoption. -/
  | commit (slot : Nat)
  /-- COMMIT_ADOPT (spec/16 R562). A unit reaches its safe point and adopts the committed configuration; after the last adoption
    the COMMIT completes and releases drains when RELEASE is set. -/
  | commitAdopt (u : CUnit)
  /-- DRAIN (spec/16 R564). DRAIN is checked and, once accepted, holds new module requests to its range or table. -/
  | drain (slot : Nat)
  /-- DRAIN_COMPLETE (spec/16 R564). Nothing that started before a drain remains outstanding against its target, and the drain
    completes OK with HELD. -/
  | drainComplete (handle : Nat)
  /-- DRAIN_TIMEOUT (spec/16 R564). TMO_MS passes before a drain's completion point, and the drain is released with E_BUSY. -/
  | drainTimeout (handle : Nat)
  /-- SUSPEND (spec/16 R558). SUSPEND of a live long operation becomes pending, or is refused. -/
  | suspend (slot : Nat)
  /-- RESUME (spec/16 R558). RESUME continues a suspended operation under a new handle, or is refused with E_STATE. -/
  | resume (slot : Nat)
  /-- CANCEL (spec/16 R558). CANCEL ends a long operation at its stopping point with E_CANCELLED, or releases a drain. -/
  | cancel (slot : Nat)
  /-- JOB_SUSPENDED (spec/16 R558). A suspended job reaches the point with no thread running and none of its engine work
    outstanding, and its completion becomes final with E_SUSPENDED. -/
  | jobSuspended (handle : Nat)
  /-- SUSPEND_TIMEOUT (spec/16 R558). A job does not reach suspension within 100 ms, keeps running, and its SUSPEND completes with
    E_BUSY. -/
  | suspendTimeout (handle : Nat)
  /-- LONG_OP_BLOCK_DONE (spec/16 R558). A copy, load, scrub or erase finishes writing one 4 KiB block, and the operation stops
    there if suspended or cancelled or continues with the next. -/
  | longOpBlockDone (handle : Nat) (bad : List (Nat × Nat))
  /-- JOB (spec/16 R555). JOB creates one job in the slot's context on a chosen cluster, with four arguments and an optional
    deadline. -/
  | job (slot : Nat)
  /-- COPY (spec/16 R555). COPY moves LEN bytes in ascending address with their poison marks. -/
  | copy (slot : Nat)
  /-- TBL_LOAD (spec/16 R555). TBL_LOAD writes table rows and zeroes their version words. -/
  | tblLoad (slot : Nat)
  /-- TILE_LOAD (spec/16 R555). TILE_LOAD checks every tile, then copies the tiles unchanged. -/
  | tileLoad (slot : Nat)
  /-- SCRUB (spec/16 R555). SCRUB reads every granule of a range and rewrites corrected and uncorrectable granules. -/
  | scrub (slot : Nat)
  /-- ERASE (spec/16 R555). ERASE writes clean zeros over a drained range or over all present memory. -/
  | erase (slot : Nat)
  /-- CLASS_SET (spec/16 R555). CLASS_SET writes the shadow of one query class descriptor. -/
  | classSet (slot : Nat)
  /-- PROG_LOAD (spec/16 R555). PROG_LOAD writes the shadow of one compiled class program. -/
  | progLoad (slot : Nat)
  /-- REPLACE_ROWS (spec/04 R143). REPLACE_ROWS reads the index list, checks it, and starts replacing rows in list order under the
    writer rules. -/
  | replaceRows (slot : Nat)
  /-- TBL_SET (spec/04 R121). TBL_SET writes the shadow of one table descriptor. -/
  | tblSet (slot : Nat)
  /-- SHARD_SET (spec/05 R166). SHARD_SET checks the shard entry images, writes them with SEQ incremented and propagates them. -/
  | shardSet (slot : Nat)
  /-- MIGRATE (spec/05 R174). MIGRATE asks this module, as home, to move listed rows or one shard. -/
  | migrate (slot : Nat)
  /-- GRAPH_SET (spec/10 R312). GRAPH_SET writes the shadow of one graph descriptor. -/
  | graphSet (slot : Nat)
  /-- UPDATE (spec/11 R365). UPDATE checks the step request and starts update parts here and, with DOMAIN, at other holders. -/
  | update (slot : Nat)
  /-- UPD_PROG_SET (spec/11 R347). UPD_PROG_SET writes the shadow of one update program. -/
  | updProgSet (slot : Nat)
  /-- UPD_BIND_SET (spec/11 R355). UPD_BIND_SET writes the shadow of one table's update binding. -/
  | updBindSet (slot : Nat)
  /-- LAYER_SET (spec/11 R359). LAYER_SET writes the shadow of one dense layer descriptor and its STEP0. -/
  | layerSet (slot : Nat)
  /-- MASK_SET (spec/07 R253). MASK_SET checks transposable 4:8 mask images and stores them. -/
  | maskSet (slot : Nat)
  /-- ROUTE_SET (spec/15 R531). ROUTE_SET writes or unpins one route table entry. -/
  | routeSet (slot : Nat)
  /-- QUERY_FRAGMENT (spec/03 R92). A UDP query datagram is checked and then opens a reassembly, is refused, is dropped, or writes
    its bytes into an open reassembly. -/
  | queryFragment (g : Dgram)
  /-- QUERY_MESSAGE (spec/03 R101). A whole Salrex query message is delivered to the front end and checked as a complete record.
    -/
  | queryMessage (t src tag : Nat) (body : List Byte)
  /-- REASSEMBLY_EXPIRE (spec/03 R97). An incomplete reassembly reaches its deadline instant and is discarded and answered with
    E_DEADLINE. -/
  | reassemblyExpire (t : Nat) (key : QKey)
  /-- KEY_HOLD_EXPIRE (spec/03 R98). A held key's HOLD_US passes and the key is released. -/
  | keyHoldExpire (t : Nat) (key : QKey)
  /-- QFE_CTL_WRITE (spec/03 R118). A privileged write to QFE_CTL changes the front-end enables between two datagrams, or is
    dropped before RUN. -/
  | qfeCtlWrite (t : Nat) (v : Word)
  /-- ROW_CLAIM_RETRY (spec/04 R133). A module writer that found a version word odd waits 100 ns and tries its compare-swap claim
    again. -/
  | rowClaimRetry (id : Nat)
  /-- ROW_CLAIM_COMPLETE (spec/04 R132). A writer's claim completes at the Canopy slice, and it writes the row. -/
  | rowClaimComplete (id : Nat) (fault : Bool)
  /-- ROW_WRITES_COMPLETE (spec/04 R132). Every row write of a writer has completed, and it releases the version word, then
    replaces the shadow copy if any. -/
  | rowWritesComplete (id : Nat) (fault : Bool)
  /-- NX_ISSUE_GE (spec/12 R379). NX.ISSUE.GE copies a gather descriptor into the gather engine's queue. -/
  | nxIssueGe (q : Sq) (w : BitVec 32) (rs1 : Word)
  /-- ENGINE_QUEUE_SPACE (spec/12 R379). A place frees in a full engine queue, and the waiting issue completes. -/
  | engineQueueSpace (c : Nat)
  /-- GATHER (spec/04 R148). A GATHER command starts, binds its table descriptor, and is checked before admitting lookups. -/
  | gather (c : Nat)
  /-- NBR1 (spec/10 R323). An NBR1 command starts one-hop neighbour expansion of its seeds into edge and feature tiles. -/
  | nbr1 (c : Nat)
  /-- NBR2 (spec/10 R328). An NBR2 command starts two-hop flattened neighbour expansion of its seeds. -/
  | nbr2 (c : Nat)
  /-- NSEG (spec/10 R331). An NSEG command starts expansion of hub segments named by its list. -/
  | nseg (c : Nat)
  /-- NLIST (spec/10 R330). An NLIST command starts writing lists of chosen neighbour IDs to CLM. -/
  | nlist (c : Nat)
  /-- GATHER_ADMIT (spec/04 R152). A gather engine admits a lookup when a tracker entry is free, joining or forming a request. -/
  | gatherAdmit (c : Nat)
  /-- GATHER_GROUP_HOLD_EXPIRE (spec/04 R153). The first request of a bank group has waited 100 ns for companions and the group is
    issued. -/
  | gatherGroupHoldExpire (id : Nat)
  /-- VERSION_READ_RETURN (spec/04 R137). A version word read returns to a gather lookup, which then issues the row read,
    delivers, or fails the attempt. -/
  | versionReadReturn (id k : Nat)
  /-- ROW_READ_RETURN (spec/04 R137). A row read's data returns to a gather lookup and is delivered or followed by the second
    version read. -/
  | rowReadReturn (id : Nat)
  /-- LOOKUP_BACKOFF_EXPIRE (spec/04 R137). A failed lookup attempt's backoff wait ends and the next attempt, or the shadow
    attempt, begins. -/
  | lookupBackoffExpire (id : Nat)
  /-- ADJACENCY_READ_RETURN (spec/10 R327). A vertex, edge or Thicket read returns to a neighbour command, which chooses
    neighbours and fills chunks. -/
  | adjacencyReadReturn (c id rd : Nat)
  /-- ENTRY (spec/05 R163). A propagated row-home entry is received and adopted if its SEQ is newer. -/
  | entry (body : List Byte)
  /-- LOAD_WINDOW_CLOSE (spec/05 R167). A load window closes: shard load records are written, heavy-hitter tables cleared, totals
    sent to peers and the policy evaluated. -/
  | loadWindowClose
  /-- LOADREP (spec/05 R170). A peer's per-table lookup totals arrive for the spread policy. -/
  | loadrep (src : Nat) (body : List Byte)
  /-- MOVE_START (spec/05 R175). A row enters MOVING once its version words are even and no write or update step holds it. -/
  | moveStart (id : Nat)
  /-- MOVE_COPY_START (spec/05 R177). The old home snapshots the row, its state and queued writes and sends them to the new home.
    -/
  | moveCopyStart (id : Nat) (fault : Bool)
  /-- MOVE_SNAP (spec/05 R177). A move snapshot arrives at the new home, which allocates, writes the row, applies queued writes
    and sends READY. `img` is the entry image of its new place: KIND 0 with a shard move, KIND 1 with a row that goes to the hot area,
    empty with a row that returns. -/
  | moveSnap (src : Nat) (body : List Byte) (pm : Nat) (img : List Byte)
  /-- MOVE_READY (spec/05 R177). READY arrives at the old home, which enters FORWARD, sends COMMIT and forwards queued requests.
    -/
  | moveReady (src : Nat) (body : List Byte)
  /-- MOVE_COMMIT (spec/05 R177). COMMIT arrives at the new home, whose entry becomes HOME and which applies held requests and
    propagates the entry. -/
  | moveCommit (src : Nat) (body : List Byte)
  /-- MOVE_DISCARD (spec/05 R177). DISCARD arrives at the new home, which frees the destination and answers held requests with
    E_STATE. -/
  | moveDiscard (src : Nat) (body : List Byte)
  /-- MOVE_BUSY (spec/05 R172). A busy answer arrives at the old home and the move aborts back to HOME. -/
  | moveBusy (src : Nat) (body : List Byte)
  /-- MOVE_TIMEOUT (spec/05 R177). MOVE_TMO_US passes without READY and the old home aborts the move. -/
  | moveTimeout (id : Nat)
  /-- LEASE_END (spec/05 R179). A FORWARD entry's lease ends; old hot-area storage is freed when its reads retire and FORWARD row
    entries are deleted. -/
  | leaseEnd (t row : Nat)
  /-- NX_ISSUE_ME (spec/12 R379). NX.ISSUE.ME places a matrix instruction in the core's matrix engine queue. -/
  | nxIssueMe (q : Sq) (w : BitVec 32) (rs1 rs2 : Word)
  /-- MMA (spec/06 R210). An MMA starts, chooses dense or sparse operands and adds its products into an accumulator. -/
  | mma (c : Nat) (det : Det) (lq : Nat)
  /-- MPRED_PREDICT (spec/07 R243). MPRED PREDICT computes a neuron bitmap, stores it in the audit store and writes the bitmap
    word. -/
  | mpredPredict (c : Nat) (det : Det)
  /-- MPRED_OBSERVE (spec/07 R247). MPRED OBSERVE compares an output tile with an audit entry and adds the audit counts. -/
  | mpredObserve (c : Nat) (det : Det)
  /-- MOUT (spec/06 R220). MOUT reads an accumulator out through bias, row statistics, conversion and optional Chisel compression.
    -/
  | mout (c : Nat) (det : Det)
  /-- MLOAD (spec/06 R206). MLOAD loads a tile into an accumulator. -/
  | mload (c : Nat) (det : Det)
  /-- MSEED (spec/06 R216). MSEED sets the core's LFSR state. -/
  | mseed (c : Nat) (det : Det)
  /-- ME_RETIRE (spec/12 R380). A matrix instruction retires and signals its completion token when SIG is set. -/
  | meRetire (c i : Nat)
  /-- NX_ISSUE_VE (spec/12 R379). NX.ISSUE.VE places a vector instruction in the vector engine queue. -/
  | nxIssueVe (q : Sq) (w : BitVec 32) (rs1 rs2 : Word)
  /-- VE_ADD (spec/08 R266). Vector ADD adds two operand tensors element by element. -/
  | veAdd (c : Nat) (det : Det)
  /-- VE_SUB (spec/08 R266). Vector SUB subtracts B from A element by element. -/
  | veSub (c : Nat) (det : Det)
  /-- VE_MUL (spec/08 R266). Vector MUL multiplies two operand tensors element by element. -/
  | veMul (c : Nat) (det : Det)
  /-- VE_FMA (spec/08 R267). Vector FMA computes A times B plus C with one rounding. -/
  | veFma (c : Nat) (det : Det)
  /-- VE_MIN (spec/08 R267). Vector MIN takes the lesser of A and B. -/
  | veMin (c : Nat) (det : Det)
  /-- VE_MAX (spec/08 R267). Vector MAX takes the greater of A and B. -/
  | veMax (c : Nat) (det : Det)
  /-- VE_AND (spec/08 R261). Vector AND computes the bitwise and. -/
  | veAnd (c : Nat) (det : Det)
  /-- VE_OR (spec/08 R261). Vector OR computes the bitwise or. -/
  | veOr (c : Nat) (det : Det)
  /-- VE_XOR (spec/08 R261). Vector XOR computes the bitwise exclusive or. -/
  | veXor (c : Nat) (det : Det)
  /-- VE_SHL (spec/08 R261). Vector SHL shifts A left by B[4:0]. -/
  | veShl (c : Nat) (det : Det)
  /-- VE_SHR (spec/08 R261). Vector SHR shifts A right by B[4:0] with zeros in. -/
  | veShr (c : Nat) (det : Det)
  /-- VE_SRA (spec/08 R261). Vector SRA shifts A right by B[4:0] with sign in. -/
  | veSra (c : Nat) (det : Det)
  /-- VE_SEL (spec/08 R272). Vector SEL selects A or B by the mask. -/
  | veSel (c : Nat) (det : Det)
  /-- VE_CVT (spec/08 R265). Vector CVT converts A to the destination format under RND. -/
  | veCvt (c : Nat) (det : Det)
  /-- VE_EXP2 (spec/08 R269). Vector EXP2 approximates 2 to the power A. -/
  | veExp2 (c : Nat) (det : Det)
  /-- VE_RCP (spec/08 R269). Vector RCP approximates the reciprocal of A. -/
  | veRcp (c : Nat) (det : Det)
  /-- VE_CMPEQ (spec/08 R261). Vector CMPEQ writes a chunk bitmap of A equal to B. -/
  | veCmpeq (c : Nat) (det : Det)
  /-- VE_CMPNE (spec/08 R261). Vector CMPNE writes a chunk bitmap of A not equal to B. -/
  | veCmpne (c : Nat) (det : Det)
  /-- VE_CMPLT (spec/08 R261). Vector CMPLT writes a chunk bitmap of A less than B. -/
  | veCmplt (c : Nat) (det : Det)
  /-- VE_CMPLE (spec/08 R261). Vector CMPLE writes a chunk bitmap of A at most B. -/
  | veCmple (c : Nat) (det : Det)
  /-- VE_RSUM (spec/08 R275). Vector RSUM writes the sum of each row. -/
  | veRsum (c : Nat) (det : Det)
  /-- VE_RMAX (spec/08 R275). Vector RMAX writes the maximum of each row. -/
  | veRmax (c : Nat) (det : Det)
  /-- VE_SMXS (spec/08 R275). Vector SMXS writes each row's maximum and exponential sum for softmax. -/
  | veSmxs (c : Nat) (det : Det)
  /-- VE_TOPK (spec/08 R276). Vector TOPK selects the k greatest active elements of each row with positions, optionally merging an
    entry area. -/
  | veTopk (c : Nat) (det : Det)
  /-- VE_COMPRESS (spec/08 R273). Vector COMPRESS packs the elements or rows selected by a bitmap and stores their count. -/
  | veCompress (c : Nat) (det : Det)
  /-- VE_EXPAND (spec/08 R274). Vector EXPAND unpacks elements or rows into the places a bitmap selects. -/
  | veExpand (c : Nat) (det : Det)
  /-- VE_MLD (spec/08 R261). MLD loads a mask register from CLM. -/
  | veMld (c : Nat) (det : Det)
  /-- VE_MST (spec/08 R261). MST stores a mask register to CLM. -/
  | veMst (c : Nat) (det : Det)
  /-- VE_MPFX (spec/08 R261). MPFX sets a mask register to a prefix of lanes. -/
  | veMpfx (c : Nat) (det : Det)
  /-- VE_RETIRE (spec/08 R259). A vector instruction retires, its writes complete and it signals its token when SIG is set. -/
  | veRetire (c : Nat)
  /-- ARM (spec/09 R288). ARM arms a stream engine's ring and starts its Armature program. -/
  | arm (c se : Nat)
  /-- REARM (spec/09 R300). REARM queues new base registers for a program rerun at END. -/
  | rearm (c se : Nat)
  /-- DISARM (spec/09 R301). DISARM disarms a ring once no reader holds a slot, discarding unconsumed slots and pending REARMs. -/
  | disarm (c se : Nat)
  /-- CHAIN (spec/09 R303). CHAIN starts a fused chain that arms rings and feeds the gather, matrix and vector engines. -/
  | chain (c : Nat)
  /-- STREAM_LOOP (spec/09 R291). An Armature LOOP opens a loop level. -/
  | streamLoop (c se : Nat)
  /-- STREAM_NEXT (spec/09 R291). An Armature NEXT returns to its LOOP or falls through when the count is spent. -/
  | streamNext (c se : Nat)
  /-- STREAM_LOAD (spec/09 R292). An Armature LOAD reads a tile into the ring's tail slot. -/
  | streamLoad (c se : Nat)
  /-- STREAM_GATH (spec/09 R293). An Armature GATH hands lookups to the gather engine and publishes the resulting tiles. -/
  | streamGath (c se : Nat)
  /-- STREAM_GBMP (spec/09 R295). An Armature GBMP gathers the neuron rows a bitmap selects and publishes packed tiles. -/
  | streamGbmp (c se : Nat)
  /-- STREAM_STORE (spec/09 R296). An Armature STORE writes the head slot's tile to its address, optionally through Chisel. -/
  | streamStore (c se : Nat) (det : Det)
  /-- STREAM_ADV (spec/09 R297). An Armature ADV publishes the tail slot or releases the head slot. -/
  | streamAdv (c se : Nat)
  /-- STREAM_WAIT (spec/09 R298). An Armature WAIT holds the program until a sync object reaches a value. -/
  | streamWait (c se : Nat)
  /-- STREAM_SIGNAL (spec/09 R298). An Armature SIGNAL adds to a sync object once earlier fills or stores complete. -/
  | streamSignal (c se : Nat)
  /-- STREAM_END (spec/09 R300). An Armature program reaches END and reruns if a REARM is pending. -/
  | streamEnd (c se : Nat)
  /-- STREAM_TRANSFER_COMPLETE (spec/09 R299). A stream transfer's data arrives or its store completes, filling or freeing a slot.
    `id` is 32 times the transfer's number and, below that, the code of what its reading finds. -/
  | streamTransferComplete (c se id : Nat)
  /-- RING_PRODUCER_RESUME (spec/09 R287). A producer waiting at the AHEAD limit or a full ring proceeds once a slot is released.
    -/
  | ringProducerResume (c se : Nat)
  /-- NX_ISSUE_MQ (spec/12 R379). NX.ISSUE.MQ copies a GMERGE descriptor into the core's merge queue. -/
  | nxIssueMq (q : Sq) (w : BitVec 32) (rs1 : Word)
  /-- GMERGE_ROWS (spec/11 R345). GMERGE ROWS merges gradient vectors into table rows at their homes. -/
  | gmergeRows (c : Nat)
  /-- GMERGE_TILES (spec/11 R345). GMERGE TILES merges gradient tiles into a layer's banks at its home. -/
  | gmergeTiles (c : Nat)
  /-- GRADIENT_SPACE_WAIT_END (spec/11 R342). A merge waiting for gradient-area space obtains a bank and is added. -/
  | gradientSpaceWaitEnd
  /-- UPDATE_PART_START (spec/11 R366). An update part, once every move of its shard has settled, checks its step, closes it and
    applies or discards the banks. -/
  | updatePartStart (id : Nat)
  /-- LAYER_READERS_ZERO (spec/11 R361). A layer update finds its reader count at zero, writes the new copy, publishes and sets
    LAST_STEP. -/
  | layerReadersZero (id : Nat)
  /-- UPDPART (spec/11 R365). A part request from another module starts an update part here in context 0. -/
  | updpart (src tag : Nat) (body : List Byte)
  /-- UPDOUT (spec/11 R365). A remote part's outcome entries arrive and are gathered into the outcome list. -/
  | updout (tag status : Nat) (body : List Byte)
  /-- NX_PARK (spec/12 R385). NX.PARK continues or puts the thread in WAIT and traps to Copse. -/
  | nxPark (q : Sq) (w : BitVec 32) (rs1 : Word)
  /-- NX_TGET (spec/12 R386). NX.TGET reads and clears an operand, invalidating the L1 after a WAIT or SEND token. -/
  | nxTget (q : Sq) (w : BitVec 32)
  /-- NX_TGET_POLL (spec/12 R386). NX.TGET with POLL returns the operands' ARRIVED bits. -/
  | nxTgetPoll (q : Sq) (w : BitVec 32)
  /-- NX_SPAWN (spec/12 R382). NX.SPAWN creates a thread of the spawner's job. -/
  | nxSpawn (q : Sq) (w : BitVec 32) (rs1 rs2 : Word)
  /-- NX_SEND (spec/12 R384). NX.SEND delivers a token to an operand of a thread of the same job. -/
  | nxSend (q : Sq) (w : BitVec 32) (rs1 rs2 : Word)
  /-- NX_SYNC_ADD (spec/12 R402). NX.SYNC ADD adds to a sync object at its home. -/
  | nxSyncAdd (q : Sq) (w : BitVec 32) (rs1 rs2 : Word) (bad : Bool)
  /-- NX_SYNC_SET (spec/12 R402). NX.SYNC SET sets a sync object at its home. -/
  | nxSyncSet (q : Sq) (w : BitVec 32) (rs1 rs2 : Word) (bad : Bool)
  /-- NX_SYNC_WAIT_GE (spec/12 R403). NX.SYNC WAIT_GE arms a monitor or fires at once when the value is at least the operand. -/
  | nxSyncWaitGe (q : Sq) (w : BitVec 32) (rs1 rs2 : Word) (bad : Bool)
  /-- NX_SYNC_WAIT_EQ (spec/12 R403). NX.SYNC WAIT_EQ arms a monitor or fires at once when the value equals the operand. -/
  | nxSyncWaitEq (q : Sq) (w : BitVec 32) (rs1 rs2 : Word) (bad : Bool)
  /-- NX_SYNC_DECL (spec/12 R400). NX.SYNC DECL declares a sync object for the job's end check. -/
  | nxSyncDecl (q : Sq) (w : BitVec 32) (rs1 : Word) (bad : Bool)
  /-- MONITOR_RETRY (spec/12 R407). A WAIT that found no free monitor tries again at the next 1 µs tick. -/
  | monitorRetry (i : Nat)
  /-- NX_DELAY (spec/12 R399). NX.DELAY sets the thread's delay entry. -/
  | nxDelay (q : Sq) (w : BitVec 32) (rs1 : Word)
  /-- NX_FNEXT (spec/12 R389). NX.FNEXT takes the thread in the core's local slot, or clock-gates until one is placed. -/
  | nxFnext (q : Sq) (w : BitVec 32) (det : Det)
  /-- NX_END_THREAD (spec/12 R387). NX.END with JOB 0 ends the thread and its slot enters DRAIN. -/
  | nxEndThread (q : Sq) (w : BitVec 32)
  /-- NX_END_JOB (spec/12 R397). NX.END with JOB 1 ends the whole job with a status. -/
  | nxEndJob (q : Sq) (w : BitVec 32) (rs1 : Word)
  /-- DELAY_FIRE (spec/12 R399). A delay entry's tick arrives and it delivers a token. -/
  | delayFire (h : Nat)
  /-- DEADLINE_FIRE (spec/03 R110). A job's deadline entry fires, ending the job with E_DEADLINE. -/
  | deadlineFire (j : Nat)
  /-- WATCHDOG_EXPIRE (spec/12 R410). A watched wait reaches its WAIT_TMO and its job ends with E_WATCHDOG. -/
  | watchdogExpire (w : Wait)
  /-- JOB_END_DRAINED (spec/12 R397). No work of an ending job remains outstanding; declared objects are checked, slots freed and
    the status reported. -/
  | jobEndDrained (j : Nat)
  /-- CLUSTER_SLEEP (spec/12 R411). The sleep condition holds for 64 clk and the cluster's clocks are gated. -/
  | clusterSleep (n : Nat)
  /-- CLUSTER_WAKE (spec/12 R411). A wake wire fires and the cluster starts leaving SLEEP or OFF. -/
  | clusterWake (n : Nat)
  /-- CLUSTER_WAKE_COMPLETE (spec/12 R413). A waking cluster's clocks run and, from OFF, its state is reset, ready for its first
    instruction. -/
  | clusterWakeComplete (n : Nat)
  /-- CLUSTER_OFF (spec/12 R411). A sleeping cluster passes OFF_AFTER_US with OFF enabled and no work, and is power gated. -/
  | clusterOff (n : Nat)
  /-- SEQ_LOAD (spec/13 R451). A sequencer load reads through its path, the L1 cache, the window or Salrex. -/
  | seqLoad (q : Sq) (rd size : Nat) (sgn : Bool) (a : Nat) (det : Det)
  /-- SEQ_STORE (spec/13 R444). A sequencer store enters the merging buffer or its direct path. -/
  | seqStore (q : Sq) (size a : Nat) (v : Word) (det : Det)
  /-- MB_DRAIN_TIMEOUT (spec/13 R444). A merging-buffer entry has been open 32 clk and drains. -/
  | mbDrainTimeout (c : Nat) (det : Det)
  /-- AMOADD (spec/13 R436). AMOADD executes as a Canopy ADD atomic. -/
  | amoadd (q : Sq) (rd size a : Nat) (v : Word)
  /-- AMOAND (spec/13 R436). AMOAND executes as a Canopy AND atomic. -/
  | amoand (q : Sq) (rd size a : Nat) (v : Word)
  /-- AMOOR (spec/13 R436). AMOOR executes as a Canopy OR atomic. -/
  | amoor (q : Sq) (rd size a : Nat) (v : Word)
  /-- AMOXOR (spec/13 R436). AMOXOR executes as a Canopy XOR atomic. -/
  | amoxor (q : Sq) (rd size a : Nat) (v : Word)
  /-- AMOMIN (spec/13 R436). AMOMIN executes as a Canopy MIN atomic. -/
  | amomin (q : Sq) (rd size a : Nat) (v : Word)
  /-- AMOMAX (spec/13 R436). AMOMAX executes as a Canopy MAX atomic. -/
  | amomax (q : Sq) (rd size a : Nat) (v : Word)
  /-- AMOMINU (spec/13 R436). AMOMINU executes as a Canopy MINU atomic. -/
  | amominu (q : Sq) (rd size a : Nat) (v : Word)
  /-- AMOMAXU (spec/13 R436). AMOMAXU executes as a Canopy MAXU atomic. -/
  | amomaxu (q : Sq) (rd size a : Nat) (v : Word)
  /-- AMOSWAP (spec/13 R436). AMOSWAP executes as a Canopy SWAP atomic. -/
  | amoswap (q : Sq) (rd size a : Nat) (v : Word)
  /-- LR (spec/13 R437). LR reads at the slice and places the core's reservation, holding others' writes for 64 ns. -/
  | lr (q : Sq) (rd size a : Nat)
  /-- SC (spec/13 R437). SC writes and succeeds only with the reservation intact. -/
  | sc (q : Sq) (rd size a : Nat) (v : Word)
  /-- LR_HOLD_EXPIRE (spec/13 R437). 64 ns after an LR, held writes and atomics are applied and break the reservation. -/
  | lrHoldExpire (who : Nat)
  /-- FENCE (spec/13 R446). FENCE drains the merging buffer and, with I before R, invalidates the L1 and side buffer. -/
  | fence (q : Sq) (pred succ : Nat)
  /-- FENCE_I (spec/13 R447). FENCE.I discards the sequencer's instruction buffer. -/
  | fenceI (q : Sq)
  /-- ECALL (spec/12 R376). An ecall makes a service request to Copse. -/
  | ecall (q : Sq)
  /-- EBREAK (spec/12 R376). An ebreak in U traps to Copse and ends the job with E_ARG. -/
  | ebreak (q : Sq)
  /-- ATOM_ADD (spec/13 R431). A CORE_ATOM launch of ADD executes at the target slice. -/
  | atomAdd (c : Nat)
  /-- ATOM_FADD32 (spec/13 R431). A CORE_ATOM launch of FADD32 executes at the target slice. -/
  | atomFadd32 (c : Nat)
  /-- ATOM_FADD16 (spec/13 R431). A CORE_ATOM launch of FADD16 executes at the target slice. -/
  | atomFadd16 (c : Nat)
  /-- ATOM_MIN (spec/13 R431). A CORE_ATOM launch of MIN executes at the target slice. -/
  | atomMin (c : Nat)
  /-- ATOM_MAX (spec/13 R431). A CORE_ATOM launch of MAX executes at the target slice. -/
  | atomMax (c : Nat)
  /-- ATOM_MINU (spec/13 R431). A CORE_ATOM launch of MINU executes at the target slice. -/
  | atomMinu (c : Nat)
  /-- ATOM_MAXU (spec/13 R431). A CORE_ATOM launch of MAXU executes at the target slice. -/
  | atomMaxu (c : Nat)
  /-- ATOM_FMIN32 (spec/13 R431). A CORE_ATOM launch of FMIN32 executes at the target slice. -/
  | atomFmin32 (c : Nat)
  /-- ATOM_FMAX32 (spec/13 R431). A CORE_ATOM launch of FMAX32 executes at the target slice. -/
  | atomFmax32 (c : Nat)
  /-- ATOM_AND (spec/13 R431). A CORE_ATOM launch of AND executes at the target slice. -/
  | atomAnd (c : Nat)
  /-- ATOM_OR (spec/13 R431). A CORE_ATOM launch of OR executes at the target slice. -/
  | atomOr (c : Nat)
  /-- ATOM_XOR (spec/13 R431). A CORE_ATOM launch of XOR executes at the target slice. -/
  | atomXor (c : Nat)
  /-- ATOM_SWAP (spec/13 R431). A CORE_ATOM launch of SWAP executes at the target slice. -/
  | atomSwap (c : Nat)
  /-- ATOM_CAS (spec/13 R431). A CORE_ATOM launch of CAS executes at the target slice. -/
  | atomCas (c : Nat)
  /-- ATOM_RMA (spec/13 R433). A CORE_ATOM launch of row-merge-add adds a CLM vector into a target line by line. -/
  | atomRma (c : Nat)
  /-- CORE_ATOM_RES_READ (spec/13 R438). A read of CORE_ATOM_RES waits for the atomic to complete and returns its result. -/
  | coreAtomResRead (c rd : Nat)
  /-- REHOME_COMPLETE (spec/13 R426). A side's re-home finishes write-back and hash switch, and held requests are released at
    their new homes. -/
  | rehomeComplete (side : Nat)
  /-- MEM_READ_DECODE (spec/14 R484). A memory read returns and is decoded: clean, corrected and rewritten, or marked poisoned and
    rewritten. -/
  | memReadDecode (dla res part : Nat)
  /-- UNIT_MAPOUT_COMPLETE (spec/14 R487). A leaving unit's issued requests complete, its lines are discarded and presence and
    CAP_ counts are updated. -/
  | unitMapoutComplete (u : Nat)
  /-- ERROR_WINDOW_END (spec/14 R485). A channel's WIN_MS error window ends and its counts start afresh. -/
  | errorWindowEnd (c : Nat)
  /-- REGULATOR_REFILL (spec/14 R476). Every 10 ns each partition's guarantee and cap buckets are refilled. -/
  | regulatorRefill
  /-- REQUEST_AGE_LIMIT (spec/14 R473). A request has waited 4 µs and is issued before younger requests to its bank. -/
  | requestAgeLimit (u id : Nat)
  /-- HBM_TEMP_READ (spec/14 R479). Every 32 µs a stack controller reads its temperature and moves its throttle level. -/
  | hbmTempRead (k temp : Nat)
  /-- LPD_TEMP_READ (spec/14 R481). Every 32 µs a package controller reads its temperature and sets the refresh rate. -/
  | lpdTempRead (p temp : Nat)
  /-- PORT_LINK_UP (spec/15 R501). A port gains link and sends a gratuitous ARP or unsolicited Neighbor Advertisement. -/
  | portLinkUp (n sub : Nat)
  /-- PORT_LINK_DOWN (spec/15 R497). A port loses link, counts it and retrains, with packets retransmitted on other paths. -/
  | portLinkDown (n sub : Nat) (fail : Bool)
  /-- ETH_FRAME_RX (spec/15 R498). An Ethernet frame is received and filtered by address, VLAN, FCS and length. -/
  | ethFrameRx (f : Frame)
  /-- ARP_REQUEST (spec/15 R501). An ARP request for a module address is answered. -/
  | arpRequest (n sub mac src target : Nat)
  /-- NEIGHBOR_SOLICITATION (spec/15 R501). An IPv6 Neighbor Solicitation for a module address is answered. -/
  | neighborSolicitation (n sub mac src target : Nat)
  /-- ICMP_ECHO_REQUEST (spec/15 R501). An ICMP or ICMPv6 echo request is answered. -/
  | icmpEchoRequest (n sub : Nat) (v6 : Bool) (mac src dst : Nat) (body : List Byte)
  /-- PFC_FRAME_RX (spec/15 R503). A received PFC frame pauses or resumes a priority. -/
  | pfcFrameRx (n sub : Nat) (times : List (Nat × Nat))
  /-- NEIGHBOR_REVALIDATE (spec/15 R501). A neighbour cache entry reaches 30 s and is revalidated. -/
  | neighborRevalidate (t i : Nat)
  /-- SALREX_DATA (spec/15 R509). A Salrex DATA packet is received and accepted, dropped or treated as a duplicate. -/
  | salrexData (x : Rx)
  /-- SALREX_ACK (spec/15 R511). A Salrex ACK frees acknowledged packets, declares losses and updates the window. -/
  | salrexAck (x : Rx)
  /-- HELLO (spec/15 R528). A HELLO is received, updating native routes or, at the manager, assigning an ID. -/
  | hello (x : Rx)
  /-- ASSIGN (spec/15 R528). An ASSIGN from the manager gives this module its ID or refuses it. -/
  | assign (x : Rx)
  /-- SALREX_RESET (spec/15 R533). A RESET naming an old incarnation triggers the loss actions and flow restart. -/
  | salrexReset (x : Rx)
  /-- ACK_TIMER (spec/15 R510). ACK_US passes after the first unacknowledged packet of a flow, and an ACK is sent. -/
  | ackTimer (k chan : Nat)
  /-- RTO_EXPIRE (spec/15 R511). A packet's RTO passes and it is declared lost and retransmitted. -/
  | rtoExpire (k chan psn : Nat)
  /-- PEER_LOST (spec/15 R532). A packet stays unacknowledged for LOST_MS and the peer's loss actions are applied. -/
  | peerLost (k : Nat)
  /-- PATH_PENALTY_END (spec/15 R512). A path's PEN_US penalty ends. -/
  | pathPenaltyEnd (i : Nat)
  /-- HELLO_TIMER (spec/15 R527). HELLO_MS passes and HELLOs are sent. -/
  | helloTimer
  /-- RD (spec/15 R523). A remote RD request is delivered and read at the target. -/
  | rd (src tag : Nat) (body : List Byte) (det : Det) (bad : Bool)
  /-- RDR (spec/15 R523). An RD response returns data and poison marks to the requester. -/
  | rdr (tag status : Nat) (body : List Byte)
  /-- WR (spec/15 R523). A remote WR request is delivered and written at the target. -/
  | wr (src tag : Nat) (body : List Byte)
  /-- WRA (spec/15 R517). A WR acknowledgement returns to the requester. -/
  | wra (tag status : Nat)
  /-- AT (spec/15 R523). A remote atomic request is delivered and executed at the target slice. -/
  | atomic (src tag : Nat) (body : List Byte)
  /-- ATR (spec/15 R523). An atomic response returns the old value to the requester. -/
  | atr (tag status : Nat) (body : List Byte)
  /-- ROW_READ (spec/05 R162). A ROW READ message is resolved and read at the home, or forwarded or redirected. -/
  | rowRead (src tag : Nat) (body : List Byte)
  /-- ROW_WRITE (spec/04 R145). A ROW WRITE message is resolved and applied at the home by the writer rules, queued during a move,
    or redirected. -/
  | rowWrite (src tag : Nat) (body : List Byte)
  /-- ROW_MERGE (spec/05 R183). A ROW MERGE message is added into the row's gradient bank or move buffer, or refused. -/
  | rowMerge (src tag : Nat) (body : List Byte)
  /-- ROW_LMERGE (spec/11 R359). A ROW LMERGE message adds one tile row into a layer's gradient bank. -/
  | rowLmerge (src tag : Nat) (body : List Byte)
  /-- ROWR (spec/05 R178). A row response returns a row, an acknowledgement, or E_STATE with an entry for redirect. -/
  | rowr (tag status : Nat) (body : List Byte)
  /-- SYNC_MSG_ADD (spec/12 R408). A remote sync ADD is performed at the object's home. -/
  | syncMsgAdd (src tag : Nat) (body : List Byte) (noresp bad : Bool)
  /-- SYNC_MSG_SET (spec/12 R408). A remote sync SET is performed at the object's home. -/
  | syncMsgSet (src tag : Nat) (body : List Byte) (noresp bad : Bool)
  /-- SYNC_MSG_WAIT_GE (spec/12 R408). A remote WAIT_GE arms a monitor at the home for another module. -/
  | syncMsgWaitGe (src tag : Nat) (body : List Byte) (bad : Bool)
  /-- SYNC_MSG_WAIT_EQ (spec/12 R408). A remote WAIT_EQ arms a monitor at the home for another module. -/
  | syncMsgWaitEq (src tag : Nat) (body : List Byte) (bad : Bool)
  /-- SYNCR (spec/12 R408). A sync response returns a value or a WAIT token to the requester. -/
  | syncr (tag status : Nat) (body : List Byte)
  /-- ANSWER (spec/03 R114). An ANSWER message arrives for a query sent to another module. -/
  | answer (src tag : Nat) (body : List Byte)
  /-- DIRECT (spec/15 R529). DIRECT messages add or remove directory entries and rebuild routes. -/
  | direct (src : Nat) (body : List Byte)
  /-- CXL_LINK_UP (spec/17 R574). The CXL link trains and CXL.io, BAR0 and DOE are served. -/
  | cxlLinkUp (width : Nat) (fast lopt ide : Bool)
  /-- CXL_LINK_DOWN (spec/16 R565). The CXL link leaves the active state and LINKDN is set. -/
  | cxlLinkDown
  /-- HOST_SNOOP (spec/16 R540). A host snoop is answered as a miss. -/
  | hostSnoop
  /-- SPDM_REQUEST (spec/17 R599). An SPDM request on its DOE mailbox is answered. -/
  | spdmRequest (req : List Byte)
  /-- CDAT_REQUEST (spec/16 R540). A CDAT request on its DOE mailbox is answered. -/
  | cdatRequest (req : List Byte)
  /-- VIN_IN_RANGE (spec/17 R570). 54 V enters its input range and the Understory starts. -/
  | vinInRange
  /-- VIN_OUT_OF_RANGE (spec/20 R654). 54 V leaves its input range and the module goes OFF. -/
  | vinOutOfRange
  /-- PWR_EN_RISE (spec/17 R570). PWR_EN rises and, with RST_N high, rail sequencing starts. -/
  | pwrEnRise
  /-- PWR_EN_FALL (spec/17 R570). PWR_EN falls and the module drains from RUN or takes its rails down. -/
  | pwrEnFall
  /-- RST_N_LOW (spec/17 R570). RST_N low resets every unit but the Understory at once. -/
  | rstNLow
  /-- RST_N_HIGH (spec/17 R570). RST_N rises and, with PWR_EN high, rail sequencing starts. -/
  | rstNHigh
  /-- RAIL_POWER_GOOD (spec/17 R572). A rail reports power-good and the next rail is enabled, or BOOT begins after the last. -/
  | railPowerGood
  /-- RAIL_PG_TIMEOUT (spec/17 R572). A rail misses power-good within 5 ms and the module enters FAULT_HOLD. -/
  | railPgTimeout
  /-- IMAGE_READ_COMPLETE (spec/17 R582). The image has been read from flash and is verified, entering MEMTRAIN or RECOVERY. -/
  | imageReadComplete (ok : Bool)
  /-- MEMTRAIN_COMPLETE (spec/17 R589). Self-tests, training and zero-fill finish, sections are applied and the configuration
    checked. -/
  | memtrainComplete (clusterFail sliceFail : Nat) (quals : List Nat) (portFail : Nat)
  /-- LINKUP_WAIT_EXPIRE (spec/17 R592). LINK_WAIT_MS or ID_WAIT_MS passes and the module may enter RUN. -/
  | linkupWaitExpire (id : Bool)
  /-- UND_SHUTDOWN (spec/17 R594). A write of UND_CTL.SHUTDOWN starts DRAIN toward UNDERSTORY. -/
  | undShutdown
  /-- UND_REBOOT (spec/17 R594). A write of UND_CTL.REBOOT starts DRAIN toward BOOT, or BOOT from RECOVERY. -/
  | undReboot
  /-- UND_RECOVER (spec/17 R594). A write of UND_CTL.RECOVER starts DRAIN toward RECOVERY. -/
  | undRecover
  /-- MODULE_DRAIN_TIMEOUT (spec/17 R594). DRAIN_TMO_MS passes and remaining jobs and operations end with E_CANCELLED. -/
  | moduleDrainTimeout
  /-- MODULE_DRAIN_END (spec/17 R594). No job or operation remains, the ports go down and the module leaves DRAIN. -/
  | moduleDrainEnd
  /-- RCV_CHUNK (spec/17 R585). Mailbox CHUNK copies window bytes into the staged image. -/
  | rcvChunk (arg : Word)
  /-- RCV_VERIFY (spec/17 R585). Mailbox VERIFY checks the staged image and sets VERIFIED. -/
  | rcvVerify
  /-- RCV_BOOT (spec/17 R585). Mailbox BOOT adopts the verified staged image and continues in MEMTRAIN. -/
  | rcvBoot
  /-- RCV_FLASH (spec/17 R585). Mailbox FLASH starts erasing and writing the staged image to flash. -/
  | rcvFlash
  /-- RCV_FLASH_COMPLETE (spec/17 R585). A FLASH finishes its readback check and boots the image or stays in RECOVERY with
    E_FAULT. -/
  | rcvFlashComplete (good : Bool)
  /-- RCV_WINDOW_WRITE (spec/17 R585). A host write to the recovery data window stores bytes, or is dropped while BUSY. -/
  | rcvWindowWrite (off : Nat) (bs : List Byte)
  /-- PATROL_SCRUB_READ (spec/18 R613). The patrol scrubber reads the next granule or line and rewrites or writes it back. -/
  | patrolScrubRead (res : Nat) (det : Det)
  /-- KERNEL_WATCHDOG_EXPIRE (spec/18 R615). A sequencer stays in M for KWDOG_MS without FNEXT and is reset. -/
  | kernelWatchdogExpire (c : Nat)
  /-- REMOTE_MONITOR_AGE (spec/18 R616). A monitor held for another module reaches RMON_S and is freed without a token. -/
  | remoteMonitorAge (n : Nat)
  /-- FAULT_WINDOW_END (spec/18 R617). A WIN_S fault-counting window ends and a new one starts. -/
  | faultWindowEnd (u : Nat)
  /-- MAPOUT_RECORD_WRITE (spec/18 R620). The map-out record is written to the non-volatile store after a map-out. -/
  | mapoutRecordWrite
  /-- MREC_CLEAR (spec/18 R620). A write of UND_MRECCTL.CLEAR schedules clearing of the map-out record at the next MEMTRAIN. -/
  | mrecClear
  /-- SENSOR_READ (spec/19 R635). Every 100 µs the Understory reads the thermal sensors and raises warnings or FAULT_HOLD. -/
  | sensorRead (temps : List Nat)
  /-- POWER_SAMPLE (spec/19 R636). Every 10 µs the Understory samples each rail group's power. -/
  | powerSample (watts : List Nat)
  /-- POWER_CAP_STEP (spec/19 R637). Every 100 µs the power cap level moves against CAP_W. -/
  | powerCapStep (mean : Nat)
  /-- CAP_WINDOW (spec/19 R637). A 2,400-clk cap window ends and engine occupancy allowances restart. -/
  | capWindow
  /-- HLATCH_GO (spec/19 R634). A GO to TEL_HLATCH starts a snapshot of one class's histogram. -/
  | hlatchGo (cls : Nat)
  /-- HLATCH_DONE (spec/19 R634). The histogram snapshot copy completes and DONE reads 1. -/
  | hlatchDone
  /-- MARGIN_GO (spec/19 R639). A GO to TEL_MGCTL starts a margin run or is refused. -/
  | marginGo (v : Word)
  /-- MARGIN_DWELL_END (spec/19 R640). A margin run's dwell ends, results are reported and the trained setting restored. -/
  | marginDwellEnd (errors bitsK : Nat)
  /-- MTG_READ_BW (spec/19 R641). A memory traffic generator starts a READ_BW run. -/
  | mtgReadBw (g : Nat) (v : Word)
  /-- MTG_WRITE_CHECK (spec/19 R641). A memory traffic generator starts a WRITE_CHECK run over a drained range. -/
  | mtgWriteCheck (g : Nat) (v : Word)
  /-- MTG_RUN_END (spec/19 R641). A memory traffic generator's DUR_US passes and its results are final. -/
  | mtgRunEnd (g units errors addr : Nat)
  /-- PTG_LANE_PRBS (spec/19 R642). A port traffic generator starts sending PRBS patterns on a down port. -/
  | ptgLanePrbs (n : Nat) (v : Word)
  /-- PTG_FRAMES (spec/19 R642). A port traffic generator starts sending test frames on an up port. -/
  | ptgFrames (n : Nat) (v : Word)
  /-- PTG_RUN_END (spec/19 R642). A port traffic generator's DUR_US passes and it stops. -/
  | ptgRunEnd (n count : Nat) (errs : List Nat)
  /-- TAP_INSTRUCTION (spec/19 R643). A JTAG TAP instruction is granted or replaced by BYPASS and counted. -/
  | tapInstruction (t : Tap)
  /-- I3C_PRIVATE_WRITE (spec/20 R660). An I3C private write sets the offset and may write UND_CTL, UND_EVFLAG or UND_MRECCTL. -/
  | i3cPrivateWrite (addr : Nat) (bs : List Byte)
  /-- I3C_PRIVATE_READ (spec/20 R660). An I3C private read returns registers from the offset and advances it. -/
  | i3cPrivateRead (addr n : Nat)
  /-- ENTDAA (spec/20 R659). ENTDAA assigns the I3C target a dynamic address. -/
  | entdaa (addr : Nat)
  /-- SETDASA (spec/20 R659). SETDASA sets the dynamic address from the static address. -/
  | setdasa (static addr : Nat)
  /-- RSTDAA (spec/20 R659). RSTDAA resets the dynamic address. -/
  | rstdaa
  /-- GETPID (spec/20 R659). GETPID returns the target's provisioned ID. -/
  | getpid (addr : Nat)
  /-- GETBCR (spec/20 R659). GETBCR returns the bus characteristics register. -/
  | getbcr (addr : Nat)
  /-- GETDCR (spec/20 R659). GETDCR returns the device characteristics register. -/
  | getdcr (addr : Nat)
  /-- GETSTATUS (spec/20 R659). GETSTATUS returns the target status. -/
  | getstatus (addr : Nat)
  /-- CPRS_N_CHANGE (spec/20 R653). A cable is inserted or removed, switching the connector's VAUX_3V3. -/
  | cprsNChange (k : Nat) (present : Bool)
  /-- VAUX_OVERCURRENT (spec/20 R653). A VAUX_3V3 load above 2.0 A cuts that connector's supply and its ports lose link. -/
  | vauxOvercurrent (k : Nat)
  /-- SDCLK_LOSS (spec/20 R658). SDCLK is lost and every port loses link. -/
  | sdclkLoss
  /-- REFCLK_LOSS (spec/20 R658). REFCLK is lost and the CXL link goes down. -/
  | refclkLoss
  /-- THREAD_BECOMES_URGENT (spec/12 R392). A READY or LOCAL thread's deadline comes within URGENT_US of now, it becomes urgent
    and may replace the occupant of a local slot. -/
  | threadBecomesUrgent (h : Nat)
  /-- RAIL_FAULT (spec/17 R570). A rail loses power-good after sequencing, from BOOT to DRAIN or in RECOVERY, and the module
    enters FAULT_HOLD with HOLD_CAUSE POWER. -/
  | railFault
  /-- NX_ISSUE_SE (spec/12 R379). NX.ISSUE.SE0 or NX.ISSUE.SE1 copies an ARM, REARM, DISARM or CHAIN record into a stream engine's
    command queue, waiting while it is full. -/
  | nxIssueSe (q : Sq) (w : BitVec 32) (rs1 : Word)
  /-- ILLEGAL_INSTRUCTION (spec/12 R376). A sequencer executes an illegal instruction, including a reserved Natriuk encoding or an
    M-only instruction in U, and the job ends with E_ARG. -/
  | illegalInstruction (q : Sq)
  /-- NXPIN_WRITE (spec/12 R377). Copse writes the nxpin CSR and sets or clears PIN of the running thread. -/
  | nxpinWrite (q : Sq) (v : Word)
  /-- FAB_SHARE_REFILL (spec/05 R172). Every 1 µs the token bucket that holds cross-module copy bytes within FAB_SHARE is
    refilled. -/
  | fabShareRefill
  /-- IDE_CHECK_FAIL (spec/16 R565). An IDE integrity check fails on a received CXL flit and CXL_STAT.IDEERR is set and counted.
    -/
  | ideCheckFail
  /-- CXL_CACHE_RESPONSE (spec/16 R565). The host answers a command's CXL.cache read or write, delivering the data or a failure
    that sets CACHEERR. -/
  | cxlCacheResponse (slot : Nat) (ok : Bool) (data : List Byte) (pm : Nat)
  /-- HDM_DECODER_ENABLE (spec/16 R567). The host enables or disables an HDM decoder, which opens or closes its window and decides
    whether a COMMIT changing CXL_HDMMAP_n is refused. -/
  | hdmDecoderEnable (n : Nat) (on : Bool) (base size : Nat)
  /-- ARP_REPLY (spec/15 R501). An ARP reply arrives and resolves a next hop in the Treeline's neighbour cache. -/
  | arpReply (n src mac : Nat)
  /-- NEIGHBOR_ADVERTISEMENT (spec/15 R501). An IPv6 Neighbor Advertisement arrives and resolves a next hop in the neighbour
    cache. -/
  | neighborAdvertisement (n target mac : Nat)
  /-- PREFETCH_FILL (spec/13 R448). A stride prefetch's data returns and enters the prefetch side buffer, pushing out its oldest
    line. -/
  | prefetchFill (c line : Nat)
  /-- C_INT_N (spec/20 R653). A cable assembly asserts C_INT_N, and the module services the attached module per CMIS. -/
  | cIntN (k : Nat)
  /-- SDCLK_RETURN (spec/20 R658). SDCLK returns after a loss, and every port starts retraining. -/
  | sdclkReturn
  /-- REFCLK_RETURN (spec/20 R658). REFCLK returns after a loss, and the CXL port starts training again. -/
  | refclkReturn
  deriving DecidableEq, Repr, Inhabited

end Sys2Proof
end

