-- ==== Sys2Proof/Config.lean ====
section
/-! DEFINITION. What an implementation fixes and the free values: constants with no body, so that no proof can see what
they are (spec/00 R6; each is named in a row of notes/assumptions). -/

namespace Sys2Proof.Config

/-- The hash that chooses a line's cache home (spec/13 R422): side, line, number of eligible slices. -/
opaque homeHash : Nat → Nat → Nat → Nat

/-- The set of a slice in which a line lies (spec/13 R428), by line; it is reduced to the number of sets. -/
opaque setHash : Nat → Nat

/-- Where a gradient bank lies in the gradient area, by its table, row and parity: internal (R338). -/
opaque bankPlace : Nat → Nat

/-- The keys by which a unit's 256-byte blocks are spread over its channels (spec/14 R460): unit, block within the unit. -/
opaque channelHash : Nat → Nat → Nat

/-- The bank of a block within its channel (spec/14 R472): unit, block within the unit. -/
opaque bankHash : Nat → Nat → Nat

/-- The incarnation drawn at the n-th entry to LINKUP (spec/15 R533); it is reduced to a non-zero 32-bit value. -/
opaque incarnation : Nat → Nat

/-- SHA-384, named by spec/17 R577: the digest as 48 bytes. -/
opaque sha384 : List Byte → List Byte

/-- RSASSA-PSS verification of spec/17 R582 step 3: E, N, signature, message. -/
opaque rsaVerify : Nat → List Byte → List Byte → List Byte → Bool

/-- SLH-DSA-SHA2-192s verification of spec/17 R582 step 4: key, signature, message. -/
opaque slhVerify : List Byte → List Byte → List Byte → Bool

/-- The device certificate chain of spec/17 R598, DER. -/
opaque certChain : List Byte

/-- The answer of the SPDM responder (spec/17 R599): session count, measurement blocks, request. -/
opaque spdmAnswer : Nat → List (List Byte) → List Byte → List Byte

/-- How many SPDM sessions are open after a request (spec/17 R599): sessions before, request. -/
opaque spdmSessions : Nat → List Byte → Nat

/-- The CDAT structures the CXL standard defines (spec/16 R540), by the presence masks they describe. -/
opaque cdatAnswer : Nat → List Byte → List Byte

/-- The bytes of the CXL component and device registers of BAR0 (spec/16 R541) by offset. -/
opaque bar0Byte : Nat → Byte

/-- A free value: the n-th time the spec leaves a byte open. -/
opaque freeByte : Nat → Byte

/-- A free value: the n-th time the spec leaves a number open, below the bound given. -/
opaque freeNat : Nat → Nat

/-- A free value: what a register at an offset counts of waits and line errors, at an instant. -/
opaque freeReg : Nat → Nat → Nat

/-- EXP2 where the spec gives only a bound (spec/08 R269): fp32 result by fp32 operand, used where it keeps the bounds and the order that
the rule asks for. -/
opaque exp2Free : Nat → Nat

/-- RCP where the spec gives only a bound (spec/08 R269): fp32 result by fp32 operand, used where it keeps the bounds and the order that
the rule asks for. -/
opaque rcpFree : Nat → Nat

/-- The place at which the hashed array of row entries is searched first (spec/05 R157), by table and row. -/
opaque rowHash : Nat → Nat → Nat

/-- Measurement block 1: the Understory boot ROM (spec/17 R600). -/
opaque romMeasurement : List Byte

/-- What the data of an encrypted or standard management transfer reads as (spec/20). -/
opaque i3cStdByte : Nat → Byte

end Sys2Proof.Config
end

