-- ==== Sys2Proof/Machine/Num.lean ====
section
/-! DEFINITION. The element formats of spec/02 (R40-R49): codes to exact values and back, with the three roundings, and
the arithmetic on exact values that the engines narrow at the end. -/

namespace Sys2Proof.Machine

/-- The element formats, in the order of their DTYPE codes (R40). -/
inductive DType where
  | int4 | int8 | int32 | e4m3 | e5m2 | bf16 | fp16 | fp32
  deriving DecidableEq, Repr, Inhabited

/-- The format a DTYPE code names (R40); the other codes are reserved (R41). -/
def DType.ofCode : Nat → Option DType
  | 0 => some .int4 | 1 => some .int8 | 2 => some .int32 | 3 => some .e4m3
  | 4 => some .e5m2 | 5 => some .bf16 | 6 => some .fp16 | 7 => some .fp32
  | _ => none

/-- The DTYPE code (R40). -/
def DType.code : DType → Nat
  | .int4 => 0 | .int8 => 1 | .int32 => 2 | .e4m3 => 3 | .e5m2 => 4 | .bf16 => 5 | .fp16 => 6 | .fp32 => 7

/-- Element bits (R40). -/
def DType.bits : DType → Nat
  | .int4 => 4 | .int8 => 8 | .int32 => 32 | .e4m3 => 8 | .e5m2 => 8 | .bf16 => 16 | .fp16 => 16 | .fp32 => 32

/-- Whether the format is an integer format (R40). -/
def DType.isInt : DType → Bool
  | .int4 | .int8 | .int32 => true
  | _ => false

/-- Exponent field bits of a float format (R40). -/
def DType.eBits : DType → Nat
  | .e4m3 => 4 | .e5m2 => 5 | .bf16 => 8 | .fp16 => 5 | .fp32 => 8 | _ => 0

/-- Fraction field bits of a float format (R40). -/
def DType.mBits : DType → Nat
  | .e4m3 => 3 | .e5m2 => 2 | .bf16 => 7 | .fp16 => 10 | .fp32 => 23 | _ => 0

/-- Exponent bias of a float format (R40). -/
def DType.bias (t : DType) : Nat := 2 ^ (t.eBits - 1) - 1

/-- The exact value of an element: NaN, an infinity, or ±m·2^e. -/
inductive FV where
  | nan
  | inf (neg : Bool)
  | fin (neg : Bool) (m : Nat) (e : Int)
  deriving DecidableEq, Repr, Inhabited

/-- Positive zero. -/
def FV.zero : FV := .fin false 0 0

/-- An integer as an exact value. -/
def FV.ofInt (i : Int) : FV := .fin (decide (i < 0)) i.natAbs 0

/-- The three roundings of R45. -/
inductive Rnd where
  | rne | rtz | sr
  deriving DecidableEq, Repr, Inhabited

/-- The rounding a RND code names; 3 is reserved (R45). -/
def Rnd.ofCode : Nat → Option Rnd
  | 0 => some .rne | 1 => some .rtz | 2 => some .sr | _ => none

/-- The value of a float code (R40); the integer formats read as two's complement. -/
def decodeElt (t : DType) (c : Nat) : FV :=
  if t.isInt then FV.ofInt (sext t.bits c)
  else
    let neg := bitAt c (t.bits - 1)
    let ex := bitsOf c t.mBits t.eBits
    let fr := bitsOf c 0 t.mBits
    let top := 2 ^ t.eBits - 1
    if t = .e4m3 then
      if ex = top ∧ fr = 7 then .nan
      else if ex = 0 then .fin neg fr (1 - (t.bias : Int) - t.mBits)
      else .fin neg (fr + 2 ^ t.mBits) ((ex : Int) - t.bias - t.mBits)
    else if ex = top then (if fr = 0 then .inf neg else .nan)
    else if ex = 0 then .fin neg fr (1 - (t.bias : Int) - t.mBits)
    else .fin neg (fr + 2 ^ t.mBits) ((ex : Int) - t.bias - t.mBits)

/-- Whether a code is a zero for NNZ, compression and sparse operation (R44). -/
def isZeroElt (t : DType) (c : Nat) : Bool :=
  if t.isInt then c % 2 ^ t.bits == 0 else c % 2 ^ (t.bits - 1) == 0

/-- The canonical NaN (R49). -/
def nanCode : DType → Nat
  | .fp32 => 0x7FC00000 | .bf16 => 0x7FC0 | .fp16 => 0x7E00 | .e4m3 => 0x7F | .e5m2 => 0x7F | _ => 0

/-- The code of the largest finite magnitude of a float format. -/
def maxFiniteCode : DType → Nat
  | .fp32 => 0x7F7FFFFF | .bf16 => 0x7F7F | .fp16 => 0x7BFF | .e4m3 => 0x7E | .e5m2 => 0x7B | _ => 0

/-- The code of infinity: E4M3 has none and takes ±448 (R47). -/
def infCode : DType → Nat
  | .fp32 => 0x7F800000 | .bf16 => 0x7F80 | .fp16 => 0x7C00 | .e4m3 => 0x7E | .e5m2 => 0x7C | _ => 0

/-- `m / 2^sh` rounded (R45, R46); `u` is the 16-bit draw of SR, compared with the top 16 discarded bits. -/
def roundShift (r : Rnd) (u m sh : Nat) : Nat :=
  let n := m / 2 ^ sh
  let rem := m % 2 ^ sh
  match r with
  | .rtz => n
  | .rne => if 2 * rem > 2 ^ sh ∨ (2 * rem = 2 ^ sh ∧ n % 2 = 1) then n + 1 else n
  | .sr => if u < rem * 65536 / 2 ^ sh then n + 1 else n

/-- `m·2^e` to a multiple of `2^q`, rounded, in units of `2^q`. -/
def roundTo (r : Rnd) (u m : Nat) (e q : Int) : Nat :=
  if e ≥ q then m * 2 ^ (e - q).toNat else roundShift r u m (q - e).toNat

/-- Whether `m·2^e` is a multiple of `2^q`. -/
def exactAt (m : Nat) (e q : Int) : Bool := if e ≥ q then true else m % 2 ^ (q - e).toNat == 0

/-- The weight of the last kept place of `m·2^e` in a float format, subnormals included. -/
def lastPlace (t : DType) (m : Nat) (e : Int) : Int :=
  max ((m.log2 : Int) + e - t.mBits) (1 - (t.bias : Int) - t.mBits)

/-- A code with the sign bit of format `t`. -/
def withSign (t : DType) (neg : Bool) (c : Nat) : Nat := if neg then c + 2 ^ (t.bits - 1) else c

/-- What a finite overflow becomes (R47). -/
def overflowCode (t : DType) (r : Rnd) : Nat :=
  match t with
  | .e4m3 | .e5m2 => maxFiniteCode t
  | _ => if r = .rtz then maxFiniteCode t else infCode t

/-- The float code of an exact value under a rounding and an SR draw (R45-R49). -/
def encodeFloat (t : DType) (r : Rnd) (u : Nat) : FV → Nat
  | .nan => nanCode t
  | .inf neg => withSign t neg (infCode t)
  | .fin neg m e =>
    if m = 0 then withSign t neg 0
    else
      let q := lastPlace t m e
      let n := roundTo r u m e q
      let code := (q - (1 - (t.bias : Int) - t.mBits)).toNat * 2 ^ t.mBits + n
      if code > maxFiniteCode t then withSign t neg (overflowCode t r) else withSign t neg code

/-- Least and greatest value of an integer format. -/
def DType.minInt (t : DType) : Int := -((2 ^ (t.bits - 1) : Nat) : Int)
def DType.maxInt (t : DType) : Int := ((2 ^ (t.bits - 1) : Nat) : Int) - 1

/-- An integer brought into an integer format's range. -/
def satInt (t : DType) (i : Int) : Int := max t.minInt (min t.maxInt i)

/-- The integer an exact value rounds to (R45), before saturation. -/
def roundInt (r : Rnd) (u : Nat) (neg : Bool) (m : Nat) (e : Int) : Int :=
  let n : Int := (roundTo r u m e 0 : Nat)
  if neg then -n else n

/-- The integer code of an exact value: saturating, NaN to 0 (R47). -/
def encodeInt (t : DType) (r : Rnd) (u : Nat) : FV → Nat
  | .nan => 0
  | .inf neg => toBits t.bits (if neg then t.minInt else t.maxInt)
  | .fin neg m e => toBits t.bits (satInt t (roundInt r u neg m e))

/-- A value's code in any format (R47). -/
def encodeElt (t : DType) (r : Rnd) (u : Nat) (v : FV) : Nat :=
  if t.isInt then encodeInt t r u v else encodeFloat t r u v

/-- Whether encoding saturates an integer or overflows a float from a finite value (R47; counted by R220, R266, R269). -/
def encodeSat (t : DType) (r : Rnd) (u : Nat) : FV → Bool
  | .nan => false
  | .inf _ => t.isInt || t == .e4m3
  | .fin neg m e =>
    if t.isInt then
      let i := roundInt r u neg m e
      decide (i < t.minInt ∨ i > t.maxInt)
    else if m = 0 then false
    else
      let q := lastPlace t m e
      let code := (q - (1 - (t.bias : Int) - t.mBits)).toNat * 2 ^ t.mBits + roundTo r u m e q
      decide (code > maxFiniteCode t)

/-- Whether encoding discards any non-zero bit. -/
def encodeExact (t : DType) : FV → Bool
  | .fin _ m e =>
    if m = 0 then true else if t.isInt then exactAt m e 0 else exactAt m e (lastPlace t m e)
  | _ => true

/-- Denormals read as a zero of the same sign, as the matrix engine reads fp8 and bf16 (R43). -/
def flushDenormal (t : DType) (c : Nat) : Nat :=
  if t.isInt then c else if bitsOf c t.mBits t.eBits = 0 then (if bitAt c (t.bits - 1) then 2 ^ (t.bits - 1) else 0) else c

/-- The signed integer `±m` scaled to exponent `e0 ≤ e`. -/
def scaled (neg : Bool) (m : Nat) (e e0 : Int) : Int :=
  let n : Int := (m * 2 ^ (e - e0).toNat : Nat)
  if neg then -n else n

/-- Exact sum. A zero sum is +0 unless both terms are −0. -/
def FV.add : FV → FV → FV
  | .nan, _ => .nan
  | _, .nan => .nan
  | .inf a, .inf b => if a = b then .inf a else .nan
  | .inf a, .fin _ _ _ => .inf a
  | .fin _ _ _, .inf b => .inf b
  | .fin na ma ea, .fin nb mb eb =>
    let e0 := min ea eb
    let s := scaled na ma ea e0 + scaled nb mb eb e0
    if s = 0 then .fin (na && nb && decide (ma = 0)) 0 0 else .fin (decide (s < 0)) s.natAbs e0

/-- The opposite value. -/
def FV.neg : FV → FV
  | .nan => .nan
  | .inf a => .inf (!a)
  | .fin a m e => .fin (!a) m e

/-- Exact difference. -/
def FV.sub (a b : FV) : FV := a.add b.neg

/-- Exact product. A product of an MMA whose exact value fp32 does not hold (two bf16 values beyond its range or below its smallest
denormal) stays exact until its first addition rounds it (DESIGN CHOICE: R208 asks for both, log 92). -/
def FV.mul : FV → FV → FV
  | .nan, _ => .nan
  | _, .nan => .nan
  | .inf a, .inf b => .inf (a != b)
  | .inf a, .fin b m _ => if m = 0 then .nan else .inf (a != b)
  | .fin a m _, .inf b => if m = 0 then .nan else .inf (a != b)
  | .fin a m e, .fin b n f => .fin (a != b) (m * n) (e + f)

/-- The order of two values that are not NaN: less, equal, greater as −1, 0, 1; zeros of either sign are equal. -/
def FV.cmp : FV → FV → Int
  | .nan, _ => 0
  | _, .nan => 0
  | .inf a, .inf b => if a = b then 0 else if a then -1 else 1
  | .inf a, .fin _ _ _ => if a then -1 else 1
  | .fin _ _ _, .inf b => if b then 1 else -1
  | .fin na ma ea, .fin nb mb eb =>
    let e0 := min ea eb
    let d := scaled na ma ea e0 - scaled nb mb eb e0
    if d < 0 then -1 else if d = 0 then 0 else 1

/-- Whether a value is NaN. -/
def FV.isNan : FV → Bool
  | .nan => true
  | _ => false

/-- An fp32 sum of two fp32 codes under a rounding. -/
def addF32 (r : Rnd) (u a b : Nat) : Nat :=
  encodeFloat .fp32 r u ((decodeElt .fp32 a).add (decodeElt .fp32 b))

/-- CRC-32C of R56: Castagnoli, reflected, initial value and final XOR all ones. -/
def crc32cBit (c : Nat) : Nat := if c % 2 = 1 then (c / 2) ^^^ 0x82F63B78 else c / 2

def crc32cByte (c : Nat) (b : Byte) : Nat :=
  crc32cBit <| crc32cBit <| crc32cBit <| crc32cBit <| crc32cBit <| crc32cBit <| crc32cBit <| crc32cBit (c ^^^ b.toNat)

def crc32c (bs : List Byte) : Nat := (bs.foldl crc32cByte 0xFFFFFFFF) ^^^ 0xFFFFFFFF

end Sys2Proof.Machine
end

