-- ==== Sys2Proof/Machine/RegTable.lean ====
section
/-! DEFINITION. The register map: every register of the views (spec/00 R12-R21 and each chapter's register tables), its
place, its view, its copies and its fields. -/

namespace Sys2Proof.Machine

/-- Every register of the register views, in the order of the blocks. -/
inductive Reg where
  | CAP_PART | CAP_COUNTS | CAP_CORE0 | CAP_CORE1 | CAP_CLU | CAP_SLICE | CAP_MEM | CAP_PORT | CAP_BUILT
  | UND_STATE | UND_CTL | UND_LINKCFG | UND_PROGSTORE | UND_CFGFAIL | UND_BOOTT | UND_BOOTS | UND_RCVS | UND_FLTCFG
  | UND_SCRUB | UND_MRECCTL | UND_MREC | UND_EVFLAG | UND_EVSTAT | UND_EVREC | SEC_FUSE | SEC_BUILD | SEC_MEAS7
  | SEC_SPDM | TEL_REGERR | TEL_JTAGDENY | TEL_EVC | TEL_TEMP | TEL_PWR | TEL_PCAP | TEL_PCAPST | TEL_PCAPSTEP
  | TEL_PCAPWIN | TEL_HLATCH | TEL_HSNAP | TEL_MGCTL | TEL_MGRES | TEL_MTG_CTL | TEL_MTG_CH | TEL_MTG_RANGE
  | TEL_MTG_RES | TEL_MTG_ERR | TEL_MTG_ERRADDR | TEL_PTG_CTL | TEL_PTG_FRM | TEL_PTG_RES | CXL_CMDBASE | CXL_EPOCH
  | CXL_CMTCFG | CXL_STAT | CXL_LINK | CXL_CTX | CXL_HDMMAP | CXL_CMDS | CXL_REFUSED | CXL_ARMS_PRE | CXL_MSIX
  | MEM_HBMPRES | MEM_LPDPRES | MEM_CAPB | MEM_ERRCFG | MEM_SRCPART | MEM_STATE | MEM_PART | MEM_CTXPART
  | MEM_PBYTES | MEM_PCAPW | MEM_RGN | MEM_RGNM | CAN_MODE | CAN_PRESENT | CAN_STATE | CAN_ACTIVE | CAN_REHOME
  | CAN_HIT | CAN_WB | CAN_OFFER | CAN_ATOM | CAN_PERR | CAN_WAIT | CAN_DISC | HBM_THR | HBM_STAT | HBM_CE | HBM_UE
  | HBM_PRD | HBM_BANKQ | HBM_TSTEP | HBM_BYTES | HBM_PCERR | LPD_STAT | LPD_CE | LPD_UE | LPD_PRD | LPD_BANKQ
  | LPD_BYTES | LPD_CHERR | SFX_CFG | SFX_ID | SFX_IDENT | SFX_INC | SFX_DOM | SFX_MGRL | SFX_MGRH | SFX_RT
  | SFX_IDTAB | SFX_TMO | SFX_CC | SFX_STATE | SFX_TXPKT | SFX_RXPKT | SFX_RETX | SFX_RTO | SFX_DUP | SFX_CE
  | SFX_RXBAD | SFX_ORDDROP | SFX_RESET | SFX_LOST | SFX_LOSTPOST | SFX_MONFREE | SFX_IDCONF | ETH_MACBASE
  | ETH_DSCPMAP | ETH_ADDRC | ETH_ADDRL | ETH_ADDRH | ETH_GWL | ETH_GWH | ETH_PORT | ETH_PFC | ETH_LSTAT
  | ETH_RXFRM | ETH_TXFRM | ETH_FCSERR | ETH_FECCW | ETH_FECUNC | ETH_RXDROP | ETH_PFCRX | ETH_PFCTX | ETH_LINKDN
  | CLU_PWR | CLU_PSTATE | CLU_SLEEPS | CLU_OFFS | CLU_OFFACC | CLU_MQCFG | CLU_MQOBS | CLU_MQJOBS | SYN_MON
  | SYN_OPS | SYN_WAITS | SYN_FIRES | SYN_MONFULL | SYN_ERR | FOR_CFG | FOR_LOAD | FOR_DLY | FOR_WAITMAX | FOR_PICK
  | FOR_AFF | FOR_URG | FOR_DLFIRE | FOR_WDOG | FOR_TOKERR | FOR_DECLERR | FOR_SLOTFULL | FOR_WAITSUM | FOR_WTMO
  | QFE_CTL | QFE_UDP | QFE_RASM | QFE_STATE | QFE_RXDG | QFE_DROP_FMT | QFE_DROP_CRC | QFE_DROP_DUP
  | QFE_DROP_STALE | QFE_DROP_OFF | QFE_RASM_EXP | QFE_CLAMP | QFE_TXFAIL | QFE_CLSA | QFE_CLSB | QFE_HIST
  | UPD_STATE | UPD_GAREA | UPD_MERGE | UPD_MSTEP | UPD_GFULL | UPD_ROWS | UPD_FROZEN | UPD_PART_OK | UPD_PART_STEP
  | UPD_PART_FAIL | UPD_LAYERS | UPD_TSTEP | UPD_LSTEP | UPD_TBIND | TBL_STATE | TBL_DESC | TBL_LKP | TBL_DEF
  | TBL_RTY | TBL_REP | TBL_RHT | TBL_HOT | TBL_MIG | TBL_MIGT | TBL_MIGS | TBL_MVSTATE | TBL_PEER | TBL_MV_START
  | TBL_MV_DONE | TBL_MV_ABORT | TBL_MV_FWD | TBL_MV_STRAY | TBL_MV_QFULL | TBL_MV_SKIP | TBL_HOT_FULL
  | TBL_RENT_FULL | TBL_REDIR | TBL_SHB | TBL_GDESC | TBL_GBIND | CORE_BADIDX | CORE_TILEERR | CORE_POISONIN
  | CORE_GE_LKP | CORE_GE_REQ | CORE_GE_COAL | CORE_GE_RETRY | CORE_GE_SHADOW | CORE_GE_BUSY | CORE_GE_DEFPAD
  | CORE_GE_DEFRNG | CORE_GE_DEFMISS | CORE_GE_FULL | CORE_ACCFLAGS | CORE_ACCTYPE | CORE_LFSR | CORE_MEQ
  | CORE_ME_INSN | CORE_ME_BUSY | CORE_ME_SAT | CORE_ME_CVTSAT | CORE_ME_ACCERR | CORE_ME_ERR | CORE_SPCFG
  | CORE_SP_INSN | CORE_SP_EXP | CORE_SP_SEGS | CORE_SP_LQSTALL | CORE_CH_TILES | CORE_CH_CSR | CORE_CH_BCSR
  | CORE_CH_ZERO | CORE_CH_NOPAY | CORE_CH_BIN | CORE_CH_BOUT | CORE_MQ_PRED | CORE_MQ_ACTIVE | CORE_MQ_TP
  | CORE_MQ_FN | CORE_MQ_FP | CORE_MQ_LTP | CORE_MQ_LFP | CORE_VEQ | CORE_VE_INSN | CORE_VE_BUSY | CORE_VE_SAT
  | CORE_VE_FEXC | CORE_VE_RDERR | CORE_VE_ERR | CORE_VE_TKNAN | CORE_VMASK | CORE_RING | CORE_SECMD | CORE_ST
  | CORE_SE_TILES | CORE_SE_BYTES | CORE_SE_REFILL | CORE_SE_BADSLOT | CORE_SE_ERR | CORE_GR_SEEDS
  | CORE_GR_ENTRIES | CORE_GR_CHUNKS | CORE_GR_PADCH | CORE_GR_TRUNC | CORE_GR_HUB | CORE_GR_BADADJ | CORE_SQ_RUN
  | CORE_SQ_IDLE | CORE_SQ_ISSUE | CORE_SQ_TRAP | CORE_L1CFG | CORE_L1_HIT | CORE_L1_MISS | CORE_L1_PF
  | CORE_L1_PFUSE | CORE_L1_PFDROP | CORE_L1_PERR | CORE_MB_FULL | CORE_MB_PERR | CORE_CLM_ERR | CORE_ATOM_ADDR
  | CORE_ATOM_ARG | CORE_ATOM_ARG2 | CORE_ATOM_CTL | CORE_ATOM_RES | CORE_FLT | CORE_RECOMP | CORE_KWDOG
  deriving DecidableEq, Repr, Inhabited

/-- The access codes (R16). -/
inductive Acc where
  | rw | ro | w1c | w1s | wo | rc
  deriving DecidableEq, Repr, Inhabited

/-- One field: lowest bit, width, access code. Bits that no field names are reserved (R19). -/
structure Fld where
  lo : Nat
  len : Nat
  acc : Acc
  deriving DecidableEq, Repr, Inhabited

/-- How a register is reached: in both views, in the privileged view only, or privileged and changing through shadow
and COMMIT (R14, R559). -/
inductive RView where
  | u | p | shadow
  deriving DecidableEq, Repr, Inhabited

/-- One register of the map: offset of instance 0 in a view, (stride, count) of each index, view, fields. -/
structure RegRow where
  base : Nat
  dims : List (Nat × Nat)
  view : RView
  flds : List Fld
  deriving DecidableEq, Repr, Inhabited

/-- A 32-bit counter (R72, R155). -/
def c32 : List Fld := [⟨0, 32, .ro⟩]

/-- A register of 64 read-only bits. -/
def ro64 : List Fld := [⟨0, 64, .ro⟩]

/-- The register map. -/
def Reg.row : Reg → RegRow
  | .CAP_PART => ⟨0x0, [], .u, [⟨0, 16, .ro⟩, ⟨16, 8, .ro⟩, ⟨24, 8, .ro⟩, ⟨32, 1, .ro⟩, ⟨48, 16, .ro⟩]⟩ -- R4
  | .CAP_COUNTS => ⟨0x8, [], .u, [⟨0, 48, .ro⟩]⟩ -- R628
  | .CAP_CORE0 => ⟨0x10, [], .u, ro64⟩ -- R628
  | .CAP_CORE1 => ⟨0x18, [], .u, ro64⟩ -- R628
  | .CAP_CLU => ⟨0x20, [], .u, [⟨0, 16, .ro⟩]⟩ -- R628
  | .CAP_SLICE => ⟨0x28, [], .u, ro64⟩ -- R628
  | .CAP_MEM => ⟨0x30, [], .u, [⟨0, 40, .ro⟩]⟩ -- R628
  | .CAP_PORT => ⟨0x38, [], .u, [⟨0, 36, .ro⟩]⟩ -- R628
  | .CAP_BUILT => ⟨0x40, [], .u, [⟨0, 48, .ro⟩]⟩ -- R628
  | .UND_STATE => ⟨0x10000, [], .u, [⟨0, 14, .ro⟩]⟩ -- R603
  | .UND_CTL => ⟨0x10008, [], .p, [⟨0, 1, .w1s⟩, ⟨1, 1, .w1s⟩, ⟨2, 1, .w1s⟩]⟩ -- R603
  | .UND_LINKCFG => ⟨0x10010, [], .shadow, [⟨0, 16, .rw⟩, ⟨16, 16, .rw⟩, ⟨32, 16, .rw⟩]⟩ -- R603
  | .UND_PROGSTORE => ⟨0x10018, [], .shadow, [⟨0, 24, .rw⟩, ⟨24, 16, .rw⟩]⟩ -- R603
  | .UND_CFGFAIL => ⟨0x10020, [], .u, [⟨0, 50, .ro⟩]⟩ -- R603
  | .UND_BOOTT => ⟨0x10028, [], .u, [⟨0, 48, .ro⟩]⟩ -- R603
  | .UND_BOOTS => ⟨0x10100, [], .u, c32⟩ -- R603
  | .UND_RCVS => ⟨0x10108, [], .u, c32⟩ -- R603
  | .UND_FLTCFG => ⟨0x10200, [], .shadow,
      [⟨0, 8, .rw⟩, ⟨8, 16, .rw⟩, ⟨24, 1, .rw⟩, ⟨25, 1, .rw⟩, ⟨32, 8, .rw⟩, ⟨40, 8, .rw⟩, ⟨48, 16, .rw⟩]⟩ -- R629
  | .UND_SCRUB => ⟨0x10208, [], .shadow, [⟨0, 8, .rw⟩]⟩ -- R629
  | .UND_MRECCTL => ⟨0x10210, [], .p, [⟨0, 1, .w1s⟩, ⟨1, 1, .ro⟩]⟩ -- R629
  | .UND_MREC => ⟨0x10218, [(8, 5)], .u, ro64⟩ -- R629
  | .UND_EVFLAG => ⟨0x10300, [], .u, [⟨0, 4, .w1c⟩, ⟨8, 4, .rw⟩]⟩ -- R629
  | .UND_EVSTAT => ⟨0x10308, [], .u, ro64⟩ -- R629
  | .UND_EVREC => ⟨0x10400, [(8, 256)], .u, ro64⟩ -- R629
  | .SEC_FUSE => ⟨0x20000, [], .u, [⟨0, 22, .ro⟩]⟩ -- R604
  | .SEC_BUILD => ⟨0x20008, [], .u, ro64⟩ -- R604
  | .SEC_MEAS7 => ⟨0x20010, [], .u, c32⟩ -- R604
  | .SEC_SPDM => ⟨0x20018, [], .u, [⟨0, 3, .ro⟩]⟩ -- R604
  | .TEL_REGERR => ⟨0x30000, [], .u, c32⟩ -- R645
  | .TEL_JTAGDENY => ⟨0x30008, [], .u, c32⟩ -- R645
  | .TEL_EVC => ⟨0x30100, [(8, 32)], .u, c32⟩ -- R645
  | .TEL_TEMP => ⟨0x30200, [(8, 17)], .u, [⟨0, 8, .ro⟩, ⟨8, 8, .rc⟩]⟩ -- R645
  | .TEL_PWR => ⟨0x30300, [(8, 6)], .u, [⟨0, 16, .ro⟩, ⟨16, 16, .ro⟩, ⟨32, 16, .rc⟩]⟩ -- R645
  | .TEL_PCAP => ⟨0x30380, [], .shadow, [⟨0, 1, .rw⟩, ⟨1, 11, .rw⟩, ⟨12, 10, .rw⟩]⟩ -- R645
  | .TEL_PCAPST => ⟨0x30388, [], .u, [⟨0, 3, .ro⟩]⟩ -- R645
  | .TEL_PCAPSTEP => ⟨0x30390, [], .u, c32⟩ -- R645
  | .TEL_PCAPWIN => ⟨0x30398, [], .u, c32⟩ -- R645
  | .TEL_HLATCH => ⟨0x30400, [], .u, [⟨0, 8, .rw⟩, ⟨8, 1, .w1s⟩, ⟨9, 1, .ro⟩]⟩ -- R645
  | .TEL_HSNAP => ⟨0x30800, [(8, 128)], .u, ro64⟩ -- R645
  | .TEL_MGCTL => ⟨0x31000, [], .p,
      [⟨0, 2, .rw⟩, ⟨2, 11, .rw⟩, ⟨13, 1, .rw⟩, ⟨14, 6, .rw⟩, ⟨20, 16, .rw⟩, ⟨36, 1, .w1s⟩, ⟨37, 1, .ro⟩]⟩ -- R645
  | .TEL_MGRES => ⟨0x31008, [], .u, ro64⟩ -- R645
  | .TEL_MTG_CTL => ⟨0x32000, [(0x40, 40)], .p,
      [⟨0, 2, .rw⟩, ⟨2, 2, .rw⟩, ⟨4, 1, .rw⟩, ⟨5, 1, .w1s⟩, ⟨6, 1, .ro⟩, ⟨7, 25, .rw⟩, ⟨32, 32, .rw⟩]⟩ -- R646
  | .TEL_MTG_CH => ⟨0x32008, [(0x40, 40)], .p, [⟨0, 32, .rw⟩]⟩ -- R646
  | .TEL_MTG_RANGE => ⟨0x32010, [(0x40, 40)], .p, [⟨0, 32, .rw⟩, ⟨32, 32, .rw⟩]⟩ -- R646
  | .TEL_MTG_RES => ⟨0x32018, [(0x40, 40)], .u, ro64⟩ -- R646
  | .TEL_MTG_ERR => ⟨0x32020, [(0x40, 40)], .u, [⟨0, 40, .ro⟩]⟩ -- R646
  | .TEL_MTG_ERRADDR => ⟨0x32028, [(0x40, 40)], .u, [⟨0, 44, .ro⟩]⟩ -- R646
  | .TEL_PTG_CTL => ⟨0x33000, [(0x40, 36)], .p,
      [⟨0, 2, .rw⟩, ⟨2, 2, .rw⟩, ⟨4, 1, .rw⟩, ⟨5, 1, .w1s⟩, ⟨6, 1, .ro⟩, ⟨8, 8, .rw⟩, ⟨16, 32, .rw⟩, ⟨48, 8,
        .ro⟩]⟩ -- R646
  | .TEL_PTG_FRM => ⟨0x33008, [(0x40, 36)], .p, [⟨0, 14, .rw⟩, ⟨14, 8, .rw⟩, ⟨22, 2, .rw⟩]⟩ -- R646
  | .TEL_PTG_RES => ⟨0x33010, [(0x40, 36), (8, 5)], .u, ro64⟩ -- R646
  | .CXL_CMDBASE => ⟨0x40000, [], .shadow, [⟨0, 24, .rw⟩]⟩ -- R567
  | .CXL_EPOCH => ⟨0x40008, [], .u, ro64⟩ -- R567
  | .CXL_CMTCFG => ⟨0x40010, [], .shadow, [⟨0, 16, .rw⟩, ⟨16, 1, .ro⟩]⟩ -- R567
  | .CXL_STAT => ⟨0x40018, [], .u, [⟨0, 6, .w1c⟩]⟩ -- R567
  | .CXL_LINK => ⟨0x40020, [], .u, [⟨0, 8, .ro⟩]⟩ -- R567
  | .CXL_CTX => ⟨0x40100, [(8, 64)], .shadow,
      [⟨0, 1, .rw⟩, ⟨1, 1, .rw⟩, ⟨2, 8, .rw⟩, ⟨10, 9, .rw⟩, ⟨19, 16, .rw⟩, ⟨35, 3, .rw⟩, ⟨38, 11, .rw⟩]⟩ -- R567
  | .CXL_HDMMAP => ⟨0x40400, [(8, 8)], .shadow, [⟨0, 16, .rw⟩]⟩ -- R567
  | .CXL_CMDS => ⟨0x40500, [], .u, c32⟩ -- R568
  | .CXL_REFUSED => ⟨0x40508, [], .u, c32⟩ -- R568
  | .CXL_ARMS_PRE => ⟨0x40510, [], .u, c32⟩ -- R568
  | .CXL_MSIX => ⟨0x40518, [], .u, c32⟩ -- R568
  | .MEM_HBMPRES => ⟨0x50000, [], .u, [⟨0, 16, .ro⟩]⟩ -- R491
  | .MEM_LPDPRES => ⟨0x50008, [], .u, ro64⟩ -- R491
  | .MEM_CAPB => ⟨0x50010, [], .u, ro64⟩ -- R491
  | .MEM_ERRCFG => ⟨0x50018, [], .shadow, [⟨0, 20, .rw⟩, ⟨20, 12, .rw⟩, ⟨32, 8, .rw⟩, ⟨40, 1, .rw⟩]⟩ -- R491
  | .MEM_SRCPART => ⟨0x50020, [], .shadow, [⟨0, 4, .rw⟩, ⟨4, 4, .rw⟩, ⟨8, 4, .rw⟩, ⟨12, 4, .rw⟩]⟩ -- R491
  | .MEM_STATE => ⟨0x50028, [], .u, [⟨48, 16, .ro⟩]⟩ -- R491
  | .MEM_PART => ⟨0x50100, [(8, 16)], .shadow, [⟨0, 9, .rw⟩, ⟨9, 9, .rw⟩, ⟨18, 8, .rw⟩]⟩ -- R491
  | .MEM_CTXPART => ⟨0x50180, [(8, 4)], .shadow, [⟨0, 64, .rw⟩]⟩ -- R491
  | .MEM_PBYTES => ⟨0x50200, [(8, 16)], .u, ro64⟩ -- R491
  | .MEM_PCAPW => ⟨0x50280, [(8, 16)], .u, c32⟩ -- R491
  | .MEM_RGN => ⟨0x51000, [(0x10, 64)], .shadow,
      [⟨0, 1, .rw⟩, ⟨1, 1, .rw⟩, ⟨2, 2, .rw⟩, ⟨4, 1, .ro⟩, ⟨8, 16, .rw⟩, ⟨24, 16, .rw⟩]⟩ -- R492
  | .MEM_RGNM => ⟨0x51008, [(0x10, 64)], .shadow, [⟨0, 32, .rw⟩]⟩ -- R492
  | .CAN_MODE => ⟨0x60000, [], .shadow, [⟨0, 64, .rw⟩]⟩ -- R455
  | .CAN_PRESENT => ⟨0x60008, [], .u, ro64⟩ -- R455
  | .CAN_STATE => ⟨0x60010, [], .u, [⟨0, 1, .ro⟩, ⟨48, 16, .ro⟩]⟩ -- R455
  | .CAN_ACTIVE => ⟨0x60018, [], .u, ro64⟩ -- R455
  | .CAN_REHOME => ⟨0x60020, [], .u, ro64⟩ -- R455
  | .CAN_HIT => ⟨0x61000, [(0x40, 64)], .u, ro64⟩ -- R455
  | .CAN_WB => ⟨0x61008, [(0x40, 64)], .u, ro64⟩ -- R455
  | .CAN_OFFER => ⟨0x61010, [(0x40, 64)], .u, ro64⟩ -- R455
  | .CAN_ATOM => ⟨0x61018, [(0x40, 64)], .u, ro64⟩ -- R455
  | .CAN_PERR => ⟨0x61020, [(0x40, 64)], .u, ro64⟩ -- R455
  | .CAN_WAIT => ⟨0x61028, [(0x40, 64)], .u, c32⟩ -- R455
  | .CAN_DISC => ⟨0x61030, [(0x40, 64)], .u, c32⟩ -- R455
  | .HBM_THR => ⟨0x70000, [(0x1000, 8)], .shadow, [⟨0, 8, .rw⟩]⟩ -- R493
  | .HBM_STAT => ⟨0x70008, [(0x1000, 8)], .u, [⟨0, 11, .ro⟩]⟩ -- R493
  | .HBM_CE => ⟨0x70100, [(0x1000, 8)], .u, c32⟩ -- R493
  | .HBM_UE => ⟨0x70108, [(0x1000, 8)], .u, c32⟩ -- R493
  | .HBM_PRD => ⟨0x70110, [(0x1000, 8)], .u, c32⟩ -- R493
  | .HBM_BANKQ => ⟨0x70118, [(0x1000, 8)], .u, c32⟩ -- R493
  | .HBM_TSTEP => ⟨0x70120, [(0x1000, 8)], .u, c32⟩ -- R493
  | .HBM_BYTES => ⟨0x70128, [(0x1000, 8)], .u, ro64⟩ -- R493
  | .HBM_PCERR => ⟨0x70200, [(0x1000, 8), (8, 32)], .u, [⟨0, 29, .ro⟩]⟩ -- R493
  | .LPD_STAT => ⟨0x80008, [(0x1000, 32)], .u, [⟨0, 8, .ro⟩]⟩ -- R493
  | .LPD_CE => ⟨0x80100, [(0x1000, 32)], .u, c32⟩ -- R493
  | .LPD_UE => ⟨0x80108, [(0x1000, 32)], .u, c32⟩ -- R493
  | .LPD_PRD => ⟨0x80110, [(0x1000, 32)], .u, c32⟩ -- R493
  | .LPD_BANKQ => ⟨0x80118, [(0x1000, 32)], .u, c32⟩ -- R493
  | .LPD_BYTES => ⟨0x80128, [(0x1000, 32)], .u, ro64⟩ -- R493
  | .LPD_CHERR => ⟨0x80200, [(0x1000, 32), (8, 4)], .u, [⟨0, 29, .ro⟩]⟩ -- R493
  | .SFX_CFG => ⟨0xA0000, [], .shadow, [⟨0, 16, .rw⟩, ⟨16, 6, .rw⟩, ⟨22, 2, .rw⟩, ⟨24, 6, .rw⟩]⟩ -- R537
  | .SFX_ID => ⟨0xA0008, [], .u, [⟨0, 13, .ro⟩]⟩ -- R537
  | .SFX_IDENT => ⟨0xA0010, [], .u, ro64⟩ -- R537
  | .SFX_INC => ⟨0xA0018, [], .u, [⟨0, 32, .ro⟩]⟩ -- R537
  | .SFX_DOM => ⟨0xA0020, [], .shadow,
      [⟨0, 16, .rw⟩, ⟨16, 1, .rw⟩, ⟨17, 1, .rw⟩, ⟨18, 1, .rw⟩, ⟨19, 12, .rw⟩]⟩ -- R537
  | .SFX_MGRL => ⟨0xA0028, [], .shadow, [⟨0, 64, .rw⟩]⟩ -- R537
  | .SFX_MGRH => ⟨0xA0030, [], .shadow, [⟨0, 64, .rw⟩]⟩ -- R537
  | .SFX_RT => ⟨0xA0038, [], .shadow, [⟨0, 32, .rw⟩]⟩ -- R537
  | .SFX_IDTAB => ⟨0xA0040, [], .shadow, [⟨0, 32, .rw⟩, ⟨32, 12, .rw⟩]⟩ -- R537
  | .SFX_TMO => ⟨0xA0048, [], .shadow,
      [⟨0, 16, .rw⟩, ⟨16, 16, .rw⟩, ⟨32, 8, .rw⟩, ⟨40, 8, .rw⟩, ⟨48, 16, .rw⟩]⟩ -- R537
  | .SFX_CC => ⟨0xA0050, [], .shadow, [⟨0, 16, .rw⟩, ⟨16, 16, .rw⟩, ⟨32, 16, .rw⟩, ⟨48, 16, .rw⟩]⟩ -- R537
  | .SFX_STATE => ⟨0xA0058, [], .u, [⟨0, 24, .ro⟩, ⟨48, 16, .ro⟩]⟩ -- R537
  | .SFX_TXPKT => ⟨0xA0100, [], .u, c32⟩ -- R538
  | .SFX_RXPKT => ⟨0xA0108, [], .u, c32⟩ -- R538
  | .SFX_RETX => ⟨0xA0110, [], .u, c32⟩ -- R538
  | .SFX_RTO => ⟨0xA0118, [], .u, c32⟩ -- R538
  | .SFX_DUP => ⟨0xA0120, [], .u, c32⟩ -- R538
  | .SFX_CE => ⟨0xA0128, [], .u, c32⟩ -- R538
  | .SFX_RXBAD => ⟨0xA0130, [], .u, c32⟩ -- R538
  | .SFX_ORDDROP => ⟨0xA0138, [], .u, c32⟩ -- R538
  | .SFX_RESET => ⟨0xA0140, [], .u, c32⟩ -- R538
  | .SFX_LOST => ⟨0xA0148, [], .u, c32⟩ -- R538
  | .SFX_LOSTPOST => ⟨0xA0150, [], .u, c32⟩ -- R538
  | .SFX_MONFREE => ⟨0xA0158, [], .u, c32⟩ -- R538
  | .SFX_IDCONF => ⟨0xA0160, [], .u, c32⟩ -- R538
  | .ETH_MACBASE => ⟨0xC0000, [], .u, [⟨0, 48, .ro⟩]⟩ -- R536
  | .ETH_DSCPMAP => ⟨0xC0008, [(8, 4)], .shadow,
      [⟨0, 3, .rw⟩, ⟨4, 3, .rw⟩, ⟨8, 3, .rw⟩, ⟨12, 3, .rw⟩, ⟨16, 3, .rw⟩, ⟨20, 3, .rw⟩, ⟨24, 3, .rw⟩, ⟨28, 3, .rw⟩,
        ⟨32, 3, .rw⟩, ⟨36, 3, .rw⟩, ⟨40, 3, .rw⟩, ⟨44, 3, .rw⟩, ⟨48, 3, .rw⟩, ⟨52, 3, .rw⟩, ⟨56, 3, .rw⟩, ⟨60, 3,
        .rw⟩]⟩ -- R536
  | .ETH_ADDRC => ⟨0xC0100, [(0x20, 8)], .shadow, [⟨0, 1, .rw⟩, ⟨1, 1, .rw⟩, ⟨2, 8, .rw⟩, ⟨10, 36, .rw⟩]⟩ -- R536
  | .ETH_ADDRL => ⟨0xC0108, [(0x20, 8)], .shadow, [⟨0, 64, .rw⟩]⟩ -- R536
  | .ETH_ADDRH => ⟨0xC0110, [(0x20, 8)], .shadow, [⟨0, 64, .rw⟩]⟩ -- R536
  | .ETH_GWL => ⟨0xC0200, [(0x10, 8)], .shadow, [⟨0, 64, .rw⟩]⟩ -- R536
  | .ETH_GWH => ⟨0xC0208, [(0x10, 8)], .shadow, [⟨0, 64, .rw⟩]⟩ -- R536
  | .ETH_PORT => ⟨0xD0000, [(0x100, 36)], .shadow, [⟨0, 3, .rw⟩, ⟨3, 1, .rw⟩, ⟨4, 12, .rw⟩, ⟨16, 8, .rw⟩]⟩ -- R536
  | .ETH_PFC => ⟨0xD0008, [(0x100, 36)], .shadow, [⟨0, 16, .rw⟩, ⟨16, 16, .rw⟩]⟩ -- R536
  | .ETH_LSTAT => ⟨0xD0010, [(0x100, 36)], .u, [⟨0, 16, .ro⟩]⟩ -- R536
  | .ETH_RXFRM => ⟨0xD0020, [(0x100, 36)], .u, c32⟩ -- R538
  | .ETH_TXFRM => ⟨0xD0028, [(0x100, 36)], .u, c32⟩ -- R538
  | .ETH_FCSERR => ⟨0xD0030, [(0x100, 36)], .u, c32⟩ -- R538
  | .ETH_FECCW => ⟨0xD0038, [(0x100, 36)], .u, c32⟩ -- R538
  | .ETH_FECUNC => ⟨0xD0040, [(0x100, 36)], .u, c32⟩ -- R538
  | .ETH_RXDROP => ⟨0xD0048, [(0x100, 36)], .u, c32⟩ -- R538
  | .ETH_PFCRX => ⟨0xD0050, [(0x100, 36)], .u, c32⟩ -- R538
  | .ETH_PFCTX => ⟨0xD0058, [(0x100, 36)], .u, c32⟩ -- R538
  | .ETH_LINKDN => ⟨0xD0060, [(0x100, 36)], .u, c32⟩ -- R538
  | .CLU_PWR => ⟨0x100000, [(0x1000, 16)], .shadow, [⟨0, 16, .rw⟩, ⟨16, 1, .rw⟩, ⟨20, 24, .rw⟩]⟩ -- R417
  | .CLU_PSTATE => ⟨0x100008, [(0x1000, 16)], .u, [⟨0, 5, .ro⟩]⟩ -- R417
  | .CLU_SLEEPS => ⟨0x100010, [(0x1000, 16)], .u, c32⟩ -- R417
  | .CLU_OFFS => ⟨0x100018, [(0x1000, 16)], .u, c32⟩ -- R417
  | .CLU_OFFACC => ⟨0x100020, [(0x1000, 16)], .u, c32⟩ -- R457
  | .CLU_MQCFG => ⟨0x100200, [(0x1000, 16)], .shadow, [⟨0, 5, .rw⟩, ⟨5, 1, .rw⟩]⟩ -- R257
  | .CLU_MQOBS => ⟨0x100208, [(0x1000, 16)], .u, c32⟩ -- R257
  | .CLU_MQJOBS => ⟨0x100210, [(0x1000, 16)], .u, c32⟩ -- R257
  | .SYN_MON => ⟨0x120000, [(0x1000, 16)], .u, [⟨0, 26, .ro⟩]⟩ -- R418
  | .SYN_OPS => ⟨0x120100, [(0x1000, 16)], .u, c32⟩ -- R418
  | .SYN_WAITS => ⟨0x120108, [(0x1000, 16)], .u, c32⟩ -- R418
  | .SYN_FIRES => ⟨0x120110, [(0x1000, 16)], .u, c32⟩ -- R418
  | .SYN_MONFULL => ⟨0x120118, [(0x1000, 16)], .u, c32⟩ -- R418
  | .SYN_ERR => ⟨0x120120, [(0x1000, 16)], .u, c32⟩ -- R418
  | .FOR_CFG => ⟨0x140000, [(0x1000, 16)], .shadow, [⟨0, 32, .rw⟩]⟩ -- R415
  | .FOR_LOAD => ⟨0x140008, [(0x1000, 16)], .u, [⟨0, 56, .ro⟩]⟩ -- R415
  | .FOR_DLY => ⟨0x140010, [(0x1000, 16)], .u, [⟨0, 26, .ro⟩, ⟨32, 32, .ro⟩]⟩ -- R415
  | .FOR_WAITMAX => ⟨0x140018, [(0x1000, 16)], .u, [⟨0, 32, .rc⟩]⟩ -- R415
  | .FOR_PICK => ⟨0x140100, [(0x1000, 16)], .u, c32⟩ -- R416
  | .FOR_AFF => ⟨0x140108, [(0x1000, 16)], .u, c32⟩ -- R416
  | .FOR_URG => ⟨0x140110, [(0x1000, 16)], .u, c32⟩ -- R416
  | .FOR_DLFIRE => ⟨0x140118, [(0x1000, 16)], .u, c32⟩ -- R416
  | .FOR_WDOG => ⟨0x140120, [(0x1000, 16)], .u, c32⟩ -- R416
  | .FOR_TOKERR => ⟨0x140128, [(0x1000, 16)], .u, c32⟩ -- R416
  | .FOR_DECLERR => ⟨0x140130, [(0x1000, 16)], .u, c32⟩ -- R416
  | .FOR_SLOTFULL => ⟨0x140138, [(0x1000, 16)], .u, c32⟩ -- R416
  | .FOR_WAITSUM => ⟨0x140140, [(0x1000, 16)], .u, c32⟩ -- R416
  | .FOR_WTMO => ⟨0x150000, [(8, 64)], .shadow, [⟨0, 24, .rw⟩]⟩ -- R415
  | .QFE_CTL => ⟨0x180000, [(0x40000, 2)], .p, [⟨0, 1, .rw⟩, ⟨1, 1, .rw⟩, ⟨2, 1, .rw⟩]⟩ -- R117
  | .QFE_UDP => ⟨0x180008, [(0x40000, 2)], .shadow, [⟨0, 16, .rw⟩, ⟨16, 16, .rw⟩]⟩ -- R117
  | .QFE_RASM => ⟨0x180010, [(0x40000, 2)], .shadow, [⟨0, 32, .rw⟩, ⟨32, 16, .rw⟩]⟩ -- R117
  | .QFE_STATE => ⟨0x180018, [(0x40000, 2)], .u, ro64⟩ -- R118
  | .QFE_RXDG => ⟨0x180100, [(0x40000, 2)], .u, c32⟩ -- R118
  | .QFE_DROP_FMT => ⟨0x180108, [(0x40000, 2)], .u, c32⟩ -- R118
  | .QFE_DROP_CRC => ⟨0x180110, [(0x40000, 2)], .u, c32⟩ -- R118
  | .QFE_DROP_DUP => ⟨0x180118, [(0x40000, 2)], .u, c32⟩ -- R118
  | .QFE_DROP_STALE => ⟨0x180120, [(0x40000, 2)], .u, c32⟩ -- R118
  | .QFE_DROP_OFF => ⟨0x180128, [(0x40000, 2)], .u, c32⟩ -- R118
  | .QFE_RASM_EXP => ⟨0x180130, [(0x40000, 2)], .u, c32⟩ -- R118
  | .QFE_CLAMP => ⟨0x180138, [(0x40000, 2)], .u, c32⟩ -- R118
  | .QFE_TXFAIL => ⟨0x180140, [(0x40000, 2)], .u, c32⟩ -- R118
  | .QFE_CLSA => ⟨0x190000, [(0x40000, 2), (0x10, 256)], .u, ro64⟩ -- R118
  | .QFE_CLSB => ⟨0x190008, [(0x40000, 2), (0x10, 256)], .u, ro64⟩ -- R118
  | .QFE_HIST => ⟨0x1A0000, [(0x40000, 2), (8, 16384)], .u, ro64⟩ -- R118
  | .UPD_STATE => ⟨0x200000, [], .u, [⟨0, 32, .ro⟩, ⟨48, 16, .ro⟩]⟩ -- R371
  | .UPD_GAREA => ⟨0x200008, [], .shadow, [⟨0, 32, .rw⟩, ⟨32, 10, .rw⟩]⟩ -- R371
  | .UPD_MERGE => ⟨0x200100, [], .u, c32⟩ -- R372
  | .UPD_MSTEP => ⟨0x200108, [], .u, c32⟩ -- R372
  | .UPD_GFULL => ⟨0x200110, [], .u, c32⟩ -- R372
  | .UPD_ROWS => ⟨0x200118, [], .u, c32⟩ -- R372
  | .UPD_FROZEN => ⟨0x200120, [], .u, c32⟩ -- R372
  | .UPD_PART_OK => ⟨0x200128, [], .u, c32⟩ -- R372
  | .UPD_PART_STEP => ⟨0x200130, [], .u, c32⟩ -- R372
  | .UPD_PART_FAIL => ⟨0x200138, [], .u, c32⟩ -- R372
  | .UPD_LAYERS => ⟨0x200140, [], .u, c32⟩ -- R372
  | .UPD_TSTEP => ⟨0x210000, [(8, 4096)], .u, ro64⟩ -- R371
  | .UPD_LSTEP => ⟨0x220000, [(8, 1024)], .u, ro64⟩ -- R371
  | .UPD_TBIND => ⟨0x230000, [(8, 16384)], .p, ro64⟩ -- R371
  | .TBL_STATE => ⟨0x400000, [], .u, [⟨0, 13, .ro⟩, ⟨48, 16, .ro⟩]⟩ -- R154
  | .TBL_DESC => ⟨0x410000, [(8, 32768)], .p, ro64⟩ -- R154
  | .TBL_LKP => ⟨0x500000, [(0x20, 4096)], .u, ro64⟩ -- R154
  | .TBL_DEF => ⟨0x500008, [(0x20, 4096)], .u, ro64⟩ -- R154
  | .TBL_RTY => ⟨0x500010, [(0x20, 4096)], .u, ro64⟩ -- R154
  | .TBL_REP => ⟨0x500018, [(0x20, 4096)], .u, ro64⟩ -- R154
  | .TBL_RHT => ⟨0x400100, [], .shadow, [⟨0, 32, .rw⟩, ⟨32, 4, .rw⟩, ⟨36, 2, .rw⟩]⟩ -- R186
  | .TBL_HOT => ⟨0x400108, [], .shadow, [⟨0, 32, .rw⟩, ⟨32, 10, .rw⟩]⟩ -- R186
  | .TBL_MIG => ⟨0x400110, [], .shadow,
      [⟨0, 2, .rw⟩, ⟨4, 4, .rw⟩, ⟨8, 7, .rw⟩, ⟨20, 20, .rw⟩, ⟨40, 12, .rw⟩, ⟨52, 8, .rw⟩]⟩ -- R186
  | .TBL_MIGT => ⟨0x400118, [], .shadow, [⟨0, 20, .rw⟩, ⟨20, 32, .rw⟩, ⟨52, 4, .rw⟩, ⟨56, 8, .rw⟩]⟩ -- R186
  | .TBL_MIGS => ⟨0x400120, [], .shadow, [⟨0, 8, .rw⟩]⟩ -- R186
  | .TBL_MVSTATE => ⟨0x400128, [], .u, [⟨0, 15, .ro⟩, ⟨16, 19, .ro⟩]⟩ -- R186
  | .TBL_PEER => ⟨0x400180, [(8, 16)], .shadow, [⟨0, 12, .rw⟩, ⟨12, 1, .rw⟩]⟩ -- R186
  | .TBL_MV_START => ⟨0x400200, [], .u, c32⟩ -- R188
  | .TBL_MV_DONE => ⟨0x400208, [], .u, c32⟩ -- R188
  | .TBL_MV_ABORT => ⟨0x400210, [], .u, c32⟩ -- R188
  | .TBL_MV_FWD => ⟨0x400218, [], .u, c32⟩ -- R188
  | .TBL_MV_STRAY => ⟨0x400220, [], .u, c32⟩ -- R188
  | .TBL_MV_QFULL => ⟨0x400228, [], .u, c32⟩ -- R188
  | .TBL_MV_SKIP => ⟨0x400230, [], .u, c32⟩ -- R188
  | .TBL_HOT_FULL => ⟨0x400238, [], .u, c32⟩ -- R188
  | .TBL_RENT_FULL => ⟨0x400240, [], .u, c32⟩ -- R188
  | .TBL_REDIR => ⟨0x400248, [], .u, c32⟩ -- R188
  | .TBL_SHB => ⟨0x540000, [(8, 4096)], .shadow, [⟨0, 20, .rw⟩, ⟨20, 17, .rw⟩]⟩ -- R186
  | .TBL_GDESC => ⟨0x560000, [(8, 2048)], .p, ro64⟩ -- R312, R336
  | .TBL_GBIND => ⟨0x570000, [(8, 256)], .u, ro64⟩ -- R312, R336
  | .CORE_BADIDX => ⟨0x800200, [(0x1000, 128)], .u, c32⟩ -- R72
  | .CORE_TILEERR => ⟨0x800208, [(0x1000, 128)], .u, c32⟩ -- R72
  | .CORE_POISONIN => ⟨0x800210, [(0x1000, 128)], .u, c32⟩ -- R72
  | .CORE_GE_LKP => ⟨0x800300, [(0x1000, 128)], .u, c32⟩ -- R155
  | .CORE_GE_REQ => ⟨0x800308, [(0x1000, 128)], .u, c32⟩ -- R155
  | .CORE_GE_COAL => ⟨0x800310, [(0x1000, 128)], .u, c32⟩ -- R155
  | .CORE_GE_RETRY => ⟨0x800318, [(0x1000, 128)], .u, c32⟩ -- R155
  | .CORE_GE_SHADOW => ⟨0x800320, [(0x1000, 128)], .u, c32⟩ -- R155
  | .CORE_GE_BUSY => ⟨0x800328, [(0x1000, 128)], .u, c32⟩ -- R155
  | .CORE_GE_DEFPAD => ⟨0x800330, [(0x1000, 128)], .u, c32⟩ -- R155
  | .CORE_GE_DEFRNG => ⟨0x800338, [(0x1000, 128)], .u, c32⟩ -- R155
  | .CORE_GE_DEFMISS => ⟨0x800340, [(0x1000, 128)], .u, c32⟩ -- R155
  | .CORE_GE_FULL => ⟨0x800348, [(0x1000, 128)], .u, c32⟩ -- R155
  | .CORE_ACCFLAGS => ⟨0x800400, [(0x1000, 128)], .u, ro64⟩ -- R226
  | .CORE_ACCTYPE => ⟨0x800408, [(0x1000, 128)], .u, [⟨0, 32, .ro⟩]⟩ -- R226
  | .CORE_LFSR => ⟨0x800410, [(0x1000, 128)], .u, [⟨0, 32, .ro⟩]⟩ -- R226
  | .CORE_MEQ => ⟨0x800418, [(0x1000, 128)], .u, [⟨0, 6, .ro⟩]⟩ -- R226
  | .CORE_ME_INSN => ⟨0x800420, [(0x1000, 128)], .u, c32⟩ -- R226
  | .CORE_ME_BUSY => ⟨0x800428, [(0x1000, 128)], .u, c32⟩ -- R226
  | .CORE_ME_SAT => ⟨0x800430, [(0x1000, 128)], .u, c32⟩ -- R226
  | .CORE_ME_CVTSAT => ⟨0x800438, [(0x1000, 128)], .u, c32⟩ -- R226
  | .CORE_ME_ACCERR => ⟨0x800440, [(0x1000, 128)], .u, c32⟩ -- R226
  | .CORE_ME_ERR => ⟨0x800448, [(0x1000, 128)], .u, c32⟩ -- R226
  | .CORE_SPCFG => ⟨0x800500, [(0x1000, 128)], .u, [⟨0, 8, .rw⟩, ⟨8, 8, .rw⟩, ⟨16, 8, .rw⟩, ⟨24, 3, .rw⟩]⟩ -- R256
  | .CORE_SP_INSN => ⟨0x800508, [(0x1000, 128)], .u, c32⟩ -- R256
  | .CORE_SP_EXP => ⟨0x800510, [(0x1000, 128)], .u, c32⟩ -- R256
  | .CORE_SP_SEGS => ⟨0x800518, [(0x1000, 128)], .u, c32⟩ -- R256
  | .CORE_SP_LQSTALL => ⟨0x800520, [(0x1000, 128)], .u, c32⟩ -- R256
  | .CORE_CH_TILES => ⟨0x800528, [(0x1000, 128)], .u, c32⟩ -- R256
  | .CORE_CH_CSR => ⟨0x800530, [(0x1000, 128)], .u, c32⟩ -- R256
  | .CORE_CH_BCSR => ⟨0x800538, [(0x1000, 128)], .u, c32⟩ -- R256
  | .CORE_CH_ZERO => ⟨0x800540, [(0x1000, 128)], .u, c32⟩ -- R256
  | .CORE_CH_NOPAY => ⟨0x800548, [(0x1000, 128)], .u, c32⟩ -- R256
  | .CORE_CH_BIN => ⟨0x800550, [(0x1000, 128)], .u, c32⟩ -- R256
  | .CORE_CH_BOUT => ⟨0x800558, [(0x1000, 128)], .u, c32⟩ -- R256
  | .CORE_MQ_PRED => ⟨0x800560, [(0x1000, 128)], .u, c32⟩ -- R256
  | .CORE_MQ_ACTIVE => ⟨0x800568, [(0x1000, 128)], .u, c32⟩ -- R256
  | .CORE_MQ_TP => ⟨0x800570, [(0x1000, 128)], .u, c32⟩ -- R256
  | .CORE_MQ_FN => ⟨0x800578, [(0x1000, 128)], .u, c32⟩ -- R256
  | .CORE_MQ_FP => ⟨0x800580, [(0x1000, 128)], .u, c32⟩ -- R256
  | .CORE_MQ_LTP => ⟨0x800588, [(0x1000, 128)], .u, c32⟩ -- R256
  | .CORE_MQ_LFP => ⟨0x800590, [(0x1000, 128)], .u, c32⟩ -- R256
  | .CORE_VEQ => ⟨0x800600, [(0x1000, 128)], .u, [⟨0, 6, .ro⟩]⟩ -- R281
  | .CORE_VE_INSN => ⟨0x800608, [(0x1000, 128)], .u, c32⟩ -- R281
  | .CORE_VE_BUSY => ⟨0x800610, [(0x1000, 128)], .u, c32⟩ -- R281
  | .CORE_VE_SAT => ⟨0x800618, [(0x1000, 128)], .u, c32⟩ -- R281
  | .CORE_VE_FEXC => ⟨0x800620, [(0x1000, 128)], .u, c32⟩ -- R281
  | .CORE_VE_RDERR => ⟨0x800628, [(0x1000, 128)], .u, c32⟩ -- R281
  | .CORE_VE_ERR => ⟨0x800630, [(0x1000, 128)], .u, c32⟩ -- R281
  | .CORE_VE_TKNAN => ⟨0x800638, [(0x1000, 128)], .u, c32⟩ -- R281
  | .CORE_VMASK => ⟨0x800680, [(0x1000, 128), (8, 16)], .u, ro64⟩ -- R281
  | .CORE_RING => ⟨0x800700, [(0x1000, 128), (8, 2)], .u, [⟨0, 23, .ro⟩]⟩ -- R311
  | .CORE_SECMD => ⟨0x800710, [(0x1000, 128)], .u, [⟨0, 8, .ro⟩]⟩ -- R311
  | .CORE_ST => ⟨0x800720, [(0x1000, 128), (8, 8)], .u, c32⟩ -- R311
  | .CORE_SE_TILES => ⟨0x800760, [(0x1000, 128)], .u, c32⟩ -- R311
  | .CORE_SE_BYTES => ⟨0x800768, [(0x1000, 128)], .u, c32⟩ -- R311
  | .CORE_SE_REFILL => ⟨0x800770, [(0x1000, 128)], .u, c32⟩ -- R311
  | .CORE_SE_BADSLOT => ⟨0x800778, [(0x1000, 128)], .u, c32⟩ -- R311
  | .CORE_SE_ERR => ⟨0x800780, [(0x1000, 128)], .u, c32⟩ -- R311
  | .CORE_GR_SEEDS => ⟨0x800800, [(0x1000, 128)], .u, c32⟩ -- R337
  | .CORE_GR_ENTRIES => ⟨0x800808, [(0x1000, 128)], .u, c32⟩ -- R337
  | .CORE_GR_CHUNKS => ⟨0x800810, [(0x1000, 128)], .u, c32⟩ -- R337
  | .CORE_GR_PADCH => ⟨0x800818, [(0x1000, 128)], .u, c32⟩ -- R337
  | .CORE_GR_TRUNC => ⟨0x800820, [(0x1000, 128)], .u, c32⟩ -- R337
  | .CORE_GR_HUB => ⟨0x800828, [(0x1000, 128)], .u, c32⟩ -- R337
  | .CORE_GR_BADADJ => ⟨0x800830, [(0x1000, 128)], .u, c32⟩ -- R337
  | .CORE_SQ_RUN => ⟨0x800900, [(0x1000, 128)], .u, c32⟩ -- R419
  | .CORE_SQ_IDLE => ⟨0x800908, [(0x1000, 128)], .u, c32⟩ -- R419
  | .CORE_SQ_ISSUE => ⟨0x800910, [(0x1000, 128)], .u, c32⟩ -- R419
  | .CORE_SQ_TRAP => ⟨0x800918, [(0x1000, 128)], .u, c32⟩ -- R419
  | .CORE_L1CFG => ⟨0x800A00, [(0x1000, 128)], .u, [⟨0, 1, .rw⟩, ⟨1, 3, .rw⟩]⟩ -- R456
  | .CORE_L1_HIT => ⟨0x800A08, [(0x1000, 128)], .u, c32⟩ -- R456
  | .CORE_L1_MISS => ⟨0x800A10, [(0x1000, 128)], .u, c32⟩ -- R456
  | .CORE_L1_PF => ⟨0x800A18, [(0x1000, 128)], .u, c32⟩ -- R456
  | .CORE_L1_PFUSE => ⟨0x800A20, [(0x1000, 128)], .u, c32⟩ -- R456
  | .CORE_L1_PFDROP => ⟨0x800A28, [(0x1000, 128)], .u, c32⟩ -- R456
  | .CORE_L1_PERR => ⟨0x800A30, [(0x1000, 128)], .u, c32⟩ -- R456
  | .CORE_MB_FULL => ⟨0x800A38, [(0x1000, 128)], .u, c32⟩ -- R456
  | .CORE_MB_PERR => ⟨0x800A40, [(0x1000, 128)], .u, c32⟩ -- R456
  | .CORE_CLM_ERR => ⟨0x800A48, [(0x1000, 128)], .u, c32⟩ -- R456
  | .CORE_ATOM_ADDR => ⟨0x800B00, [(0x1000, 128)], .u, [⟨0, 56, .rw⟩]⟩ -- R456
  | .CORE_ATOM_ARG => ⟨0x800B08, [(0x1000, 128)], .u, [⟨0, 64, .rw⟩]⟩ -- R456
  | .CORE_ATOM_ARG2 => ⟨0x800B10, [(0x1000, 128)], .u, [⟨0, 64, .rw⟩]⟩ -- R456
  | .CORE_ATOM_CTL => ⟨0x800B18, [(0x1000, 128)], .u, [⟨0, 8, .wo⟩, ⟨8, 2, .wo⟩, ⟨16, 11, .wo⟩]⟩ -- R456
  | .CORE_ATOM_RES => ⟨0x800B20, [(0x1000, 128)], .u, ro64⟩ -- R456
  | .CORE_FLT => ⟨0x800C00, [(0x1000, 128)], .u, c32⟩ -- R630
  | .CORE_RECOMP => ⟨0x800C08, [(0x1000, 128)], .u, c32⟩ -- R630
  | .CORE_KWDOG => ⟨0x800C10, [(0x1000, 128)], .u, c32⟩ -- R630

/-- Every register of the map. -/
def Reg.all : List Reg := [
  .CAP_PART, .CAP_COUNTS, .CAP_CORE0, .CAP_CORE1, .CAP_CLU, .CAP_SLICE, .CAP_MEM, .CAP_PORT, .CAP_BUILT,
  .UND_STATE, .UND_CTL, .UND_LINKCFG, .UND_PROGSTORE, .UND_CFGFAIL, .UND_BOOTT, .UND_BOOTS, .UND_RCVS, .UND_FLTCFG,
  .UND_SCRUB, .UND_MRECCTL, .UND_MREC, .UND_EVFLAG, .UND_EVSTAT, .UND_EVREC, .SEC_FUSE, .SEC_BUILD, .SEC_MEAS7,
  .SEC_SPDM, .TEL_REGERR, .TEL_JTAGDENY, .TEL_EVC, .TEL_TEMP, .TEL_PWR, .TEL_PCAP, .TEL_PCAPST, .TEL_PCAPSTEP,
  .TEL_PCAPWIN, .TEL_HLATCH, .TEL_HSNAP, .TEL_MGCTL, .TEL_MGRES, .TEL_MTG_CTL, .TEL_MTG_CH, .TEL_MTG_RANGE,
  .TEL_MTG_RES, .TEL_MTG_ERR, .TEL_MTG_ERRADDR, .TEL_PTG_CTL, .TEL_PTG_FRM, .TEL_PTG_RES, .CXL_CMDBASE, .CXL_EPOCH,
  .CXL_CMTCFG, .CXL_STAT, .CXL_LINK, .CXL_CTX, .CXL_HDMMAP, .CXL_CMDS, .CXL_REFUSED, .CXL_ARMS_PRE, .CXL_MSIX,
  .MEM_HBMPRES, .MEM_LPDPRES, .MEM_CAPB, .MEM_ERRCFG, .MEM_SRCPART, .MEM_STATE, .MEM_PART, .MEM_CTXPART,
  .MEM_PBYTES, .MEM_PCAPW, .MEM_RGN, .MEM_RGNM, .CAN_MODE, .CAN_PRESENT, .CAN_STATE, .CAN_ACTIVE, .CAN_REHOME,
  .CAN_HIT, .CAN_WB, .CAN_OFFER, .CAN_ATOM, .CAN_PERR, .CAN_WAIT, .CAN_DISC, .HBM_THR, .HBM_STAT, .HBM_CE, .HBM_UE,
  .HBM_PRD, .HBM_BANKQ, .HBM_TSTEP, .HBM_BYTES, .HBM_PCERR, .LPD_STAT, .LPD_CE, .LPD_UE, .LPD_PRD, .LPD_BANKQ,
  .LPD_BYTES, .LPD_CHERR, .SFX_CFG, .SFX_ID, .SFX_IDENT, .SFX_INC, .SFX_DOM, .SFX_MGRL, .SFX_MGRH, .SFX_RT,
  .SFX_IDTAB, .SFX_TMO, .SFX_CC, .SFX_STATE, .SFX_TXPKT, .SFX_RXPKT, .SFX_RETX, .SFX_RTO, .SFX_DUP, .SFX_CE,
  .SFX_RXBAD, .SFX_ORDDROP, .SFX_RESET, .SFX_LOST, .SFX_LOSTPOST, .SFX_MONFREE, .SFX_IDCONF, .ETH_MACBASE,
  .ETH_DSCPMAP, .ETH_ADDRC, .ETH_ADDRL, .ETH_ADDRH, .ETH_GWL, .ETH_GWH, .ETH_PORT, .ETH_PFC, .ETH_LSTAT,
  .ETH_RXFRM, .ETH_TXFRM, .ETH_FCSERR, .ETH_FECCW, .ETH_FECUNC, .ETH_RXDROP, .ETH_PFCRX, .ETH_PFCTX, .ETH_LINKDN,
  .CLU_PWR, .CLU_PSTATE, .CLU_SLEEPS, .CLU_OFFS, .CLU_OFFACC, .CLU_MQCFG, .CLU_MQOBS, .CLU_MQJOBS, .SYN_MON,
  .SYN_OPS, .SYN_WAITS, .SYN_FIRES, .SYN_MONFULL, .SYN_ERR, .FOR_CFG, .FOR_LOAD, .FOR_DLY, .FOR_WAITMAX, .FOR_PICK,
  .FOR_AFF, .FOR_URG, .FOR_DLFIRE, .FOR_WDOG, .FOR_TOKERR, .FOR_DECLERR, .FOR_SLOTFULL, .FOR_WAITSUM, .FOR_WTMO,
  .QFE_CTL, .QFE_UDP, .QFE_RASM, .QFE_STATE, .QFE_RXDG, .QFE_DROP_FMT, .QFE_DROP_CRC, .QFE_DROP_DUP,
  .QFE_DROP_STALE, .QFE_DROP_OFF, .QFE_RASM_EXP, .QFE_CLAMP, .QFE_TXFAIL, .QFE_CLSA, .QFE_CLSB, .QFE_HIST,
  .UPD_STATE, .UPD_GAREA, .UPD_MERGE, .UPD_MSTEP, .UPD_GFULL, .UPD_ROWS, .UPD_FROZEN, .UPD_PART_OK, .UPD_PART_STEP,
  .UPD_PART_FAIL, .UPD_LAYERS, .UPD_TSTEP, .UPD_LSTEP, .UPD_TBIND, .TBL_STATE, .TBL_DESC, .TBL_LKP, .TBL_DEF,
  .TBL_RTY, .TBL_REP, .TBL_RHT, .TBL_HOT, .TBL_MIG, .TBL_MIGT, .TBL_MIGS, .TBL_MVSTATE, .TBL_PEER, .TBL_MV_START,
  .TBL_MV_DONE, .TBL_MV_ABORT, .TBL_MV_FWD, .TBL_MV_STRAY, .TBL_MV_QFULL, .TBL_MV_SKIP, .TBL_HOT_FULL,
  .TBL_RENT_FULL, .TBL_REDIR, .TBL_SHB, .TBL_GDESC, .TBL_GBIND, .CORE_BADIDX, .CORE_TILEERR, .CORE_POISONIN,
  .CORE_GE_LKP, .CORE_GE_REQ, .CORE_GE_COAL, .CORE_GE_RETRY, .CORE_GE_SHADOW, .CORE_GE_BUSY, .CORE_GE_DEFPAD,
  .CORE_GE_DEFRNG, .CORE_GE_DEFMISS, .CORE_GE_FULL, .CORE_ACCFLAGS, .CORE_ACCTYPE, .CORE_LFSR, .CORE_MEQ,
  .CORE_ME_INSN, .CORE_ME_BUSY, .CORE_ME_SAT, .CORE_ME_CVTSAT, .CORE_ME_ACCERR, .CORE_ME_ERR, .CORE_SPCFG,
  .CORE_SP_INSN, .CORE_SP_EXP, .CORE_SP_SEGS, .CORE_SP_LQSTALL, .CORE_CH_TILES, .CORE_CH_CSR, .CORE_CH_BCSR,
  .CORE_CH_ZERO, .CORE_CH_NOPAY, .CORE_CH_BIN, .CORE_CH_BOUT, .CORE_MQ_PRED, .CORE_MQ_ACTIVE, .CORE_MQ_TP,
  .CORE_MQ_FN, .CORE_MQ_FP, .CORE_MQ_LTP, .CORE_MQ_LFP, .CORE_VEQ, .CORE_VE_INSN, .CORE_VE_BUSY, .CORE_VE_SAT,
  .CORE_VE_FEXC, .CORE_VE_RDERR, .CORE_VE_ERR, .CORE_VE_TKNAN, .CORE_VMASK, .CORE_RING, .CORE_SECMD, .CORE_ST,
  .CORE_SE_TILES, .CORE_SE_BYTES, .CORE_SE_REFILL, .CORE_SE_BADSLOT, .CORE_SE_ERR, .CORE_GR_SEEDS,
  .CORE_GR_ENTRIES, .CORE_GR_CHUNKS, .CORE_GR_PADCH, .CORE_GR_TRUNC, .CORE_GR_HUB, .CORE_GR_BADADJ, .CORE_SQ_RUN,
  .CORE_SQ_IDLE, .CORE_SQ_ISSUE, .CORE_SQ_TRAP, .CORE_L1CFG, .CORE_L1_HIT, .CORE_L1_MISS, .CORE_L1_PF,
  .CORE_L1_PFUSE, .CORE_L1_PFDROP, .CORE_L1_PERR, .CORE_MB_FULL, .CORE_MB_PERR, .CORE_CLM_ERR, .CORE_ATOM_ADDR,
  .CORE_ATOM_ARG, .CORE_ATOM_ARG2, .CORE_ATOM_CTL, .CORE_ATOM_RES, .CORE_FLT, .CORE_RECOMP, .CORE_KWDOG]

/-- Offset in a view of one instance of a register: indices outermost first. -/
def dimOff : List (Nat × Nat) → List Nat → Nat
  | (s, _) :: ds, i :: is => i * s + dimOff ds is
  | _, _ => 0

/-- Offset in a view of one instance of a register. -/
def Reg.off (r : Reg) (ix : List Nat := []) : Nat := r.row.base + dimOff r.row.dims ix

/-- The indices of the instance at distance `o` from instance 0, if one starts there. -/
def dimIx : List (Nat × Nat) → Nat → Option (List Nat)
  | [], o => if o = 0 then some [] else none
  | (s, n) :: ds, o => if o / s < n then (dimIx ds (o % s)).map (o / s :: ·) else none

/-- The instance of `r` at offset `o` of a view, if any. -/
def Reg.at? (r : Reg) (o : Nat) : Option (List Nat) :=
  if o < r.row.base then none else dimIx r.row.dims (o - r.row.base)

/-- The register at offset `o` of a view (R12); none where the offset is reserved. -/
def regAt (o : Nat) : Option (Reg × List Nat) :=
  Reg.all.findSome? fun r => (r.at? o).map fun ix => (r, ix)

end Sys2Proof.Machine
end

