-- ==== Sys2Proof/Machine/Types.lean ====
section
/-! DEFINITION. The records that State is made of, family by family. Times are in twelfths of a nanosecond unless a name
ends in Tick (1 µs ticks). -/

namespace Sys2Proof.Machine

/-! ### Units and their presence -/

/-- One set of units of every kind, as bit masks: the map-out record (spec/18 R620), the units present, the units built. -/
structure Units where
  cores : Nat := 0
  clusters : Nat := 0
  slices : Nat := 0
  hbms : Nat := 0
  lpds : Nat := 0
  ports : Nat := 0
  deriving DecidableEq, Repr, Inhabited

/-! ### The Understory (spec/17, spec/18, spec/20) -/

/-- The module states (R569). -/
inductive MSt where
  | off | understory | boot | memtrain | linkup | run | drain | recovery | faultHold
  deriving DecidableEq, Repr, Inhabited

/-- Where a DRAIN leads (R570). -/
inductive DrainTo where
  | pwrEn | shutdown | reboot | recover
  deriving DecidableEq, Repr, Inhabited

/-- One event record (R625). -/
structure EvRec where
  seq : Nat
  tick : Nat
  code : Nat
  sev : Nat
  unit : Nat
  data : Nat
  deriving DecidableEq, Repr, Inhabited

/-- The recovery mailbox and its staged image (R584, R585, R605). -/
structure Rcv where
  window : SMap Byte := []
  staged : SMap Byte := []
  arg : Word := 0
  busy : Nat := 0
  verified : Bool := false
  status : Nat := 0
  deriving DecidableEq, Repr, Inhabited

/-- A sensor (R635, R663): last reading, highest since the last read, whether the last reading was at or above the
shutdown limit, whether its warning stands. -/
structure Sensor where
  temp : Nat := 0
  max : Nat := 0
  hot : Bool := false
  warned : Bool := false
  deriving DecidableEq, Repr, Inhabited

/-- A rail group's power readings in 0.1 W (R636): last samples newest first, peak since the last read. -/
structure Power where
  samples : List Nat := []
  peak : Nat := 0
  deriving DecidableEq, Repr, Inhabited

/-- The I3C target and the sideband of the fabric connectors (spec/20 R651, R653, R659, R660): the dynamic address (0 none), the
offset, the SLOT pins, the connectors whose CPRS_N is low, those whose VAUX_3V3 an overcurrent has cut, the TAP instruction in
force (0 in Test-Logic-Reset). -/
structure Mgmt where
  i3cAddr : Nat := 0
  i3cPtr : Nat := 0
  slot : Nat := 7
  cprs : Nat := 0x1FF
  vauxOff : Nat := 0
  tap : Nat := 0
  deriving DecidableEq, Repr, Inhabited

/-- The always-on domain: what RST_N does not reset (R569-R573, R625, R626). -/
structure Und where
  st : MSt := .off
  rcvCause : Nat := 0
  holdCause : Nat := 0
  source : Nat := 0
  vin : Bool := false
  pwrEn : Bool := false
  rstN : Bool := false
  refclk : Bool := true
  sdclk : Bool := true
  rails : Nat := 0
  now : Nat := 0
  stateAt : Nat := 0
  railAt : Nat := 0
  bootMs : Nat := 0
  trainMs : Nat := 0
  linkMs : Nat := 0
  boots : Nat := 0
  rcvs : Nat := 0
  linkups : Nat := 0
  evSeq : Nat := 0
  evLog : List EvRec := []
  evFlag : Nat := 0
  evMask : Nat := 0xE
  cfgFailAt : Nat := 0
  cfgFailKind : Nat := 0
  drainTo : Option DrainTo := none
  mrecClear : Bool := false
  newOut : Units := {}
  rcv : Rcv := {}
  sensors : SMap Sensor := []
  power : SMap Power := []
  mgmt : Mgmt := {}
  meas : List (List Byte) := []
  imgHdr : List Byte := []
  spdm : Nat := 0
  deriving DecidableEq, Repr, Inhabited

/-- The fuses (R597): what only the entry to RUN changes (R583). `cut0` and `cut1` are the clusters, numbered within their die, that an
NCM-4810 lacks on C0 and C1 (R31). -/
structure Fuse where
  part : Nat := 0x4812
  stepping : Nat := 0xB1
  boardRev : Nat := 0x03
  cut0 : Nat := 0
  cut1 : Nat := 0
  macBase : Nat := 0
  ident : Nat := 0
  svn : Nat := 0
  keyRev : Nat := 0
  keyDigest : List (List Byte) := []
  deriving DecidableEq, Repr, Inhabited

/-- The eight cores of each of a set of clusters (R27). -/
def coresOf (clusters : Nat) : Nat := ((bitList 16 clusters).map fun n => 0xFF * 2 ^ (8 * n)).foldl (· + ·) 0

/-- The units a module was built with (R2, R26, R31): all of them on an NCM-4812; on an NCM-4810 seven clusters of each die, packages 0-7
and 16-23, and ports SP00-SP13 and SP18-SP31. -/
def Fuse.built (f : Fuse) : Units :=
  if f.part = 0x4810 then
    let c := 0xFFFF ^^^ (2 ^ (f.cut0 % 8) + 2 ^ (8 + f.cut1 % 8))
    ⟨coresOf c, c, 2 ^ 64 - 1, 0xFF, 0x00FF00FF, 2 ^ 14 - 1 + (2 ^ 14 - 1) * 2 ^ 18⟩
  else ⟨2 ^ 128 - 1, 0xFFFF, 2 ^ 64 - 1, 0xFF, 2 ^ 32 - 1, 2 ^ 36 - 1⟩

/-- A fabric connector is in use: it carries a port that the module has (R30, R31). -/
def Fuse.conn (f : Fuse) (k : Nat) : Bool := k < 9 && bitsOf f.built.ports (4 * k) 4 != 0

/-- What is not volatile beside the fuses: the boot flash (R575) and the map-out record (R620). -/
structure Nv where
  flash : SMap Byte := []
  flashBusy : Bool := false
  mapOut : Units := {}
  deriving DecidableEq, Repr, Inhabited

/-! ### Memory -/

/-- Memory: bytes by DLA (canonical list, an unlisted address reads 0x00, R589 step 5) and the poison mark of each
64-byte granule (R74). Its DLA keys cover HBM3E, LPDDR5X, Clearings, the CLM and ACM windows and the status window. -/
structure Mem where
  bytes : List Host.Cell := []
  poison : SMap Bool := []
  deriving DecidableEq, Repr, Inhabited

/-- A Canopy line present in its home: whether it is newer than memory (R428); the granules of it that memory holds
uncorrectable behind it, one bit each (R484, R613). -/
structure CanLine where
  here : Bool := false
  dirty : Bool := false
  bad : Nat := 0
  deriving DecidableEq, Repr, Inhabited

/-- Canopy: lines present by line number, and the re-home in progress on each side (R426): none, or the instant it
began. -/
structure Canopy where
  lines : SMap CanLine := []
  rehome0 : Option Nat := none
  rehome1 : Option Nat := none
  deriving DecidableEq, Repr, Inhabited

/-! ### Salrex messages -/

/-- A message as its header and body carry it (spec/15 R519, R521). -/
structure Msg where
  mtype : Nat
  flags : Nat := 0
  olane : Nat := 0
  status : Nat := 0
  lseq : Nat := 0
  tag : Nat := 0
  body : List Byte := []
  deriving DecidableEq, Repr, Inhabited

/-- What leaves the module, in order. -/
inductive Out where
  /-- An Ethernet frame on a sub-port: destination MAC address, EtherType, VID and PCP of its tag (R502), what follows; of an ICMP message
  what follows the IP header. -/
  | frame (port sub dst etype : Nat) (tag : Option (Nat × Nat)) (bytes : List Byte)
  /-- A UDP datagram: port, sub-port, MAC address of its next hop, VID and PCP of its tag, IPv6, source and destination address and UDP
  port, DSCP, ECN field, TTL or hop limit, don't-fragment, UDP checksum, payload (R113, R500, R502, R504). -/
  | dgram (port sub mac : Nat) (tag : Option (Nat × Nat)) (v6 : Bool) (src dst sport dport dscp ecn ttl : Nat) (df : Bool) (sum : Nat)
      (bytes : List Byte)
  /-- A MSI-X message (R550). -/
  | msix (vector : Nat)
  /-- The answer to a host CXL.mem read: data and the poison indication (R543). -/
  | hostData (bytes : List Byte) (poison : Bool)
  /-- The module's Cmp of a host CXL.mem write (R543). -/
  | hostCmp
  /-- A CXL.cache request of a command: slot, host address, bytes to read, bytes to write and their marks (R540). -/
  | cxlCache (slot addr len : Nat) (data : List Byte) (pm : Nat)
  /-- Bytes to the I3C controller (spec/20). -/
  | i3c (bytes : List Byte)
  /-- A DOE answer (R599, R540). -/
  | doe (bytes : List Byte)
  /-- A snoop response: always a miss (R540). -/
  | snoopMiss
  /-- A register read by a sequencer or a load of anything: destination core, register, value. -/
  | loadData (core rd : Nat) (value : Word)
  /-- An interrupt or trap taken by a core into Copse: cause (R385, R387, R397). -/
  | trap (core cause : Nat)
  /-- The level of ALERT_N changed: true is high (R626). -/
  | alert (high : Bool)
  /-- What a sideband, a cable or a traffic generator sends (R642, R643, R653): a code for which, its bytes. -/
  | test (code : Nat) (bytes : List Byte)
  deriving DecidableEq, Repr, Inhabited

/-! ### Jobs, threads, sync objects (spec/12) -/

/-- The states of a thread slot (R394). -/
inductive TSt where
  | free | wait | ready | local_ | running | drain
  deriving DecidableEq, Repr, Inhabited

/-- A thread slot (R381). `arr` holds the ARRIVED bits; `tokSrc` marks operands filled by a WAIT or SEND token (R386);
`watch` is the tick at which its wait expires (R410), `delay` its delay entry (tick, operand) (R399). -/
structure Thread where
  st : TSt := .free
  job : Nat := 0
  o0 : Word := 0
  o1 : Word := 0
  o2 : Word := 0
  o3 : Word := 0
  arr : Nat := 0
  tokSrc : Nat := 0
  need : Nat := 0
  prio : Nat := 0
  last : Option Nat := none
  pin : Option Nat := none
  ctx : Word := 0
  readyAt : Nat := 0
  watch : Option Nat := none
  delay : Option (Nat × Nat) := none
  deriving DecidableEq, Repr, Inhabited

/-- Why a job ends (R397, R611). -/
inductive EndCause where
  | program (code : Nat) | fault | watchdog | deadline | cancel | refusal (code : Nat) | lastExit
  deriving DecidableEq, Repr, Inhabited

/-- Who created a job and is told its status (R395). -/
inductive Creator where
  | query (treeline key : Nat) | slot (slot : Nat) | part (idx : Nat)
  deriving DecidableEq, Repr, Inhabited

/-- A job of a cluster (R395-R400). `deadTick` is its deadline entry; `halted` stops the Forester choosing its threads
(R558); `ending` its ending cause once taken. -/
structure Job where
  live : Bool := false
  ctx : Nat := 0
  prio : Nat := 0
  part : Nat := 0
  serve : Bool := false
  obs : Bool := false
  creator : Creator := .slot 0
  prog : Nat := 0
  entry : Nat := 0
  deadTick : Option Nat := none
  startAt : Nat := 0
  halted : Bool := false
  ending : Option EndCause := none
  poison : Bool := false
  decl : List (Nat × Word) := []
  outReq : Nat := 0
  deriving DecidableEq, Repr, Inhabited

/-- Whom a monitor's token or reply goes to (R402, R407). -/
inductive MonTo where
  | thread (handle k : Nat)
  | stream (core se : Nat)
  | layer (layer bank : Nat)
  | remote (peer tag : Nat)
  deriving DecidableEq, Repr, Inhabited

/-- A monitor, or a WAIT waiting for a free one (R403, R407). -/
structure Mon where
  obj : Nat
  eq : Bool
  val : Word
  dst : MonTo
  at_ : Nat
  deriving DecidableEq, Repr, Inhabited

/-- The sync objects and their units: values, broken objects (R609), monitors in arming order, WAITs without a monitor. -/
structure Sync where
  vals : SMap Word := []
  broken : SMap Bool := []
  mons : List Mon := []
  retry : List Mon := []
  deriving DecidableEq, Repr, Inhabited

/-- A cluster's power state (R411): 0 RUN, 1 SLEEP, 2 OFF, 3 ABSENT; last wake cause; entry to SLEEP; a wake in
progress; the FOR_WTMO words that its Forester has adopted, by context (R410, R415). -/
structure Cluster where
  pst : Nat := 0
  wake : Nat := 0
  sleptAt : Nat := 0
  waking : Bool := false
  wtmo : SMap Nat := []
  deriving DecidableEq, Repr, Inhabited

/-! ### Cores -/

/-- A line of the L1 data cache or the side buffer (spec/13 R442, R448): line number, bytes, the gather command that
brought it (0 none), used since it was filled, whether a write reached its slice since the fill (R429). -/
structure L1Line where
  line : Nat
  data : List Byte
  poison : Nat := 0
  gcmd : Nat := 0
  written : Bool := false
  deriving DecidableEq, Repr, Inhabited

/-- An entry of the merging buffer (R444): block number, mask and bytes, when it opened, the job that wrote it. -/
structure MbEnt where
  block : Nat
  mask : Nat
  data : List Byte
  openAt : Nat
  job : Nat
  deriving DecidableEq, Repr, Inhabited

/-- A stream of load misses the prefetcher tracks (R448). -/
structure PfStream where
  last : Nat
  stride : Int
  hits : Nat
  deriving DecidableEq, Repr, Inhabited

/-- An atomic a core has launched and not completed (R438). -/
structure AtomOp where
  code : Nat
  size : Nat
  n : Nat
  addr : Nat
  a : Nat
  b : Nat
  src : List Byte
  srcPoison : Bool
  job : Nat := 0
  deriving DecidableEq, Repr, Inhabited

/-- A place in an engine queue (R379): the instruction words or the copied record, its tokens, its tags. `bad` is the
status of a record that could not be copied. `started` once the engine works it, `cfg` what it latched at its issue
(R230), `res` its completion word, `area` what it writes, as (DLA, length), `chain` the chain that issued it plus one;
`dead` once its job has ended and only what it has outstanding is waited for. -/
structure QEnt where
  dead : Bool := false
  started : Bool := false
  cfg : Nat := 0
  res : Word := 0
  area : List (Nat × Nat) := []
  chain : Nat := 0
  cmd : Nat := 0
  w0 : Word := 0
  w1 : Word := 0
  rcd : List Byte := []
  off : Nat := 0
  bad : Nat := 0
  tok : Bool := false
  k : Nat := 0
  thr : Nat := 0
  job : Nat := 0
  deriving DecidableEq, Repr, Inhabited

/-- The sequencer, its caches and its atomic registers. `resv` is the reserved line, when LR placed it and whether its
slice still holds back others (R437); `pfOut` the lines of prefetches in flight; `ran` the job of the thread that ran last
(R615). -/
structure Seq where
  x : SMap Word := []
  user : Bool := false
  mcause : Nat := 0
  cur : Option Nat := none
  ran : Option Nat := none
  loc : Option Nat := none
  gated : Option Nat := none
  runAt : Nat := 0
  mAt : Nat := 0
  cycle : Nat := 0
  cycAt : Nat := 0
  stall : Option (Nat × QEnt) := none
  remote : Option Nat := none
  l1 : SMap L1Line := []
  l1s : Nat := 0xACE1
  side : List L1Line := []
  pf : List PfStream := []
  pfOut : List Nat := []
  mb : List MbEnt := []
  resv : Option (Nat × Nat × Bool) := none
  atom : Option AtomOp := none
  atomRes : Word := 0
  ibuf : Bool := false
  deriving DecidableEq, Repr, Inhabited

end Sys2Proof.Machine
end

