-- ==== Sys2Proof/Machine/TypesIo.lean ====
section
/-! DEFINITION. The records of the query front ends, the host port, the fabric and telemetry that State is made of. -/

namespace Sys2Proof.Machine

/-! ### Query front ends (spec/03) -/

/-- The states of a key (R92-R99): fragments still missing; a job; a retry about to start; held until an instant. -/
inductive QSt where
  | open_ | job (id : Nat) | retry | held (until_ : Nat)
  deriving DecidableEq, Repr, Inhabited

/-- A key the front end holds (R99), with what its answer needs (R113). -/
structure Query where
  key : QKey := {}
  st : QSt := .open_
  cls : Nat := 0
  desc : List Byte := []
  total : Nat := 0
  usParam : Nat := 0
  got : List (Nat × Nat) := []
  pgs : List Nat := []
  deadline : Nat := 0
  lastAt : Nat := 0
  rxPort : Nat := 0
  rxSub : Nat := 0
  dstAddr : Nat := 0
  dscp : Nat := 0
  recTag : Nat := 0
  cands : Nat := 0
  sfxTag : Nat := 0
  attempts : Nat := 0
  valid : Bool := false
  deriving DecidableEq, Repr, Inhabited

/-- One query front end: its keys, oldest first by the time each entered the table, and its neighbour-independent state
(R81, R99, R117). Registers are in `Dev.rg`. `classes` is the class table the front end has adopted (R104). -/
structure Qfe where
  ctl : Nat := 0
  keys : List Query := []
  classes : SMap (List Byte) := []
  epoch : Nat := 0
  deriving DecidableEq, Repr, Inhabited

/-! ### Configuration (spec/16 R559-R562) -/

/-- The tables that descriptor and program commands write (R554, R559): an unlisted entry holds no descriptor. -/
structure Tabs where
  cls : SMap (List Byte) := []
  prog : SMap (List Byte) := []
  tbl : SMap (List Byte) := []
  grf : SMap (List Byte) := []
  upr : SMap (List Byte) := []
  bind : SMap (List Byte) := []
  layer : SMap (List Byte) := []
  deriving DecidableEq, Repr, Inhabited

/-- A program placed in the program store (R579, R580): ID, DLA of its code, code and data bytes, entry point, declared
inputs; `old` once a newer one has replaced it. -/
structure Prog where
  id : Nat
  base : Nat
  size : Nat
  entry : Nat
  nInputs : Nat
  kinds : Nat
  old : Bool := false
  deriving DecidableEq, Repr, Inhabited

/-- One copy of the configuration: registers by offset in a view, and the tables. -/
structure Conf where
  reg : SMap Word := []
  tab : Tabs := {}
  deriving DecidableEq, Repr, Inhabited

/-- A COMMIT that units are adopting, or that waits for the one before it: its slot, its context, RELEASE, the snapshot, whether it
has been accepted, and the units that have adopted it (R561, R562). -/
structure Commit where
  slot : Nat
  ctx : Nat
  release : Bool
  conf : Conf
  started : Bool
  done : List CUnit
  deriving DecidableEq, Repr, Inhabited

/-! ### Host port (spec/16) -/

/-- The phases of an accepted command (R557, R558, R564). -/
inductive OpSt where
  | queued | running | suspending (bySlot : Nat) | suspended | covering | final
  deriving DecidableEq, Repr, Inhabited

/-- An accepted command: its copied record, its progress (`done` in the command's own unit, `aux` a second count) and the
job it created (R552, R556). `copc` is the OPC its completion shows: RESUME's own once it has been resumed (R558). `buf` is
what the host has answered of its source, with a mark for each 64 bytes, `bufPm`. -/
structure HOp where
  handle : Nat := 0
  slot : Nat := 0
  seq : Nat := 0
  ctx : Nat := 0
  opc : Nat := 0
  copc : Nat := 0
  irq : Bool := false
  rcd : List Byte := []
  st : OpSt := .queued
  cancelBy : Option Nat := none
  done : Nat := 0
  aux : Nat := 0
  job : Option Nat := none
  held : List Nat := []
  at_ : Nat := 0
  buf : List Byte := []
  bufPm : Nat := 0
  total : Nat := 0
  deriving DecidableEq, Repr, Inhabited

/-- A HDM decoder as the host has set it: enabled, host base, size in bytes (R542). -/
structure Decoder where
  on : Bool := false
  base : Nat := 0
  size : Nat := 0
  deriving DecidableEq, Repr, Inhabited

/-- A CXL.cache request of a command that the host has not answered (R540): slot, host address, length, and whether it
is a write. -/
structure CacheReq where
  slot : Nat
  addr : Nat
  len : Nat
  write : Bool
  deriving DecidableEq, Repr, Inhabited

/-- The host port: last accepted SEQ by slot, accepted operations oldest first, the commit in progress and those waiting
(R561), decoders, the link. -/
structure HostPort where
  lastSeq : SMap Nat := []
  ops : List HOp := []
  commits : List Commit := []
  decs : SMap Decoder := []
  link : Bool := false
  linkReg : Nat := 0
  cacheReqs : List CacheReq := []
  deriving DecidableEq, Repr, Inhabited

/-! ### Salrex and Ethernet (spec/15) -/

/-- A DATA packet kept until it is acknowledged (R511); `sentTo` is the next PSN of its flow when it was last sent. -/
structure Pkt where
  psn : Nat
  msgs : List Msg
  port : Nat
  entropy : Nat
  firstAt : Nat
  lastAt : Nat
  tries : Nat
  sentTo : Nat
  deriving DecidableEq, Repr, Inhabited

/-- The sending side of a flow (R508, R511, R514): next PSN, packets unacknowledged, messages waiting for the window,
window in bytes, congestion estimate, the current window's packets and CE count, LSEQ by lane, the place after the path last used (R512). -/
structure TxFlow where
  next : Nat := 0
  unacked : List Pkt := []
  wait : List Msg := []
  w : Rat := 0
  alpha : Rat := 1
  winEnd : Nat := 0
  winPkts : Nat := 0
  winCe : Nat := 0
  lseq : SMap Nat := []
  turn : Nat := 0
  deriving DecidableEq, Repr, Inhabited

/-- The receiving side of a flow (R509, R510, R516): CUM, PSNs received above it, CE count and packets since the last ACK, when the first
of them arrived, messages delivered by lane, messages waiting in the reorder store, each with its PSN and, 2^32 higher, the Treeline that
stores it. -/
structure RxFlow where
  cum : Nat := 0
  got : List Nat := []
  ce : Nat := 0
  since : Nat := 0
  firstAt : Option Nat := none
  laneDone : SMap Nat := []
  wait : List (Nat × Msg) := []
  deriving DecidableEq, Repr, Inhabited

/-- The STATE of a peer (R532). -/
inductive PSt where
  | unknown | up | lost
  deriving DecidableEq, Repr, Inhabited

/-- A peer module: state, incarnation in use, the four flows (R508, R532). -/
structure Peer where
  st : PSt := .unknown
  inc : Nat := 0
  req : TxFlow := {}
  rsp : TxFlow := {}
  rreq : RxFlow := {}
  rrsp : RxFlow := {}
  deriving DecidableEq, Repr, Inhabited

/-- Who waits for a response (R522). -/
inductive Who where
  | load (core rd size : Nat) (sgn : Bool)
  | store (core : Nat)
  | amo (core rd size : Nat)
  | sc (core rd : Nat)
  | atom (core : Nat)
  | sync (core rd : Nat)
  | posted
  | wait (handle k : Nat)
  | streamWait (core se : Nat)
  | streamLoad (core se ring slot : Nat)
  | streamStore (core se slot : Nat)
  | lookup (core ent : Nat)
  | row (writer : Nat)
  | merge (core item : Nat)
  | gmHdr (core item : Nat)
  | moveWr (move : Nat)
  | part (handle : Nat)
  | partRd (id row piece : Nat)
  | partWr (id : Nat)
  | query (tl : Nat)
  deriving DecidableEq, Repr, Inhabited

/-- A request sent and not answered (R521, R534): its tag, target module, message type, the job it belongs to. -/
structure Outst where
  tag : Nat
  dst : Nat
  mtype : Nat
  op : Nat
  job : Option Nat
  who : Who
  deriving DecidableEq, Repr, Inhabited

/-- A neighbour-cache entry of a Treeline (R501): address, with 2^128 added for IPv6, MAC, last validation. -/
structure Nbr where
  addr : Nat
  mac : Nat
  at_ : Nat
  asked : Bool := false
  deriving DecidableEq, Repr, Inhabited

/-- A port's live state (R497, R503): sub-ports with link, mapped out, whether it is training, NATIVE neighbour and its
MAC, priorities paused per sub-port (bit 8 s + p) and when each pause ends, what waits to be sent on them, receive-buffer bytes per
priority, XOFF sent per sub-port and priority. -/
structure Port where
  up : Nat := 0
  training : Bool := false
  nbr : Nat := 0
  nbrMac : Nat := 0
  paused : Nat := 0
  pauseEnd : SMap Nat := []
  txq : List (Nat × Out) := []
  buf : SMap Nat := []
  xoff : Nat := 0
  deriving DecidableEq, Repr, Inhabited

/-- A directory entry (R529). -/
structure DirEnt where
  module : Nat
  v6 : Bool
  ident : Nat
  addr : Nat
  deriving DecidableEq, Repr, Inhabited

/-- The fabric side of the module. `inbox` holds, by sender, the messages delivered and not yet performed (R516, R517); `penal` the
penalised paths (peer * 16384 + port * 64 + entropy) and the instants their penalties end (R512); `helloN` the hello ticks since
the module took its ID (R525, R528); `hopq` the query answers that wait for the MAC address of their next hop: Treeline, neighbour,
priority, datagram (R500, R501). -/
structure Net where
  inbox : List (Nat × Msg) := []
  id : Option Nat := none
  inc : Nat := 0
  peers : SMap Peer := []
  outst : List Outst := []
  nextTag : Nat := 1
  ports : SMap Port := []
  nbr0 : List Nbr := []
  nbr1 : List Nbr := []
  dir : List DirEnt := []
  given : List (Nat × Nat) := []
  penal : List (Nat × Nat) := []
  helloAt : Nat := 0
  helloN : Nat := 0
  hopq : List (Nat × Nat × Nat × Out) := []
  deriving DecidableEq, Repr, Inhabited

/-! ### External memory (spec/14) -/

/-- Whose read a memory request is: one that only its decoding concerns, that of a request of a gather engine or of this module as home,
that of an adjacency read; or it is the write-back of a line. -/
inductive MBy where
  | plain | row (id : Nat) | adj (core cmd rd : Nat) | wb
  deriving DecidableEq, Repr, Inhabited

/-- A read at a memory controller (R468, R473, R476): its DLA and the place where it is carried out, what its decoding will find (R484:
0 clean, 1 marked, 2 corrected, 3 uncorrectable), its partition and bytes, whose it is, when it arrived, whether the age limit has been
reached. -/
structure MReq where
  id : Nat := 0
  dla : Nat
  cell : Nat
  res : Nat := 0
  part : Nat
  bytes : Nat
  by_ : MBy := .plain
  at_ : Nat := 0
  aged : Bool := false
  deriving DecidableEq, Repr, Inhabited

/-- A place with regulators (R475, R476): guarantee and cap buckets by partition in 1/256 byte; at a controller the reads that wait in
its input queue, in order of arrival, and those issued, each of which holds a miss register of its channel (R471). -/
structure Place where
  guar : SMap Int := []
  cap : SMap Int := []
  reqs : List MReq := []
  miss : List MReq := []
  nextId : Nat := 0
  deriving DecidableEq, Repr, Inhabited

/-- A channel's error window (R485): corrected and uncorrectable errors, whether it has qualified, start. -/
structure Chan where
  ce : Nat := 0
  ue : Nat := 0
  qual : Bool := false
  at_ : Nat := 0
  deriving DecidableEq, Repr, Inhabited

/-- A stack's or package's live state: temperature, throttle level, a map-out in progress. -/
structure MUnit where
  temp : Nat := 0
  level : Nat := 0
  leaving : Bool := false
  deriving DecidableEq, Repr, Inhabited

/-- External memory: units, channels and places by number (stack s is s, package p is 8 + p, slice k is 64 + k), and the end of the last
10 ns of the regulators (R476), from which the wait of a write-back is timed. -/
structure ExtMem where
  clock : Nat := 0
  units : SMap MUnit := []
  chans : SMap Chan := []
  places : SMap Place := []
  deriving DecidableEq, Repr, Inhabited

/-- Fault windows (R617): instants of the core and slice faults within WIN_S, by core, and by 256 + slice. -/
structure FaultWin where
  seen : SMap (List Nat) := []
  deriving DecidableEq, Repr, Inhabited

/-- What is held back: a write, or an atomic request from another module, that waits behind a reservation (R437), at its slice port or at
its controller (R426, R471 to R480); `force` for a write that allocates in a no-allocate region too; a row-merge-add of a gradient merge
into a layer's bank, which is acknowledged and applied in its turn (R339, R435). -/
inductive HeldAcc where
  | store (a : Nat) (bs : List Byte) (poison : Bool) (by_ part : Option Nat) (force : Bool)
  | rma (a : Nat) (xs : List Nat) (poison : Bool) (part : Nat)
  | atom (src tag : Nat) (body : List Byte)
  /-- A raw-view write that waits for an accumulator in use (R224): core, offset in its window, bytes. -/
  | acm (core off : Nat) (bs : List Byte)
  deriving DecidableEq, Repr, Inhabited

/-- Telemetry beside its registers (spec/19, R613): when the margin run and the generators' runs began, by generator; clk used of the
power-cap window, by twice the core plus 1 for the vector engine; whether an instruction waited in it; the patrol scrubber's next place;
the next 0x88B6 sequence number each port's checker expects; the ports whose last generator run was LANE_PRBS, and the bit errors of their
lanes as TEL_PTG_RES_n_1 to _4 show them, by port × 4 (R642, R646, R647). -/
structure Tel where
  mgAt : Nat := 0
  mtgAt : SMap Nat := []
  ptgAt : SMap Nat := []
  capUsed : SMap Nat := []
  capWait : Bool := false
  scrubAt : Nat := 0
  latchAt : Nat := 0
  rxSeq : SMap (Option Nat) := []
  laneRun : Nat := 0
  laneErr : SMap Nat := []
  deriving DecidableEq, Repr, Inhabited

end Sys2Proof.Machine
end

