-- ==== Sys2Proof/Machine/TypesEng.lean ====
section
/-! DEFINITION. The records of the engines of a core that State is made of (spec/04, spec/06 to spec/11). -/

namespace Sys2Proof.Machine

/-! ### Matrix and vector engine -/

/-- An accumulator but for its elements and marks, which lie in the raw view (R200, R203). -/
structure AccSt where
  fp : Bool := false
  rows : Nat := 64
  cols : Nat := 64
  sat : Bool := false
  deriving DecidableEq, Repr, Inhabited

/-- The matrix engine: queue, accumulators, LFSR (R215), audit store (R244), CORE_SPCFG (R256). -/
structure MeEng where
  q : List QEnt := []
  acc : SMap AccSt := []
  lfsr : Nat := 1
  audit : SMap (Option Nat) := []
  spcfg : Nat := 0x66664D
  deriving DecidableEq, Repr, Inhabited

/-- The vector engine: queue, mask registers as of the last MLD or MPFX that retired, and what the one in progress writes (R281). -/
structure VeEng where
  q : List QEnt := []
  vm : SMap Nat := []
  vmNew : Option (Nat × Nat) := none
  deriving DecidableEq, Repr, Inhabited

/-! ### Gather engine (spec/04, spec/10) -/

/-- An edge as chosen at a hop: feature row, weight as a bf16 code, whether it is a digest (R315, R322). -/
structure ChEnt where
  row : Nat
  w : Nat
  dig : Bool
  deriving DecidableEq, Repr, Inhabited

/-- The expansion of one list entry of a neighbour command (R321 to R332). -/
structure SeedX where
  id : Nat := 0
  pad : Bool := false
  novtx : Bool := false
  badadj : Bool := false
  hub : Bool := false
  listed : Bool := false
  trunc : Bool := false
  dig : Bool := false
  segDeg : Nat := 0
  thk : Nat := 0
  hop1 : List ChEnt := []
  hop2 : SMap (List ChEnt) := []
  chosen : Nat := 0
  used : Nat := 0
  poison : Bool := false
  deriving DecidableEq, Repr, Inhabited

/-- What an adjacency read returns (R327): a vertex entry; a Thicket entry of a vertex or of a segment (`seg`); the
edges of a vertex (first edge, count), of a sampled hub, or of a segment. -/
inductive AdjKind where
  | vtx (v : Nat) | thk (h v : Nat) | seg (h k : Nat) | edges (v off n : Nat) | hubEdges (v off deg : Nat)
  | segEdges (off n : Nat)
  deriving DecidableEq, Repr, Inhabited

/-- An adjacency read: place of its seed in the block, hop-1 entry it expands at hop 2, what it reads, the 256-byte slabs that it has
not asked for yet and those for which it holds a tracker entry (R152, R327). -/
structure AdjRd where
  id : Nat
  seed : Nat
  via : Option Nat
  kind : AdjKind
  left : List Nat := []
  own : List Nat := []
  deriving DecidableEq, Repr, Inhabited

/-- A chunk (R323): rows of the block, feature rows by column, entries (row, column, fp32 weight), padding, place of its
first feature lookup. -/
structure Chunk where
  rows : Nat
  cols : List Nat
  es : List (Nat × Nat × Nat)
  pad : Bool
  pos : Nat
  deriving DecidableEq, Repr, Inhabited

/-- A gather or neighbour command, or a GATH or GBMP step or a slot's refill handed over by a stream engine. `op` is OP of
the descriptor; 0x10 a GATH step, 0x11 a GBMP step. `td`, `gd` are the bound descriptors, `want` the lookups the command
itself formed (position, row or address), `rows` the delivered rows that wait to be packed, with twice their marks plus
one when a tracker entry is held, `mark` set once an operand of the command was poisoned, so that all it writes is
marked, `pend` the adjacency reads that wait for a tracker entry, `walked` set once the seeds of the block have been
walked into chunks. -/
structure GCmd where
  id : Nat := 0
  op : Nat := 0
  ent : QEnt := {}
  se : Option Nat := none
  slot : Option Nat := none
  table : Nat := 0
  count : Nat := 0
  idxAddr : Nat := 0
  td : List Byte := []
  gd : List Byte := []
  gen : Nat := 0
  next : Nat := 0
  done : Nat := 0
  nDef : Nat := 0
  nBusy : Nat := 0
  nShd : Nat := 0
  poison : Bool := false
  mark : Bool := false
  want : List (Nat × Nat) := []
  rows : SMap (List Byte × Nat) := []
  outPos : Nat := 0
  blk : Nat := 0
  seeds : List SeedX := []
  reads : List AdjRd := []
  pend : List AdjRd := []
  walked : Bool := false
  posN : Nat := 0
  chunks : List Chunk := []
  nextRd : Nat := 0
  nHub : Nat := 0
  nTrunc : Nat := 0
  nBad : Nat := 0
  neurons : List Nat := []
  deriving DecidableEq, Repr, Inhabited

/-- The gather engine: its queue, whose first places are the commands that have started, and the started commands and
steps in order; when its tracker entries became all busy (R155). -/
structure GeEng where
  q : List QEnt := []
  cmds : List GCmd := []
  nextId : Nat := 1
  fullAt : Option Nat := none
  deriving DecidableEq, Repr, Inhabited

/-! ### Stream engines (spec/09) -/

/-- A ring slot: 0 empty, 1 being filled, 2 filled; published (or to be published once filled); what filled it: 0 LOAD,
1 GBMP, 2 GATH, 3 another producer; how to fill it again; refilled already; being read by an instruction. -/
structure Slot where
  st : Nat := 0
  adv : Bool := false
  kind : Nat := 0
  src : List Nat := []
  refilled : Bool := false
  deriving DecidableEq, Repr, Inhabited

/-- An open loop of an Armature program (R291): level, index of its LOOP, current index, COUNT, STRIDE. -/
structure LoopSt where
  lvl : Nat
  pc : Nat
  i : Nat
  count : Nat
  stride : Int
  deriving DecidableEq, Repr, Inhabited

/-- A transfer of a stream engine (R299): identifier, slot (16 once a later LOAD has replaced it), address, whether a STORE, the bytes
that it has read so far or that it stores, and how far it is: 0 its header is being read, in header batch `batch`; 1 its header is
known and its body waits for room; 2 its body, or the STORE, is outstanding; 3 nothing of it has been asked for. `bad` is set once a
granule that it read was marked. -/
structure Xfer where
  id : Nat
  slot : Nat
  addr : Nat
  store : Bool
  hdr : List Byte := []
  ph : Nat := 2
  batch : Nat := 0
  bad : Bool := false
  deriving DecidableEq, Repr, Inhabited

/-- A ring (R284 to R287, R300). `mode` 0 is not armed. -/
structure Ring where
  mode : Nat := 0
  ended : Bool := false
  chain : Nat := 0
  nslots : Nat := 0
  ahead : Nat := 0
  slot64 : Nat := 0
  trans : Bool := false
  group : Nat := 0
  base : Nat := 0
  prog : List Word := []
  b : List Word := []
  pc : Nat := 0
  loops : List LoopSt := []
  head : Nat := 0
  tail : Nat := 0
  slots : SMap Slot := []
  rearms : List (List Byte) := []
  job : Nat := 0
  deriving DecidableEq, Repr, Inhabited

/-- A fused chain in flight on SE0 (R303): its number, descriptor, queue place, whether the gather was issued and has
completed, next instruction of the ME and VE blocks (over all repetitions), instructions retired, rings armed. -/
structure ChainSt where
  id : Nat
  rcd : List Byte
  ent : QEnt
  geIssued : Bool := false
  geDone : Bool := false
  me : Nat := 0
  ve : Nat := 0
  meDone : Nat := 0
  veDone : Nat := 0
  armed0 : Bool := false
  armed1 : Bool := false
  off0 : Bool := false
  off1 : Bool := false
  deriving DecidableEq, Repr, Inhabited

/-- A stream engine: its queue, ring, transfers, the newest header batch and the LOADs in it (R299), whether its WAIT step has been armed
and met, a DISARM in progress, and on SE0 the chains in flight. -/
structure SeEng where
  q : List QEnt := []
  ring : Ring := {}
  xfers : List Xfer := []
  nextX : Nat := 1
  batch : Nat × Nat := (0, 0)
  waiting : Bool := false
  waitTick : Option Nat := none
  waitDone : Bool := false
  closing : Bool := false
  chains : List ChainSt := []
  nextChain : Nat := 1
  deriving DecidableEq, Repr, Inhabited

/-! ### Merge queue (spec/11) -/

/-- The merge queue: places, and for the descriptor being worked the next entry to send, the outcome of each entry
that has one, by entry number, whether a source was poisoned, and whether the next entry waits for the header of a layer's tile at
another module (R345). -/
structure MqEng where
  q : List QEnt := []
  next : Nat := 0
  outs : SMap (Option Nat) := []
  poison : Bool := false
  hdr : Bool := false
  deriving DecidableEq, Repr, Inhabited

/-- A core (R26): its sequencer, its five other engines, and the stall of each engine in progress, as (cause, since), by
engine: 0 ME, 1 VE, 2 SE0, 3 SE1, 4 GE (R308). -/
structure Core where
  sq : Seq := {}
  me : MeEng := {}
  ve : VeEng := {}
  ge : GeEng := {}
  se0 : SeEng := {}
  se1 : SeEng := {}
  mq : MqEng := {}
  stalls : SMap (Nat × Nat) := []
  deriving DecidableEq, Repr, Inhabited

end Sys2Proof.Machine
end

