-- ==== Sys2Proof/Machine/TypesTab.lean ====
section
/-! DEFINITION. The records of table rows being read, written and moved, of gradient banks and of updates, that State is
made of (spec/04, spec/05, spec/11). -/

namespace Sys2Proof.Machine

/-- Where one row lies (R127, R128, R160): main copy, version word, shadow copy, shadow version word (0 without). -/
structure Loc where
  row : Nat := 0
  ver : Nat := 0
  shd : Nat := 0
  sver : Nat := 0
  deriving DecidableEq, Repr, Inhabited

/-- Who asked for an operation on a row: a REPLACE_ROWS entry, a message, a merge-queue entry, an update part, a lookup,
a queued write that came with a snapshot. -/
inductive RBy where
  | repl (handle i : Nat) | msg (peer tag : Nat) | merge (core i : Nat) | part (id : Nat) | look (core cmd pos : Nat)
  | moveIn
  deriving DecidableEq, Repr, Inhabited

/-- A gradient bank of a row, or of a move's merge buffer (R338, R340): fp32 codes, poison. -/
structure Bank where
  table : Nat
  row : Nat
  par : Nat
  vals : List Nat
  poison : Bool := false
  deriving DecidableEq, Repr, Inhabited

/-- The operation of a row request (R162, R521). -/
inductive RowOp where
  | read
  | write (data : List Byte) (pm : Nat) (force : Bool)
  | merge (step eoff : Nat) (vals : List Nat) (poison : Bool)
  deriving DecidableEq, Repr, Inhabited

/-- A request for a row, with how many redirects it has followed (R178), the tick its wait for gradient space expires (R342, R410),
whether it stood in a move's write queue, whose order is kept (R176), when it reached its home (R167), and whether its wait for gradient
space has been counted (R342). -/
structure RowReq where
  by_ : RBy := .moveIn
  table : Nat := 0
  row : Nat := 0
  op : RowOp := .read
  fwd : Bool := false
  redirects : Nat := 0
  watch : Option Nat := none
  ord : Bool := false
  since : Option Nat := none
  full : Bool := false
  deriving DecidableEq, Repr, Inhabited

/-- A module writer of one row (R132): held by a drain; waiting to claim again at an instant; claimed; written. -/
inductive WSt where
  | held | retry (at_ : Nat) | claimed | aux | written
  deriving DecidableEq, Repr, Inhabited

/-- A writer; `ord` as its request's, `since` when that reached the home (R167), `mark` whether the copy it is writing met an uncorrected
fault, and is marked when it is released (R139). -/
structure Writer where
  id : Nat
  by_ : RBy
  table : Nat
  row : Nat
  loc : Loc
  sh : Bool := false
  ver : Nat := 0
  data : List Byte := []
  pm : Nat := 0
  force : Bool := false
  st : WSt := .held
  fault : Bool := false
  ord : Bool := false
  since : Nat := 0
  mark : Bool := false
  deriving DecidableEq, Repr, Inhabited

/-- A REPLACE_ROWS (R143) or MIGRATE (R174) in progress: indices once read, the data from host memory with its poisoned
granules, next entry to start, rows skipped and faulted, refusals, poisoned index list, entries in progress. -/
structure Repl where
  idx : Option (List Nat) := none
  host : Option (List Byte) := none
  hostPm : Nat := 0
  next : Nat := 0
  skipped : Nat := 0
  faulted : Nat := 0
  refused : Bool := false
  srcPoison : Bool := false
  poison : Bool := false
  waiting : List Nat := []
  deriving DecidableEq, Repr, Inhabited

/-- The phases of a move at the old home (R175, R177). -/
inductive MvSt where
  | wait | moving | snapped (at_ : Nat)
  deriving DecidableEq, Repr, Inhabited

/-- A move at the old home: first row and rows of the batch, whole-shard move, destination module, where it goes, the
destination of a local move, the queued writes taken into the snapshot and those after it, merges after the snapshot,
merge buffers, the MIGRATE that asked for it, the entry image of a shard move; MOVE_TMO_US, LEASE_US, FAB_SHARE and PART at its start
(R187); `marks` the granule marks that left with each row's snapshot (R185). -/
structure Move where
  id : Nat
  table : Nat
  row : Nat
  rows : List Nat
  shard : Bool
  dst : Option Nat
  toHot : Bool
  dest : List Loc := []
  st : MvSt := .wait
  before : List RowReq := []
  after : List RowReq := []
  full : List RowReq := []
  banks : List Bank := []
  seq : Nat := 0
  handle : Option Nat := none
  image : List Byte := []
  tmo : Nat := 0
  lease : Nat := 0
  share : Nat := 0
  part : Nat := 0
  marks : List (Nat × Nat) := []
  deriving DecidableEq, Repr, Inhabited

/-- An incoming move at the new home (R177): where it comes from, rows received with their places and LAST_STEP, how many
rows make the batch, the held requests, whether READY has been sent, the partition that it is charged to (R172, R187). -/
structure Incoming where
  src : Nat
  table : Nat
  row : Nat
  nbatch : Nat
  rows : List (Nat × Loc × Nat)
  hot : Bool
  image : List Byte := []
  held : List RowReq := []
  writes : Nat := 0
  ready : Bool := false
  part : Nat := 0
  deriving DecidableEq, Repr, Inhabited

/-- A row read of a request (R137, R153): its row and place, the lookups that wait for it, attempts failed, whether this
is the shadow attempt, V1 and V2, the data and marks read; `src` is the SOURCE of a default row, which lies at `loc.row`; `since` when the
first of the lookups arrived. -/
structure RowRd where
  row : Nat
  loc : Loc
  lks : List RBy
  att : Nat := 0
  sh : Bool := false
  v1 : Option Nat := none
  v2 : Option Nat := none
  data : List Byte := []
  pm : Nat := 0
  src : Nat := 0
  since : Nat := 0
  deriving DecidableEq, Repr, Inhabited

/-- The phases of a request: version reads out; waiting in a group; data out; second version reads out; backing off;
sent to another module; a default row's read out. -/
inductive RdSt where
  | ver1 | wait (since : Nat) | flight | ver2 | backoff (until_ : Nat) | remote | dflt
  deriving DecidableEq, Repr, Inhabited

/-- A request of a gather engine, or of this module as home (`core` none): one tracker entry, or one for each slab of a
row longer than 256 bytes (R152); `weight` 0 for one that takes none, or has none yet. -/
structure Reader where
  id : Nat
  core : Option Nat
  table : Nat
  slab : Nat
  rows : List RowRd
  st : RdSt
  weight : Nat := 1
  redirects : Nat := 0
  bmp : Bool := false
  deriving DecidableEq, Repr, Inhabited

/-- An update part (R365, R366). `who` is the UPDATE operation or the (peer, tag) that asked for it; `ents` whether it
covers the rows held by row entries; `mask` the clusters; `rows` those still to update; `inProg` those begun; `count` rows
begun in all; `outWr` remote writes of auxiliary state outstanding; `readers` whether a layer's reader count was found zero,
`watch` the tick at which its wait for that expires; `outIdx` the place of its outcome; `mem` the memory partition charged (R363);
`poison` whether it met a poisoned operand (R80); `full` whether its wait for a job has been counted (R416). -/
structure Part where
  id : Nat
  who : Nat ⊕ (Nat × Nat)
  layer : Bool
  target : Nat
  shard : Nat
  ents : Bool := false
  step : Nat
  lr : Nat
  discard : Bool
  mask : Nat
  job : Option Nat := none
  ctx : Nat := 0
  prio : Nat := 0
  started : Bool := false
  rows : List Nat := []
  inProg : List Nat := []
  count : Nat := 0
  outWr : Nat := 0
  fault : Bool := false
  written : Nat := 0
  readers : Bool := false
  watch : Option Nat := none
  outIdx : Nat := 0
  mem : Nat := 0
  poison : Bool := false
  full : Bool := false
  deriving DecidableEq, Repr, Inhabited

/-- An outcome of a shard or layer as it is gathered (R368): statuses of its parts, parts, rows, LAST_STEP, and whether that is the
shard entry's own. -/
structure UOut where
  sts : List Nat := []
  parts : Nat := 0
  rows : Nat := 0
  last : Nat := 0
  own : Bool := false
  deriving DecidableEq, Repr, Inhabited

/-- A shard's load of the window so far, `tail` in ticks (R167), and heavy-hitter entries (table, row, count) of a slice (R168). -/
structure Load where
  lkp : Nat := 0
  upd : Nat := 0
  bytes : Nat := 0
  tail : Nat := 0
  deriving DecidableEq, Repr, Inhabited

structure Hot where
  table : Nat
  row : Nat
  count : Nat
  deriving DecidableEq, Repr, Inhabited

/-- Windows in a row that a row was hot, or cold while away (R169, R170). -/
structure Streak where
  table : Nat
  row : Nat
  hot : Nat
  cold : Nat
  deriving DecidableEq, Repr, Inhabited

/-- Everything the table, move and update units hold beside memory and registers. `rent` gives the slot of each row entry by table · 2^40
+ row; `hotUsed` the hot-area blocks in use as (DLA, length); `closed` the steps closed by running parts, as (table or 4096 + layer,
shard, step); `arriving` the entry image and cursor of each shard that is moving here, by shard entry; `winStart` when the load window
began; `old` the old storage of moved rows as (DLA, length, earliest instant of its release, 0); `stopped` the parts that a suspended
UPDATE has stopped; `auxIn` what came from a shard's home for a row an update reached here: part, row, piece, bytes. -/
structure Tables where
  nextId : Nat := 1
  writers : List Writer := []
  repls : SMap Repl := []
  moves : List Move := []
  incoming : List Incoming := []
  readers : List Reader := []
  rent : SMap (Option Nat) := []
  hotUsed : List (Nat × Nat) := []
  banks : List Bank := []
  gwait : List (RowReq) := []
  parts : List Part := []
  stopped : List Part := []
  uouts : SMap (List UOut) := []
  closed : List (Nat × Nat × Nat) := []
  arriving : SMap (List Byte × Nat) := []
  winStart : Nat := 0
  loads : SMap Load := []
  hot : SMap (List Hot) := []
  streaks : List Streak := []
  lkTot : SMap Nat := []
  peerTot : SMap (List (Nat × Nat)) := []
  window : Nat := 0
  fabTok : Int := 0
  fwdQ : List (Nat × RowReq) := []
  sent : SMap RowReq := []
  old : List (Nat × Nat × Nat × Nat) := []
  auxIn : List (Nat × Nat × Nat × List Byte) := []
  deriving DecidableEq, Repr, Inhabited

end Sys2Proof.Machine
end

