-- ==== Sys2Proof/Machine/State.lean ====
section
/-! DEFINITION. The whole state of the module, the outcomes of a step, and the state after reset. -/

namespace Sys2Proof.Machine

/-- What every reset of the package clears (R570, R571): registers, memories, engines, tables, ports. -/
structure Dev where
  /-- Values of the registers that are not computed from the rest, by offset in a view. -/
  rg : SMap Word := []
  /-- The configuration in force (R559). -/
  conf : Conf := {}
  /-- The shadows (R559). -/
  shad : Conf := {}
  /-- Low 16 bits of the epoch each unit has adopted are taken from these counts, by unit number (R562). -/
  epochs : SMap Nat := []
  /-- The units present (R28, R628). -/
  pres : Units := {}
  mem : Mem := {}
  canopy : Canopy := {}
  ext : ExtMem := {}
  cores : SMap Core := []
  clus : SMap Cluster := []
  threads : SMap Thread := []
  jobs : SMap Job := []
  sync : Sync := {}
  /-- The program store's contents (R580). -/
  progs : List Prog := []
  qfe0 : Qfe := {}
  qfe1 : Qfe := {}
  host : HostPort := {}
  net : Net := {}
  fltWin : FaultWin := {}
  tabs : Tables := {}
  tel : Tel := {}
  /-- Writes and atomics held back behind reservations, at slice ports and controllers, in order of arrival (R437, R476). -/
  held : List HeldAcc := []
  /-- What the detection codes find at the next accesses that no command's operand says it of, in order: an input from outside, like the
  queue of commands; an access that meets the empty list finds nothing (R430, R440, R450; DESIGN CHOICE, log 9). -/
  findings : List Det := []
  /-- Parity errors of slices, as (slice, DLA), whose events are raised when the 10 ns in progress end (R430, log 9). -/
  reports : List (Nat × Nat) := []
  /-- Reservations of cores of other modules, by 128 + 128 · module + core: line, when placed, whether others are held back
  (R437, R522). -/
  far : List (Nat × Nat × Nat × Bool) := []
  /-- The module is in a state in which every job starts in observed mode (R249): BOOT, MEMTRAIN, LINKUP or RECOVERY. -/
  obsState : Bool := false
  /-- How many free values have been used (the model's own counter). -/
  fresh : Nat := 0
  /-- What has left the module, oldest first. -/
  out : List Out := []
  deriving DecidableEq, Repr, Inhabited

/-- The module but for its fuses and its command queue. -/
structure Mach where
  nv : Nv := {}
  und : Und := {}
  dev : Dev := {}
  deriving DecidableEq, Repr, Inhabited

/-- The whole state: the fuses, the rest of the module, and the commands waiting, first in first out. -/
structure State where
  fuse : Fuse := {}
  mach : Mach := {}
  pending : List Instr := []
  deriving DecidableEq, Repr, Inhabited

/-- Why a step stops with a fault. No meaning of this model raises one: every command of the table has an effect. -/
inductive Fault where
  /-- Raised by nothing: the spec gives every event of the block an effect (safe). -/
  | unreachable
  deriving DecidableEq, Repr, Inhabited

/-- Why a step refuses a command. -/
inductive Refusal where
  /-- Raised by an arm of `exec` whose command has no meaning yet (safe: nothing is claimed of it). -/
  | notModelled (mnemonic : String)
  deriving DecidableEq, Repr, Inhabited

/-- The outcome of a command. -/
abbrev Out1 := Host.Outcome State Fault Refusal

/-- The module right after reset: no 54 V input (state OFF, R569), nothing stored, every register at the value of its
Reset column. -/
def State.reset : State := {}

/-- A command whose effect leaves the fuses and the queue alone. -/
def State.run (s : State) (f : Mach → Mach) : Out1 := .next { s with mach := f s.mach }

/-- A command whose effect is on the volatile part alone. -/
def State.runDev (s : State) (f : Dev → Dev) : Out1 :=
  .next { s with mach := { s.mach with dev := f s.mach.dev } }

end Sys2Proof.Machine
end

