-- ==== Sys2Proof/Machine/Ops.lean ====
section
/-! DEFINITION. The named operations over time, registers, counters, events and memory that every family uses. -/

namespace Sys2Proof.Machine

/-! ### Module states -/

/-- CXL.mem requests are served (R574, R622). -/
def MSt.serves : MSt → Bool
  | .linkup | .run | .drain => true
  | _ => false

/-! ### Status codes (spec/00 R22, R668) -/

def sOk : Nat := 0x00
def sPending : Nat := 0x01
def eArg : Nat := 0x10
def eRange : Nat := 0x11
def eAlign : Nat := 0x12
def ePriv : Nat := 0x13
def eBusy : Nat := 0x14
def eStep : Nat := 0x15
def eNonatomic : Nat := 0x16
def eState : Nat := 0x17
def eFault : Nat := 0x20
def eWatchdog : Nat := 0x21
def ePoison : Nat := 0x22
def eDeadline : Nat := 0x23
def eCancelled : Nat := 0x30
def eSuspended : Nat := 0x31

/-- A STATUS that a response carries: one of R22's final codes, else taken for a failure of the operation, E_FAULT (R25, R523; DEDUCED,
log 82). -/
def knownStatus (st : Nat) : Nat :=
  if [sOk, eArg, eRange, eAlign, ePriv, eBusy, eStep, eNonatomic, eState, eFault, eWatchdog, ePoison, eDeadline, eCancelled,
      eSuspended].contains st then st else eFault

/-- The order in which a refusal is chosen when several conditions hold (R668). -/
def refusalOrder : List Nat := [ePriv, eArg, eAlign, eRange, eStep, eState, eNonatomic, eBusy]

/-- The status a list of (condition, status) reports: OK when none holds, else the first in the order of R668. -/
def refusal (cs : List (Bool × Nat)) : Nat :=
  let met := (cs.filter (·.1)).map (·.2)
  ((refusalOrder.filter fun s => met.contains s).head?).getD sOk

/-! ### Time: twelfths of a nanosecond (spec/00 R10) -/

def clkT : Nat := 5
def nsT : Nat := 12
def usT : Nat := 12000
def msT : Nat := 12000000

/-- The 1 µs tick count (R375). -/
def Mach.tick (m : Mach) : Nat := m.und.now / usT

/-- A timer brings time to its instant; it never runs backwards. -/
def Mach.atTime (m : Mach) (t : Nat) : Mach := { m with und := { m.und with now := max m.und.now t } }

/-- The first tick at or after an instant. -/
def tickCeil (t : Nat) : Nat := ceilDiv t usT

def Mach.onDev (m : Mach) (f : Dev → Dev) : Mach := { m with dev := f m.dev }
def Mach.onUnd (m : Mach) (f : Und → Und) : Mach := { m with und := f m.und }

/-- Something leaves the module. -/
def Dev.emit (d : Dev) (o : Out) : Dev := { d with out := d.out ++ [o] }
def Mach.emit (m : Mach) (o : Out) : Mach := m.onDev (·.emit o)

/-- `n` free values used. -/
def Dev.useFree (d : Dev) (n : Nat) : Dev := { d with fresh := d.fresh + n }

/-! ### Registers (spec/00 R12-R20) -/

/-- The stored value of a register. -/
def Dev.rd (d : Dev) (r : Reg) (ix : List Nat := []) : Nat := (SMap.get 0 d.rg (r.off ix)).toNat

/-- A register with a value stored. -/
def Dev.wr (d : Dev) (r : Reg) (ix : List Nat) (v : Nat) : Dev :=
  { d with rg := d.rg.put 0 (r.off ix) (BitVec.ofNat 64 v) }

/-- A 32-bit event counter raised; it wraps (R18, R72). -/
def Dev.bump (d : Dev) (r : Reg) (ix : List Nat := []) (n : Nat := 1) : Dev :=
  d.wr r ix (setBits (d.rd r ix) 0 32 (bitsOf (d.rd r ix) 0 32 + n))

/-- The counter in bits 63:32 of a paired counter raised. -/
def Dev.bumpHi (d : Dev) (r : Reg) (ix : List Nat := []) (n : Nat := 1) : Dev :=
  d.wr r ix (setBits (d.rd r ix) 32 32 (bitsOf (d.rd r ix) 32 32 + n))

/-- A 64-bit counter raised. -/
def Dev.bump64 (d : Dev) (r : Reg) (ix : List Nat := []) (n : Nat := 1) : Dev := d.wr r ix (d.rd r ix + n)

/-- A shadow register's value in force (R559). -/
def Dev.cfg (d : Dev) (r : Reg) (ix : List Nat := []) : Nat := (SMap.get 0 d.conf.reg (r.off ix)).toNat

/-- A field of a shadow register in force. -/
def Dev.cfgF (d : Dev) (r : Reg) (ix : List Nat) (lo len : Nat) : Nat := bitsOf (d.cfg r ix) lo len

/-- An access dropped or refused (R633). -/
def Dev.regErr (d : Dev) : Dev := d.bump .TEL_REGERR

/-- A configuration's value of a shadow register. -/
def Conf.get (c : Conf) (r : Reg) (ix : List Nat := []) : Nat := (SMap.get 0 c.reg (r.off ix)).toNat

/-- A flag of CXL_STAT set and counted (R17, R18, R565). -/
def Dev.cxlFlag (d : Dev) (b : Nat) : Dev :=
  (d.wr .CXL_STAT [] (d.rd .CXL_STAT ||| 2 ^ b)).bump .TEL_EVC [b]

/-! ### Events (spec/18 R625-R627) -/

/-- Whether ALERT_N is high: no masked-in flag is set (R626). -/
def Und.alertHigh (u : Und) : Bool := u.evFlag &&& u.evMask == 0

/-- ALERT_N's level is driven out when it changes. -/
def Mach.alertEdge (old new : Mach) : Mach :=
  if old.und.alertHigh = new.und.alertHigh then new else new.emit (.alert new.und.alertHigh)

/-- An event recorded, its severity flag set and counted (R625, R626). -/
def Mach.event (m : Mach) (code sev unit data : Nat) : Mach :=
  let u := m.und
  let rec_ : EvRec := ⟨u.evSeq + 1, m.tick, code, sev, unit, data⟩
  let m' := { m with
    und := { u with evSeq := u.evSeq + 1, evLog := (rec_ :: u.evLog).take 64, evFlag := u.evFlag ||| 2 ^ sev },
    dev := m.dev.bump .TEL_EVC [8 + sev] }
  m.alertEdge m'

/-- UNIT of an event record (R625). -/
def evUnit (kind num : Nat) : Nat := kind * 2 ^ 24 + num

/-! ### Cores, clusters, threads, jobs -/

def Dev.core (d : Dev) (c : Nat) : Core := SMap.get {} d.cores c
def Dev.setCore (d : Dev) (c : Nat) (k : Core) : Dev := { d with cores := d.cores.put {} c k }
def Dev.modCore (d : Dev) (c : Nat) (f : Core → Core) : Dev := d.setCore c (f (d.core c))
def Dev.modSq (d : Dev) (c : Nat) (f : Seq → Seq) : Dev := d.modCore c fun k => { k with sq := f k.sq }
def Dev.clu (d : Dev) (n : Nat) : Cluster := SMap.get {} d.clus n
def Dev.modClu (d : Dev) (n : Nat) (f : Cluster → Cluster) : Dev := { d with clus := d.clus.mod {} n f }
def Dev.thr (d : Dev) (h : Nat) : Thread := SMap.get {} d.threads h
def Dev.modThr (d : Dev) (h : Nat) (f : Thread → Thread) : Dev := { d with threads := d.threads.mod {} h f }
def Dev.job (d : Dev) (j : Nat) : Job := SMap.get {} d.jobs j
def Dev.modJob (d : Dev) (j : Nat) (f : Job → Job) : Dev := { d with jobs := d.jobs.mod {} j f }
def Dev.qfe (d : Dev) (t : Nat) : Qfe := if t = 0 then d.qfe0 else d.qfe1
def Dev.setQfe (d : Dev) (t : Nat) (q : Qfe) : Dev := if t = 0 then { d with qfe0 := q } else { d with qfe1 := q }
def Dev.onHost (d : Dev) (f : HostPort → HostPort) : Dev := { d with host := f d.host }
def Dev.onNet (d : Dev) (f : Net → Net) : Dev := { d with net := f d.net }
def Dev.onSync (d : Dev) (f : Sync → Sync) : Dev := { d with sync := f d.sync }
def Dev.onExt (d : Dev) (f : ExtMem → ExtMem) : Dev := { d with ext := f d.ext }

/-- The cluster of a core, a thread handle, a job number (R27, R381, R377). -/
def cluOfCore (c : Nat) : Nat := c / 8
def cluOf (h : Nat) : Nat := h / 4096

/-- A unit is present (R28). -/
def Dev.coreHere (d : Dev) (c : Nat) : Bool := bitAt d.pres.cores c
def Dev.cluHere (d : Dev) (n : Nat) : Bool := bitAt d.pres.clusters n

/-- A job marked as having met poison; the core counts the operand (R80). -/
def Dev.poisonIn (d : Dev) (core j : Nat) : Dev :=
  (d.bump .CORE_POISONIN [core]).modJob j fun b => if b.live then { b with poison := true } else b

/-- A job marked as having produced poisoned data (R80). -/
def Dev.poisonOut (d : Dev) (j : Nat) : Dev := d.modJob j fun b => if b.live then { b with poison := true } else b

/-! ### The device-local map (spec/13 R421, R451; spec/14 R461-R464) -/

def hbmSize : Nat := 0x600000000
def lpdBase : Nat := 0x04000000000
def lpdSize : Nat := 0x800000000
def clearBase : Nat := 0x20000000000
def sliceSize : Nat := 0xC00000
def syncBase : Nat := 0x20800000000
def coreWin : Nat := 0x21000000000
def viewP : Nat := 0x30000000000
def viewM : Nat := 0x30800000000
def viewU : Nat := 0x31000000000
def statusWin : Nat := 0x32000000000

/-- Start and size of an external memory unit: stack s is unit s, package p is unit 8 + p (R461). -/
def unitBase (u : Nat) : Nat := if u < 8 then u * hbmSize else lpdBase + (u - 8) * lpdSize
def unitSize (u : Nat) : Nat := if u < 8 then hbmSize else lpdSize

/-- The unit whose range holds a DLA (R461). -/
def unitOf (a : Nat) : Option Nat :=
  if a < 8 * hbmSize then some (a / hbmSize)
  else if lpdBase ≤ a ∧ a < lpdBase + 32 * lpdSize then some (8 + (a - lpdBase) / lpdSize)
  else none

/-- A unit serves requests: present and not leaving (R462, R487). -/
def Dev.unitHere (d : Dev) (u : Nat) : Bool :=
  (if u < 8 then bitAt d.pres.hbms u else bitAt d.pres.lpds (u - 8)) && !(SMap.get {} d.ext.units u).leaving

/-- The fields of a region entry (R463, R492). -/
structure Region where
  kind : Nat
  attr : Nat
  uoff : Nat
  psize : Nat
  units : List Nat
  deriving DecidableEq, Repr, Inhabited

/-- Region n of a configuration, when VALID; units are numbered as `unitBase` does. -/
def Conf.region (c : Conf) (n : Nat) : Option Region :=
  let v := c.get .MEM_RGN [n]
  if bitAt v 0 then
    let kind := bitsOf v 1 1
    some ⟨kind, bitsOf v 2 2, bitsOf v 8 16 * 0x200000, bitsOf v 24 16 * 0x200000,
      (bitList (if kind = 0 then 8 else 32) (c.get .MEM_RGNM [n])).map fun u => if kind = 0 then u else 8 + u⟩
  else none

/-- The regions of a configuration. -/
def Conf.regions (c : Conf) : List Region := (List.range 64).filterMap c.region

/-- A DLA lies in the piece of unit `u` of a region. -/
def Region.holds (r : Region) (u a : Nat) : Bool :=
  r.units.contains u && unitBase u + r.uoff ≤ a && a < unitBase u + r.uoff + r.psize

/-- The region that covers a DLA of unit `u`. -/
def Conf.regionOf (c : Conf) (u a : Nat) : Option Region := c.regions.find? fun r => r.holds u a

/-- The DLA whose access is carried out at place `b` of unit `v` (R464). -/
def Region.unplace (r : Region) (v b : Nat) : Nat :=
  let n := r.units.length
  if n ≤ 1 then b
  else
    let o := b - unitBase v - r.uoff
    let x := (o / 4096 * n + (r.units.filter (· < v)).length) * 4096 + o % 4096
    unitBase (r.units.getD (x / r.psize) v) + r.uoff + x % r.psize

/-- Where an access to DLA `a` of unit `u` is carried out (R464). -/
def Region.place (r : Region) (u a : Nat) : Nat :=
  let n := r.units.length
  if n ≤ 1 then a
  else
    let i := (r.units.filter (· < u)).length
    let x := i * r.psize + (a - unitBase u - r.uoff)
    let g := x / 4096
    unitBase (r.units.getD (g % n) u) + r.uoff + g / n * 4096 + x % 4096

/-- What an address reaches (R451, R461). -/
inductive Tgt where
  | ext (unit addr : Nat) | hole | clearing (slice : Nat) | noClear | syncObj (n off : Nat) | syncHole
  | core (c off : Nat) | view (priv : Bool) (off : Nat) | mirror (off : Nat) | status (off : Nat)
  deriving DecidableEq, Repr, Inhabited

/-- The slice is a Clearing in force (R420, R455): CAN_ACTIVE holds the roles in force. -/
def Dev.isClearing (d : Dev) (k : Nat) : Bool := bitAt d.pres.slices k && bitAt (d.rd .CAN_ACTIVE) k

/-- Where an external DLA of unit `u` is carried out (R464). -/
def Dev.placeOf (d : Dev) (u a : Nat) : Nat := match d.conf.regionOf u a with | some r => r.place u a | none => a

/-- The DLA that is carried out at a place. -/
def Dev.dlaAt (d : Dev) (b : Nat) : Nat :=
  match unitOf b with
  | some v => match d.conf.regionOf v b with | some r => r.unplace v b | none => b
  | none => b

/-- What a DLA reaches; an external address is given where it is carried out, a hole where the unit of that place does not serve: of an
interleaved region what rotates onto a lost unit, and nothing else, is gone (R421, R451, R461, R462, R464, R487). -/
def Dev.target (d : Dev) (a : Nat) : Tgt :=
  match unitOf a with
  | some u =>
    let b := d.placeOf u a
    let v := (unitOf b).getD u
    if d.unitHere v then .ext v b else .hole
  | none =>
    if clearBase ≤ a ∧ a < clearBase + 64 * sliceSize then
      let k := (a - clearBase) / sliceSize
      if d.isClearing k then .clearing k else .noClear
    else if syncBase ≤ a ∧ a < syncBase + 0x800000 then .syncObj ((a - syncBase) / 64) ((a - syncBase) % 64)
    else if syncBase + 0x800000 ≤ a ∧ a < syncBase + 0x1000000 then .syncHole
    else if coreWin ≤ a ∧ a < coreWin + 128 * 0x1000000 then
      let c := (a - coreWin) / 0x1000000
      if d.coreHere c then .core c ((a - coreWin) % 0x1000000) else .hole
    else if viewP ≤ a ∧ a < viewP + 0x1000000 then .view true (a - viewP)
    else if viewM ≤ a ∧ a < viewM + 0x1000000 then .mirror (a - viewM)
    else if viewU ≤ a ∧ a < viewU + 0x1000000 then .view false (a - viewU)
    else if statusWin ≤ a ∧ a < statusWin + 0x40000 then .status (a - statusWin)
    else .hole

/-- The attribute of an external address (R465): 0 CACHE where no region covers it. -/
def Dev.attr (d : Dev) (a : Nat) : Nat :=
  match unitOf a with
  | some u => (d.conf.regionOf u a).elim 0 (·.attr)
  | none => 0

/-- A bit for each of `n` numbers. -/
def maskOf (n : Nat) (f : Nat → Bool) : Nat := ((List.range n).map fun i => if f i then 2 ^ i else 0).foldl (· + ·) 0

/-! ### Bytes and poison marks (spec/02 R74, R79) -/

/-- What a DLA's byte is stored under: its place after interleaving. -/
def Dev.cell (d : Dev) (a : Nat) : Nat := match unitOf a with | some u => d.placeOf u a | none => a

def Mem.byte (m : Mem) (a : Nat) : Byte := SMap.get 0 m.bytes a
def Mem.setByte (m : Mem) (a : Nat) (b : Byte) : Mem := { m with bytes := SMap.put 0 m.bytes a b }
def Mem.marked (m : Mem) (a : Nat) : Bool := SMap.get false m.poison (a / 64)
def Mem.mark (m : Mem) (a : Nat) (p : Bool) : Mem := { m with poison := m.poison.put false (a / 64) p }

/-- One byte of memory. -/
def Dev.byte (d : Dev) (a : Nat) : Byte := d.mem.byte (d.cell a)

/-- `n` bytes of memory from a DLA. -/
def Dev.bytes (d : Dev) (a n : Nat) : List Byte := (List.range n).map fun i => d.byte (a + i)

/-- A little-endian number in memory. -/
def Dev.num (d : Dev) (a n : Nat) : Nat := leNat (d.bytes a n)

/-- The granules that `n` bytes from `a` touch, by their first DLA. -/
def granules (a n : Nat) : List Nat :=
  if n = 0 then [] else (List.range ((a + n - 1) / 64 - a / 64 + 1)).map fun i => (a / 64 + i) * 64

/-- Whether any granule touched is marked (R75). -/
def Dev.poisoned (d : Dev) (a n : Nat) : Bool := (granules a n).any fun g => d.mem.marked (d.cell g)

/-- Bytes written one after another. -/
def Mem.setBytes : Mem → List (Nat × Byte) → Mem
  | m, [] => m
  | m, (a, b) :: r => (m.setByte a b).setBytes r

/-- The mark of one granule after a write that covers `part` of it: a poisoned write marks; a whole clean write clears; a
partial clean write keeps the mark (R77, R79). -/
def Mem.remark (m : Mem) (g : Nat) (whole poison : Bool) : Mem :=
  if poison then m.mark g true else if whole then m.mark g false else m

/-- A write to memory cells: the bytes, and each touched granule's mark. -/
def Dev.poke (d : Dev) (a : Nat) (bs : List Byte) (poison : Bool := false) : Dev :=
  let cells := (bs.zip (List.range bs.length)).map fun p => (d.cell (a + p.2), p.1)
  let mem := d.mem.setBytes cells
  { d with mem := (granules a bs.length).foldl (fun m g =>
      m.remark (d.cell g) (decide (a ≤ g ∧ g + 64 ≤ a + bs.length)) poison) mem }

/-- A line of the L1 caches and side buffers that a write reached at its slice is no longer as filled, and reservations on it are lost
(R429, R437). -/
def Dev.lineWritten (d : Dev) (a n : Nat) : Dev :=
  let lo := a / 128
  let hi := (a + n - 1) / 128
  let touch (l : L1Line) : L1Line := if lo ≤ l.line ∧ l.line ≤ hi then { l with written := true } else l
  { d with
    far := d.far.filter fun p => !(lo ≤ p.2.1 && p.2.1 ≤ hi)
    cores := d.cores.map fun p =>
      let s := p.2.sq
      let r := match s.resv with
        | some (l, _) => if lo ≤ l ∧ l ≤ hi then none else s.resv
        | none => none
      (p.1, { p.2 with sq := { s with l1 := s.l1.map fun q => (q.1, touch q.2), side := s.side.map touch, resv := r } }) }

/-! ### Canopy presence and counts (spec/13 R422, R428, R455) -/

/-- The side of a slice, a unit (R422). -/
def sideOfUnit (u : Nat) : Nat := if u < 8 then u / 4 else (u - 8) / 16

/-- The present cache-mode slices of a side, or of the other when it has none (R422). -/
def Dev.cacheSlices (d : Dev) (side : Nat) : List Nat :=
  let cache (s : Nat) := (List.range 32).filterMap fun i =>
    let k := s * 32 + i
    if bitAt d.pres.slices k && !bitAt (d.rd .CAN_ACTIVE) k then some k else none
  if (cache side).isEmpty then cache (1 - side) else cache side

/-- The cache home of an external line (R422): a free hash over the eligible slices. -/
def Dev.home (d : Dev) (unit addr : Nat) : Option Nat :=
  let ss := d.cacheSlices (sideOfUnit unit)
  if ss.isEmpty then none else ss[Config.homeHash (sideOfUnit unit) (addr / 128) ss.length % ss.length]?

/-- The slice at which an access to a DLA is performed (R431). -/
def Dev.sliceAt (d : Dev) (a : Nat) : Option Nat :=
  match d.target a with
  | .clearing k => some k
  | .ext u b => if d.attr a = 2 then none else d.home u b
  | _ => none

/-! ### Partitions and charges (spec/14 R474 to R476) -/

/-- The partitions of module sources (R474). -/
def Dev.hostPart (d : Dev) : Nat := d.cfgF .MEM_SRCPART [] 0 4
def Dev.fabPart (d : Dev) : Nat := d.cfgF .MEM_SRCPART [] 4 4
def Dev.wbPart (d : Dev) : Nat := d.cfgF .MEM_SRCPART [] 8 4
def Dev.maintPart (d : Dev) : Nat := d.cfgF .MEM_SRCPART [] 12 4

/-- The partition of a job's requests: its class's or its part's own, or the default of its context (R106, R369, R474). -/
def Dev.jobPart (d : Dev) (j : Nat) : Nat :=
  let b := d.job j
  match b.creator with
  | .slot _ => d.cfgF .MEM_CTXPART [b.ctx / 16] (4 * (b.ctx % 16)) 4
  | _ => b.part

/-- The partition of what the thread that runs on a core asks for. -/
def Dev.corePart (d : Dev) (c : Nat) : Nat :=
  match (d.core c).sq.cur with
  | some h => d.jobPart (d.thr h).job
  | none => d.maintPart

/-- Rated bytes per 10 ns of a place: a stack, a package, a slice port (R475). -/
def placeRate (p : Nat) : Nat := if p < 8 then 12288 else if p < 64 then 768 else 2560

def Dev.memPlace (d : Dev) (p : Nat) : Place := SMap.get {} d.ext.places p
def Dev.setPlace (d : Dev) (p : Nat) (x : Place) : Dev := d.onExt fun e => { e with places := e.places.put {} p x }

/-- The cap bucket of a partition at a place admits a request (R476). -/
def Place.admits (x : Place) (part : Nat) : Bool := decide (0 ≤ SMap.get 0 x.cap part)

/-- Bytes of a request charged in both buckets of its partition, in 1/256 bytes (R476). -/
def Dev.charge (d : Dev) (p part n : Nat) : Dev :=
  let x := d.memPlace p
  d.setPlace p { x with
    guar := x.guar.mod 0 part fun v => v - 256 * n
    cap := x.cap.mod 0 part fun v => v - 256 * n }

/-- A request of `n` bytes issued at a unit: counted and charged. -/
def Dev.memBytes (d : Dev) (u part n : Nat) : Dev :=
  let d := if u < 8 then d.bump64 .HBM_BYTES [u] (ceilDiv n 64) else d.bump64 .LPD_BYTES [u - 8] (ceilDiv n 64)
  (d.bump64 .MEM_PBYTES [part] (ceilDiv n 64)).charge u part n

/-- The overlap of [a, a+n) with [b, b+m): start and length. -/
def overlap (a n b m : Nat) : Nat × Nat :=
  let lo := max a b
  let hi := min (a + n) (b + m)
  (lo, hi - lo)

/-- The 128-byte lines that `n` bytes from `a` touch, by their first DLA. -/
def lineAddrs (a n : Nat) : List Nat :=
  if n = 0 then [] else (List.range ((a + n - 1) / 128 - a / 128 + 1)).map fun i => (a / 128 + i) * 128

/-! ### Present ranges (spec/16 R555, spec/14 R462) -/

/-- The part of a range inside unit `u` that a region interleaves. -/
def Region.part (r : Region) (u a n : Nat) : Nat × Nat :=
  if r.units.contains u && decide (1 < r.units.length) then overlap a n (unitBase u + r.uoff) r.psize else (a, 0)

/-- Every granule of a range inside unit `u` reaches a present unit (R462, R464, R487). -/
def Dev.unitRangeOk (d : Dev) (u a n : Nat) : Bool :=
  (d.unitHere u || decide (n ≤ ((d.conf.regions.map fun r => (r.part u a n).2).foldl (· + ·) 0))) && d.conf.regions.all fun r =>
    let o := r.part u a n
    if decide (0 < o.2) then
      (List.range (min r.units.length ((o.1 + o.2 - 1) / 4096 - o.1 / 4096 + 1))).all fun i =>
        match unitOf (r.place u (o.1 + i * 4096)) with | some v => d.unitHere v | none => false
    else true

/-- The parts of a core's window that exist: CLM, raw view, tile view (R203). -/
def winParts : List (Nat × Nat) := [(0, 0x400000), (0x800000, 0x80000), (0xC00000, 0x100000)]

/-- How many bytes of a range lie in the parts of core `c`'s window that exist. -/
def inWindow (a n c : Nat) : Nat :=
  if (overlap a n (coreWin + c * 0x1000000) 0x1000000).2 = 0 then 0
  else (winParts.map fun p => (overlap a n (coreWin + c * 0x1000000 + p.1) p.2).2).foldl (· + ·) 0

/-- Every byte of a range lies in present HBM3E, LPDDR5X, Clearings or core windows, no reserved offset of a window (R203) among
them. -/
def Dev.rangeOk (d : Dev) (a n : Nat) : Bool :=
  let us := (List.range 40).map fun u => (u, overlap a n (unitBase u) (unitSize u))
  let ss := (List.range 64).map fun k => (k, overlap a n (clearBase + k * sliceSize) sliceSize)
  let cs := (List.range 128).map fun c => (c, (0, inWindow a n c))
  let sum (l : List (Nat × (Nat × Nat))) := (l.map fun p => p.2.2).foldl (· + ·) 0
  decide (sum us + sum ss + sum cs = n) &&
  us.all (fun p => p.2.2 == 0 || d.unitRangeOk p.1 p.2.1 p.2.2) &&
  ss.all (fun p => p.2.2 == 0 || d.isClearing p.1) && cs.all fun p => p.2.2 == 0 || d.coreHere p.1

/-- Every byte of a range lies in the Clearing ranges of a role mask. -/
def inClearings (mask a n : Nat) : Bool :=
  decide (clearBase ≤ a ∧ a + n ≤ clearBase + 64 * sliceSize) &&
  (List.range 64).all fun k => (overlap a n (clearBase + k * sliceSize) sliceSize).2 == 0 || bitAt mask k

/-- Every byte of a range lies in present HBM3E. -/
def Dev.inHbm (d : Dev) (a n : Nat) : Bool := decide (a + n ≤ 8 * hbmSize) && d.rangeOk a n

/-! ### Drains (spec/16 R563, R564) -/

/-- A number in a command record. -/
def recNum (bs : List Byte) (o n : Nat) : Nat := leNat ((bs.drop o).take n)

/-- KIND of an accepted DRAIN (R563). -/
def HOp.drainKind (o : HOp) : Nat := recNum o.rcd 32 1

/-- A drain in force, covering or still waiting: a DRAIN operation accepted and not final. -/
def HOp.drainOn (o : HOp) : Bool := o.opc == 0x0102 && o.st != .final

/-- A drain in force over a table, or over any byte of a range (R564). -/
def HOp.drainsTable (o : HOp) (t : Nat) : Bool :=
  o.drainOn && o.drainKind == 1 && recNum o.rcd 34 2 % 4096 == t
def HOp.drainsRange (o : HOp) (a n : Nat) : Bool :=
  o.drainOn && o.drainKind == 0 && (overlap a n (recNum o.rcd 40 8) (recNum o.rcd 48 8)).2 != 0

/-- A new request of the module to a range is held where it is issued (R564). -/
def Dev.heldRange (d : Dev) (a n : Nat) : Bool := d.host.ops.any fun o => o.drainsRange a n

/-- A new gather, writer, update part, merge or move of a table is held before it starts (R564). -/
def Dev.heldTable (d : Dev) (t : Nat) : Bool := d.host.ops.any fun o => o.drainsTable t

/-- A held request counted once in each drain that holds it (R564): `id` names the request. -/
def Dev.holdRange (d : Dev) (a n id : Nat) : Dev :=
  d.onHost fun h => { h with
    ops := h.ops.map fun o =>
      if o.drainsRange a n && !o.held.contains id then { o with held := o.held ++ [id] } else o }
def Dev.holdTable (d : Dev) (t id : Nat) : Dev :=
  d.onHost fun h => { h with
    ops := h.ops.map fun o =>
      if o.drainsTable t && !o.held.contains id then { o with held := o.held ++ [id] } else o }

/-- A range is covered by drains in force after completing OK (R564): each of them covers it whole. -/
def Dev.drained (d : Dev) (a n : Nat) : Bool :=
  d.host.ops.any fun o => o.opc == 0x0102 && o.st == .covering && o.drainKind == 0 &&
    recNum o.rcd 40 8 ≤ a && a + n ≤ recNum o.rcd 40 8 + recNum o.rcd 48 8

/-- A table is covered by a drain in force (R564). -/
def Dev.drainedTable (d : Dev) (t : Nat) : Bool :=
  d.host.ops.any fun o => o.drainsTable t && o.st == .covering

/-! ### Global addresses (spec/01 R33) -/

/-- The module a global address names; none for this module (R33, R522). -/
def Dev.remoteOf (d : Dev) (ga : Nat) : Option Nat :=
  let k := bitsOf ga 44 12
  if k = 0xFFF ∨ d.net.id = some k then none else some k

/-- The DLA of a global address. -/
def dlaOf (ga : Nat) : Nat := ga % 2 ^ 44

end Sys2Proof.Machine
end

