-- ==== Sys2Proof/Machine/CtlOps.lean ====
section
/-! DEFINITION. The memory controllers' input queues and miss registers: which request may issue, what waits and why (spec/14 R458, R460,
R468 to R476, R480). -/

namespace Sys2Proof.Machine

/-! ### Channels of a memory unit (R460, R640) -/

/-- Channels of a unit: 32 pseudo-channels of a stack, 4 channels of a package. -/
def unitChans (u : Nat) : Nat := if u < 8 then 32 else 4

/-- The channel within its unit that holds a 256-byte block: the blocks of an aligned range of as many blocks as the unit has channels take
one channel each, in the order of a free key (R460). -/
def chanOf (u a : Nat) : Nat :=
  let n := unitChans u
  let blk := (a - unitBase u) / 256
  let key (j : Nat) : Nat := Config.channelHash u (blk / n * n + j)
  ((List.range n).filter fun j => key j < key (blk % n) || (key j == key (blk % n) && j < blk % n)).length

/-- A channel's number over the whole module: s × 32 + c, or 256 + p × 4 + c (R627). -/
def chanNum (u c : Nat) : Nat := if u < 8 then u * 32 + c else 256 + (u - 8) * 4 + c

/-- The bank of a place within its unit: its channel and, by a free function, its bank there (R458, R460). -/
def bankOf (u b : Nat) : Nat × Nat :=
  (chanOf u b, Config.bankHash u ((b - unitBase u) / 256) % (if u < 8 then 48 else 16))

/-- Miss registers of a channel, and the quota of one of its banks (R458, R472). -/
def chanRegs (u : Nat) : Nat := if u < 8 then 96 else 32
def bankQuota (u : Nat) : Nat := if u < 8 then 12 else 8

/-! ### What may issue (R471 to R473, R476, R480) -/

/-- Every miss register of the channel of a place is occupied (R471). -/
def Place.chanFull (x : Place) (u b : Nat) : Bool := decide (chanRegs u ≤ (x.miss.filter fun r => chanOf u r.cell == chanOf u b).length)

/-- The bank of a place is at its quota (R472). -/
def Place.bankFull (x : Place) (u b : Nat) : Bool := decide (bankQuota u ≤ (x.miss.filter fun r => bankOf u r.cell == bankOf u b).length)

/-- A stack at level 4 issues nothing but refresh (R479, R480). -/
def Dev.unitFrozen (d : Dev) (u : Nat) : Bool := (SMap.get {} d.ext.units u).level == 4

/-- An older request that waits reaches one of the granules of `q`: accesses to a granule keep their arrival order (R473). -/
def Place.behind (x : Place) (q : MReq) : Bool :=
  x.reqs.any fun r => decide (r.id < q.id) && decide (0 < (overlap r.cell r.bytes q.cell q.bytes).2)

/-- A request may issue at a unit: its stack is not at level 4, its partition's cap bucket is not negative, its channel has a miss register
and its bank is below its quota. -/
def Dev.mayIssue (d : Dev) (u : Nat) (q : MReq) : Bool :=
  let x := d.memPlace u
  !d.unitFrozen u && x.admits q.part && !x.chanFull u q.cell && !x.bankFull u q.cell && !x.behind q

/-- The request that issues next: those whose guarantee bucket is positive first, then the others, oldest first; one that reached
the age limit goes before the younger ones of its bank. -/
def Dev.nextRead (d : Dev) (u : Nat) : Option MReq :=
  let x := d.memPlace u
  let may := x.reqs.filter fun q => d.mayIssue u q
  let first := match may.find? fun q => decide (0 < SMap.get 0 x.guar q.part) with
    | some q => some q
    | none => may.head?
  first.map fun q => ((may.find? fun r => r.aged && decide (r.id < q.id) && bankOf u r.cell == bankOf u q.cell)).getD q

/-- A request issued: it takes a miss register of its channel and is charged; a write-back is written in the same step (R471, R476). -/
def Dev.issueReq (d : Dev) (u : Nat) (q : MReq) : Dev :=
  let x := d.memPlace u
  (d.setPlace u { x with
    reqs := x.reqs.filter fun r => r.id != q.id, miss := if q.by_ = .wb then x.miss else x.miss ++ [q] }).memBytes u q.part q.bytes

/-- A unit issues what waits, as far as it may. -/
def Dev.issueAll (d : Dev) (u : Nat) : Nat → Dev
  | 0 => d
  | n + 1 => match d.nextRead u with | some q => (d.issueReq u q).issueAll u n | none => d
def Dev.pumpUnit (d : Dev) (u : Nat) : Dev := d.issueAll u (d.memPlace u).reqs.length

/-- A request arrives in a controller's input queue. -/
def Dev.queueReq (d : Dev) (now u : Nat) (q : MReq) : Dev :=
  let x := d.memPlace u
  d.setPlace u { x with reqs := x.reqs ++ [{ q with id := x.nextId, at_ := now }], nextId := x.nextId + 1 }

/-! ### Lines that are read for an engine -/

/-- An access of a line is served without its controller: it hits at its slice, or does not lie in external memory (R428). -/
def Dev.lineHit (d : Dev) (a : Nat) : Bool :=
  match d.target a with
  | .ext u b => d.attr a != 2 && (d.home u b).isSome && (SMap.get {} d.canopy.lines (b / 128)).here
  | _ => true

/-- The read of a block of 64, 128 or 256 bytes asked for: its controller queues it, and issues it as soon as it may, where some line of
the block is not in Canopy (R153, R468, R471). -/
def Dev.askBlock (d : Dev) (now part : Nat) (by_ : MBy) (a n : Nat) : Dev :=
  if (lineAddrs a n).all d.lineHit then d
  else match d.target a with
    | .ext u b => (d.queueReq now u { dla := a, cell := b, part := part, bytes := n, by_ := by_ }).pumpUnit u
    | _ => d

/-- Some request of a read still waits at its controller: its data cannot have returned (R471). -/
def Dev.notIssued (d : Dev) (by_ : MBy) : Bool := d.ext.places.any fun p => p.2.reqs.any (·.by_ == by_)

/-- The data of reads has returned, or they are given up: their miss registers are free, and what waited for them issues (R471, R472). -/
def Dev.memFree (d : Dev) (mine : MBy → Bool) : Dev :=
  (d.ext.places.filter fun p => p.2.reqs.any (fun q => mine q.by_) || p.2.miss.any fun q => mine q.by_).foldl (fun d p =>
    let x := d.memPlace p.1
    (d.setPlace p.1 { x with reqs := x.reqs.filter fun q => !mine q.by_, miss := x.miss.filter fun q => !mine q.by_ }).pumpUnit p.1) d
def Dev.memDone (d : Dev) (by_ : MBy) : Dev := d.memFree (· == by_)

/-- Why an access of `part` at place `b` of unit `u` could not issue at once: 5 its stack is at level 4, 3 its bank is at its quota, 4 no
miss register is free, 2 its partition's cap bucket is negative; 0 it could (R471, R472, R476, R480). -/
def Dev.ctlWait (d : Dev) (u b part : Nat) : Nat :=
  let x := d.memPlace u
  if d.unitFrozen u then 5 else if x.bankFull u b then 3 else if x.chanFull u b then 4 else if !x.admits part then 2 else 0

/-! ### Waits (R308, R426, R472, R477) -/

/-- The side of a DLA is re-homing, so its requests are held at the slice ports (R426, R427). -/
def Dev.rehoming (d : Dev) (a : Nat) : Bool :=
  match unitOf a with
  | some u => (if sideOfUnit u = 0 then d.canopy.rehome0 else d.canopy.rehome1).isSome
  | none => false

/-- Requests to a line are held by its side's re-home (R426): it is cacheable. -/
def Dev.sideHeld (d : Dev) (a : Nat) : Bool := d.rehoming a && d.attr a != 2

/-- A request at a controller waits for its bank (R472), or for its partition's cap (R477). -/
def Dev.bankWaits (d : Dev) (u : Nat) : Bool := let x := d.memPlace u; x.reqs.any fun q => x.bankFull u q.cell
def Dev.capWaits (d : Dev) (u part : Nat) : Bool := let x := d.memPlace u; !x.admits part && x.reqs.any fun q => q.part == part

end Sys2Proof.Machine
end

