-- ==== Sys2Proof/Machine/LineOps.lean ====
section
/-! DEFINITION. Accesses at the homes of their lines: sets and ways, lines written back, evicted and discarded, what reads and writes do
there, why they wait, and writes held back (spec/13 R422 to R430, R437; spec/14 R465, R468 to R484). -/

namespace Sys2Proof.Machine

/-! ### What a detection finds (R430, R440, R450) -/

/-- What the detection codes find at an access that no operand says it of, and the inputs left. -/
def Dev.takeFind (d : Dev) : Dev × Det :=
  match d.findings with
  | [] => (d, .none)
  | x :: r => ({ d with findings := r }, x)

/-- A finding is an error of one memory, whether or not the retry meets it again. -/
def detIs (m : Sram) (x : Det) : Bool := x == .once m || x == .twice m

/-- A line or granule of slice `k` marked for a parity error: counted; its event follows (R430). -/
def Dev.sliceErr (d : Dev) (k a : Nat) : Dev := { d.bumpHi .CAN_PERR [k] with reports := d.reports ++ [(k, a)] }

/-- Both granules of the line at a place marked. -/
def Dev.markLine (d : Dev) (b : Nat) : Dev := { d with mem := (d.mem.mark b true).mark (b + 64) true }

/-! ### Lines leaving (R428, R430, R484, R487) -/

/-- A granule whose stored bytes cannot be corrected: they are as read, and marked (R484). -/
def Dev.spoil (d : Dev) (b : Nat) : Dev :=
  let d : Dev := { d with mem := (d.mem.setBytes ((List.range 64).map fun k =>
    (b / 64 * 64 + k, Config.freeByte (d.fresh + k)))).mark b true }
  d.useFree 64

/-- A dirty line written back: counted at its slice, and a write of the write-back partition that its controller queues (R428, R468, R474);
a parity error `x` found on the way marks it (R430, R454). -/
def Dev.wbLine (d : Dev) (b : Nat) (x : Det) : Dev :=
  match unitOf b with
  | none => d
  | some u =>
    let d := match d.home u b with
      | some k =>
        let d := d.bump .CAN_WB [k]
        if detIs .canopy x then (d.markLine (b / 128 * 128)).sliceErr k (d.dlaAt (b / 128 * 128)) else d
      | none => d
    (d.queueReq d.ext.clock u { dla := d.dlaAt b, cell := b, part := d.wbPart, bytes := 128, by_ := .wb }).pumpUnit u
def Dev.writeBack (d : Dev) (b : Nat) : Dev := let f := d.takeFind; f.1.wbLine b f.2

/-- A clean line leaves: what memory holds uncorrectable behind it shows. -/
def Dev.unveil (d : Dev) (l : Nat × CanLine) : Dev :=
  (bitList 2 l.2.bad).foldl (fun d g => d.spoil (l.1 * 128 + g * 64)) d

/-- A line leaves its slice. -/
def Dev.evict (d : Dev) (l : Nat × CanLine) : Dev :=
  let d := if l.2.dirty then d.writeBack (l.1 * 128) else d.unveil l
  { d with canopy := { d.canopy with lines := d.canopy.lines.del l.1 } }

/-- The lines of a set of places written back where dirty, and invalidated. -/
def Dev.flushLines (d : Dev) (p : Nat → Bool) : Dev := (d.canopy.lines.filter fun l => p (l.1 * 128)).foldl Dev.evict d

/-- The lines of a set of places discarded; each dirty one counts at its slice (R487). -/
def Dev.discardLines (d : Dev) (p : Nat → Bool) : Dev :=
  let out := d.canopy.lines.filter fun l => p (l.1 * 128)
  let d := (out.filter fun l => l.2.dirty).foldl (fun d l =>
    match (unitOf (l.1 * 128)).bind fun u => d.home u (l.1 * 128) with
    | some k => d.bump .CAN_DISC [k]
    | none => d) d
  { d with canopy := { d.canopy with lines := d.canopy.lines.filter fun l => !p (l.1 * 128) } }

/-! ### Sets and ways (R428) -/

/-- The slice and the set that hold the line at a place: the set is a free function of the line (R422, R428). -/
def Dev.setOf (d : Dev) (b : Nat) : Option (Nat × Nat) :=
  (unitOf b).bind fun u => (d.home u b).map fun k => (k, Config.setHash (b / 128) % 6144)

/-- The lines of the set of the line at a place. -/
def Dev.waysOf (d : Dev) (b : Nat) : List (Nat × CanLine) := d.canopy.lines.filter fun l => d.setOf (l.1 * 128) == d.setOf b

/-- A way of the line's set is made free: none of the 16 leaves where one is, else one that the slice chooses, a free value (R6, R428). -/
def Dev.makeRoom (d : Dev) (b : Nat) : Dev :=
  let ws := d.waysOf b
  if ws.length < 16 then d
  else match ws[Config.freeNat d.fresh % ws.length]? with | some l => (d.useFree 1).evict l | none => d

/-! ### What an access does (R424, R428, R465, R476) -/

/-- How lines are accessed at their homes: the partition charged (R474); a write; whether a read asks for allocation (R153, R292);
whether it is of a version word, which allocates in a no-allocate region too (R135); whether its data came by a request of its own, which
the controller has charged. -/
structure Access where
  part : Nat
  write : Bool := false
  alloc : Bool := true
  force : Bool := false
  fetched : Bool := false
  deriving DecidableEq, Repr, Inhabited

/-- Bytes of the request that an access of `n` bytes in one line makes at its controller: the granules touched (R468). -/
def reqLen (a n : Nat) : Nat := 64 * (granules a n).length

/-- An access that misses keeps its line: reads that allocate, writes but for no-allocate regions, version words and atomics (R135, R428,
R431, R465). -/
def Access.keeps (x : Access) (attr : Nat) : Bool := x.force || (attr != 1 && (x.write || x.alloc))

/-- What an access of `n` bytes in one 128-byte line does at the line's home: charges at the slice port and, where the line is fetched or no
slice caches it, at the controller; hit and miss counts, the victim, allocation, dirtiness (R424, R428, R476). -/
def Dev.touchLine (d : Dev) (a n : Nat) (x : Access) : Dev :=
  let ask (d : Dev) (u k : Nat) : Dev := if x.fetched then d else d.memBytes u x.part k
  match d.target a with
  | .clearing k => (d.bump .CAN_HIT [k]).charge (64 + k) x.part n
  | .ext u b =>
    if d.attr a = 2 then ask d u (reqLen a n)
    else match d.home u b with
      | none => ask d u (reqLen a n)
      | some k =>
        let l := SMap.get {} d.canopy.lines (b / 128)
        let put (d : Dev) (y : CanLine) : Dev := { d with canopy := { d.canopy with lines := d.canopy.lines.put {} (b / 128) y } }
        let d1 := (if l.here then d.bump .CAN_HIT [k] else d.bumpHi .CAN_HIT [k]).charge (64 + k) x.part n
        if l.here then put d1 ⟨true, l.dirty || x.write, l.bad⟩
        else if x.keeps (d.attr a) then
          put ((if x.write && n == 128 then d1 else ask d1 u 128).makeRoom b) ⟨true, x.write, 0⟩
        else ask d1 u (reqLen a n)
  | _ => d

/-- What an access of `n` bytes does at the homes of its lines (R428). -/
def Dev.touch (d : Dev) (a n : Nat) (x : Access) : Dev :=
  (lineAddrs a n).foldl (fun d l => d.touchLine (overlap a n l 128).1 (overlap a n l 128).2 x) d

/-- The lines of a row-merge-add counted at their slices (R433, R455). -/
def Dev.rmaLines (d : Dev) (a n : Nat) : Dev :=
  (lineAddrs a n).foldl (fun d l => match d.sliceAt l with | some k => d.bumpHi .CAN_ATOM [k] | none => d) d

/-! ### Why an access waits (R426, R437, R471 to R480) -/

/-- A slice holds back writes and atomics to a line of a range, but for those of the core that reserved it (R437). -/
def Dev.lineHeld (d : Dev) (a n : Nat) (but : Option Nat := none) : Bool :=
  let hit (l : Nat) (hold : Bool) (who : Nat) : Bool :=
    hold && a / 128 ≤ l && l ≤ (a + n - 1) / 128 && but != some who
  (d.cores.any fun p => match p.2.sq.resv with | some (l, _, hold) => hit l hold p.1 | none => false) ||
  d.far.any fun p => hit p.2.1 p.2.2.2 p.1

/-- Address and length of what an AT message's body asks for (R431, R521). -/
def atSpan (body : List Byte) : Nat × Nat :=
  let f (o n : Nat) : Nat := leNat ((body.drop o).take n)
  (f 0 8, max 1 (if f 8 1 = 0x10 then 4 * f 10 2 else f 9 1))

/-- A held write or atomic reaches a line of a range. -/
def HeldAcc.hits (h : HeldAcc) (a n : Nat) : Bool :=
  let on (b k : Nat) : Bool := b / 128 ≤ (a + n - 1) / 128 && a / 128 ≤ (b + k - 1) / 128
  match h with
  | .store b bs _ _ _ _ => on b bs.length
  | .rma b xs _ _ => on b (max 1 (4 * xs.length))
  | .atom _ _ body => on (atSpan body).1 (atSpan body).2
  | .acm _ _ _ => false

/-- Accesses to a line keep their order of arrival: a write or atomic to it is held back (R423, R433). -/
def Dev.heldBefore (d : Dev) (a n : Nat) : Bool := d.held.any (·.hits a n)

/-- A core has a write of its own to a range held back: its loads come after it (R445). -/
def Dev.ownHeld (d : Dev) (c a n : Nat) : Bool :=
  d.held.any fun h => h.hits a n && match h with | .store _ _ _ by_ _ _ => by_ == some c | _ => false

/-- The slice port of an access has credit for its partition, or the access passes none (R476). -/
def Dev.portFree (d : Dev) (part a u b : Nat) : Bool :=
  if d.attr a = 2 then true else match d.home u b with | some k => (d.memPlace (64 + k)).admits part | none => true

/-- Why a read of a line by a partition waits: 0 not at all, 1 for its cap at the slice port, 2 for its cap at the controller, 3 for its
bank, 4 for a miss register, 5 for its stack's temperature, 6 for its side that re-homes, 8 for a write before it. A read passes writes
that a reservation holds back (R437). -/
def Dev.lineWait (d : Dev) (part a : Nat) : Nat :=
  if d.sideHeld a then 6
  else if d.heldBefore a 1 && !d.lineHeld a 1 then 8
  else match d.target a with
  | .clearing k => if (d.memPlace (64 + k)).admits part then 0 else 1
  | .ext u b => if !d.portFree part a u b then 1 else if d.lineHit a then 0 else d.ctlWait u b part
  | _ => 0

/-- Why an access of `n` bytes waits: the first of its lines that does. -/
def Dev.readWait (d : Dev) (part a n : Nat) : Nat :=
  (((lineAddrs a n).map fun l => d.lineWait part l).find? (· != 0)).getD 0

/-- Why a read whose data its controller has is still held at the slice ports: for its cap there, its side, or a write before it. -/
def Dev.portWait (d : Dev) (part a n : Nat) : Nat :=
  (((lineAddrs a n).map fun l => d.lineWait part l).find? fun w => w == 1 || w == 6 || w == 8).getD 0

/-- Why a write of `n` bytes in one line waits, by the codes of `lineWait`: 8 also behind a read of its granules that waits at the
controller (R473). -/
def Dev.writeLineWait (d : Dev) (part a n : Nat) (force : Bool) : Nat :=
  if d.sideHeld a then 6
  else match d.target a with
  | .clearing k => if (d.memPlace (64 + k)).admits part then 0 else 1
  | .ext u b =>
    let whole := n == 128 && d.attr a != 2 && (d.home u b).isSome && (force || d.attr a != 1)
    if !d.portFree part a u b then 1
    else if (d.memPlace u).reqs.any fun r => r.by_ != .wb && decide (0 < (overlap r.cell r.bytes (b / 64 * 64) (reqLen a n)).2) then 8
    else if d.lineHit a || whole then 0
    else d.ctlWait u b part
  | _ => 0

/-- Why a write of `n` bytes by a requester waits: 7 behind another's reservation, 8 behind a write before it, or as its lines do. -/
def Dev.writeWait (d : Dev) (part a n : Nat) (by_ : Option Nat := none) (force : Bool := false) : Nat :=
  if d.lineHeld a n by_ then 7
  else if d.heldBefore a n then 8
  else (((lineAddrs a n).map fun l => d.writeLineWait part (overlap a n l 128).1 (overlap a n l 128).2 force).find? (· != 0)).getD 0

/-! ### Writes (R79, R423, R428, R437) -/

/-- A write performed at its slice or controller: data, marks, presence, other copies, charged to a partition, that of module upkeep where
none is named (R474). -/
def Dev.storeNow (d : Dev) (a : Nat) (bs : List Byte) (poison : Bool := false) (part : Option Nat := none) (force : Bool := false) : Dev :=
  ((d.poke a bs poison).touch a bs.length { part := part.getD d.maintPart, write := true, force := force }).lineWritten a bs.length

/-- A write: performed, or held back while it must wait (R437, R471 to R480). -/
def Dev.store (d : Dev) (a : Nat) (bs : List Byte) (poison : Bool := false) (by_ : Option Nat := none) (part : Option Nat := none)
    (force : Bool := false) : Dev :=
  if d.writeWait (part.getD d.maintPart) a bs.length by_ force = 0 then d.storeNow a bs poison part force
  else { d with held := d.held ++ [.store a bs poison by_ part force] }

/-- A write of `n` copies of a byte over a whole range, as the list of its bytes. -/
def Dev.fillZero (d : Dev) (a n : Nat) (part : Option Nat := none) : Dev := d.store a (List.replicate n 0) false none part

end Sys2Proof.Machine
end

