-- ==== Sys2Proof/Machine/FabricOps.lean ====
section
/-! DEFINITION. Sending over Salrex: the route table, addresses and next hops, paths, packets, flows and windows (spec/15 R498-R515, R519, R530). -/

namespace Sys2Proof.Machine

/-- A route-table entry (R530). -/
structure Route where
  flags : Nat
  state : Nat
  inc : Nat
  ports : Nat
  addr : Nat
  deriving DecidableEq, Repr, Inhabited

def Route.valid (r : Route) : Bool := bitAt r.flags 0
def Route.native (r : Route) : Bool := bitAt r.flags 2
def Route.pin (r : Route) : Bool := bitAt r.flags 3

/-- Where module `k`'s route entry lies (R530). -/
def Dev.routeAt (d : Dev) (k : Nat) : Nat := d.cfgF .SFX_RT [] 0 32 * 4096 + k * 32

/-- Module `k`'s route entry. -/
def Dev.route (d : Dev) (k : Nat) : Route :=
  let a := d.routeAt k
  ⟨d.num a 1, d.num (a + 1) 1, d.num (a + 4) 4, d.num (a + 8) 8, d.num (a + 16) 16⟩

/-- The 32 bytes of a route entry (R530). -/
def Route.bytes (r : Route) : List Byte :=
  leBytes 1 r.flags ++ leBytes 1 r.state ++ leBytes 2 0 ++ leBytes 4 r.inc ++ leBytes 8 r.ports ++ leBytes 16 r.addr

def Dev.setRoute (d : Dev) (k : Nat) (r : Route) : Dev := d.poke (d.routeAt k) r.bytes

def Dev.peer (d : Dev) (k : Nat) : Peer := SMap.get {} d.net.peers k
def Dev.setPeer (d : Dev) (k : Nat) (p : Peer) : Dev := d.onNet fun n => { n with peers := n.peers.put {} k p }

def PSt.code : PSt → Nat
  | .unknown => 0 | .up => 1 | .lost => 2

/-- A peer's state changed, and shown in its route entry (R530, R532). -/
def Dev.peerState (d : Dev) (k : Nat) (s : PSt) (inc : Nat) : Dev :=
  let d1 := d.setPeer k { d.peer k with st := s, inc := inc }
  d1.setRoute k { d1.route k with state := s.code, inc := inc }

def Dev.port (d : Dev) (n : Nat) : Port := SMap.get {} d.net.ports n
def Dev.modPort (d : Dev) (n : Nat) (f : Port → Port) : Dev := d.onNet fun t => { t with ports := t.ports.mod {} n f }

/-- MODE of a port; 0 where the port is absent (R494, R495). -/
def Dev.portMode (d : Dev) (n : Nat) : Nat := if bitAt d.pres.ports n then d.cfgF .ETH_PORT [n] 0 3 else 0

/-- Sub-ports of a mode (R495). -/
def subPorts : Nat → Nat
  | 1 => 1 | 2 => 2 | 3 => 4 | 4 => 1 | _ => 0

/-- PAYLOAD_MAX in bytes (R537). -/
def Dev.payloadMax (d : Dev) : Nat := 1024 * 2 ^ d.cfgF .SFX_CFG [] 22 2

/-- The paths of a peer as (port, entropy); a path's port number carries its sub-port as port + 64 · sub-port (R512). -/
def Dev.paths (d : Dev) (k : Nat) : List (Nat × Nat) :=
  let r := d.route k
  (bitList 36 r.ports).flatMap fun n =>
    if r.native then (if d.portMode n = 4 && bitAt (d.port n).up 0 then [(n, 0)] else [])
    else if d.portMode n = 0 || d.portMode n = 4 then []
    else (List.range (subPorts (d.portMode n))).flatMap fun s =>
      if bitAt (d.port n).up s then (List.range (d.cfgF .SFX_CFG [] 24 6 + 1)).map fun e => (n + 64 * s, e) else []

/-- Bytes of a packet's messages (R519). -/
def Msg.bytes (g : Msg) : List Byte :=
  leBytes 1 g.mtype ++ leBytes 1 g.flags ++ leBytes 1 g.olane ++ leBytes 1 g.status ++ leBytes 2 g.lseq ++
  leBytes 2 g.body.length ++ leBytes 8 g.tag ++ padTo8 g.body
where padTo8 (b : List Byte) : List Byte := b ++ List.replicate (roundUp b.length 8 - b.length) 0

def Pkt.payload (p : Pkt) : List Byte := p.msgs.flatMap Msg.bytes

/-- A Salrex packet: header and payload (R506). -/
def packetBytes (ptype src dst chan flags sinc dinc psn domain : Nat) (payload : List Byte) : List Byte :=
  let h := leBytes 1 1 ++ leBytes 1 ptype ++ leBytes 2 src ++ leBytes 2 dst ++ leBytes 1 chan ++ leBytes 1 flags ++
    leBytes 4 sinc ++ leBytes 4 dinc ++ leBytes 4 psn ++ leBytes 2 payload.length ++ leBytes 2 domain ++ leBytes 4 0
  h ++ leBytes 4 (crc32c (h ++ payload)) ++ payload

/-- Own ID as a packet's SRC (R506). -/
def Dev.ownId (d : Dev) : Nat := d.net.id.getD 0xFFF

/-- The priority of a frame with a DSCP (R502). -/
def Dev.dscpPrio (d : Dev) (dscp : Nat) : Nat := d.cfgF .ETH_DSCPMAP [dscp / 16 % 4] (dscp % 16 * 4) 3

/-- The tag of a frame that a port sends with a priority: its VLAN and, as PCP, the priority; none on a port without VLAN, and on a
native one (R502, R505). -/
def Dev.vlanTag (d : Dev) (n prio : Nat) : Option (Nat × Nat) :=
  if d.portMode n = 4 ∨ d.cfgF .ETH_PORT [n] 4 12 = 0 then none else some (d.cfgF .ETH_PORT [n] 4 12, prio)

/-- A frame or datagram with its tag. -/
def Out.tagged (t : Option (Nat × Nat)) : Out → Out
  | .frame n s m e _ b => .frame n s m e t b
  | .dgram n s m _ v6 a b sp dp dscp ecn ttl df sum p => .dgram n s m t v6 a b sp dp dscp ecn ttl df sum p
  | o => o

/-- A datagram for a sub-port of a mask of a port. -/
def Out.onSub (n mask : Nat) : Out → Bool
  | .dgram m s _ _ _ _ _ _ _ _ _ _ _ _ _ => m == n && bitAt mask s
  | _ => false

/-- A frame of a priority leaves on a sub-port, tagged as its port asks, and is counted, or waits while that priority is paused (R502,
R503). -/
def Dev.sendFrame (d : Dev) (n s prio : Nat) (o : Out) : Dev :=
  let o := o.tagged (d.vlanTag n prio)
  if bitAt (d.port n).paused (8 * s + prio) then d.modPort n fun p => { p with txq := p.txq ++ [(8 * s + prio, o)] }
  else (d.bump .ETH_TXFRM [n]).emit o

/-! ### Addresses -/

/-- The MAC address of a sub-port as a number whose highest byte is sent first (R498). -/
def Dev.macOf (d : Dev) (n s : Nat) : Nat := beNat (leBytes 6 (d.rd .ETH_MACBASE)) + 4 * n + s

/-- An address entry in force (R499): whether IPv6, prefix length, ports, address, gateway; addresses as the numbers that their
bytes in network order spell lowest first. -/
structure Addr where
  v6 : Bool
  plen : Nat
  ports : Nat
  addr : Nat
  gw : Nat
  deriving DecidableEq, Repr, Inhabited

/-- Address entry `n`, when VALID. -/
def Dev.addrEnt (d : Dev) (n : Nat) : Option Addr :=
  let c := d.cfg .ETH_ADDRC [n]
  if bitAt c 0 then
    some ⟨bitAt c 1, bitsOf c 2 8, bitsOf c 10 36, d.cfg .ETH_ADDRL [n] + d.cfg .ETH_ADDRH [n] * 2 ^ 64,
      d.cfg .ETH_GWL [n] + d.cfg .ETH_GWH [n] * 2 ^ 64⟩
  else none

/-- The module's addresses on a port, lowest entry first. -/
def Dev.addrsOn (d : Dev) (n : Nat) : List Addr := ((List.range 8).filterMap d.addrEnt).filter fun a => bitAt a.ports n

/-- An address is the module's own on a port. -/
def Dev.ownAddr (d : Dev) (n : Nat) (v6 : Bool) (a : Nat) : Bool := (d.addrsOn n).any fun x => x.v6 == v6 && x.addr == a

/-- The address is some port's. -/
def Dev.anyAddr (d : Dev) (v6 : Bool) (a : Nat) : Bool := ((List.range 8).filterMap d.addrEnt).any fun x => x.v6 == v6 && x.addr == a

/-- The bytes of an address in network order. -/
def addrBytes (v6 : Bool) (a : Nat) : List Byte := leBytes (if v6 then 16 else 4) a

/-! ### Small frames (R501) -/

/-- The ones' complement sum that ICMP messages carry (PRESUMED: RFC 1071). -/
def inetSum (bs : List Byte) : Nat :=
  let rec go : List Byte → Nat
    | [] => 0
    | [x] => 256 * x.toNat
    | x :: y :: r => 256 * x.toNat + y.toNat + go r
  let s := go bs
  let f (v : Nat) : Nat := v % 65536 + v / 65536
  0xFFFF - f (f (f s))

/-- An ARP packet (PRESUMED: RFC 826). -/
def arpBytes (op sha spa tha tpa : Nat) : List Byte :=
  beBytes 2 1 ++ beBytes 2 0x0800 ++ [6, 4] ++ beBytes 2 op ++ beBytes 6 sha ++ leBytes 4 spa ++ beBytes 6 tha ++ leBytes 4 tpa

/-- An ICMPv6 message with its checksum (PRESUMED: RFC 4443): type, the bytes after the checksum. -/
def icmp6Bytes (ty src dst : Nat) (body : List Byte) : List Byte :=
  let msg (sum : Nat) : List Byte := [BitVec.ofNat 8 ty, 0] ++ beBytes 2 sum ++ body
  msg (inetSum (leBytes 16 src ++ leBytes 16 dst ++ beBytes 4 (4 + body.length) ++ beBytes 4 58 ++ msg 0))

/-- A Neighbor Advertisement of an address and its MAC (PRESUMED: RFC 4861); `sol` when it answers a solicitation. -/
def naBytes (addr mac dst : Nat) (sol : Bool) : List Byte :=
  icmp6Bytes 136 addr dst (beBytes 4 (if sol then 0x60000000 else 0x20000000) ++ leBytes 16 addr ++ [2, 1] ++ beBytes 6 mac)

/-- A Neighbor Solicitation of an address (PRESUMED: RFC 4861), sent to its solicited-node address. -/
def solNode (a : Nat) : Nat := leNat ([0xFF, 2] ++ List.replicate 9 0 ++ [1, 0xFF] ++ (leBytes 16 a).drop 13)
def nsBytes (src target mac : Nat) : List Byte :=
  icmp6Bytes 135 src (solNode target) (beBytes 4 0 ++ leBytes 16 target ++ [1, 1] ++ beBytes 6 mac)

/-- The UDP checksum of a datagram (R504): the ones' complement sum over its pseudo-header, its UDP header and its payload, all ones for
a sum of zero (PRESUMED: RFC 768, RFC 8200). -/
def udpSum (v6 : Bool) (src dst sport dport : Nat) (bytes : List Byte) : Nat :=
  let n := 8 + bytes.length
  let pseudo := addrBytes v6 src ++ addrBytes v6 dst ++ (if v6 then beBytes 4 n ++ beBytes 4 17 else beBytes 2 17 ++ beBytes 2 n)
  let s := inetSum (pseudo ++ beBytes 2 sport ++ beBytes 2 dport ++ beBytes 2 n ++ beBytes 2 0 ++ bytes)
  if s = 0 then 0xFFFF else s

/-- The solicited-node multicast MAC address of an IPv6 address (PRESUMED: RFC 2464, RFC 4291). -/
def solMac (a : Nat) : Nat := 0x3333FF000000 + beNat ((leBytes 16 a).drop 13)

/-- EtherTypes (PRESUMED: IEEE 802), and that of Salrex (R505). -/
def etIp (v6 : Bool) : Nat := if v6 then 0x86DD else 0x0800
def etArp : Nat := 0x0806
def etSalrex : Nat := 0x88B5

/-- ff02::1, as its bytes in network order spell it lowest first. -/
def allNodes : Nat := 0xFF + 2 * 256 + 2 ^ 120

/-- The MAC address of ff02::1 (PRESUMED: RFC 2464). -/
def allNodesMac : Nat := 0x333300000001

/-! ### Next hops (R500, R501) -/

/-- How a Treeline's neighbour cache names an address. -/
def addrKey (v6 : Bool) (a : Nat) : Nat := a + if v6 then 2 ^ 128 else 0

/-- The first bits of an address. -/
def addrPrefix (v6 : Bool) (plen a : Nat) : Nat := beNat (addrBytes v6 a) / 2 ^ ((if v6 then 128 else 32) - plen)

/-- The next hop of a destination by an address entry (R500). -/
def Addr.hopFor (x : Addr) (a : Nat) : Nat := if addrPrefix x.v6 x.plen x.addr = addrPrefix x.v6 x.plen a then a else x.gw

/-- The next hop of a Salrex datagram from a port, and the address entry it uses. -/
def Dev.nextHop (d : Dev) (n : Nat) (v6 : Bool) (a : Nat) : Option (Addr × Nat) :=
  ((d.addrsOn n).find? fun x => x.v6 == v6).map fun x => (x, x.hopFor a)

def Dev.nbrs (d : Dev) (t : Nat) : List Nbr := if t = 0 then d.net.nbr0 else d.net.nbr1
def Dev.setNbrs (d : Dev) (t : Nat) (l : List Nbr) : Dev :=
  d.onNet fun x => if t = 0 then { x with nbr0 := l } else { x with nbr1 := l }

/-- A next hop stands in the neighbour cache of a port's Treeline. -/
def Dev.resolved (d : Dev) (n : Nat) (v6 : Bool) (hop : Nat) : Bool := (d.nbrs (n / 18)).any fun x => x.addr == addrKey v6 hop

/-- The MAC address of a next hop in the neighbour cache of a port's Treeline. -/
def Dev.hopMac (d : Dev) (n : Nat) (v6 : Bool) (hop : Nat) : Nat :=
  (((d.nbrs (n / 18)).find? fun x => x.addr == addrKey v6 hop).map (·.mac)).getD 0

/-- An ARP request, or a Neighbor Solicitation to its solicited-node address, for an address. -/
def Dev.askNbr (d : Dev) (n s : Nat) (src : Addr) (hop : Nat) : Dev :=
  d.sendFrame n s (d.dscpPrio 0)
    (if src.v6 then .frame n s (solMac hop) (etIp true) none (nsBytes src.addr hop (d.macOf n s))
     else .frame n s (2 ^ 48 - 1) etArp none (arpBytes 1 (d.macOf n s) src.addr 0 hop))

/-- A UDP datagram for a next hop: don't-fragment under IPv4, TTL or hop limit 64, its checksum (R504). -/
def Dev.datagram (d : Dev) (n s : Nat) (v6 : Bool) (hop src dst sport dport dscp ecn : Nat) (bytes : List Byte) : Out :=
  .dgram n s (d.hopMac n v6 hop) none v6 src dst sport dport dscp ecn 64 (!v6) (udpSum v6 src dst sport dport bytes) bytes

/-- A Salrex datagram from an address entry to a next hop, with an entropy in its source port, and ECT(0) (R504). -/
def Dev.salrexDgram (d : Dev) (n s : Nat) (src : Addr) (hop dst e : Nat) (bytes : List Byte) : Out :=
  d.datagram n s src.v6 hop src.addr dst (0xC000 + 64 * (d.ownId % 256) + e) (d.cfgF .SFX_CFG [] 0 16) (d.cfgF .SFX_CFG [] 16 6) 2 bytes

/-- A Salrex packet to a peer can leave on a path's port: on a native port, or with its next hop resolved (R501, R505). -/
def Dev.canSend (d : Dev) (k port : Nat) : Bool :=
  let r := d.route k
  r.native || match d.nextHop (port % 64) (bitAt r.flags 1) r.addr with
    | some (_, hop) => d.resolved (port % 64) (bitAt r.flags 1) hop
    | none => false

/-- The next hop of a packet that cannot leave is asked for. -/
def Dev.askHop (d : Dev) (k port : Nat) : Dev :=
  let r := d.route k
  match d.nextHop (port % 64) (bitAt r.flags 1) r.addr with
  | some (x, hop) => d.askNbr (port % 64) (port / 64) x hop
  | none => d

/-- A Salrex packet as it travels on a path: an untagged frame to the neighbour on a native port (R505), else a datagram with the
path's entropy in its source port and ECT(0) (R504). Only one that can leave is asked for (`Dev.canSend`). -/
def Dev.wire (d : Dev) (k port e : Nat) (bytes : List Byte) : Out :=
  let r := d.route k
  let n := port % 64
  match r.native, d.nextHop n (bitAt r.flags 1) r.addr with
  | false, some (x, hop) => d.salrexDgram n (port / 64) x hop r.addr e bytes
  | _, _ => .frame n 0 (d.port n).nbrMac etSalrex none bytes

/-- A control packet handed to a path: ACK, RESET or a message of another type. -/
def Dev.sendRaw (d : Dev) (k port e ptype chan flags dinc psn : Nat) (payload : List Byte) : Dev :=
  if !d.canSend k port then d.askHop k port
  else d.sendFrame (port % 64) (port / 64) (d.dscpPrio (d.cfgF .SFX_CFG [] 16 6))
    (d.wire k port e (packetBytes ptype d.ownId k chan flags d.net.inc dinc psn (d.cfgF .SFX_DOM [] 0 16) payload))

/-- A path is penalised at an instant (R512). -/
def Dev.penalised (d : Dev) (k : Nat) (p : Nat × Nat) (now : Nat) : Bool :=
  d.net.penal.any fun q => q.1 == k * 16384 + p.1 * 64 + p.2 && decide (now < q.2)

/-- Unacknowledged bytes of a flow on a path. -/
def TxFlow.onPath (f : TxFlow) (p : Nat × Nat) : Nat :=
  ((f.unacked.filter fun q => q.port == p.1 && q.entropy == p.2).map fun q => q.payload.length).foldl (· + ·) 0

/-- The place of a path among paths in turn (R512): by port, sub-port and entropy. -/
def pathKey (p : Nat × Nat) : Nat := (p.1 % 64) * 256 + p.1 / 64 * 64 + p.2

/-- The place that the next tie of a flow starts from, after a packet on a path. -/
def TxFlow.after (f : TxFlow) : Option (Nat × Nat) → Nat
  | some p => pathKey p + 1
  | none => f.turn

/-- The path of a new packet (R512): the fewest unacknowledged bytes among paths not penalised, ties to the next path in
turn; none when the peer has no path up. -/
def Dev.choosePath (d : Dev) (k : Nat) (f : TxFlow) (now : Nat) (avoid : Option (Nat × Nat) := none) : Option (Nat × Nat) :=
  let all := d.paths k
  let free := all.filter fun p => !d.penalised k p now
  let cand := if free.isEmpty then all else free
  let cand := match avoid with
    | some a => if (cand.filter (· != a)).isEmpty then cand else cand.filter (· != a)
    | none => cand
  let best := (cand.map f.onPath).foldl min (2 ^ 64)
  let tied := cand.filter fun p => f.onPath p == best
  match tied.find? fun p => f.turn ≤ pathKey p with
  | some p => some p
  | none => tied.head?

/-- Unacknowledged payload bytes of a flow (R514). -/
def TxFlow.inFlight (f : TxFlow) : Nat := (f.unacked.map fun p => p.payload.length).foldl (· + ·) 0

def Dev.txFlow (d : Dev) (k chan : Nat) : TxFlow := if chan = 0 then (d.peer k).req else (d.peer k).rsp
def Dev.setTx (d : Dev) (k chan : Nat) (f : TxFlow) : Dev :=
  d.setPeer k (if chan = 0 then { d.peer k with req := f } else { d.peer k with rsp := f })
def Dev.rxFlow (d : Dev) (k chan : Nat) : RxFlow := if chan = 0 then (d.peer k).rreq else (d.peer k).rrsp
def Dev.setRx (d : Dev) (k chan : Nat) (f : RxFlow) : Dev :=
  d.setPeer k (if chan = 0 then { d.peer k with rreq := f } else { d.peer k with rrsp := f })

/-- A packet put on the wire; one whose next hop is unresolved is not sent, and counts as lost (R501). -/
def Dev.sendPkt (d : Dev) (k chan : Nat) (p : Pkt) (retx : Bool) (path : Option (Nat × Nat)) : Dev :=
  match path with
  | some (n, e) =>
    let x := d.sendRaw k n e 1 chan (if retx then 1 else 0) (d.peer k).inc p.psn p.payload
    if d.canSend k n then x.bump .SFX_TXPKT else x
  | none => d

/-- The first waiting message of a flow sent while the window admits it (R514). -/
def Dev.pumpOne (d : Dev) (k chan now : Nat) : Dev :=
  let f := d.txFlow k chan
  match f.wait with
  | [] => d
  | g :: r =>
    let p0 : Pkt := ⟨f.next, [g], 0xFFFF, 0, now, now, 0, (f.next + 1) % 2 ^ 32⟩
    if f.unacked.length < 4096 ∧ ((f.inFlight + p0.payload.length : Nat) : Rat) ≤ f.w then
      let path := d.choosePath k f now
      let p := match path with | some (n, e) => { p0 with port := n, entropy := e } | none => p0
      let f' := { f with next := (f.next + 1) % 2 ^ 32, unacked := f.unacked ++ [p], wait := r, turn := f.after path }
      (d.setTx k chan f').sendPkt k chan p false path
    else d

/-- Waiting messages of a flow sent until the window is full. -/
def Dev.pump (d : Dev) (k chan now : Nat) : Nat → Dev
  | 0 => d
  | n + 1 => (d.pumpOne k chan now).pump k chan now n

/-- A fresh flow (R508, R514). -/
def Dev.newTx (d : Dev) : TxFlow := { w := ((d.cfgF .SFX_CC [] 0 16 * 1024 : Nat) : Rat) }

/-- A peer brought UP with its four flows at PSN 0 (R532). -/
def Dev.startPeer (d : Dev) (k inc : Nat) : Dev :=
  (d.setPeer k { st := .up, inc := inc, req := d.newTx, rsp := d.newTx }).peerState k .up inc

/-- A message handed to a flow (R508, R515, R520): LSEQ counted in its lane, a message longer than a packet split. Toward a lost peer
it is dropped (R534), and so is an answer to a peer that was lost since it asked, which a number above 4,095 stands for. -/
def Dev.sendMsg (d : Dev) (k chan now : Nat) (g : Msg) : Dev :=
  if 4096 ≤ k ∨ (d.peer k).st = .lost then d
  else
  let d := if (d.peer k).st = .unknown then d.startPeer k (d.route k).inc else d
  let f := d.txFlow k chan
  let lane := g.olane % 64
  let n := SMap.get 0 f.lseq lane
  let big := g.mtype = 0x14 ∨ g.mtype = 0x19
  let cap := d.payloadMax - 16
  let pieces := if g.body.length ≤ cap then 1 else ceilDiv g.body.length cap
  let msgs := (List.range pieces).map fun i =>
    { g with
      body := if pieces = 1 then g.body else (g.body.drop (i * cap)).take cap
      lseq := n % 65536
      flags := if big then g.flags + (if i = 0 then 4 else 0) + (if i + 1 = pieces then 8 else 0) else g.flags }
  let f' := { f with wait := f.wait ++ msgs, lseq := f.lseq.put 0 lane (n + 1) }
  (d.setTx k chan f').pump k chan now msgs.length

/-- A request sent with a fresh tag, and remembered until it is answered (R519, R522). -/
def Dev.request (d : Dev) (k now mtype flags olane op : Nat) (body : List Byte) (job : Option Nat) (who : Who) : Dev :=
  let t := d.net.nextTag
  let d1 := d.onNet fun n => { n with nextTag := t + 1, outst := n.outst ++ [⟨t, k, mtype, op, job, who⟩] }
  d1.sendMsg k 0 now { mtype := mtype, flags := flags, olane := olane, tag := t, body := body }

/-- A message that expects no response (R521). -/
def Dev.post (d : Dev) (k now mtype olane : Nat) (body : List Byte) : Dev :=
  d.sendMsg k 0 now { mtype := mtype, flags := 2, olane := olane, body := body }

/-- A response (R517, R519). -/
def Dev.respond (d : Dev) (k now mtype status tag : Nat) (body : List Byte) : Dev :=
  d.sendMsg k 1 now { mtype := mtype, status := status, tag := tag, body := body }

/-- What a request to another module meets before it is sent: OK to send, the refusal for a route that is not VALID or
while the module has no ID (R530, R592), or the handling of a lost peer (R532, R534). -/
inductive RouteCheck where
  | send | refuse (status : Nat) | lost
  deriving DecidableEq, Repr, Inhabited

def Dev.routeCheck (d : Dev) (k : Nat) : RouteCheck :=
  if !(d.route k).valid || d.net.id.isNone then .refuse eRange
  else if (d.peer k).st = .lost then .lost
  else .send

/-- OLANE of a RD, WR or AT (R515). -/
def laneOfDla (a : Nat) : Nat := bitsOf a 12 6

/-- OLANE of a row or move message (R515). -/
def laneOfRow (table row : Nat) : Nat := (table + row) % 64

/-- A delivered message that a unit now performs leaves the inbox (R516, R517). -/
def Dev.took (d : Dev) (src : Option Nat) (mtype tag : Nat) (body : List Byte) : Dev :=
  d.onNet fun n => { n with
    inbox := n.inbox.eraseP fun p => (src == none || src == some p.1) && p.2.mtype == mtype && p.2.tag == tag && p.2.body == body }

end Sys2Proof.Machine
end

