-- ==== Sys2Proof/Machine/FrameOps.lean ====
section
/-! DEFINITION. What a port does with the frames that reach it: tags, addresses, the receive buffer and priority flow control
(spec/15 R498, R499, R502, R503). -/

namespace Sys2Proof.Machine

/-- A port carries Salrex natively and has link. -/
def Dev.nativeUp (d : Dev) (n : Nat) : Bool := d.portMode n == 4 && bitAt (d.port n).up 0

/-- A destination MAC address that a sub-port accepts (R498). -/
def Dev.macMine (d : Dev) (n s mac : Nat) : Bool :=
  mac == d.macOf n s || mac == 2 ^ 48 - 1 || (d.addrsOn n).any fun a => a.v6 && solMac a.addr == mac

/-- VLAN of a port, and the tag rule of R502. -/
def Dev.tagOk (d : Dev) (n : Nat) (tag : Option (Nat × Nat)) : Bool :=
  let v := d.cfgF .ETH_PORT [n] 4 12
  match tag with
  | none => v == 0
  | some (vid, _) => v != 0 && vid == v

/-- PFC is enabled on a priority of a port, which a NATIVE port never has (R503). -/
def Dev.pfcOn (d : Dev) (n p : Nat) : Bool := d.portMode n != 4 && bitAt (d.cfgF .ETH_PORT [n] 16 8) p

/-- A priority flow control frame (IEEE 802.1Qbb, its layout PRESUMED): opcode, priorities, and the pause time of one of them. -/
def pfcBytes (p time : Nat) : List Byte :=
  beBytes 2 0x0101 ++ beBytes 2 (2 ^ p) ++ (List.range 8).flatMap fun i => beBytes 2 (if i = p then time else 0)

/-- A priority flow control frame leaves; it carries no tag (DESIGN CHOICE, log 35). -/
def Dev.sendPfc (d : Dev) (n s p time : Nat) : Dev :=
  (((d.bump .ETH_PFCTX [n]).bump .ETH_TXFRM [n]).emit (.frame n s 0x0180C2000001 0x8808 none (pfcBytes p time))).modPort n fun q =>
    { q with xoff := setBits q.xoff (8 * s + p) 1 (if time = 0 then 0 else 1) }

/-- XOFF of a priority sent on the sub-port that fills the buffer, or XON on every sub-port that was sent XOFF, as its occupancy crosses
the port's thresholds (R503). -/
def Dev.pfcCheck (d : Dev) (n s p : Nat) : Dev :=
  let v := SMap.get 0 (d.port n).buf p
  if !d.pfcOn n p then d
  else if !bitAt (d.port n).xoff (8 * s + p) && d.cfgF .ETH_PFC [n] 0 16 * 1024 < v then d.sendPfc n s p 0xFFFF
  else if v < d.cfgF .ETH_PFC [n] 16 16 * 1024 then
    ((List.range 4).filter fun s => bitAt (d.port n).xoff (8 * s + p)).foldl (fun d s => d.sendPfc n s p 0) d
  else d

/-- Bytes waiting in a port's receive buffer. -/
def Port.waiting (p : Port) : Nat := (p.buf.map (·.2)).foldl (· + ·) 0

/-- A priority's bytes in the receive buffer are as a frame of a sub-port leaves them. -/
def Dev.bufferIn (d : Dev) (n s p v : Nat) : Dev := (d.modPort n fun q => { q with buf := q.buf.put 0 p v }).pfcCheck n s p

/-- Bytes of a frame that carries `b` bytes: header, tag, FCS, at least 64 (PRESUMED: IEEE 802.3). -/
def frameLen (tag : Option (Nat × Nat)) (b : Nat) : Nat := max 64 (b + if tag.isSome then 22 else 18)

/-- A frame that brings a datagram or a Salrex packet meets its port (R498, R499, R502, R503): dropped and counted for its tag, which a
native port has none of, for a MAC or an IP address (`own`) that is not the module's, for its length, for want of room; else it stands in
the buffer, above `occ` bytes of its priority that are there already. -/
def Dev.admitFrame (d : Dev) (n s mac : Nat) (tag : Option (Nat × Nat)) (dscp occ len : Nat) (own : Bool) : Dev × Bool :=
  let p := match tag with | some (_, pcp) => pcp % 8 | none => d.dscpPrio dscp
  let waiting := (d.port n).waiting - SMap.get 0 (d.port n).buf p + occ
  if (if d.portMode n = 4 then tag.isSome else !d.tagOk n tag) || !d.macMine n s mac || !own || decide (9216 < len) ||
      decide (2 ^ 20 < waiting + len) then (d.bump .ETH_RXDROP [n], false)
  else (d.bufferIn n s p (occ + len), true)

/-! ### Time at the ports (R503) -/

/-- A paused priority of a sub-port resumes: what waits on it is sent. -/
def Dev.resumePrio (d : Dev) (n b : Nat) : Dev :=
  let go := (d.port n).txq.filter fun q => q.1 == b
  let d := d.modPort n fun q =>
    { q with paused := setBits q.paused b 1 0, pauseEnd := q.pauseEnd.del b, txq := q.txq.filter fun y => y.1 != b }
  go.foldl (fun d q => (d.bump .ETH_TXFRM [n]).emit q.2) d

/-- The ends of the pauses of a port by an instant: what waited is sent. -/
def Dev.endPauses (d : Dev) (now n : Nat) : Dev :=
  let gone := ((d.port n).pauseEnd.filter fun q => decide (q.2 ≤ now)).map (·.1)
  gone.foldl (fun d b => d.resumePrio n b) d

/-- A port's receive buffer empties at a rate that no rule gives: what is left of each priority is a free value (log 35); XON follows. -/
def Dev.drainBuf (d : Dev) (n : Nat) : Dev :=
  (d.port n).buf.foldl (fun d q => (d.useFree 1).bufferIn n 0 q.1 (min q.2 (Config.freeNat d.fresh))) d

/-- The ports after 1 µs in which no command came. -/
def Dev.portTime (d : Dev) (now : Nat) : Dev := (d.net.ports.map (·.1)).foldl (fun d n => (d.endPauses now n).drainBuf n) d

end Sys2Proof.Machine
end

