-- ==== Sys2Proof/Machine/EngOps.lean ====
section
/-! DEFINITION. What a job's end and a cluster's power state ask of the engines of a core (spec/12 R397, R411, R412; spec/06
R225, spec/08 R280, spec/09 R309, spec/10 R335). -/

namespace Sys2Proof.Machine

/-- DLA of a core's window, of its CLM at an offset, of an accumulator in the raw view (R203). -/
def winAt (c : Nat) : Nat := coreWin + c * 0x1000000
def clmAt (c off : Nat) : Nat := winAt c + off
def accAt (c a : Nat) : Nat := winAt c + 0x800000 + a * 0x4000
def clmSize : Nat := 0x400000

/-! ### Core windows (R203) -/

/-- What an offset of a core's window holds: CLM, the raw view of accumulator `a`, the tile view of accumulator `a` from its
byte `o`, or nothing. -/
inductive Win where
  | clm | raw (a : Nat) | tile (a o : Nat) | none
  deriving DecidableEq, Repr, Inhabited

def winOf (off : Nat) : Win :=
  if off < clmSize then .clm
  else if 0x800000 ≤ off ∧ off < 0x880000 then .raw ((off - 0x800000) / 0x4000)
  else if 0xC00000 ≤ off ∧ off < 0xD00000 then .tile ((off - 0xC00000) / 0x8000) ((off - 0xC00000) % 0x8000)
  else .none

/-- The accumulator an in-progress or queued matrix instruction writes: those of MMA and MLOAD (R224). -/
def QEnt.writesAcc (x : QEnt) : Option Nat :=
  let o := x.w0.toNat % 256
  if o = 1 ∨ o = 4 then some (bitsOf x.w0.toNat 8 5) else none

/-- An instruction that writes accumulator `a` is in progress (R224). -/
def Dev.accBusy (d : Dev) (c a : Nat) : Bool := (d.core c).me.q.any fun x => x.started && x.writesAcc == some a

/-- An access to an accumulator waits while an instruction that writes it is in progress (R224). -/
def Dev.winBusy (d : Dev) (c off : Nat) : Bool :=
  match winOf off with
  | .raw a | .tile a _ => d.accBusy c a
  | _ => false

/-- Raw-view writes that waited for an accumulator land once nothing that writes it is in progress (R224). -/
def Dev.landAcm (d : Dev) : Dev :=
  let due (x : HeldAcc) : Bool := match x with | .acm c off _ => !d.winBusy c off | _ => false
  let ready := d.held.filter due
  ready.foldl (fun d x => match x with | .acm c off bs => d.poke (winAt c + off) bs | _ => d)
    { d with held := d.held.filter fun x => !due x }

/-- An area left with unspecified values: free bytes, the marks as they were (R79). -/
def Dev.scramble (d : Dev) (a n : Nat) : Dev :=
  Dev.useFree { d with mem := d.mem.setBytes ((List.range n).map fun i => (d.cell (a + i), Config.freeByte (d.fresh + i))) } n

/-! ### Stalls (R308) -/

/-- The stall of engine `e` of a core ends: its clk are counted (R308); those of the vector engine add to its occupancy (R278). -/
def Dev.stallEnd (d : Dev) (now c e : Nat) : Dev :=
  match (d.core c).stalls.find? fun p => p.1 == e with
  | some p =>
    let n := (now - p.2.2) / clkT
    let d := d.bump .CORE_ST [c, if p.2.1 % 16 = 8 then 0 else p.2.1] n
    (if e = 1 then d.bump .CORE_VE_BUSY [c] n else d).modCore c fun k => { k with stalls := k.stalls.del e }
  | none => d

/-- Engine `e` of a core is in a stall of a cause. -/
def Dev.stalled (d : Dev) (c e cause : Nat) : Bool := (d.core c).stalls.any fun p => p.1 == e && p.2.1 == cause

/-- Engine `e` of a core waits for a cause; a wait that goes on for the same cause is one stall. A cause of 8 + 16 · tick is 8
with the tick at which the wait expires (R410). -/
def Dev.stallOn (d : Dev) (now c e cause : Nat) : Dev :=
  match (d.core c).stalls.find? fun p => p.1 == e with
  | some p =>
    if p.2.1 % 16 = cause % 16 then d
    else (d.stallEnd now c e).modCore c fun k => { k with stalls := k.stalls.ins e (cause, now) }
  | none => d.modCore c fun k => { k with stalls := k.stalls.ins e (cause, now) }

def Core.setSe (k : Core) (s : Nat) (e : SeEng) : Core := if s = 0 then { k with se0 := e } else { k with se1 := e }
def Core.se (k : Core) (s : Nat) : SeEng := if s = 0 then k.se0 else k.se1

/-- Places of the matrix, vector and stream queues of a job removed. -/
def dropQ (j : Nat) (q : List QEnt) : List QEnt := q.filter fun e => e.job != j

/-- Places of a queue whose commands wait for what they have outstanding: the ones not started go, the others are marked. -/
def deadQ (j : Nat) (q : List QEnt) : List QEnt :=
  (q.filter fun e => e.job != j || e.started).map fun e => if e.job = j then { e with dead := true } else e

/-- What a job's work in progress on a core was writing on this module, which now holds unspecified values (R225, R280, R309, R335):
`far` says which global addresses lie on another module. -/
def Core.wreck (k : Core) (far : Nat → Bool) (j : Nat) : List (Nat × Nat) :=
  ((k.me.q ++ k.ve.q ++ k.ge.q).filter fun e => e.job == j && e.started && !e.dead).flatMap (·.area) ++
  ([k.se0, k.se1].filter fun s => s.ring.job == j).flatMap fun s =>
    (s.xfers.filter fun x => x.store && !far x.addr).map fun x => (dlaOf x.addr, x.hdr.length)

/-- A stream engine after a job's end: its ring disarmed, its commands and chains gone (R309). -/
def SeEng.dropJob (s : SeEng) (j : Nat) : SeEng :=
  let s := { s with q := dropQ j s.q, chains := s.chains.filter fun c => c.ent.job != j }
  if s.ring.mode != 0 && s.ring.job == j then
    { s with ring := {}, xfers := [], waiting := false, waitTick := none, waitDone := false, closing := false }
  else s

/-- A core's queued engine work of a job discarded, its work in progress stopped, its rings disarmed (R397 step 3, R309). -/
def Core.dropJob (k : Core) (j : Nat) : Core :=
  let dead (g : GCmd) : GCmd :=
    if g.ent.job = j then
      { g with
        ent := { g.ent with dead := true }
        count := g.next
        want := []
        reads := []
        pend := []
        chunks := []
        seeds := [] }
    else g
  { k with
    me := { k.me with q := dropQ j k.me.q }
    ve := { k.ve with q := dropQ j k.ve.q, vmNew := if k.ve.q.any fun x => x.started && x.job == j then none else k.ve.vmNew }
    ge := { k.ge with q := deadQ j k.ge.q, cmds := k.ge.cmds.map dead }
    se0 := k.se0.dropJob j
    se1 := k.se1.dropJob j
    mq := { k.mq with q := deadQ j k.mq.q }
    sq := { k.sq with stall := k.sq.stall.filter fun s => s.2.job != j } }

/-- The engines of a core that a job keeps waiting: the first instruction of a queue, a ring, the oldest gather command is its
(R308). -/
def Core.waitsFor (k : Core) (j : Nat) : List Nat :=
  let front (q : List QEnt) : Bool := ((q.find? fun x => !x.started).map (·.job)) == some j
  [(0, front k.me.q), (1, front k.ve.q), (2, k.se0.ring.job == j), (3, k.se1.ring.job == j),
   (4, (k.ge.cmds.head?.map (·.ent.job)) == some j)].filterMap fun p => if p.2 then some p.1 else none

/-- The engine work of a job on a core discarded; its waits are counted as far as they went (R308); what it was writing holds
unspecified values. -/
def Dev.dropWork (d : Dev) (now c j : Nat) : Dev :=
  let d := ((d.core c).waitsFor j).foldl (fun d e => d.stallEnd now c e) d
  let ar := (d.core c).wreck (fun a => (d.remoteOf a).isSome) j
  (ar.foldl (fun d a => d.scramble a.1 a.2) (d.modCore c fun k => k.dropJob j)).landAcm

/-- Every queue place of a core, the commands that streams handed to the gather engine and the chains included. -/
def Core.places (k : Core) : List QEnt :=
  k.me.q ++ k.ve.q ++ k.ge.q ++ k.se0.q ++ k.se1.q ++ k.mq.q ++ (k.ge.cmds.filter (·.se.isSome)).map (·.ent) ++
  k.se0.chains.map (·.ent)

/-- A core holds queued or unfinished engine work that satisfies a test. -/
def Core.works (k : Core) (f : QEnt → Bool) : Bool := k.places.any f

/-- A stream engine has transfers or gather reads outstanding (R309, R558). -/
def Core.streaming (k : Core) (j : Option Nat) : Bool :=
  ([k.se0, k.se1].any fun s => !s.xfers.isEmpty && (j == none || j == some s.ring.job)) ||
  k.ge.cmds.any fun g => g.se.isSome && (j == none || j == some g.ent.job)

/-- A core has no engine work at all (R411). -/
def Core.idle (k : Core) : Bool := k.places.isEmpty && !k.streaming none

/-- A stream's WAIT step met (R298). -/
def Core.streamToken (k : Core) (se : Nat) : Core := k.setSe se { k.se se with waitDone := true }

/-- A layer update's wait for its readers met (R361). -/
def Dev.layerToken (d : Dev) (layer : Nat) : Dev :=
  { d with tabs := { d.tabs with
      parts := d.tabs.parts.map fun p => if p.layer && p.target == layer then { p with readers := true } else p } }

/-- A core after its cluster left OFF (R202, R215, R412): everything at its starting value. -/
def Core.fresh : Core := {}

end Sys2Proof.Machine
end

