-- ==== Sys2Proof/Machine/SchedOps.lean ====
section
/-! DEFINITION. The Forester and the sync units as shared operations: choosing threads, tokens, ending a job, sync
objects and their monitors (spec/12 R381-R411). -/

namespace Sys2Proof.Machine

/-! ### Threads -/

def Thread.op (t : Thread) (k : Nat) : Word :=
  if k = 0 then t.o0 else if k = 1 then t.o1 else if k = 2 then t.o2 else t.o3

/-- An operand filled: its value, its ARRIVED bit, and whether a WAIT or SEND token filled it (R383, R386). -/
def Thread.fill (t : Thread) (k : Nat) (v : Word) (src : Bool) : Thread :=
  let t := if k = 0 then { t with o0 := v } else if k = 1 then { t with o1 := v }
    else if k = 2 then { t with o2 := v } else { t with o3 := v }
  { t with arr := t.arr ||| 2 ^ k, tokSrc := setBits t.tokSrc k 1 (if src then 1 else 0) }

/-- Every needed operand has arrived. -/
def Thread.met (t : Thread) : Bool := t.need &&& t.arr == t.need

/-- The deadline of a thread's job in ticks. -/
def Dev.deadOf (d : Dev) (h : Nat) : Option Nat := (d.job (d.thr h).job).deadTick

/-- A thread is urgent (R391 rule 1). -/
def Dev.urgent (d : Dev) (tick h : Nat) : Bool :=
  match d.deadOf h with
  | some D => decide (D ≤ tick + d.cfgF .FOR_CFG [cluOf h] 0 32)
  | none => false

/-- Which of two threads comes first for a core, and by which rule of R391. -/
def Dev.outranks (d : Dev) (tick core a b : Nat) : Nat × Bool :=
  let ua := d.urgent tick a
  let ub := d.urgent tick b
  let da := (d.deadOf a).getD (2 ^ 64)
  let db := (d.deadOf b).getD (2 ^ 64)
  let ta := d.thr a
  let tb := d.thr b
  let fa := ta.last == some core
  let fb := tb.last == some core
  if ua != ub then (1, ua)
  else if ua && da != db then (1, decide (da < db))
  else if fa != fb then (2, fa)
  else if da != db then (3, decide (da < db))
  else if ta.prio != tb.prio then (4, decide (ta.prio > tb.prio))
  else if ta.readyAt != tb.readyAt then (5, decide (ta.readyAt < tb.readyAt))
  else (6, decide (a < b))

/-- A thread may be chosen for a core (R390, R558, R618). -/
def Dev.eligible (d : Dev) (core h : Nat) : Bool :=
  let t := d.thr h
  t.st == .ready && (t.pin == none || t.pin == some core) && !(d.job t.job).halted && d.coreHere core

/-- The first by R391 of a list of threads for a core. -/
def Dev.firstOf (d : Dev) (tick core : Nat) : List Nat → Option Nat
  | [] => none
  | h :: r =>
    match d.firstOf tick core r with
    | none => some h
    | some g => some (if (d.outranks tick core h g).2 then h else g)

/-- The same, with the rule that decided it against the one that comes next (R391, R416). -/
def Dev.bestOf (d : Dev) (tick core : Nat) (l : List Nat) : Option (Nat × Nat) :=
  (d.firstOf tick core l).map fun h =>
    (h, match d.firstOf tick core (l.filter (· != h)) with | some g => (d.outranks tick core h g).1 | none => 0)

/-- The handles of a cluster's slots in use. -/
def Dev.slotsOf (d : Dev) (n : Nat) : List Nat := (d.threads.map (·.1)).filter fun h => cluOf h == n

/-- A running thread leaves its core; clk with a thread RUNNING are counted (R419). -/
def Dev.leaveCore (d : Dev) (now core : Nat) : Dev :=
  let s := (d.core core).sq
  if s.cur.isSome then
    (d.bump .CORE_SQ_RUN [core] ((now - s.runAt) / clkT)).modSq core fun s => { s with cur := none, resv := none }
  else d

/-- A core is clock-gated in FNEXT, whose result goes to rd: the cycle CSR stands (R375, R389). -/
def Seq.gate (s : Seq) (now rd : Nat) : Seq :=
  { s with gated := some rd, runAt := now, cycle := s.cycle + if s.gated.isSome then 0 else (now - s.cycAt) / clkT }

/-- FNEXT completes: the thread in the local slot runs, its CTX goes to rd (R389, R416). -/
def Dev.fnextTake (d : Dev) (now core rd : Nat) : Dev :=
  match (d.core core).sq.loc with
  | none => d
  | some h =>
    let t := d.thr h
    let n := cluOfCore core
    let w := (now - t.readyAt) / (10 * nsT)
    let d := (d.modThr h fun t => { t with st := .running, last := some core }).modSq core fun s =>
      { s with loc := none, cur := some h, ran := some t.job, gated := none, runAt := now, mAt := now,
               cycAt := if s.gated.isSome then now else s.cycAt
               x := if rd = 0 then s.x else s.x.put 0 rd t.ctx }
    let d := (d.bump .FOR_PICK [n]).bump .FOR_WAITSUM [n] w
    d.wr .FOR_WAITMAX [n] (max (d.rd .FOR_WAITMAX [n]) (min w 0xFFFFFFFF))

/-- One core's local slot brought to its current choice (R392). A core waiting in FNEXT takes it at once (R389). -/
def Dev.fillSlot (d : Dev) (now core : Nat) : Dev :=
  let tick := now / usT
  let n := cluOfCore core
  let cands := (d.slotsOf n).filter (d.eligible core)
  let s := (d.core core).sq
  let pool := match s.loc with | some o => o :: cands | none => cands
  match d.bestOf tick core pool with
  | none => d
  | some (h, rule) =>
    if s.loc = some h then d
    else
      let d := match s.loc with | some o => d.modThr o fun t => { t with st := .ready } | none => d
      let d := (d.modThr h fun t => { t with st := .local_ }).modSq core fun s => { s with loc := some h }
      let d := if rule = 2 then d.bump .FOR_AFF [n] else if rule = 1 then d.bump .FOR_URG [n] else d
      match s.gated with
      | some rd => (d.bump .CORE_SQ_IDLE [core] ((now - s.runAt) / clkT)).fnextTake now core rd
      | none => d

/-- Rounds over a cluster's cores until no local slot changes: each round that changes one improves it (R392). -/
def Dev.fillSlots (d : Dev) (now n : Nat) : Nat → Dev
  | 0 => d
  | k + 1 =>
    let seen (d : Dev) : List (Option Nat × Option Nat) := (List.range 8).map fun i => let s := (d.core (n * 8 + i)).sq; (s.loc, s.cur)
    let e := (List.range 8).foldl (fun d i => d.fillSlot now (n * 8 + i)) d
    if seen e = seen d then e else e.fillSlots now n k

/-- The Forester of a running cluster brings every local slot to its choice (R392); threads that were displaced are offered again. -/
def Dev.schedule (d : Dev) (now n : Nat) : Dev :=
  if (d.clu n).pst = 0 then d.fillSlots now n (8 * (d.slotsOf n).length + 1) else d

/-- A wake wire fires (R411): a sleeping cluster, or for a job creator one that is OFF, starts to wake. -/
def Dev.wakeWire (d : Dev) (n cause : Nat) (fromOff : Bool) : Dev :=
  let c := d.clu n
  if c.pst = 1 ∨ (c.pst = 2 ∧ fromOff) then d.modClu n fun c => { c with waking := true, wake := cause } else d

/-- The tick at which a wait of a job that begins now expires, by the WAIT_TMO of its context that its cluster's Forester has adopted
(R410). -/
def Dev.watchTick (d : Dev) (now j : Nat) : Nat :=
  tickCeil (now + bitsOf (SMap.get 0 (d.clu (j / 4096)).wtmo (d.job j).ctx) 0 24 * usT)

/-! ### Ending a job (R397) -/

/-- The runs of 1 bits of a mask from bit `lo` on, over `n` bits, as (start, length). -/
def maskRuns (m lo : Nat) : Nat → List (Nat × Nat)
  | 0 => []
  | n + 1 =>
    let r := maskRuns m lo n
    if !bitAt m (lo + n) then r
    else match r.getLast? with
      | some (a, k) => if a + k = lo + n then r.dropLast ++ [(a, k + 1)] else r ++ [(lo + n, 1)]
      | none => [(lo + n, 1)]

/-- Bytes of a sequencer's store written at a place of this module: memory behind a slice or controller, or a core's window;
a window of a cluster that is OFF drops them and counts them; a place that is absent drops them (R441, R451). -/
def Dev.putLocal (d : Dev) (core job a : Nat) (bs : List Byte) : Dev :=
  match d.target a with
  | .ext _ _ | .clearing _ => d.store a bs false (some core) (some (d.jobPart job))
  | .core c off =>
    if (d.clu (cluOfCore c)).pst = 2 then d.bump .CLU_OFFACC [cluOfCore c]
    else if d.winBusy c off then { d with held := d.held ++ [.acm c off bs] }
    else d.poke a bs
  | _ => d

/-- Block numbers of the merging buffer at and above this one are of other modules, by their global address. -/
def farBlock : Nat := 2 ^ 49

/-- Bytes put into a list at a place. -/
def putAt (l : List Byte) (o : Nat) (bs : List Byte) : List Byte := l.take o ++ bs ++ l.drop (o + bs.length)

/-- A line as a store of the thread leaves it (R444, R445): the bytes from `o` on; granules written whole lose their marks (R79). -/
def L1Line.write (l : L1Line) (o : Nat) (bs : List Byte) : L1Line :=
  let clear (k v : Nat) : Nat := if o ≤ 64 * k ∧ 64 * k + 64 ≤ o + bs.length then setBits v k 1 0 else v
  { l with data := putAt l.data o bs, poison := clear 1 (clear 0 l.poison) }

/-- The lines that a core holds of a block take the bytes of a store on (R444, R445). -/
def Dev.l1Write (d : Dev) (core line o : Nat) (bs : List Byte) : Dev :=
  let f (l : L1Line) : L1Line := if l.line = line then l.write o bs else l
  d.modSq core fun s => { s with l1 := s.l1.map fun p => (p.1, f p.2), side := s.side.map f }

/-- A merging-buffer entry written to its destination: the masked bytes as one write, which the core's own lines take on too, or to another
module as WR messages, one for each run of bytes (R444, R445, R522). -/
def Dev.writeEntry (d : Dev) (now core : Nat) (e : MbEnt) : Dev :=
  let a := e.block % farBlock * 128
  if e.block < farBlock then
    ([0, 64].flatMap fun g => maskRuns e.mask g 64).foldl (fun d r =>
      let bs := (e.data.drop r.1).take r.2
      (d.putLocal core e.job (a + r.1) bs).l1Write core e.block r.1 bs) d
  else
    (maskRuns e.mask 0 128).foldl (fun d r =>
      let k := bitsOf a 44 12
      let body := leBytes 8 (dlaOf a + r.1) ++ leBytes 4 r.2 ++ leBytes 4 0 ++ leBytes 8 0 ++ (e.data.drop r.1).take r.2
      match d.routeCheck k with
      | .send => d.request k now 0x03 0 (laneOfDla (dlaOf a)) 0 body (some e.job) (.store core)
      | _ => d) d

/-- An entry leaves the merging buffer: written, or with a parity error discarded and counted; what follows of the error for its job is
reported later (R450). -/
def Dev.drainEntry (d : Dev) (now core : Nat) (e : MbEnt) : Dev :=
  let f := d.takeFind
  let d := f.1.modSq core fun s => { s with mb := s.mb.filter fun x => x.block != e.block }
  if detIs .mergeBuf f.2 then { d.bump .CORE_MB_PERR [core] with reports := d.reports ++ [(64 + core + 256 * 8, e.job)] }
  else d.writeEntry now core e

/-- An entry drained after the older entries of its 4 KiB page, where it is of another module: the stores to a page leave in program order
(R518). -/
def Dev.drainInOrder (d : Dev) (now core : Nat) (e : MbEnt) : Dev :=
  let old := ((d.core core).sq.mb.takeWhile fun x => x.block != e.block).filter fun x =>
    decide (farBlock ≤ x.block) && x.block / 32 == e.block / 32
  (old.foldl (fun d x => d.drainEntry now core x) d).drainEntry now core e

/-- Every merging-buffer entry of a core drained, oldest first (R444). -/
def Dev.drainMb (d : Dev) (now core : Nat) : Dev := (d.core core).sq.mb.foldl (fun d e => d.drainEntry now core e) d

/-- What a sequencer's wait for an accumulator is kept under among the stalls of the core that holds it (R224). -/
def seqStall (core : Nat) : Nat := 16 + core

/-- A sequencer waits for no accumulator any more: its clk are counted (R224, R308). -/
def Dev.acmWaitEnd (d : Dev) (now core : Nat) : Dev := (d.cores.map (·.1)).foldl (fun d k => d.stallEnd now k (seqStall core)) d

/-- A running thread's core takes an interrupt or trap into Copse (R385, R387, R397). -/
def Dev.trapCore (d : Dev) (now core cause : Nat) : Dev :=
  (((d.acmWaitEnd now core).leaveCore now core).modSq core fun s => { s with user := false, mcause := cause, mAt := now, remote := none }).emit
    (.trap core cause)

/-- Interrupt code of JOB_ENDED as mcause holds it (R388). -/
def jobEndedCause : Nat := 2 ^ 63 + 16

/-- Steps 1 to 3 of R397, for the first ending cause a job meets: its delay and WAIT entries go, its threads leave their
cores and slots, its engine work is discarded, its merging buffers drain. -/
def Dev.endJob (d : Dev) (now j : Nat) (cause : EndCause) : Dev :=
  let b := d.job j
  if b.live && b.ending.isNone then
    let n := j / 4096
    let hs := (d.slotsOf n).filter fun h => (d.thr h).job == j && (d.thr h).st != .free
    let cores := (List.range 8).map (n * 8 + ·)
    let runs := cores.filter fun c => match (d.core c).sq.cur with | some h => hs.contains h | none => false
    let streams := cores.flatMap fun c => [0, 1].filterMap fun s =>
      if ((d.core c).se s).ring.mode ≠ 0 ∧ ((d.core c).se s).ring.job = j then some (c, s) else none
    let gone (o : Mon) : Bool :=
      match o.dst with
      | .thread h _ => hs.contains h
      | .stream c s => streams.contains (c, s)
      | .layer l _ => d.tabs.parts.any fun p => p.job == some j && p.layer && p.target == l
      | _ => false
    let d := d.modJob j fun b => { b with ending := some cause, deadTick := none, halted := false }
    let d := runs.foldl (fun d c => (d.drainMb now c).trapCore now c jobEndedCause) d
    let d := cores.foldl (fun d c => if (d.core c).sq.mb.any (·.job == j) then d.drainMb now c else d) d
    let d := cores.foldl (fun d c => (d.dropWork now c j).modSq c fun s => { s with loc := s.loc.filter fun h => !hs.contains h }) d
    let d := hs.foldl (fun d h => d.modThr h fun t => { t with st := .drain, watch := none, delay := none }) d
    let d := d.onSync fun s => { s with mons := s.mons.filter fun o => !gone o, retry := s.retry.filter fun o => !gone o }
    let d := d.onNet fun t => { t with
      outst := t.outst.filter fun o => !(o.job == some j && (match o.who with | .wait _ _ => true | _ => false)) }
    let d := match cause with
      | .deadline => d.bump .FOR_DLFIRE [n]
      | _ => d
    d.schedule now n
  else d

/-- A job ended under a refusal of an engine or sequencer rule (R611). -/
def Dev.refuseJob (d : Dev) (now j status : Nat) : Dev := d.endJob now j (.refusal status)

/-! ### Tokens (R383) -/

/-- A token delivered to operand `k` of a thread; `src` for WAIT and SEND tokens. An operand already arrived ends the
receiver's job with E_STATE. -/
def Dev.token (d : Dev) (now h k : Nat) (v : Word) (src : Bool) : Dev :=
  let t := d.thr h
  if t.st = .free ∨ t.st = .drain then d
  else if bitAt t.arr k then (d.bump .FOR_TOKERR [cluOf h]).refuseJob now t.job eState
  else
    let t1 := t.fill k v src
    let wakes := t.st = .wait && t1.met
    let t2 := if wakes then { t1 with st := .ready, readyAt := now, watch := none } else t1
    let d := d.modThr h fun _ => t2
    if wakes then d.schedule now (cluOf h) else d

/-- An engine completion as its entry asks for it (R380). -/
def Dev.complete (d : Dev) (now : Nat) (e : QEnt) (v : Word) : Dev :=
  if e.tok then d.token now e.thr e.k v false else d

/-! ### Thread and job slots (R381, R395, R396) -/

/-- The lowest free slot of a cluster. -/
def Dev.freeSlot (d : Dev) (n : Nat) : Option Nat :=
  let used := d.slotsOf n
  (List.range (used.length + 1)).findSome? fun i =>
    if i < 4096 ∧ !used.contains (n * 4096 + i) then some (n * 4096 + i) else none

/-- The lowest free job number of a cluster. -/
def Dev.freeJob (d : Dev) (n : Nat) : Option Nat :=
  let used := (d.jobs.map (·.1)).filter fun j => j / 4096 == n
  (List.range (used.length + 1)).findSome? fun i =>
    if i < 4096 ∧ !used.contains (n * 4096 + i) then some (n * 4096 + i) else none

/-- A slot made FREE (R394). -/
def Dev.freeThr (d : Dev) (h : Nat) : Dev := { d with threads := d.threads.del h }

/-- Slots in DRAIN of jobs that go on are freed once no engine work is tagged with them (R394). -/
def Dev.reap (d : Dev) (n : Nat) : Dev :=
  let ks := (List.range 8).map fun i => d.core (n * 8 + i)
  let gone := (d.slotsOf n).filter fun h => (d.thr h).st == .drain && (d.job (d.thr h).job).ending.isNone &&
    ks.all fun k => !k.works fun e => e.thr == h
  gone.foldl Dev.freeThr d

/-- Serving threads ready or waiting on a cluster, as FOR_LOAD.SERVE counts them (R105, R415). -/
def Dev.serveLoad (d : Dev) (n : Nat) : Nat :=
  ((d.slotsOf n).filter fun h => (d.job (d.thr h).job).serve &&
    ((d.thr h).st == .ready || (d.thr h).st == .local_ || (d.thr h).st == .wait)).length

/-- The cluster that R105 chooses among those of a mask: the fewest serving threads, then the nearest die, then the
lowest number. -/
def Dev.chooseCluster (d : Dev) (mask tl : Nat) : Option Nat :=
  let cs := (bitList 16 mask).filter d.cluHere
  let low := (cs.map d.serveLoad).foldl min (2 ^ 32)
  let best := cs.filter fun n => d.serveLoad n == low
  match (best.filter fun n => n / 8 == tl).head? with
  | some n => some n
  | none => best.head?

/-- The mode of a job as it starts (R249): a retry keeps the mode of its first attempt; another job is counted, and is observed
when the module's state or its cluster forces that, or its cluster samples it. -/
def Dev.jobMode (d : Dev) (n : Nat) (keep : Option Bool) : Dev × Bool :=
  match keep with
  | some o => (d, o)
  | none =>
    let c := bitsOf (d.rd .CLU_MQJOBS [n]) 0 32
    let sh := d.cfgF .CLU_MQCFG [n] 0 5
    let o := d.obsState || d.cfgF .CLU_MQCFG [n] 5 1 == 1 || (sh != 31 && c % 2 ^ sh == 2 ^ sh - 1)
    let d := d.bump .CLU_MQJOBS [n]
    (if o then d.bump .CLU_MQOBS [n] else d, o)

/-- A job created on a cluster with one ready thread (R395, R396); none when no slot or number is free. -/
def Dev.createJob (d : Dev) (now n : Nat) (b : Job) (args : List Word) (wake : Nat) (keep : Option Bool := none) :
    Option (Dev × Nat) :=
  match d.freeSlot n, d.freeJob n with
  | some h, some j =>
    let t : Thread := { st := .ready, job := j, o0 := args.getD 0 0, o1 := args.getD 1 0, o2 := args.getD 2 0,
                        o3 := args.getD 3 0, arr := 0xF, prio := b.prio, ctx := BitVec.ofNat 64 (b.entry / 4 * 4 + 1),
                        readyAt := now }
    let r := d.jobMode n keep
    let d := (r.1.modThr h fun _ => t).modJob j fun _ => { b with live := true, startAt := now, obs := r.2 }
    some ((d.wakeWire n wake true).schedule now n, j)
  | _, _ => none

/-! ### Sync objects (R401-R410) -/

/-- The home cluster of an object. -/
def syncHome (n : Nat) : Nat := n / 8192

def Dev.syncVal (d : Dev) (n : Nat) : Word := SMap.get 0 d.sync.vals n
def Dev.syncBroken (d : Dev) (n : Nat) : Bool := SMap.get false d.sync.broken n
def Dev.putSync (d : Dev) (n : Nat) (v : Word) : Dev := d.onSync fun s => { s with vals := s.vals.put 0 n v }

/-- A monitor's condition (R402). -/
def Mon.holds (o : Mon) (v : Word) : Bool := if o.eq then v == o.val else decide (o.val.toNat ≤ v.toNat)

/-- A monitor's token sent with the object's value (R403, R408). -/
def Dev.fire (d : Dev) (now : Nat) (o : Mon) (v : Word) : Dev :=
  let d := d.bump .SYN_FIRES [syncHome o.obj]
  match o.dst with
  | .thread h k => (d.token now h k v true).wakeWire (cluOf h) 1 false
  | .stream c se => d.modCore c fun k => k.streamToken se
  | .layer l _ => d.layerToken l
  | .remote p t => d.respond p now 0x13 sOk t (leBytes 8 v.toNat)

/-- After an operation on an object its monitors are tested in arming order; each satisfied one is released (R403). -/
def Dev.testMons (d : Dev) (now n : Nat) : Dev :=
  let v := d.syncVal n
  let hit := d.sync.mons.filter fun o => o.obj == n && o.holds v
  let d := d.onSync fun s => { s with mons := s.mons.filter fun o => !(o.obj == n && o.holds v) }
  hit.foldl (fun d o => d.fire now o v) d

/-- ADD at the home: v before, and the state after (R402). A broken object changes nothing (R609). -/
def Dev.syncAdd (d : Dev) (now n : Nat) (a : Word) : Dev :=
  if d.syncBroken n then d
  else ((d.bump .SYN_OPS [syncHome n]).putSync n (d.syncVal n + a)).testMons now n

/-- SET at the home (R402); it repairs a broken object (R609). -/
def Dev.syncSet (d : Dev) (now n : Nat) (a : Word) : Dev :=
  let d := d.onSync fun s => { s with broken := s.broken.put false n false }
  ((d.bump .SYN_OPS [syncHome n]).putSync n a).testMons now n

/-- Monitors a sync unit holds (R407). -/
def Dev.monsAt (d : Dev) (n : Nat) : Nat := (d.sync.mons.filter fun o => syncHome o.obj == n).length

/-- WAIT at the home (R403, R407): performed once it fires or holds a monitor (R418). -/
def Dev.syncWait (d : Dev) (now : Nat) (o : Mon) : Dev :=
  let n := syncHome o.obj
  if d.syncBroken o.obj then d
  else
    if o.holds (d.syncVal o.obj) then (d.bump .SYN_OPS [n]).fire now o (d.syncVal o.obj)
    else if d.monsAt n < 4096 then
      ((d.bump .SYN_OPS [n]).bump .SYN_WAITS [n]).onSync fun s => { s with mons := s.mons ++ [{ o with at_ := now }] }
    else (d.bump .SYN_MONFULL [n]).onSync fun s => { s with retry := s.retry ++ [{ o with at_ := now }] }

end Sys2Proof.Machine
end

