-- ==== Sys2Proof/Machine/FaultOps.lean ====
section
/-! DEFINITION. Faults attributed to a core or a slice, mapping out in RUN, and the entry to FAULT_HOLD (spec/18 R610 to R623). -/

namespace Sys2Proof.Machine

/-! ### Losing the rails (spec/17 R570, R571) -/

/-- Registers that come from fuses and stay readable while the Understory runs. -/
def fuseRegs : List Reg := [.CAP_PART, .CAP_BUILT, .SEC_FUSE, .SEC_BUILD, .ETH_MACBASE, .SFX_IDENT]

/-- Everything but the Understory is reset (R570, R623): its own counters stay until BOOT; what has left the module, the count
of free values and the host's own view of its link stay. -/
def Dev.powerDown (d : Dev) : Dev :=
  { rg := d.rg.filter fun p => p.1 < Reg.TEL_PCAP.off []
    host := { link := d.host.link, linkReg := d.host.linkReg }
    obsState := d.obsState
    findings := d.findings
    fresh := d.fresh
    out := d.out }

/-- The registers at their values on entry to BOOT (R15): those from fuses stay. -/
def Dev.bootRegs (d : Dev) : Dev :=
  let keep := fuseRegs.map fun r => r.off []
  { d with rg := d.rg.filter fun p => keep.contains p.1 }

/-- The states in which every job starts in observed mode (R249). -/
def MSt.observes (st : MSt) : Bool :=
  match st with
  | .boot | .memtrain | .linkup | .recovery => true
  | _ => false

/-- A state entered; one out of RECOVERY returns the TAP to Test-Logic-Reset (R569, R643). -/
def Mach.toState (m : Mach) (st : MSt) : Mach :=
  let u := m.und
  let mg := if u.st = .recovery then { u.mgmt with tap := 0 } else u.mgmt
  { m with
    und := { u with st := st, stateAt := u.now, drainTo := none, mgmt := mg }
    dev := { m.dev with obsState := st.observes } }

/-- A FLASH that is interrupted leaves the image area of the flash invalid (R586): it reads as erased. -/
def Nv.breakFlash (n : Nv) : Nv :=
  if n.flashBusy then { n with flash := n.flash.filter fun p => 0x7800000 ≤ p.1, flashBusy := false } else n

/-- FAULT_HOLD is entered for a cause of R590 or R622 (R623). -/
def Mach.faultHold (m : Mach) (cause : Nat) : Mach :=
  let m := m.toState .faultHold
  let m := { m with nv := m.nv.breakFlash, und := { m.und with holdCause := cause, rails := 0, rcv := {} }, dev := m.dev.powerDown }
  m.event 0x0502 3 (evUnit 9 0) cause

/-! ### The map-out of a core or cluster in RUN (R617, R618) -/

def Units.or (a b : Units) : Units :=
  ⟨a.cores ||| b.cores, a.clusters ||| b.clusters, a.slices ||| b.slices, a.hbms ||| b.hbms, a.lpds ||| b.lpds, a.ports ||| b.ports⟩

/-- The units of a set that another does not hold. -/
def Units.minus (a b : Units) : Units :=
  ⟨a.cores &&& (a.cores ^^^ b.cores), a.clusters &&& (a.clusters ^^^ b.clusters), a.slices &&& (a.slices ^^^ b.slices),
   a.hbms &&& (a.hbms ^^^ b.hbms), a.lpds &&& (a.lpds ^^^ b.lpds), a.ports &&& (a.ports ^^^ b.ports)⟩

/-- Units leave: they are no longer present, and the record is to list them (R617, R620). -/
def Mach.leaveUnits (m : Mach) (u : Units) : Mach :=
  { m with und := { m.und with newOut := m.und.newOut.or u }, dev := { m.dev with pres := m.dev.pres.minus u } }

/-- The jobs that end with a core (R618 step 2). -/
def Dev.jobsOn (d : Dev) (c : Nat) : List Nat :=
  let n := cluOfCore c
  let run := match (d.core c).sq.cur with | some h => [(d.thr h).job] | none => []
  let pin := ((d.slotsOf n).filter fun h => (d.thr h).pin == some c && (d.thr h).st != .free).map fun h => (d.thr h).job
  let eng := (d.core c).places.map (·.job) ++ ([(d.core c).se0, (d.core c).se1].filter fun s => s.ring.mode != 0).map (·.ring.job)
  run ++ pin ++ eng

/-- A core is mapped out in RUN; with the last core of a cluster the cluster goes too; with the last cluster the module is held
(R617, R618, R622). -/
def Mach.mapOutCore (m : Mach) (c : Nat) : Mach :=
  let now := m.und.now
  let n := cluOfCore c
  let js := m.dev.jobsOn c
  let m := m.leaveUnits { cores := 2 ^ c }
  let m := m.onDev fun d =>
    let d := match (d.core c).sq.loc with
      | some h => (d.modThr h fun t => { t with st := .ready }).modSq c fun s => { s with loc := none }
      | none => d
    (js.foldl (fun d j => d.endJob now j .fault) d).schedule now n
  let m := m.event 0x0302 1 (evUnit 1 c) (bitsOf (m.dev.rd .CORE_FLT [c]) 0 32)
  if bitsOf m.dev.pres.cores (n * 8) 8 ≠ 0 then m
  else
    let m := (m.leaveUnits { clusters := 2 ^ n }).onDev fun d => d.modClu n fun x => { x with pst := 3, waking := false }
    let m := m.event 0x0303 1 (evUnit 2 n) 0
    if m.dev.pres.clusters = 0 && m.und.st.serves then m.faultHold 9 else m

/-- A fault of a core counted; when its count in the window reaches CORE_THR the core is mapped out, or only reported
(R612, R617). -/
def Mach.countFault (m : Mach) (core : Nat) : Mach :=
  let m := m.onDev fun d => d.bump .CORE_FLT [core]
  let m := m.onDev fun d => { d with fltWin := ⟨d.fltWin.seen.mod [] core fun l => l ++ [m.und.now]⟩ }
  let thr := m.dev.cfgF .UND_FLTCFG [] 0 8
  if thr ≠ 0 ∧ (SMap.get [] m.dev.fltWin.seen core).length = thr ∧ m.dev.coreHere core then
    if m.dev.cfgF .UND_FLTCFG [] 24 1 = 1 then m.mapOutCore core
    else m.event 0x0306 1 (evUnit 1 core) (bitsOf (m.dev.rd .CORE_FLT [core]) 0 32)
  else m

/-- A fault attributed to a core (R610, R612): the job ends, the fault is recorded as CORE_FAULT with its structure, and
counted. -/
def Mach.coreFault (m : Mach) (core j struct_ : Nat) : Mach :=
  let m := m.onDev fun d => d.endJob m.und.now j .fault
  (m.event 0x0301 2 (evUnit 1 core) (struct_ + (j % 4096) * 256)).countFault core

/-- A line or granule of a slice poisoned by a parity error reported, and the slice recorded when its count in the window reaches
SLICE_THR (R430, R617, R620). -/
def Mach.sliceFault (m : Mach) (k a : Nat) : Mach :=
  let m := m.event 0x0201 2 (evUnit 3 k) a
  let m := m.onDev fun d => { d with fltWin := ⟨d.fltWin.seen.mod [] (256 + k) fun l => l ++ [m.und.now]⟩ }
  let thr := m.dev.cfgF .UND_FLTCFG [] 32 8
  let n := (SMap.get [] m.dev.fltWin.seen (256 + k)).length
  if thr ≠ 0 ∧ n = thr then
    ({ m with und := { m.und with newOut := m.und.newOut.or { slices := 2 ^ k } } }).event 0x0202 1 (evUnit 3 k) n
  else m

/-- One error found reported: of a slice with its place (R430); of a core, which stands under 64 plus the core plus 256 times the structure,
with the job (R450, R610, R612), where no job owns the access under structure 0, which is only counted. -/
def Mach.reportErr (m : Mach) (p : Nat × Nat) : Mach :=
  if p.1 < 64 then m.sliceFault p.1 p.2
  else if (p.1 - 64) / 256 = 0 then m.countFault (p.1 - 64)
  else m.coreFault ((p.1 - 64) % 256) p.2 ((p.1 - 64) / 256)

/-- The errors found so far reported. -/
def Mach.flushReports (m : Mach) : Mach := m.dev.reports.foldl Mach.reportErr (m.onDev fun d => { d with reports := [] })

end Sys2Proof.Machine
end

