-- ==== Sys2Proof/Machine/HostOps.lean ====
section
/-! DEFINITION. Completion records, the operations of command slots and MSI-X (spec/16 R548-R558). -/

namespace Sys2Proof.Machine

/-- The context that owns a slot (R551): the enabled one whose groups include it, else the lowest that includes it. -/
def Dev.slotCtx (d : Dev) (slot : Nat) : Option Nat :=
  let own := (List.range 64).filter fun n =>
    let v := d.cfg .CXL_CTX [n]
    bitsOf v 2 8 ≤ slot / 16 && slot / 16 < bitsOf v 2 8 + bitsOf v 10 9
  match (own.filter fun n => bitAt (d.cfg .CXL_CTX [n]) 0).head? with
  | some n => some n
  | none => own.head?

/-- The operation of a slot whose completion is not final: a suspended or covering one has a final completion already. -/
def Dev.slotOp (d : Dev) (slot : Nat) : Option HOp :=
  d.host.ops.find? fun o => o.slot == slot && o.st != .final && o.st != .suspended && o.st != .covering

/-- The operation with a handle. -/
def Dev.handleOp (d : Dev) (h : Nat) : Option HOp := d.host.ops.find? fun o => o.handle == h && o.st != .final

def Dev.modOp (d : Dev) (handle : Nat) (f : HOp → HOp) : Dev :=
  d.onHost fun h => { h with ops := h.ops.map fun o => if o.handle = handle then f o else o }

/-- Long operations (R554). -/
def longCodes : List Nat := [0x0110, 0x0111, 0x0112, 0x0113, 0x0114, 0x0115, 0x0120, 0x0123, 0x0125]

/-- A completion record of 64 bytes: common bytes and results as (offset, bytes, value) (R553). -/
def completionBytes (seq status ctx opc handle : Nat) (res : List (Nat × Nat × Nat)) : List Byte :=
  let base := leBytes 4 seq ++ leBytes 1 status ++ leBytes 1 ctx ++ leBytes 2 opc ++ leBytes 4 handle ++ leBytes 4 0
  leBytes 64 (res.foldl (fun v r => setBits v (8 * r.1) (8 * r.2.1) r.2.2) (leNat base))

/-- A version of a slot's completion record written as one update (R553). -/
def Dev.writeRecord (d : Dev) (o : HOp) (status : Nat) (res : List (Nat × Nat × Nat)) : Dev :=
  d.poke (statusWin + o.slot * 64) (completionBytes o.seq status o.ctx o.copc o.handle res)

/-- An operation's completion made final: the record, the count of refusals, the context's MSI-X vector (R550, R565). -/
def Dev.finish (d : Dev) (o : HOp) (status : Nat) (res : List (Nat × Nat × Nat)) (keep : OpSt := .final) : Dev :=
  let d := (d.writeRecord o status res).modOp o.handle fun q => { q with st := keep }
  let d := if 0x10 ≤ status ∧ status ≤ 0x1F then d.bump .CXL_REFUSED else d
  let d := if o.irq && d.host.link then (d.emit (.msix (d.cfgF .CXL_CTX [o.ctx] 38 11))).bump .CXL_MSIX else d
  d.onHost fun h => { h with ops := h.ops.filter fun q => q.st != .final }

/-- The results an operation has reached, in the layout of its command (R555 and each command's own rule). -/
def HOp.results (o : HOp) (d : Dev) (now : Nat) : List (Nat × Nat × Nat) :=
  match o.opc with
  | 0x0110 => [(16, 4, (now - o.at_) / usT), (20, 1, (o.job.getD 0) / 4096)]
  | 0x0111 | 0x0112 | 0x0115 => [(16, 8, o.done)]
  | 0x0113 => [(16, 4, if o.aux = 0 then 0xFFFFFFFF else o.aux - 1)]
  | 0x0130 => [(16, 4, 0xFFFFFFFF)]
  | 0x0114 => [(16, 4, o.aux % 2 ^ 32), (20, 4, o.aux / 2 ^ 32)]
  | 0x0120 =>
    let r := SMap.get {} d.tabs.repls o.handle
    [(16, 4, o.done), (20, 4, r.skipped), (24, 4, r.faulted)]
  | 0x0123 => [(16, 4, o.done), (20, 4, o.aux)]
  | 0x0125 => [(16, 4, o.done % 2 ^ 32), (20, 4, o.done / 2 ^ 32), (24, 8, o.aux)]
  | 0x0102 => [(16, 4, o.held.length)]
  | 0x0101 => [(16, 8, d.rd .CXL_EPOCH)]
  | _ => []

/-- The completion of the command in a slot made final with its results so far. -/
def Dev.finishSlot (d : Dev) (now slot status : Nat) : Dev :=
  match d.slotOp slot with
  | some o => d.finish o status (o.results d now)
  | none => d

/-- A SUSPEND, RESUME or CANCEL of a slot completed. -/
def Dev.finishReq (d : Dev) (slot status : Nat) : Dev :=
  match d.slotOp slot with
  | some o => d.finish o status []
  | none => d

/-- An operation that reached the point where it stops: suspended, with its completion final as E_SUSPENDED and the
SUSPEND completed OK (R557, R558). -/
def Dev.stopSuspended (d : Dev) (now : Nat) (o : HOp) : Dev :=
  match o.st with
  | .suspending by_ => (d.finish o eSuspended (o.results d now) .suspended).finishReq by_ sOk
  | _ => d

/-- An operation that reached the point where it stops: cancelled (R558, R667). -/
def Dev.stopCancelled (d : Dev) (now : Nat) (o : HOp) : Dev :=
  let d := d.finish o eCancelled (o.results d now)
  let d := match o.cancelBy with | some s => d.finishReq s sOk | none => d
  match o.st with | .suspending by_ => d.finishReq by_ eState | _ => d

end Sys2Proof.Machine
end

