-- ==== Sys2Proof/Machine/QfeOps.lean ====
section
/-! DEFINITION. Answers, histograms, jobs of queries, and the report of a job that has ended (spec/03 R105-R119, spec/12
R397, spec/18 R611). -/

namespace Sys2Proof.Machine

/-- Fields of a class descriptor (R102). -/
def clsF (desc : List Byte) (o n : Nat) : Nat := recNum desc o n
def clsEnable (desc : List Byte) : Bool := bitAt (clsF desc 0 1) 0
def clsPartial (desc : List Byte) : Bool := bitAt (clsF desc 0 1) 1
def clsUdp (desc : List Byte) : Bool := bitAt (clsF desc 0 1) 2
def clsSfx (desc : List Byte) : Bool := bitAt (clsF desc 0 1) 3

/-- The query with a key on a front end. -/
def Qfe.find (q : Qfe) (k : QKey) : Option Query := q.keys.find? fun x => x.key == k

def Qfe.put (q : Qfe) (x : Query) : Qfe := { q with keys := q.keys.map fun y => if y.key = x.key then x else y }

/-- A query is active: open, in a job, or about to retry (R83, R92). -/
def Query.active (x : Query) : Bool := match x.st with | .held _ => false | _ => true

/-- Base DLA and pages of a front end's reassembly region in force (R117). -/
def Dev.rasmBase (d : Dev) (t : Nat) : Nat := d.cfgF .QFE_RASM [t] 0 32 * 4096
def Dev.rasmPages (d : Dev) (t : Nat) : Nat := d.cfgF .QFE_RASM [t] 32 16 * 256

/-- Pages that queries hold (R93). -/
def Qfe.usedPages (q : Qfe) : Nat := ((q.keys.filter Query.active).map (·.pgs.length)).foldl (· + ·) 0

/-- The DLA of a query's record, that of its first page, and of its answer buffer, which ends its reservation (R93, R106). -/
def Query.recAt (x : Query) : Nat := x.pgs.headD 0 * 4096
def Query.abufAt (x : Query) : Nat := (x.pgs.getLastD 0 + 1) * 4096 - 1088

/-- Where `n` bytes at an offset of a query's record lie in its pages: offset among the bytes, DLA, length (R95). -/
def Query.spans (x : Query) (off n : Nat) : List (Nat × Nat × Nat) :=
  (List.range (ceilDiv (off % 4096 + n) 4096)).map fun i =>
    let o := max off ((off / 4096 + i) * 4096)
    (o - off, x.pgs.getD (o / 4096) 0 * 4096 + o % 4096, min (off + n) ((off / 4096 + i + 1) * 4096) - o)

/-- The latency bin of R119 for a latency in twelfths of a nanosecond: bin edges are powers of the eighth root of two,
compared as eighth powers. -/
def latBin (l : Nat) : Nat :=
  if l < usT then 0
  else 1 + ((List.range 126).filter fun k => usT ^ 8 * 2 ^ (k + 1) ≤ l ^ 8).length

/-- An answer counted by class and status, and in the histogram when its record was valid (R115, R117, R118). -/
def Dev.countAnswer (d : Dev) (t : Nat) (x : Query) (status lat : Nat) : Dev :=
  let d := if status = sOk then d.bump .QFE_CLSA [t, x.cls] else if status = eDeadline then d.bumpHi .QFE_CLSA [t, x.cls]
    else d.bump .QFE_CLSB [t, x.cls]
  if x.valid then
    let b := latBin lat
    if b % 2 = 0 then d.bump .QFE_HIST [t, x.cls * 64 + b / 2] else d.bumpHi .QFE_HIST [t, x.cls * 64 + b / 2]
  else d

/-- The 32-byte answer header and the entries (R113). -/
def answerBytes (x : Query) (status k scored lat module : Nat) (entries : List Byte) : List Byte :=
  let h := leBytes 1 1 ++ leBytes 1 2 ++ leBytes 1 x.cls ++ leBytes 1 status ++ leBytes 8 x.key.qid ++ leBytes 1 k ++
    leBytes 1 x.attempts ++ leBytes 2 (if k = 0 then 0 else scored) ++ leBytes 4 (lat / usT) ++
    leBytes 4 (if x.valid then x.recTag else 0) ++ leBytes 2 (module % 4096) ++ leBytes 2 0
  h ++ leBytes 4 (crc32c (h ++ entries)) ++ entries

/-- The sub-port an answer leaves on (R113): the one that received the last fragment, else the lowest of the Treeline up in Ethernet mode.
R113 speaks of ports: a port with several sub-ports is judged by each of them, and the lowest port's lowest sub-port is taken (DESIGN
CHOICE, log 89). -/
def Dev.answerPort (d : Dev) (t : Nat) (x : Query) : Option (Nat × Nat) :=
  let isUp (n s : Nat) := bitAt (d.port n).up s && d.portMode n != 4 && d.portMode n != 0
  if isUp x.rxPort x.rxSub then some (x.rxPort, x.rxSub)
  else (List.range 18).findSome? fun i =>
    let n := t * 18 + i
    ((List.range 4).find? fun s => isUp n s).map fun s => (n, s)

/-- The next hop of a query answer (R500, R113): by the address entry that the query was sent to; the destination itself where that entry is
no longer in force (DESIGN CHOICE, log 89). -/
def Dev.answerHop (d : Dev) (x : Query) : Nat :=
  match ((List.range 8).filterMap d.addrEnt).find? fun a => a.v6 == x.key.v6 && a.addr == x.dstAddr with
  | some a => a.hopFor x.key.addr
  | none => x.key.addr

/-- A query answer leaves on a sub-port. While the MAC address of its next hop is not known, that is asked for and the answer waits for it:
R501 speaks of Salrex packets alone (DESIGN CHOICE, log 89). -/
def Dev.sendAnswer (d : Dev) (n s : Nat) (x : Query) (sport : Nat) (bytes : List Byte) : Dev :=
  let hop := d.answerHop x
  let o := d.datagram n s x.key.v6 hop x.dstAddr x.key.addr sport x.key.port x.dscp 0 bytes
  let prio := d.dscpPrio x.dscp
  if d.resolved n x.key.v6 hop then d.sendFrame n s prio o
  else (d.onNet fun t => { t with hopq := t.hopq ++ [(n / 18, addrKey x.key.v6 hop, prio, o)] }).askNbr n s
    { v6 := x.key.v6, plen := 0, ports := 0, addr := x.dstAddr, gw := 0 } hop

/-- ANSWER_SEND: the answer built and handed to a port or to Salrex, counted, and the key held (R98, R113-R115). One to a peer lost
since it asked, whose tag stands 2^64 higher, is dropped (R534). -/
def Dev.answer (d : Dev) (now t : Nat) (x : Query) (status k scored : Nat) (entries : List Byte) : Dev :=
  let lat := now - x.lastAt
  let bytes := answerBytes x status k scored lat d.ownId entries
  let d :=
    if x.key.udp then
      match d.answerPort t x with
      | some (n, s) => d.sendAnswer n s x (d.cfgF .QFE_UDP [t] 0 16) bytes
      | none => d.bump .QFE_TXFAIL [t]
    else if (d.peer x.key.addr).st = .lost ∨ 2 ^ 64 ≤ x.sfxTag then d.bump .QFE_TXFAIL [t]
    else d.respond x.key.addr now 0x15 status x.sfxTag bytes
  let d := d.countAnswer t x status lat
  let held := { x with st := .held (now + d.cfgF .QFE_UDP [t] 16 16 * usT), pgs := [] }
  d.setQfe t { (d.qfe t).put held with keys := ((d.qfe t).keys.filter fun y => y.key != x.key) ++ [held] }

/-- An answer from the job's answer buffer (R108-R110): the selected half, at most K entries; poison there answers E_POISON with K = 0
(R116), that of a deadline too, whose status R111 keeps only from faults of abandoned work (DEDUCED, log 89). A job that ends OK with
PUB.VALID 0, of which R109 does not speak, is answered OK with K = 0 (DESIGN CHOICE, log 89). -/
def Dev.answerPub (d : Dev) (now t : Nat) (x : Query) (status : Nat) : Dev :=
  let a := x.abufAt
  let pub := d.num a 8
  let k := min (bitsOf pub 8 8) (clsF x.desc 1 1)
  let half := a + 64 + 512 * bitsOf pub 0 1
  if d.poisoned a 8 || (bitAt pub 1 && d.poisoned half (8 * k)) then
    d.answer now t x ePoison 0 0 []
  else if bitAt pub 1 then d.answer now t x status k (bitsOf pub 16 16) (d.bytes half (8 * k))
  else d.answer now t x status 0 0 []

/-- A program of the store by ID (R580). -/
def Dev.progOf (d : Dev) (id : Nat) : Option Prog := d.progs.find? fun p => p.id == id && !p.old

/-- JOB_CREATE for a valid record or a retry, which is counted as it starts (R105, R106, R112, R117, R618). The deadline argument is in
ticks of 1 µs (R375), rounded up where the deadline falls between two: no rule says which way (DEDUCED, log 111). -/
def Dev.queryJob (d : Dev) (now t : Nat) (x : Query) (keep : Option Bool := none) : Dev :=
  match d.chooseCluster (clsF x.desc 24 2) t with
  | none => d.answer now t x eRange 0 0 []
  | some n =>
    let p := d.progOf (clsF x.desc 8 4)
    let b : Job :=
      { ctx := 0, prio := clsF x.desc 3 1 % 8, part := clsF x.desc 4 1, serve := true,
        creator := .query t x.recAt, prog := clsF x.desc 8 4, entry := (p.map (·.entry)).getD 0, deadTick := some (tickCeil x.deadline) }
    let args := [x.recAt, x.abufAt, x.cands, tickCeil x.deadline].map (BitVec.ofNat 64)
    match d.createJob now n b args 3 keep with
    | some (d', j) =>
      let d' := if keep.isSome then d'.bumpHi .QFE_CLSB [t, x.cls] else d'
      d'.setQfe t ((d'.qfe t).put { x with st := .job j, attempts := x.attempts + 1 })
    | none => (d.bump .FOR_SLOTFULL [n]).answer now t x eBusy 0 0 []

/-- The query whose job is `j`, on either front end. -/
def Dev.queryOf (d : Dev) (j : Nat) : Option (Nat × Query) :=
  match d.qfe0.keys.find? fun x => x.st == .job j with
  | some x => some (0, x)
  | none => (d.qfe1.keys.find? fun x => x.st == .job j).map fun x => (1, x)

/-- The final status of a job (R611). -/
def finalStatus (cause : EndCause) (poison declBad : Bool) : Nat :=
  match cause with
  | .program c => if c = sOk then (if poison then ePoison else if declBad then eState else sOk) else c
  | .fault => if poison then ePoison else eFault
  | .watchdog => if poison then ePoison else eWatchdog
  | .deadline => eDeadline
  | .cancel => eCancelled
  | .refusal c => c
  | .lastExit => eState

/-- The declared objects of a job whose value has changed (R400). -/
def Dev.declChanged (d : Dev) (b : Job) : Nat := (b.decl.filter fun p => d.syncVal p.1 != p.2).length

/-- Whether a serving job's end may be retried (R112). -/
def Query.mayRetry (x : Query) (now status : Nat) : Bool :=
  (status == eFault || status == eWatchdog) && decide (x.attempts < 1 + clsF x.desc 2 1) &&
  decide (now + clsF x.desc 20 4 * usT ≤ x.deadline)

/-- A serving job's status told to its front end: a retry or the answer (R109-R112). -/
def Dev.reportQuery (d : Dev) (now j status : Nat) : Dev :=
  match d.queryOf j with
  | none => d
  | some (t, x) =>
    if x.mayRetry now status then
      let d := d.poke x.abufAt (List.replicate 8 0)
      d.queryJob now t { x with st := .retry } (some (d.job j).obs)
    else if status = sOk ∨ (status = eDeadline ∧ clsPartial x.desc) then d.answerPub now t x status
    else d.answer now t x status 0 0 []

end Sys2Proof.Machine
end

