-- ==== Sys2Proof/Machine/Tile.lean ====
section
/-! DEFINITION. Tiles: the header, the four forms, the check of a tile and the canonical layout (spec/02 R50-R71). -/

namespace Sys2Proof.Machine

/-- The four forms of a tile (R54). -/
inductive Form where
  | dense | csr | bmp | zero
  deriving DecidableEq, Repr, Inhabited

def Form.ofCode : Nat → Option Form
  | 0 => some .dense | 1 => some .csr | 2 => some .bmp | 3 => some .zero | _ => none

def Form.code : Form → Nat
  | .dense => 0 | .csr => 1 | .bmp => 2 | .zero => 3

/-- The tile header's fields (R54). `fin` and `reserved` hold the reserved bytes. -/
structure TileHdr where
  form : Nat
  dtype : Nat
  flags : Nat
  res3 : Nat
  nnz : Nat
  rows : Nat
  cols : Nat
  ptrOff : Nat
  idxOff : Nat
  valOff : Nat
  bytes : Nat
  res16 : Nat
  chk : Nat
  deriving DecidableEq, Repr, Inhabited

/-- `n` bytes of `bs` from offset `o` as a number; missing bytes read as zero. -/
def field (bs : List Byte) (o n : Nat) : Nat := leNat ((bs.drop o).take n)

/-- The header at the front of `bs` (R54). -/
def TileHdr.parse (bs : List Byte) : TileHdr where
  form := field bs 0 1
  dtype := field bs 1 1
  flags := field bs 2 1
  res3 := field bs 3 1
  nnz := field bs 4 2
  rows := field bs 6 1
  cols := field bs 7 1
  ptrOff := field bs 8 2
  idxOff := field bs 10 2
  valOff := field bs 12 2
  bytes := field bs 14 2
  res16 := field bs 16 12
  chk := field bs 28 4

/-- A header's 32 bytes (R54). -/
def TileHdr.build (h : TileHdr) : List Byte :=
  leBytes 1 h.form ++ leBytes 1 h.dtype ++ leBytes 1 h.flags ++ leBytes 1 h.res3 ++ leBytes 2 h.nnz ++
  leBytes 1 h.rows ++ leBytes 1 h.cols ++ leBytes 2 h.ptrOff ++ leBytes 2 h.idxOff ++ leBytes 2 h.valOff ++
  leBytes 2 h.bytes ++ leBytes 12 h.res16 ++ leBytes 4 h.chk

/-- Bytes of one dense row (R57). -/
def denseRowBytes (t : DType) (cols : Nat) : Nat := ceilDiv (cols * t.bits) 8

/-- BYTES of the dense form (R65). -/
def denseSize (t : DType) (rows cols : Nat) : Nat := roundUp (32 + rows * denseRowBytes t cols) 32

/-- VAL_OFF of the canonical layout (R65). -/
def canonValOff (f : Form) (t : DType) (rows nnz : Nat) : Nat :=
  match f with
  | .dense => 32
  | .csr => roundUp (162 + nnz) (t.bits / 8)
  | .bmp => 162 + 8 * rows
  | .zero => 0

/-- BYTES of the canonical layout (R65). -/
def canonSize (f : Form) (t : DType) (rows cols nnz : Nat) : Nat :=
  match f with
  | .dense => denseSize t rows cols
  | .csr => roundUp (canonValOff .csr t rows nnz + nnz * (t.bits / 8)) 32
  | .bmp => roundUp (canonValOff .bmp t rows nnz + ceilDiv nnz 2) 32
  | .zero => 32

/-- The forms a format may take (R63). -/
def formAllowed (f : Form) (t : DType) : Bool :=
  match f with
  | .dense | .zero => true
  | .csr => t != .int4 && t != .int32
  | .bmp => t == .int4

/-- Two byte ranges (start, length) do not overlap. -/
def disjoint (a b : Nat × Nat) : Bool := a.1 + a.2 ≤ b.1 || b.1 + b.2 ≤ a.1 || a.2 == 0 || b.2 == 0

/-- Row pointer `r` of a CSR or bitmap-CSR tile (R59, R61). -/
def rowPtr (bs : List Byte) (h : TileHdr) (r : Nat) : Nat := field bs (h.ptrOff + 2 * r) 2

/-- The row-pointer rules (R60). -/
def ptrsOk (bs : List Byte) (h : TileHdr) : Bool :=
  rowPtr bs h 0 == 0 &&
  (List.range 64).all (fun r => rowPtr bs h r ≤ rowPtr bs h (r + 1)) &&
  (List.range 65).all (fun r => r < h.rows || rowPtr bs h r == h.nnz)

/-- A tile's element format, int8 where the code is reserved. -/
def TileHdr.dt (h : TileHdr) : DType := (DType.ofCode h.dtype).getD .int8

/-- A tile's form, dense where the code is reserved. -/
def TileHdr.fm (h : TileHdr) : Form := (Form.ofCode h.form).getD .dense

/-- The sections of a tile as (start, length) (R57-R62). -/
def TileHdr.sections (h : TileHdr) : List (Nat × Nat) :=
  match h.fm with
  | .dense => [(h.valOff, h.rows * denseRowBytes h.dt h.cols)]
  | .csr => [(h.ptrOff, 130), (h.idxOff, h.nnz), (h.valOff, h.nnz * (h.dt.bits / 8))]
  | .bmp => [(h.ptrOff, 130), (h.idxOff, 8 * h.rows), (h.valOff, ceilDiv h.nnz 2)]
  | .zero => []

/-- No two sections overlap, none overlaps the header, and each ends at or before BYTES (R64). A section without bytes is held to the
same limits: it may not start within the header's 32 bytes (DESIGN CHOICE: R64 does not say where it may stand, log 91). -/
def TileHdr.sectionsOk (h : TileHdr) : Bool :=
  let ss := h.sections
  ss.all (fun s => 32 ≤ s.1 && s.1 + s.2 ≤ h.bytes) &&
  match ss with
  | [a, b, c] => disjoint a b && disjoint a c && disjoint b c
  | _ => true

/-- The rules of the header alone: R51, R54, R55, R57, R59, R61-R64 and the size and NNZ limits of R66. -/
def TileHdr.ok (h : TileHdr) : Bool :=
  (Form.ofCode h.form).isSome && (DType.ofCode h.dtype).isSome && h.flags < 8 && h.res3 == 0 && h.res16 == 0 &&
  1 ≤ h.rows && h.rows ≤ 64 && 1 ≤ h.cols && h.cols ≤ 64 && h.bytes % 32 == 0 && 32 ≤ h.bytes &&
  formAllowed h.fm h.dt && h.sectionsOk &&
  (h.bytes ≤ denseSize h.dt h.rows h.cols || h.bytes ≤ canonSize h.fm h.dt h.rows h.cols h.nnz) &&
  match h.fm with
  | .dense => h.ptrOff == 0 && h.idxOff == 0 && (h.nnz == 0xFFFF || h.nnz ≤ h.rows * h.cols)
  | .csr => h.ptrOff % 2 == 0 && h.valOff % (h.dt.bits / 8) == 0 && h.nnz ≤ 4096
  | .bmp => h.nnz ≤ h.rows * h.cols
  | .zero => h.bytes == 32 && h.nnz == 0 && h.ptrOff == 0 && h.idxOff == 0 && h.valOff == 0 && h.chk == 0

/-- Whether a tile is well formed: the header rules, the row pointers (R60) and the bitmaps (R61). -/
def tileWellFormed (bs : List Byte) : Bool :=
  let h := TileHdr.parse bs
  h.ok &&
  match h.fm with
  | .csr => ptrsOk bs h
  | .bmp => ptrsOk bs h && (List.range h.rows).all (fun r =>
      popCount 64 (field bs (h.idxOff + 8 * r) 8) == rowPtr bs h (r + 1) - rowPtr bs h r)
  | _ => true

/-- The detection code of a tile's body (R56). -/
def tileChk (bs : List Byte) : Nat :=
  let n := (TileHdr.parse bs).bytes
  if n ≤ 32 then 0 else crc32c ((bs.drop 32).take (n - 32))

/-- A tile that passes the whole check: well formed and CHK matching (R66-R68). -/
def tileGood (bs : List Byte) : Bool := tileWellFormed bs && tileChk bs == (TileHdr.parse bs).chk

/-- One stored entry of a tile: row, column, element code. -/
structure Entry where
  row : Nat
  col : Nat
  code : Nat
  deriving DecidableEq, Repr, Inhabited

/-- Element `i` of a run of packed elements at byte offset `o` (R42). -/
def packedElt (bs : List Byte) (t : DType) (o i : Nat) : Nat :=
  if t = .int4 then bitsOf (field bs (o + i / 2) 1) (4 * (i % 2)) 4
  else field bs (o + i * (t.bits / 8)) (t.bits / 8)

/-- The row that stored entry `j` belongs to (R59). -/
def entryRow (bs : List Byte) (h : TileHdr) (j : Nat) : Nat :=
  (((List.range h.rows).filter fun r => rowPtr bs h r ≤ j && j < rowPtr bs h (r + 1)).head?).getD 0

/-- The stored entries of a tile in stored order: every element of a dense tile, the listed ones of a compressed one
(R57-R62). Entries with a column at or above COLS are kept here; `tileEntries` drops them. -/
def rawEntries (bs : List Byte) : List Entry :=
  let h := TileHdr.parse bs
  match h.fm with
  | .dense => (List.range h.rows).flatMap fun r => (List.range h.cols).map fun c =>
      ⟨r, c, packedElt bs h.dt (h.valOff + r * denseRowBytes h.dt h.cols) c⟩
  | .csr => (List.range h.nnz).map fun j =>
      ⟨entryRow bs h j, field bs (h.idxOff + j) 1, packedElt bs h.dt h.valOff j⟩
  | .bmp => (List.range h.rows).flatMap fun r =>
      let cs := bitList 64 (field bs (h.idxOff + 8 * r) 8)
      (cs.zip (List.range cs.length)).map fun ci => ⟨r, ci.1, packedElt bs h.dt h.valOff (rowPtr bs h r + ci.2)⟩
  | .zero => []

/-- The entries that enter a computation (R69, R70). -/
def tileEntries (bs : List Byte) : List Entry :=
  (rawEntries bs).filter fun e => e.col < (TileHdr.parse bs).cols

/-- How many entries R69 drops. -/
def tileDropped (bs : List Byte) : Nat :=
  ((rawEntries bs).filter fun e => (TileHdr.parse bs).cols ≤ e.col).length

/-- A full row of elements packed to bytes (R42, R57). -/
def packRow (t : DType) (cs : List Nat) : List Byte :=
  leBytes (ceilDiv (cs.length * t.bits) 8)
    (((cs.zip (List.range cs.length)).map fun ci => (ci.1 % 2 ^ t.bits) * 2 ^ (ci.2 * t.bits)).foldl (· + ·) 0)

/-- A body padded with zeros to a whole tile of `n` bytes. -/
def padTo (n : Nat) (bs : List Byte) : List Byte := (bs ++ List.replicate (n - bs.length) 0).take n

/-- A tile from a header (CHK filled in, R56) and its body from offset 32. -/
def sealTile (h : TileHdr) (body : List Byte) : List Byte :=
  let body := padTo (h.bytes - 32) body
  ({ h with chk := if h.bytes ≤ 32 then 0 else crc32c body }).build ++ body

/-- The non-zero elements of a matrix of codes, as entries in row order and ascending columns. -/
def nonZero (t : DType) (rows cols : Nat) (m : Nat → Nat → Nat) : List Entry :=
  (List.range rows).flatMap fun r =>
    ((List.range cols).map fun c => (⟨r, c, m r c⟩ : Entry)).filter fun e => !isZeroElt t e.code

/-- The 65 row pointers of a list of entries in row order (R60). -/
def ptrBytes (rows : Nat) (es : List Entry) : List Byte :=
  (List.range 65).flatMap fun r => leBytes 2 ((es.filter fun e => e.row < min r rows).length)

/-- The tile the module writes for a matrix of codes in a form, in the canonical layout (R65). -/
def buildTile (f : Form) (t : DType) (flags rows cols : Nat) (m : Nat → Nat → Nat) : List Byte :=
  let es := nonZero t rows cols m
  let nnz := es.length
  let vo := canonValOff f t rows nnz
  let h : TileHdr :=
    { form := f.code, dtype := t.code, flags := flags, res3 := 0, nnz := if f = .zero then 0 else nnz, rows := rows,
      cols := cols, ptrOff := if f = .csr ∨ f = .bmp then 32 else 0, idxOff := if f = .csr ∨ f = .bmp then 162 else 0,
      valOff := vo, bytes := canonSize f t rows cols nnz, res16 := 0, chk := 0 }
  match f with
  | .dense => sealTile h ((List.range rows).flatMap fun r => packRow t ((List.range cols).map (m r)))
  | .csr => sealTile h (padTo (vo - 32) (ptrBytes rows es ++ es.map fun e => BitVec.ofNat 8 e.col) ++
      packRow t (es.map (·.code)))
  | .bmp => sealTile h (padTo (vo - 32) (ptrBytes rows es ++ (List.range rows).flatMap fun r =>
      leBytes 8 (((es.filter fun e => e.row = r).map fun e => 2 ^ e.col).foldl (· + ·) 0)) ++
      packRow t (es.map (·.code)))
  | .zero => sealTile h []

/-- A CSR tile whose entries the writer gives, in stored order (R59, R70). -/
def buildCsr (t : DType) (flags rows cols : Nat) (es : List Entry) : List Byte :=
  let nnz := es.length
  let vo := canonValOff .csr t rows nnz
  let h : TileHdr :=
    { form := 1, dtype := t.code, flags := flags, res3 := 0, nnz := nnz, rows := rows, cols := cols, ptrOff := 32,
      idxOff := 162, valOff := vo, bytes := canonSize .csr t rows cols nnz, res16 := 0, chk := 0 }
  sealTile h (padTo (vo - 32) (ptrBytes rows es ++ es.map fun e => BitVec.ofNat 8 e.col) ++ packRow t (es.map (·.code)))

/-- Element (r, c) of a tile as an exact value: rows and columns beyond the tile, and unlisted places, read as +0; a
repeated column contributes once each, so the codes listed for one place are summed by the consumer (R51, R62, R70). -/
def tileAt (bs : List Byte) (r c : Nat) : List Nat :=
  ((tileEntries bs).filter fun e => e.row = r && e.col = c).map (·.code)

/-- Element (r, c) as one code: a place listed more than once holds the exact sum of its entries, rounded to nearest even (R70, log 72). -/
def tileCode (bs : List Byte) (r c : Nat) : Nat :=
  match tileAt bs r c with
  | [] => 0
  | [v] => v
  | v :: vs =>
    let t := (TileHdr.parse bs).dt
    encodeElt t .rne 0 (vs.foldl (fun x w => x.add (decodeElt t w)) (decodeElt t v))

/-- FLAGS.POISON of a tile (R55). -/
def tileFlagsPoison (bs : List Byte) : Bool := bitAt (TileHdr.parse bs).flags 0

/-- The blocks, a × 8 + b, in which a pattern of 64 row words breaks the transposable 4:8 rule (R250). -/
def badBlocks (row : Nat → Nat) : List Nat :=
  (List.range 64).filter fun ab =>
    let a := ab / 8
    let b := ab % 8
    (List.range 8).any (fun i => popCount 8 (bitsOf (row (8 * a + i)) (8 * b) 8) > 4) ||
    (List.range 8).any fun j => ((List.range 8).filter fun i => bitAt (row (8 * a + i)) (8 * b + j)).length > 4

/-- The non-zero pattern of a list of entries as row words (R44, R250). -/
def patternRow (t : DType) (es : List Entry) (r : Nat) : Nat :=
  ((((es.filter fun e => e.row = r && !isZeroElt t e.code).map (·.col)).dedup).map (2 ^ ·)).foldl (· + ·) 0

/-- The 4:8 rule holds of a pattern (R250). -/
def meets48 (row : Nat → Nat) : Bool := (badBlocks row).isEmpty

/-- A tile in which some row stores one column index more than once (R227). -/
def multiEntry (bs : List Byte) : Bool :=
  (TileHdr.parse bs).fm == .csr &&
  let es := rawEntries bs
  (List.range 64).any fun r =>
    let cs := (es.filter fun e => e.row = r).map (·.col)
    cs.dedup.length != cs.length

/-- A dense tile whose NNZ is "not counted" (R58): the body and CHK are the same. -/
def uncounted (bs : List Byte) : List Byte := bs.take 4 ++ [0xFF, 0xFF] ++ bs.drop 6

/-- A tile's header flags with POISON set. -/
def poisonTile (bs : List Byte) : List Byte :=
  match bs with
  | a :: b :: f :: r => a :: b :: (f ||| 1) :: r
  | _ => bs

/-- What the Chisel compressor makes of a matrix of codes (R238, R239): the tile and whether compression did not pay. -/
def chisel (t : DType) (poison pred : Bool) (rows cols : Nat) (m : Nat → Nat → Nat) : List Byte × Bool :=
  let es := nonZero t rows cols m
  let ok := meets48 (patternRow t es)
  let flags := (if poison then 1 else 0) + (if ok then 2 else 0) + (if pred then 4 else 0)
  let f : Form := if t = .int4 then .bmp else .csr
  if es.isEmpty then (buildTile .zero t flags rows cols m, false)
  else if t = .int32 then (buildTile .dense t flags rows cols m, false)
  else if canonSize f t rows cols es.length < denseSize t rows cols then (buildTile f t flags rows cols m, false)
  else (buildTile .dense t flags rows cols m, true)

end Sys2Proof.Machine
end

