-- ==== Sys2Proof/Machine/VecNum.lean ====
section
/-! DEFINITION. The arithmetic of one lane of the vector engine and of the sums over a row (spec/06 R208, R209, R215, R217,
R220; spec/08 R261, R266, R267, R269, R275). -/

namespace Sys2Proof.Machine

/-- The operation types (R260). -/
inductive OTy where
  | i32 | f32 | bf16
  deriving DecidableEq, Repr, Inhabited

def OTy.ofCode : Nat → Option OTy
  | 0 => some .i32 | 1 => some .f32 | 2 => some .bf16 | _ => none

/-- The format an operation's result is formed in (R265). -/
def OTy.fmt : OTy → DType
  | .i32 => .int32 | .f32 => .fp32 | .bf16 => .bf16

/-! ### The LFSR and its draws -/

/-- One step of the LFSR (R215). -/
def lfsrStep (s : Nat) : Nat := if s % 2 = 1 then (s / 2) ^^^ 0x80200003 else s / 2

/-- The draw H of R217. -/
def drawH (s e : Nat) : Nat :=
  let x := s ^^^ (e * 0x9E3779B9 % 2 ^ 32)
  let x := x ^^^ (x / 2 ^ 16)
  let x := x * 0x85EBCA6B % 2 ^ 32
  let x := x ^^^ (x / 2 ^ 13)
  bitsOf x 16 16

/-- The sampling key G of R321. -/
def sampleG (s a b : Nat) : Nat :=
  let x := s ^^^ (a * 0x9E3779B9 % 2 ^ 32)
  let x := x ^^^ (b * 0x85EBCA6B % 2 ^ 32)
  let x := x ^^^ (x / 2 ^ 16)
  let x := x * 0x7FEB352D % 2 ^ 32
  x ^^^ (x / 2 ^ 15)

/-! ### One lane -/

def FV.isInf : FV → Bool
  | .inf _ => true
  | _ => false

def FV.isFin : FV → Bool
  | .fin _ _ _ => true
  | _ => false

/-- A value that is a zero of either sign. -/
def FV.isZero : FV → Bool
  | .fin _ 0 _ => true
  | _ => false

def FV.sign : FV → Bool
  | .fin n _ _ => n
  | .inf n => n
  | .nan => false

/-- The integer an exact value is; the values an integer format holds. -/
def FV.int : FV → Int
  | .fin n m e => scaled n m e 0
  | _ => 0

/-- The 32 bits of an integer operand. -/
def FV.u32 (v : FV) : Nat := toBits 32 v.int

/-- A is less than B; zeros of either sign are equal (R261). -/
def FV.lt (a b : FV) : Bool := !a.isNan && !b.isNan && a.cmp b < 0
def FV.eq (a b : FV) : Bool := !a.isNan && !b.isNan && a.cmp b == 0

/-- The greater value: NaN when either is, +0 above −0 (R220, R267). -/
def FV.max (a b : FV) : FV :=
  if a.isNan || b.isNan then .nan
  else if a.cmp b > 0 then a else if a.cmp b < 0 then b else if a.sign then b else a

def FV.min (a b : FV) : FV :=
  if a.isNan || b.isNan then .nan
  else if a.cmp b < 0 then a else if a.cmp b > 0 then b else if a.sign then a else b

/-- The result of a lane: its code in the format asked for, integer saturation, float exception (R266, R269). -/
structure LaneR where
  code : Nat
  sat : Bool := false
  exc : Bool := false
  deriving DecidableEq, Repr, Inhabited

/-- An exact result narrowed to the operation type, from operands `ins` (R266, R267, R269): exceptional where the narrowing overflows, to an
infinity or under a rounding toward zero to the largest finite number, too. -/
def narrowOp (o : OTy) (r : Rnd) (u : Nat) (ins : List FV) (v : FV) : LaneR :=
  let c := encodeElt o.fmt r u v
  let w := decodeElt o.fmt c
  { code := c, sat := o == .i32 && encodeSat .int32 r u v,
    exc := o != .i32 && (encodeSat o.fmt r u v || (w.isInf && ins.all FV.isFin) || (w.isNan && !ins.any FV.isNan)) }

/-- A result of operation type `o` converted to a destination format by R47 under RNE (R265). A float result that saturates in an integer
destination counts in CORE_VE_SAT and not in CORE_VE_FEXC: R266 speaks of integer results, R269 of float narrowings (DESIGN CHOICE, log
108). -/
def narrowDst (o : OTy) (t : DType) (x : LaneR) : LaneR :=
  if t = o.fmt then x
  else
    let v := decodeElt o.fmt x.code
    { code := encodeElt t .rne 0 v, sat := x.sat || (t.isInt && encodeSat t .rne 0 v),
      exc := x.exc || (!t.isInt && encodeSat t .rne 0 v) }

/-- The square root of `n`, rounded down, by bisection on its bits from bit `k` down. -/
def isqrt (n : Nat) : Nat → Nat → Nat
  | 0, r => r
  | k + 1, r => if (r + 2 ^ k) * (r + 2 ^ k) ≤ n then isqrt n k (r + 2 ^ k) else isqrt n k r

/-- 2^(f / 2^64) for f below 2^64, in units of 2^-64: the product of the square-root constants of f's bits. -/
def exp2Frac (f : Nat) : Nat :=
  ((List.range 40).foldl (fun (st : Nat × Nat) i =>
    let c := isqrt (st.2 * 2 ^ 64) 66 0
    (if bitAt f (63 - i) then st.1 * c / 2 ^ 64 else st.1, c)) (2 ^ 64, 2 * 2 ^ 64)).1

/-- The reference value of 2^A for an fp32 code A that is not an integer, exact to well below a unit of the last place: significand and
exponent. -/
def exp2Ref (c : Nat) : Nat × Int :=
  match decodeElt .fp32 c with
  | .fin n m e =>
    let a := scaled n m e (min e 0)
    let q : Nat := 2 ^ (-(min e 0)).toNat
    (exp2Frac ((a % (q : Int)).toNat * 2 ^ 64 / q), a / (q : Int) - 64)
  | _ => (0, 0)

/-- `|x - y| ≤ b` for two values that are finite and a bound 2^k · n. -/
def nearFV (x y : FV) (n : Nat) (k : Int) : Bool :=
  match (x.sub y) with
  | .fin _ m e => x.isFin && y.isFin && scaled false m e (min e k) ≤ scaled false n k (min e k)
  | _ => false

/-- A code is an allowed result of EXP2 for a code A whose result is neither exact nor fixed (R269). -/
def exp2Within (c r : Nat) : Bool :=
  let p := exp2Ref c
  let v : FV := .fin false p.1 p.2
  let i := (p.1.log2 : Int) + p.2
  if -126 ≤ i then nearFV (decodeElt .fp32 r) v 2 (lastPlace .fp32 p.1 p.2) else nearFV (decodeElt .fp32 r) v 1 (-148)

/-- EXP2 of an fp32 code (R269): the fixed and exact results, and `h` where the rule gives a bound. -/
def exp2With (h : Nat → Nat) (c : Nat) : Nat :=
  match decodeElt .fp32 c with
  | .nan => nanCode .fp32
  | .inf n => if n then 0 else infCode .fp32
  | .fin n m e =>
    let a := scaled n m e (min e 0)
    let q : Nat := 2 ^ (-(min e 0)).toNat
    if a ≥ 128 * (q : Int) then infCode .fp32
    else if a < -150 * (q : Int) then 0
    else if a % (q : Int) = 0 ∧ -150 * (q : Int) < a then encodeFloat .fp32 .rne 0 (.fin false 1 (a / (q : Int)))
    else h c

/-- The order of two fp32 codes that are not NaN. -/
def leF32 (a b : Nat) : Bool := !(decodeElt .fp32 b).lt (decodeElt .fp32 a)
def numF32 (a : Nat) : Bool := !(decodeElt .fp32 a).isNan

/-- The free approximation meets R269: within its bound everywhere, and EXP2 with it is non-decreasing. -/
def exp2Ok : Bool :=
  decide (∀ c < 2 ^ 32, exp2With (fun _ => 2 ^ 32) c = 2 ^ 32 → exp2Within c (Config.exp2Free c)) &&
  decide (∀ a < 2 ^ 32, ∀ b < 2 ^ 32,
    (!(numF32 a && numF32 b && leF32 a b) || leF32 (exp2With Config.exp2Free a) (exp2With Config.exp2Free b)) = true)

/-- EXP2 of an fp32 code (R269): any function within the bounds that is non-decreasing, a free value. -/
def exp2F32 : Nat → Nat :=
  exp2With fun c => if exp2Ok then Config.exp2Free c else encodeFloat .fp32 .rne 0 (.fin false (exp2Ref c).1 (exp2Ref c).2)

/-- 1 ÷ |A| of an fp32 code that is neither zero nor a denormal, cut far below a unit of the last place. -/
def rcpRef (c : Nat) : Nat × Int :=
  match decodeElt .fp32 c with
  | .fin _ m e => (2 * (2 ^ 100 / m) + (if 2 ^ 100 % m = 0 then 0 else 1), -101 - e)
  | _ => (0, 0)

/-- A code is an allowed result of RCP for a code A whose result is neither exact nor fixed (R269): `|A·r - 1|` within the bound
times |A|. -/
def rcpWithin (c r : Nat) : Bool :=
  match decodeElt .fp32 c with
  | .fin n m e =>
    let p := rcpRef c
    let big := decide (2 ^ 126 * (2 ^ 149 : Nat) < m * 2 ^ (e + 149).toNat)
    let k : Int := if big then -149 else lastPlace .fp32 p.1 p.2
    (decodeElt .fp32 r).sign == n && nearFV ((decodeElt .fp32 r).mul (.fin n m e)) (.fin false 1 0) m (e + k)
  | _ => false

/-- RCP of an fp32 code (R269): the fixed and exact results, and `h` where the rule gives a bound. -/
def rcpWith (h : Nat → Nat) (c : Nat) : Nat :=
  match decodeElt .fp32 c with
  | .nan => nanCode .fp32
  | .inf n => withSign .fp32 n 0
  | .fin n m e =>
    if bitsOf c 23 8 = 0 then withSign .fp32 n (infCode .fp32)
    else if m = 2 ^ m.log2 ∧ (m.log2 : Int) + e ≤ 126 then encodeFloat .fp32 .rne 0 (.fin n 1 (-e - m.log2))
    else h c

/-- The free approximation meets R269: within its bound everywhere, and RCP with it is non-increasing on each sign. -/
def rcpOk : Bool :=
  decide (∀ c < 2 ^ 32, rcpWith (fun _ => 2 ^ 32) c = 2 ^ 32 → rcpWithin c (Config.rcpFree c)) &&
  decide (∀ a < 2 ^ 32, ∀ b < 2 ^ 32,
    (!(numF32 a && numF32 b && (decodeElt .fp32 a).sign == (decodeElt .fp32 b).sign && leF32 a b) ||
      leF32 (rcpWith Config.rcpFree b) (rcpWith Config.rcpFree a)) = true)

/-- RCP of an fp32 code (R269): any function within the bounds that is non-increasing on each sign, a free value. -/
def rcpF32 : Nat → Nat :=
  rcpWith fun c => if rcpOk then Config.rcpFree c
    else encodeFloat .fp32 .rne 0 (.fin (bitAt c 31) (rcpRef c).1 (rcpRef c).2)

/-- An fp32 code as the result of an operation of type `o` whose exact value is that code's (R269). -/
def approx (o : OTy) (f : Nat → Nat) (a : FV) : LaneR :=
  let c := f (encodeFloat .fp32 .rne 0 a)
  let r := encodeElt o.fmt .rne 0 (decodeElt .fp32 c)
  let w := decodeElt o.fmt r
  { code := r, exc := (w.isInf && a.isFin) || (w.isNan && !a.isNan) }

/-- The elementwise operations of R261 by code; `none` for the codes that are not. `sel` is the lane's mask bit for SEL. -/
def laneOp (opc : Nat) (o : OTy) (r : Rnd) (u : Nat) (a b c : FV) (sel : Bool) : Option LaneR :=
  match opc with
  | 0x10 => some (narrowOp o r u [a, b] (a.add b))
  | 0x11 => some (narrowOp o r u [a, b] (a.sub b))
  | 0x12 => some (narrowOp o r u [a, b] (a.mul b))
  | 0x13 => some (narrowOp o r u [a, b, c] ((a.mul b).add c))
  | 0x14 => some (narrowOp o r u [a.min b] (a.min b))
  | 0x15 => some (narrowOp o r u [a.max b] (a.max b))
  | 0x16 => some { code := a.u32 &&& b.u32 }
  | 0x17 => some { code := a.u32 ||| b.u32 }
  | 0x18 => some { code := a.u32 ^^^ b.u32 }
  | 0x19 => some { code := a.u32 * 2 ^ (b.u32 % 32) % 2 ^ 32 }
  | 0x1A => some { code := a.u32 / 2 ^ (b.u32 % 32) }
  | 0x1B => some { code := toBits 32 (a.int / ((2 ^ (b.u32 % 32) : Nat) : Int)) }
  | 0x1C => some (narrowOp o r u [if sel then a else b] (if sel then a else b))
  | 0x1E => some (approx o exp2F32 a)
  | 0x1F => some (approx o rcpF32 a)
  | _ => none

/-- The compares of R261: CMPEQ, CMPNE, CMPLT, CMPLE. -/
def laneCmp (opc : Nat) (a b : FV) : Bool :=
  match opc with
  | 0x20 => a.eq b
  | 0x21 => !a.eq b
  | 0x22 => a.lt b
  | _ => a.lt b || a.eq b

/-! ### Sums and maxima -/

/-- The tree of R209 over eight terms. -/
def tree8 {α : Type} (add : α → α → α) (z : α) (l : List α) : α :=
  let p (i : Nat) := l.getD i z
  add (add (add (p 0) (p 1)) (add (p 2) (p 3))) (add (add (p 4) (p 5)) (add (p 6) (p 7)))

/-- The groups of eight of a list, the last filled with `z` (R209). -/
def groups8 {α : Type} (z : α) (l : List α) : List (List α) :=
  (List.range (ceilDiv l.length 8)).map fun g => (List.range 8).map fun i => l.getD (8 * g + i) z

/-- A row sum: the tree of R209 over each group, the groups entering in order (R210, R220, R275). -/
def rowSum {α : Type} (add : α → α → α) (z : α) (l : List α) : α :=
  match (groups8 z l).map (tree8 add z) with
  | [] => z
  | g :: gs => gs.foldl add g

/-- Saturating int32 addition. -/
def satAdd (a b : Int) : Int := satInt .int32 (a + b)

/-- fp32 addition under RNE on codes. -/
def addRne (a b : Nat) : Nat := addF32 .rne 0 a b

/-- Sum of a row of fp32 codes, and of int32 values. -/
def sumF32 (l : List Nat) : Nat := rowSum addRne 0 l
def sumI32 (l : List Int) : Int := rowSum satAdd 0 l

/-- The greatest of a list of values; −∞ of an empty one. -/
def maxFV (l : List FV) : FV := l.foldl FV.max (.inf true)

/-- The greatest of a list of int32 values; −2^31 of an empty one. -/
def maxI32 (l : List Int) : Int := l.foldl max (-(2 ^ 31 : Nat))

end Sys2Proof.Machine
end

