-- ==== Sys2Proof/Machine/RingOps.lean ====
section
/-! DEFINITION. Stream rings: slots, publication, release, refills, transfers, and operand tiles in CLM (spec/02 R68, R75, R77;
spec/09 R285 to R287, R299, R306; spec/18 R606 to R608). -/

namespace Sys2Proof.Machine

/-! ### Rings -/

def Dev.se (d : Dev) (c s : Nat) : SeEng := (d.core c).se s
def Dev.modSe (d : Dev) (c s : Nat) (f : SeEng → SeEng) : Dev := d.modCore c fun k => k.setSe s (f (k.se s))
def Dev.ring (d : Dev) (c s : Nat) : Ring := (d.se c s).ring
def Dev.modRing (d : Dev) (c s : Nat) (f : Ring → Ring) : Dev := d.modSe c s fun e => { e with ring := f e.ring }

def Ring.slot (r : Ring) (i : Nat) : Slot := SMap.get {} r.slots i
def Ring.setSlot (r : Ring) (i : Nat) (x : Slot) : Ring := { r with slots := r.slots.put {} i x }

/-- The DLA of slot `i` of a ring (R284). -/
def Ring.at (r : Ring) (c i : Nat) : Nat := clmAt c (r.base + i * r.slot64 * 64)

/-- Slots filled or being filled (R287), and slots published and not released (R311). -/
def Ring.busy (r : Ring) : Nat := ((List.range r.nslots).filter fun i => (r.slot i).st != 0).length
def Ring.filled (r : Ring) : Nat := ((List.range r.nslots).filter fun i => (r.slot i).st == 2 && (r.slot i).adv).length

/-- The limit of R287 lets a producer begin another slot. -/
def Ring.room (r : Ring) : Bool := r.busy < r.ahead && (r.slot r.tail).st == 0

/-- The head slot is published (R286). -/
def Ring.headReady (r : Ring) : Bool := (r.slot r.head).st == 2 && (r.slot r.head).adv

/-- The next slot. -/
def Ring.nextSlot (r : Ring) (i : Nat) : Nat := (i + 1) % max r.nslots 1

/-- The head slot released (R196, R297). -/
def Ring.release (r : Ring) : Ring := { r.setSlot r.head {} with head := r.nextSlot r.head }

/-- Bytes moved into or out of slots, in 64-byte units (R311). -/
def Dev.seBytes (d : Dev) (c n : Nat) : Dev := d.bump .CORE_SE_BYTES [c] (ceilDiv n 64)

/-- A tile written with poison: POISON in its header and every granule marked (R77). -/
def Dev.writeTile (d : Dev) (a : Nat) (bs : List Byte) (poison : Bool) (part : Option Nat := none) : Dev :=
  d.store a (if poison then poisonTile bs else bs) poison none part

/-- Every granule of a slot marked. -/
def Dev.markSlot (d : Dev) (c s i : Nat) : Dev :=
  let r := d.ring c s
  { d with mem := (granules (r.at c i) (r.slot64 * 64)).foldl (fun m g => m.mark (d.cell g) true) d.mem }

/-- A tile placed in the tail slot and published (R286): `kind` and `src` say who filled it and how to fill it again. A poisoned one
that the stream engine itself fetched marks every granule of the slot (R307). -/
def Dev.publish (d : Dev) (c s : Nat) (bs : List Byte) (poison : Bool) (kind : Nat) (src : List Nat) : Dev :=
  let r := d.ring c s
  let d := (d.writeTile (r.at c r.tail) bs poison).bump .CORE_SE_TILES [c]
  let d := if poison && kind != 3 then d.markSlot c s r.tail else d
  (d.seBytes c bs.length).modRing c s fun r =>
    { r.setSlot r.tail { st := 2, adv := true, kind := kind, src := src } with tail := r.nextSlot r.tail }

/-- Whether a tile fits a slot of a ring; when it does not, its producer's job ends with E_RANGE (R286). -/
def Ring.fits (r : Ring) (bs : List Byte) : Bool := bs.length ≤ r.slot64 * 64

/-! ### Commands that a stream hands to the gather engine -/

def Dev.modGe (d : Dev) (c : Nat) (f : GeEng → GeEng) : Dev := d.modCore c fun k => { k with ge := f k.ge }

/-- A command taken in by a gather engine, numbered. -/
def Dev.addCmd (d : Dev) (c : Nat) (g : GCmd) : Dev :=
  d.modGe c fun e => { e with cmds := e.cmds ++ [{ g with id := e.nextId }], nextId := e.nextId + 1 }

/-- A table's descriptor in force (R122). -/
def Dev.tdesc (d : Dev) (t : Nat) : List Byte := SMap.get [] d.conf.tab.tbl t

/-- The gather that fills a GATH slot: index list, width of its indices, table, lookups, tile number, TRANS (R293). -/
def gathCmd (d : Dev) (e : QEnt) (se : Nat) (addr idx4 table n : Nat) : GCmd :=
  { op := 0x10, ent := { e with off := idx4 }, se := some se, table := table, count := n, idxAddr := addr, td := d.tdesc table }

/-- The gather that fills GBMP slots: address of the K tile, format, columns, neurons (R295). -/
def gbmpCmd (e : QEnt) (se : Nat) (addr dt cols : Nat) (ns : List Nat) : GCmd :=
  { op := 0x11, ent := { e with off := cols }, se := some se, table := dt, count := ns.length, idxAddr := addr, neurons := ns }

/-! ### Transfers (R292, R299) -/

/-- Transfers of an engine that are outstanding: each header batch, each tile body and each STORE counts as one. -/
def SeEng.outstanding (e : SeEng) : Nat :=
  ((e.xfers.filter (·.ph == 0)).map (·.batch)).eraseDups.length + (e.xfers.filter (·.ph == 2)).length

/-- Another transfer may be outstanding: at most 8 are. -/
def SeEng.room (e : SeEng) : Bool := e.outstanding < 8

/-- The newest header batch is still being read and takes another LOAD, up to 8; that a LOAD reached while the batch is read joins it
is a DESIGN CHOICE (log 75). -/
def SeEng.batchOpen (e : SeEng) : Bool := e.batch.2 < 8 && e.xfers.any fun x => x.ph == 0 && x.batch == e.batch.1

/-- A transfer changed. -/
def SeEng.setXfer (e : SeEng) (x : Xfer) : SeEng := { e with xfers := e.xfers.map fun y => if y.id = x.id then x else y }

/-- Bytes of a tile that follow from its header as read: never more than 65,535, at least the header (R54, R299). -/
def hdrLen (bs : List Byte) : Nat := max 32 (field bs 14 2)

/-- The next read of a remote tile up to its byte `need`: at most 4,096 bytes and PAYLOAD_MAX − 64, within a 4 KiB page (R520, R522);
nothing is sent for a tile of this module. -/
def Dev.loadMore (d : Dev) (now c s : Nat) (x : Xfer) (need : Nat) : Dev :=
  match d.remoteOf x.addr with
  | none => d
  | some k =>
    let a := dlaOf x.addr + x.hdr.length
    let n := min (min (need - x.hdr.length) (min 4096 (d.payloadMax - 64))) (4096 - a % 4096)
    d.request k now 0x01 0 (laneOfDla a) 0 (leBytes 8 a ++ leBytes 4 (roundUp n 8) ++ leBytes 4 0) (some (d.ring c s).job)
      (.streamLoad c s x.slot x.id)

/-- A transfer goes on where the limit lets it (R299): a LOAD enters a header batch, a tile whose header is known begins its body. -/
def Dev.advanceXfer (d : Dev) (now c s : Nat) (x : Xfer) : Dev :=
  let e := d.se c s
  if x.ph = 3 && (e.batchOpen || e.room) then
    let b := if e.batchOpen then (e.batch.1, e.batch.2 + 1) else (e.batch.1 + 1, 1)
    let x := { x with ph := 0, batch := b.1 }
    (d.modSe c s fun e => { e.setXfer x with batch := b }).loadMore now c s x 32
  else if x.ph = 1 && e.room then
    let x := { x with ph := 2 }
    (d.modSe c s fun e => e.setXfer x).loadMore now c s x (hdrLen x.hdr)
  else d

/-- Every transfer of an engine that can go on does, oldest first. -/
def Dev.pumpXfers (d : Dev) (now c s : Nat) : Dev := (d.se c s).xfers.foldl (fun d x => d.advanceXfer now c s x) d

/-- The LOAD of a slot taken in by a stream engine (R292, R299). -/
def Dev.startLoad (d : Dev) (now c s slot addr : Nat) : Dev :=
  (d.modSe c s fun e => { e with xfers := e.xfers ++ [⟨e.nextX, slot, addr, false, [], 3, 0, false⟩], nextX := e.nextX + 1 }).pumpXfers
    now c s

/-- The rings that a gather descriptor hands tiles to (R147, R319, R324). -/
def gatherRings (rcd : List Byte) : List Nat :=
  if recNum rcd 0 1 = 1 then (if bitAt (recNum rcd 1 1) 1 then [recNum rcd 16 1 % 2] else [])
  else if 2 ≤ recNum rcd 0 1 ∧ recNum rcd 0 1 ≤ 4 then [0, 1]
  else []

/-- A bad slot filled again from its source (R306). -/
def Dev.refill (d : Dev) (now c s i : Nat) : Dev :=
  let r := d.ring c s
  let x := r.slot i
  let d := (d.bump .CORE_SE_REFILL [c]).modRing c s fun r => r.setSlot i { x with st := 1, refilled := true }
  let e : QEnt := { job := r.job }
  if x.kind = 0 then d.startLoad now c s i (x.src.getD 0 0)
  else if x.kind = 1 then
    d.addCmd c { gbmpCmd e s (x.src.getD 0 0) (x.src.getD 1 0) (x.src.getD 2 0) (x.src.drop 3) with slot := some i }
  else
    d.addCmd c { gathCmd d e s (x.src.getD 0 0) (x.src.getD 1 0) (x.src.getD 2 0) (x.src.getD 3 0) with
                 slot := some i, outPos := x.src.getD 4 0 }

/-! ### Operand tiles -/

/-- The bytes of the tile whose header is at a DLA: the header, then BYTES (R54). -/
def Dev.tileBytes (d : Dev) (a : Nat) : List Byte :=
  d.bytes a (max 32 (TileHdr.parse (d.bytes a 32)).bytes)

/-- A tile is poisoned: POISON in its header or a mark on a granule it overlaps (R75). -/
def Dev.tilePoisoned (d : Dev) (a : Nat) (bs : List Byte) : Bool := tileFlagsPoison bs || d.poisoned a bs.length

/-- What an engine's read of an operand tile gives: it waits for a slot; it is refused with a status; the retry failed and
the job ends; or the tile's bytes and whether it is poisoned. -/
inductive Fetch where
  | wait | refuse (status : Nat) | fault | tile (bs : List Byte) (poison : Bool)
  deriving DecidableEq, Repr, Inhabited

/-- An operand tile in CLM at an offset (R68, R197). -/
def Dev.clmTile (d : Dev) (c off : Nat) : Dev × Fetch :=
  if clmSize < off + 32 then (d, .refuse eRange)
  else
    let a := clmAt c off
    let bs := d.tileBytes a
    if clmSize < off + bs.length then (d, .refuse eRange)
    else if tileGood bs then (d, .tile bs (d.tilePoisoned a bs))
    else (d.bump .CORE_TILEERR [c] 2, .fault)

/-- The causes of R308 in the order in which one is chosen; 8 stands for DATA_LATE on an ended, empty ring, which is a watched wait
(R300, R409). -/
def causeOrder : List Nat := [6, 5, 4, 3, 7, 8, 0, 1, 2]

/-- Why the engine that is about to wait on a core waits (R308), kept until its stall begins: of two causes the first in their
order. -/
def Dev.why (d : Dev) (c cause : Nat) : Dev :=
  d.modCore c fun k =>
    let old := (k.stalls.find? fun p => p.1 == 9).map (·.2.1)
    let best := (causeOrder.find? fun x => x == cause || old == some x).getD cause
    { k with stalls := k.stalls.ins 9 (best, 0) }

/-- The bytes that a transfer in flight reads or writes: a LOAD's header, then its body; a STORE's tile (R299). -/
def Xfer.span (x : Xfer) : Nat × Nat :=
  if x.store then (dlaOf x.addr, x.hdr.length) else (dlaOf x.addr + x.hdr.length, if x.ph = 0 then 32 else hdrLen x.hdr - 32)

/-- Why a local transfer waits, by the codes of `lineWait`. -/
def Dev.xferWait (d : Dev) (c s : Nat) (x : Xfer) : Nat :=
  let part := d.jobPart (d.ring c s).job
  if x.store then d.writeWait part x.span.1 x.span.2 else d.readWait part x.span.1 x.span.2

/-- The slot of a ring source released once its operand has been read (R196). -/
def Dev.releaseSrc (d : Dev) (c src : Nat) (keep : Bool) : Dev :=
  if src = 0 || keep then d else d.modRing c (src - 1) Ring.release

/-- A fault of an engine's operand or structure ends the job that owns it (R610, R612). -/
def Mach.engFault (m : Mach) (c j struct_ : Nat) : Mach := m.coreFault c j struct_

/-- The structure number of a fault event (R627); the vector engine's residue checkers are number 6. -/
def sramCode (m : Sram) (ve : Bool) : Nat :=
  match m with
  | .clm => 1 | .acm => 2 | .slot => 3 | .laneQ => 4 | .residue => if ve then 6 else 5 | .regFile => 7
  | .mergeBuf => 8 | .threadSlot => 9 | .l1 | .canopy | .syncUnit | .understory => 0

/-- Detections while an engine works an instruction (R207, R279, R440, R606, R608): counted at the engine's own register;
true when the retry failed and the job must end. -/
def Dev.detect (d : Dev) (c : Nat) (ve : Bool) (det : Det) : Dev × Bool :=
  let count (d : Dev) (m : Sram) (n : Nat) : Dev :=
    match m with
    | .clm => let d := d.bump .CORE_CLM_ERR [c]; if ve then d.bump .CORE_VE_RDERR [c] n else d
    | .acm => let d := d.bump .CORE_ME_ACCERR [c] n; if ve then d.bump .CORE_VE_RDERR [c] n else d
    | .laneQ | .residue => d.bump .CORE_RECOMP [c]
    | _ => d
  match det with
  | .none => (d, false)
  | .once m => (count d m 1, false)
  | .twice m => (count d m 2, m != .slot && m != .syncUnit && m != .understory)

end Sys2Proof.Machine
end

