-- ==== Sys2Proof/Machine/QueueOps.lean ====
section
/-! DEFINITION. The engine queues: places, room, refusals, and the blocks of fused chains fed into them (spec/06 R192, R198;
spec/08 R259, R279; spec/09 R303, R304; spec/12 R379, R380). -/

namespace Sys2Proof.Machine

/-- The six engine queues (R379). -/
inductive Eng where
  | me | ve | ge | se (s : Nat) | mq
  deriving DecidableEq, Repr, Inhabited

def Core.queue (k : Core) : Eng → List QEnt
  | .me => k.me.q
  | .ve => k.ve.q
  | .ge => k.ge.q
  | .se s => (k.se s).q
  | .mq => k.mq.q

def Core.setQueue (k : Core) (e : Eng) (q : List QEnt) : Core :=
  match e with
  | .me => { k with me := { k.me with q := q } }
  | .ve => { k with ve := { k.ve with q := q } }
  | .ge => { k with ge := { k.ge with q := q } }
  | .se s => k.setSe s { k.se s with q := q }
  | .mq => { k with mq := { k.mq with q := q } }

def Dev.queue (d : Dev) (c : Nat) (e : Eng) : List QEnt := (d.core c).queue e
def Dev.setQueue (d : Dev) (c : Nat) (e : Eng) (q : List QEnt) : Dev := d.modCore c fun k => k.setQueue e q

/-- Places of a queue in use: the matrix and vector queues hold instructions until they start (R192, R259), the others hold
commands until they complete (R146, R282, R343). -/
def inUse (e : Eng) (q : List QEnt) : Nat :=
  match e with
  | .me | .ve => (q.filter fun x => !x.started).length
  | _ => q.length

def Eng.cap : Eng → Nat
  | .me | .ve => 16
  | _ => 4

def Dev.hasPlace (d : Dev) (c : Nat) (e : Eng) : Bool := inUse e (d.queue c e) < e.cap

def Dev.push (d : Dev) (c : Nat) (e : Eng) (x : QEnt) : Dev := d.setQueue c e (d.queue c e ++ [x])

/-- The first place that has not started, and the places in progress before it. -/
def nextPlace (q : List QEnt) : Option QEnt := q.find? fun x => !x.started

/-- The first place that has not started, changed. -/
def modNext (f : QEnt → QEnt) : List QEnt → List QEnt
  | [] => []
  | x :: r => if x.started then x :: modNext f r else f x :: r

/-- The `i`-th place removed. -/
def dropAt (i : Nat) (q : List QEnt) : List QEnt := q.take i ++ q.drop (i + 1)

/-- Each instruction places the thresholds in force in its queue entry (R230). -/
def Dev.place (d : Dev) (c : Nat) (e : Eng) (x : QEnt) : Dev :=
  d.push c e { x with cfg := if e = .me then (d.core c).me.spcfg else 0 }

/-- Words 0 and 1 of an instruction, and one field of each. -/
def QEnt.f0 (x : QEnt) (lo len : Nat) : Nat := bitsOf x.w0.toNat lo len
def QEnt.f1 (x : QEnt) (lo len : Nat) : Nat := bitsOf x.w1.toNat lo len
def QEnt.opc (x : QEnt) : Nat := x.f0 0 8

/-! ### The rings that an instruction names (R194, R206, R219, R260 to R262) -/

/-- The ring that a field of codes 0 CLM, 1 SE0, 2 SE1 names. -/
def codeRing (v : Nat) : List Nat := if v = 1 ∨ v = 2 then [v - 1] else []

/-- The ring that the tensor descriptor at a CLM offset names. -/
def Dev.descRing (d : Dev) (c off : Nat) : List Nat :=
  if d.num (clmAt c off) 1 = 2 then [d.num (clmAt c (off + 2)) 1 % 2] else []

/-- The rings whose tiles an instruction consumes. -/
def Dev.srcRings (d : Dev) (c : Nat) (ve : Bool) (x : QEnt) : List Nat :=
  if ve then
    let a := 0x10 ≤ x.opc && x.opc < 0x50
    let b := (x.opc ≤ 0x1C || 0x20 ≤ x.opc) && x.opc ≤ 0x23 && !bitAt x.w0.toNat 19
    (if a then d.descRing c (x.f1 16 16 * 64) else []) ++ (if a && b then d.descRing c (x.f1 32 16 * 64) else []) ++
    (if x.opc = 0x13 then d.descRing c (x.f1 48 16 * 64) else [])
  else match x.opc with
    | 1 => codeRing (x.f0 32 2) ++ codeRing (x.f0 34 2)
    | 4 => codeRing (x.f0 32 2)
    | _ => []

/-- The rings that an instruction fills. -/
def Dev.dstRings (d : Dev) (c : Nat) (ve : Bool) (x : QEnt) : List Nat :=
  if ve then (if (0x10 ≤ x.opc && x.opc ≤ 0x1F) || x.opc = 0x40 || x.opc = 0x41 then d.descRing c (x.f1 0 16 * 64) else [])
  else if x.opc = 3 then codeRing (x.f0 24 2) else []

/-! ### Chains -/

/-- A field of a chain descriptor (R302). -/
def ChainSt.f (h : ChainSt) (o n : Nat) : Nat := recNum h.rcd o n
def ChainSt.hasMe (h : ChainSt) : Bool := bitAt (h.f 1 1) 3
def ChainSt.hasVe (h : ChainSt) : Bool := bitAt (h.f 1 1) 4
def ChainSt.meTotal (h : ChainSt) : Nat := if h.hasMe then h.f 2 2 * h.f 28 1 else 0
def ChainSt.veTotal (h : ChainSt) : Nat := if h.hasVe then h.f 2 2 * h.f 36 1 else 0

def Dev.modChain (d : Dev) (c id : Nat) (f : ChainSt → ChainSt) : Dev :=
  d.modSe c 0 fun e => { e with chains := e.chains.map fun h => if h.id = id then f h else h }

/-- A chain names a ring, has armed it, has let it go. -/
def ChainSt.names (h : ChainSt) (s : Nat) : Bool := bitAt (h.f 1 1) s
def ChainSt.armed (h : ChainSt) (s : Nat) : Bool := if s = 0 then h.armed0 else h.armed1
def ChainSt.off (h : ChainSt) (s : Nat) : Bool := if s = 0 then h.off0 else h.off1
def ChainSt.setArmed (h : ChainSt) (s : Nat) : ChainSt := if s = 0 then { h with armed0 := true } else { h with armed1 := true }
def ChainSt.setOff (h : ChainSt) (s : Nat) : ChainSt := if s = 0 then { h with off0 := true } else { h with off1 := true }

/-- A chained instruction waits until its chain has armed the rings that it names itself (R304). -/
def Dev.chainWaits (d : Dev) (c : Nat) (ve : Bool) (x : QEnt) : Bool :=
  x.chain != 0 && ((d.se c 0).chains.any fun h => h.id == x.chain &&
    (d.srcRings c ve x ++ d.dstRings c ve x).any fun s => h.names s && !h.armed s)

/-- What that wait counts under (R308): a consumer waits for a head slot that no read is under way for, else a producer for a free slot. -/
def Dev.chainCause (d : Dev) (c : Nat) (ve : Bool) (x : QEnt) : Nat :=
  if (d.se c 0).chains.any fun h => h.id == x.chain && (d.srcRings c ve x).any fun s => h.names s && !h.armed s then 0 else 1

/-- Instruction `i` of a chain's ME or VE block, repetitions counted on (R303). -/
def Dev.chainInsn (d : Dev) (c : Nat) (h : ChainSt) (ve : Bool) (i : Nat) : QEnt :=
  let a := if ve then clmAt c (h.f 32 4 + i % max 1 (h.f 36 1) * 16) else clmAt c (h.f 24 4 + i % max 1 (h.f 28 1) * 16)
  { w0 := BitVec.ofNat 64 (d.num a 8), w1 := BitVec.ofNat 64 (d.num (a + 8) 8), job := h.ent.job, thr := h.ent.thr, chain := h.id }

/-- The next instruction of a chain's ME or VE block queued when a place is free and the chain before it has queued its
last one (R303, R304). -/
def Dev.feedOne (d : Dev) (c : Nat) : Dev :=
  let hs := (d.se c 0).chains
  let d := match hs.find? fun h => h.me < h.meTotal with
    | some h =>
      if d.hasPlace c .me then
        (d.place c .me (d.chainInsn c h false h.me)).modChain c h.id fun h => { h with me := h.me + 1 }
      else d
    | none => d
  match hs.find? fun h => h.ve < h.veTotal with
  | some h =>
    if d.hasPlace c .ve then
      (d.place c .ve (d.chainInsn c h true h.ve)).modChain c h.id fun h => { h with ve := h.ve + 1 }
    else d
  | none => d

def Dev.feed (d : Dev) (c : Nat) : Nat → Dev
  | 0 => d
  | n + 1 => (d.feedOne c).feed c n

/-- The chains of a core feed the queues that have places. -/
def Dev.feedChains (d : Dev) (c : Nat) : Dev := d.feed c 32

/-! ### Retiring and refusing instructions -/

/-- The count of retired instructions of a chain (R303). -/
def Dev.chainRetired (d : Dev) (c : Nat) (e : Eng) (x : QEnt) : Dev :=
  if x.chain = 0 then d
  else d.modChain c x.chain fun h => if e = .me then { h with meDone := h.meDone + 1 } else { h with veDone := h.veDone + 1 }

/-- A place of the matrix or vector queue retired: counted, its token sent, chains fed (R192, R380, R303). -/
def Dev.retireAt (d : Dev) (now c : Nat) (e : Eng) (i : Nat) : Dev :=
  match (d.queue c e)[i]? with
  | some x =>
    if x.started then
      let d := (d.setQueue c e (dropAt i (d.queue c e))).landAcm.bump (if e = .me then .CORE_ME_INSN else .CORE_VE_INSN) [c]
      let d := ((d.chainRetired c e x).complete now x 0).feedChains c
      d.reap (cluOfCore c)
    else d
  | none => d

/-- A job ended under an instruction's refusal: what of it is in progress stops as at any end of a job (R225, R397), and every
instruction of it leaves the queue (R198). -/
def Dev.stopInsn (d : Dev) (now c : Nat) (e : Eng) (x : QEnt) (status : Nat) : Dev :=
  let d := d.refuseJob now x.job status
  d.setQueue c e (dropQ x.job (d.queue c e))

/-- An instruction refused: counted, its job's instructions behind it discarded, its job ended (R198, R279). -/
def Dev.refuseInsn (d : Dev) (now c : Nat) (e : Eng) (x : QEnt) (status : Nat) : Dev :=
  (d.bump (if e = .me then .CORE_ME_ERR else .CORE_VE_ERR) [c]).stopInsn now c e x status

/-- An instruction whose retry failed: the fault attributed to the core, its job ended, gone from its queue. -/
def Mach.faultInsn (m : Mach) (c : Nat) (e : Eng) (x : QEnt) (struct_ : Nat) : Mach :=
  (m.engFault c x.job struct_).onDev fun d => d.setQueue c e (dropQ x.job (d.queue c e))

/-! ### Accumulators -/

def Dev.acc (d : Dev) (c a : Nat) : AccSt := SMap.get {} (d.core c).me.acc a
def Dev.setAcc (d : Dev) (c a : Nat) (x : AccSt) : Dev :=
  d.modCore c fun k => { k with me := { k.me with acc := k.me.acc.put {} a x } }

/-- Element (m, n) of an accumulator: its 32 bits in the raw view (R203). -/
def Dev.accElt (d : Dev) (c a m n : Nat) : Nat := d.num (accAt c a + m * 256 + n * 4) 4

/-- Some granule of an accumulator is marked. -/
def Dev.accPoisoned (d : Dev) (c a : Nat) : Bool := d.poisoned (accAt c a) 0x4000

/-- Bytes written and marks left as they are. -/
def Dev.pokeRaw (d : Dev) (a : Nat) (bs : List Byte) : Dev :=
  { d with mem := d.mem.setBytes ((bs.zip (List.range bs.length)).map fun p => (a + p.2, p.1)) }

/-- Every granule of a range marked or cleared. -/
def Dev.markRange (d : Dev) (a n : Nat) (p : Bool) : Dev :=
  { d with mem := (granules a n).foldl (fun m g => m.mark (d.cell g) p) d.mem }

/-- All 64 × 64 elements of an accumulator written; its marks set or cleared where asked (R77, R201). -/
def Dev.writeAcc (d : Dev) (c a : Nat) (f : Nat → Nat → Nat) (mark : Option Bool) : Dev :=
  let bs := (List.range 64).flatMap fun m => (List.range 64).flatMap fun n => leBytes 4 (f m n)
  let d := d.pokeRaw (accAt c a) bs
  match mark with
  | some p => d.markRange (accAt c a) 0x4000 p
  | none => d

/-- The core's LFSR advanced by one step (R215). -/
def Dev.advance (d : Dev) (c : Nat) : Dev :=
  d.modCore c fun k => { k with me := { k.me with lfsr := lfsrStep k.me.lfsr } }
def Dev.lfsr (d : Dev) (c : Nat) : Nat := (d.core c).me.lfsr

/-- A tile as the Chisel compressor writes it, with its counters (R238, R256). -/
def Dev.chiselOut (d : Dev) (c : Nat) (t : DType) (poison pred : Bool) (rows cols : Nat) (m : Nat → Nat → Nat) :
    Dev × List Byte :=
  let r := chisel t poison pred rows cols m
  let h := TileHdr.parse r.1
  let d := d.bump .CORE_CH_TILES [c]
  let d := match h.fm with
    | .csr => d.bump .CORE_CH_CSR [c]
    | .bmp => d.bump .CORE_CH_BCSR [c]
    | .zero => d.bump .CORE_CH_ZERO [c]
    | .dense => d
  let d := if r.2 then d.bump .CORE_CH_NOPAY [c] else d
  ((d.bump .CORE_CH_BIN [c] (denseSize t rows cols / 32)).bump .CORE_CH_BOUT [c] (h.bytes / 32), r.1)

/-- An output tile: through the Chisel compressor, or dense with NNZ counted (R57, R58, R220). -/
def Dev.outTile (d : Dev) (c : Nat) (ch : Bool) (t : DType) (poison pred : Bool) (rows cols : Nat)
    (m : Nat → Nat → Nat) : Dev × List Byte :=
  if ch then d.chiselOut c t poison pred rows cols m
  else (d, buildTile .dense t ((if poison then 1 else 0) + (if pred then 4 else 0)) rows cols m)

end Sys2Proof.Machine
end

