-- ==== Sys2Proof/Machine/TabOps.lean ====
section
/-! DEFINITION. Table descriptors, the places of rows, row-home entries, gradient banks, and requests for rows as they are
resolved, sent and answered (spec/04 R121 to R145, spec/05 R156 to R168, spec/11 R338 to R342). -/

namespace Sys2Proof.Machine

/-! ### Descriptors (R122) -/

def tdF (td : List Byte) (o n : Nat) : Nat := recNum td o n
def tdValid (td : List Byte) : Bool := bitAt (tdF td 0 1) 0
def tdVersioned (td : List Byte) : Bool := bitAt (tdF td 0 1) 1
def tdShadow (td : List Byte) : Bool := bitAt (tdF td 0 1) 2
def tdDefZero (td : List Byte) : Bool := bitAt (tdF td 0 1) 3
def tdAlloc (td : List Byte) : Bool := bitAt (tdF td 0 1) 4
def tdSharded (td : List Byte) : Bool := bitAt (tdF td 0 1) 5
def tdType (td : List Byte) : DType := (DType.ofCode (tdF td 1 1)).getD .int8
def tdB (td : List Byte) : Nat := tdF td 2 1 * 32
def tdBackoff (td : List Byte) : Nat := tdF td 3 1
def tdShift (td : List Byte) : Nat := tdF td 4 1
def tdRows (td : List Byte) : Nat := tdF td 8 8
def tdDef (td : List Byte) : Nat := tdF td 48 8

/-- Elements of a row (R122). -/
def tdElts (td : List Byte) : Nat := tdB td * 8 / (tdType td).bits

/-- Offset of row `i` in storage with `b` bytes per row (R127). -/
def rowOff (b i : Nat) : Nat :=
  if b ≤ 256 then i / (256 / max b 1) * 256 + i % (256 / max b 1) * b else i * ceilDiv b 256 * 256

/-- Bytes that storage of `n` rows occupies (R127). -/
def storeLen (b n : Nat) : Nat := if b ≤ 256 then ceilDiv n (256 / max b 1) * 256 else n * ceilDiv b 256 * 256

/-- Where local index `l` lies in storage with the given bases (R127, R128). -/
def locIn (td : List Byte) (rb vb sb svb l : Nat) : Loc :=
  ⟨rb + rowOff (tdB td) l, if tdVersioned td then vb + 8 * l else 0,
   if tdShadow td then sb + rowOff (tdB td) l else 0, if tdShadow td then svb + 8 * l else 0⟩

/-! ### Bytes with their marks -/

/-- The parts of a byte range in each granule it touches: number, start, length. -/
def pieces (a n : Nat) : List (Nat × Nat × Nat) :=
  (granules a n).map fun g => (g / 64 - a / 64, max a g, min (a + n) (g + 64) - max a g)

/-- The marks of a range, bit i for the i-th granule touched. -/
def Dev.pmOf (d : Dev) (a n : Nat) : Nat :=
  ((pieces a n).map fun p => if d.mem.marked (d.cell p.2.1) then 2 ^ p.1 else 0).foldl (· + ·) 0

/-- Bytes with marks, as one write performed now: granules whose bit is set are written as marked (R77, R79). -/
def Dev.storePmNow (d : Dev) (a : Nat) (bs : List Byte) (pm : Nat) (part : Option Nat := none) (force : Bool := false) : Dev :=
  (((pieces a bs.length).foldl (fun d p => d.poke p.2.1 ((bs.drop (p.2.1 - a)).take p.2.2) (bitAt pm p.1)) d).touch a bs.length
    { part := part.getD d.maintPart, write := true, force := force }).lineWritten a bs.length

/-- The same where it need not wait; else its granules are held back one by one. -/
def Dev.storePm (d : Dev) (a : Nat) (bs : List Byte) (pm : Nat) (part : Option Nat := none) : Dev :=
  if d.writeWait (part.getD d.maintPart) a bs.length = 0 then d.storePmNow a bs pm part
  else (pieces a bs.length).foldl (fun d p => d.store p.2.1 ((bs.drop (p.2.1 - a)).take p.2.2) (bitAt pm p.1) none part) d

/-- Marks counted from one address moved to another with the same offset within a granule; all of them otherwise. -/
def pmMove (src dst n pm : Nat) : Nat :=
  if src % 64 = dst % 64 then pm else if pm = 0 then 0 else 2 ^ (granules dst n).length - 1

/-! ### Row-home entries (R157, R158) -/

structure Ent where
  state : Nat := 0
  kind : Nat := 0
  module : Nat := 0
  slice : Nat := 0
  flags : Nat := 0
  seq : Nat := 0
  key : Nat := 0
  rowB : Nat := 0
  verB : Nat := 0
  shdB : Nat := 0
  sverB : Nat := 0
  last : Nat := 0
  lease : Nat := 0
  cursor : Nat := 0
  deriving DecidableEq, Repr, Inhabited

def Ent.ofBytes (b : List Byte) : Ent :=
  let f := recNum b
  ⟨f 0 1 % 4, f 1 1, f 2 2 % 4096, f 4 1, f 5 1, f 6 2, f 8 8, f 16 8, f 24 8, f 32 8, f 40 8, f 48 8, f 56 4, f 60 4⟩

def Ent.bytes (e : Ent) : List Byte :=
  leBytes 1 e.state ++ leBytes 1 e.kind ++ leBytes 2 e.module ++ leBytes 1 e.slice ++ leBytes 1 e.flags ++
  leBytes 2 e.seq ++ leBytes 8 e.key ++ leBytes 8 e.rowB ++ leBytes 8 e.verB ++ leBytes 8 e.shdB ++ leBytes 8 e.sverB ++
  leBytes 8 e.last ++ leBytes 4 e.lease ++ leBytes 4 e.cursor

/-- KEY of an entry: row in [39:0], table in [51:40] (R158). -/
def entKey (t row : Nat) : Nat := row + t * 2 ^ 40

def Dev.entAt (d : Dev) (a : Nat) : Ent := Ent.ofBytes (d.bytes a 64)
/-- An entry of the home table written. It is charged, and waits for nothing, since what is looked up after it sees it (DESIGN CHOICE, log
113). -/
def Dev.putEnt (d : Dev) (a : Nat) (e : Ent) : Dev := d.storeNow a e.bytes

def Dev.rhtBase (d : Dev) : Nat := d.cfgF .TBL_RHT [] 0 32 * 4096
def Dev.shardCap (d : Dev) : Nat := (d.cfgF .TBL_RHT [] 32 4 + 1) * 65536
def Dev.rowCap (d : Dev) : Nat := 65536 * 2 ^ d.cfgF .TBL_RHT [] 36 2
def Dev.shardEntAt (d : Dev) (i : Nat) : Nat := d.rhtBase + i * 64
def Dev.rowEntAt (d : Dev) (i : Nat) : Nat := d.rhtBase + (d.shardCap + i) * 64
def Dev.loadAt (d : Dev) (i : Nat) : Nat := d.rhtBase + (d.shardCap + d.rowCap) * 64 + i * 32

/-- Index of the entry of shard `s` of table `t`, when it has one (R157). -/
def Dev.shardIx (d : Dev) (t s : Nat) : Option Nat :=
  if s < d.cfgF .TBL_SHB [t] 20 17 then some (d.cfgF .TBL_SHB [t] 0 20 + s) else none

/-- Address of the row entry of (t, i), when there is one (R160). -/
def Dev.rowEnt? (d : Dev) (t i : Nat) : Option Nat := (SMap.get none d.tabs.rent (entKey t i)).map d.rowEntAt

def Dev.onTabs (d : Dev) (f : Tables → Tables) : Dev := { d with tabs := f d.tabs }

/-- Row entries in use (R186). -/
def Dev.rentUsed (d : Dev) : Nat := d.tabs.rent.length

/-- A place of the hashed array for (t, i): the first free one from its hash on (R157). -/
def Dev.freeRent (d : Dev) (t i : Nat) : Option Nat :=
  let used := d.tabs.rent.filterMap (·.2)
  if d.rowCap ≤ used.length then none
  else (List.range (used.length + 1)).findSome? fun k =>
    let p := (Config.rowHash t i + k) % d.rowCap
    if used.contains p then none else some p

/-- A row entry created; none, counted, where the array has no place (R165). -/
def Dev.newRent (d : Dev) (t i : Nat) (e : Ent) : Option Dev :=
  (d.freeRent t i).map fun p =>
    (d.onTabs fun x => { x with rent := x.rent.put none (entKey t i) (some p) }).putEnt (d.rowEntAt p) e

/-- A row entry deleted. -/
def Dev.delRent (d : Dev) (t i : Nat) : Dev :=
  match d.rowEnt? t i with
  | some a => (d.putEnt a {}).onTabs fun x => { x with rent := x.rent.put none (entKey t i) none }
  | none => d

/-- A module named as home is this one (R159). -/
def Dev.isOwn (d : Dev) (k : Nat) : Bool := k == 0xFFF || d.net.id == some k

/-- SEQ b is newer than a (R163). -/
def seqNewer (b a : Nat) : Bool :=
  let x := (b + 65536 - a % 65536) % 65536
  1 ≤ x && x ≤ 32767

/-- An instant in ticks comes before the end of a lease, modulo 2^32 (R158). -/
def leaseRuns (tick lease : Nat) : Bool :=
  let x := (lease + 2 ^ 32 - tick % 2 ^ 32) % 2 ^ 32
  0 < x && x < 2 ^ 31

/-! ### Resolving a row (R160, R161) -/

/-- The entry a row of a sharded table resolves to: its address, itself, whether it is a row entry, and the row's place. -/
structure Rsl where
  addr : Nat
  ent : Ent
  isRow : Bool
  loc : Loc
  deriving DecidableEq, Repr, Inhabited

/-- The whole-shard move of a shard that is MOVING here (R181). -/
def Dev.shardMove (d : Dev) (t s : Nat) : Option Move :=
  d.tabs.moves.find? fun m => m.shard && m.table == t && m.row / 2 ^ tdShift (d.tdesc t) == s

/-- The storage of local index `l` of a shard with entry `e`: behind the cursor of a whole-shard move within this module the new bases and
slice (R174, R181). -/
def Dev.shardStore (d : Dev) (t s : Nat) (e : Ent) (l : Nat) : Ent :=
  if e.state = 2 ∧ l < e.cursor then
    match d.shardMove t s with
    | some m => if m.dst.isNone then
        let n := Ent.ofBytes m.image
        { e with slice := n.slice, rowB := n.rowB, verB := n.verB, shdB := n.shdB, sverB := n.sverB } else e
    | none => e
  else e

def Dev.lookupEnt (d : Dev) (td : List Byte) (t i : Nat) : Option Rsl :=
  match d.rowEnt? t i with
  | some a =>
    let e := d.entAt a
    some ⟨a, e, true, ⟨e.rowB, e.verB, e.shdB, e.sverB⟩⟩
  | none =>
    (d.shardIx t (i / 2 ^ tdShift td)).map fun ix =>
      let e := d.shardStore t (i / 2 ^ tdShift td) (d.entAt (d.shardEntAt ix)) (i % 2 ^ tdShift td)
      ⟨d.shardEntAt ix, e, false, locIn td e.rowB e.verB e.shdB e.sverB (i % 2 ^ tdShift td)⟩

/-- Where a request for a row goes (R161, R181): here, with the entry when the table is sharded; to another module; to the
new home during a lease; to the new home after it; nowhere. -/
inductive Route1 where
  | here (loc : Loc) (r : Option Rsl) | away (k : Nat) (r : Rsl) | fwd (k : Nat) (r : Rsl) | stale (k : Nat) (r : Rsl)
  | none (r : Option Rsl)
  deriving DecidableEq, Repr, Inhabited

/-- Where a row lies whose shard is moving here and whose batch has committed, with the entry that it has here (R181). -/
def Dev.arrived (d : Dev) (td : List Byte) (t i : Nat) : Option (Ent × Loc) :=
  match d.shardIx t (i / 2 ^ tdShift td) with
  | none => none
  | some ix =>
    let a := SMap.get ([], 0) d.tabs.arriving ix
    let l := i % 2 ^ tdShift td
    let e := Ent.ofBytes a.1
    if l < a.2 then some (e, locIn td e.rowB e.verB e.shdB e.sverB l) else none

def Dev.resolve (d : Dev) (tick : Nat) (td : List Byte) (t i : Nat) : Route1 :=
  if !tdSharded td then .here (locIn td (tdF td 16 8) (tdF td 24 8) (tdF td 32 8) (tdF td 40 8) i) none
  else match d.lookupEnt td t i with
    | none => .none none
    | some r =>
      match r.ent.state with
      | 0 => .none (some r)
      | 3 => if leaseRuns tick r.ent.lease then .fwd r.ent.module r else .stale r.ent.module r
      | _ =>
        if !d.isOwn r.ent.module then
          match d.arrived td t i with
          | some x => if r.isRow then .away r.ent.module r else .here x.2 (some { r with ent := x.1 })
          | none => .away r.ent.module r
        else if r.ent.state = 2 && !r.isRow && i % 2 ^ tdShift td < r.ent.cursor then
          match d.shardMove t (i / 2 ^ tdShift td) with
          | some m => match m.dst with | some k => .fwd k r | none => .here r.loc (some r)
          | none => .here r.loc (some r)
        else .here r.loc (some r)

/-- The row's storage or version word lies in an absent or mapped-out range (R129). -/
def Dev.rowHole (d : Dev) (td : List Byte) (l : Loc) : Bool :=
  !d.rangeOk l.row (tdB td) || (tdVersioned td && !d.rangeOk l.ver 8)
def Dev.shdHole (d : Dev) (td : List Byte) (l : Loc) : Bool :=
  tdShadow td && (!d.rangeOk l.shd (tdB td) || !d.rangeOk l.sver 8)

/-- LAST_STEP that a merge or update of a row is checked against (R341). -/
def Dev.lastStep (d : Dev) (t : Nat) (r : Option Rsl) : Nat :=
  match r with | some x => x.ent.last | none => d.rd .UPD_TSTEP [t]

/-! ### Load and heavy hitters (R167, R168) -/

/-- The load of a row's shard in this window changed (R167). -/
def Dev.modLoad (d : Dev) (td : List Byte) (t i : Nat) (f : Load → Load) : Dev :=
  if !tdSharded td then d
  else match d.shardIx t (i / 2 ^ tdShift td) with
    | none => d
    | some ix => d.onTabs fun x => { x with loads := x.loads.mod {} ix f }

/-- Bytes read or written for a row's shard: each time a row's copy is (R167). -/
def Dev.loadBytes (d : Dev) (td : List Byte) (t i n : Nat) : Dev := d.modLoad td t i fun l => { l with bytes := l.bytes + n }

/-- A request has left the home slice, where it arrived at `since` (R167). -/
def Dev.loadWait (d : Dev) (td : List Byte) (t i now since : Nat) : Dev :=
  d.modLoad td t i fun l => { l with tail := max l.tail (now - since) }

/-- The home slice of a row here: of the entry that it resolves to, which for a row of a shard that is moving here is the arriving one
(R160, R181). -/
def Dev.homeSlice (d : Dev) (td : List Byte) (t i : Nat) : Option Nat :=
  (d.lookupEnt td t i).map fun r =>
    if r.isRow || d.isOwn r.ent.module then r.ent.slice else ((d.arrived td t i).map (·.1.slice)).getD r.ent.slice

/-- A lookup served here, or a write or merge applied, counted for its shard, its row at the home slice, and its table (R167, R168,
R170). -/
def Dev.loaded (d : Dev) (td : List Byte) (t i : Nat) (upd : Bool) : Dev :=
  let d := d.modLoad td t i fun l => if upd then { l with upd := l.upd + 1 } else { l with lkp := l.lkp + 1 }
  let d := if upd then d else d.onTabs fun x => { x with lkTot := x.lkTot.mod 0 t (· + 1) }
  match d.homeSlice td t i with
  | some k => if tdSharded td then d.onTabs fun x => { x with hot := x.hot.mod [] (k % 64) (hitters t i) } else d
  | none => d
where
  /-- The space-saving update of a 256-entry table; of several entries with the lowest count it replaces the first of the list (DESIGN
  CHOICE: R168 names none, log 83). -/
  hitters (t i : Nat) (l : List Hot) : List Hot :=
    if l.any fun h => h.table == t && h.row == i then
      l.map fun h => if h.table = t ∧ h.row = i then { h with count := h.count + 1 } else h
    else if l.length < 256 then l ++ [⟨t, i, 1⟩]
    else
      let low := (l.map (·.count)).foldl min (2 ^ 64)
      let k := l.findIdx fun h => h.count == low
      l.set k ⟨t, i, low + 1⟩

/-! ### Gradient banks (R338 to R342) -/

def Bank.is (b : Bank) (t i par : Nat) : Bool := b.table == t && b.row == i && b.par == par

/-- Bytes a bank takes (R338). -/
def bankLen (elts : Nat) : Nat := roundUp (elts * 4) 64

/-- A vector added into elements `off` on (R339). -/
def addVec (vals : List Nat) (off : Nat) (xs : List Nat) : List Nat :=
  (vals.zip (List.range vals.length)).map fun p =>
    if off ≤ p.2 ∧ p.2 < off + xs.length then addRne p.1 (xs.getD (p.2 - off) 0) else p.1

/-- A merge into a list of banks that holds, or may take, the row's bank. -/
def mergeIn (bs : List Bank) (t i par elts off : Nat) (xs : List Nat) (poison : Bool) : List Bank :=
  if bs.any fun b => b.is t i par then
    bs.map fun b => if b.is t i par then { b with vals := addVec b.vals off xs, poison := b.poison || poison } else b
  else bs ++ [⟨t, i, par, addVec (List.replicate elts 0) off xs, poison⟩]

/-- The banks allocated here: those of rows, and the merge buffers of moves that have not committed (R338, R340). -/
def Dev.allBanks (d : Dev) : List Bank := d.tabs.banks ++ d.tabs.moves.flatMap (·.banks)

/-- Bytes of the gradient area in use, and whether a bank fits (R342). -/
def Dev.gradUsed (d : Dev) : Nat := (d.allBanks.map fun b => bankLen b.vals.length).foldl (· + ·) 0
def Dev.gradRoom (d : Dev) (elts : Nat) : Bool :=
  d.gradUsed + bankLen elts ≤ d.cfgF .UPD_GAREA [] 32 10 * 2 ^ 20

/-- A row's bank stands, or there is room for it (R342). -/
def Dev.bankRoom (d : Dev) (t i par elts : Nat) : Bool := (d.allBanks.any fun b => b.is t i par) || d.gradRoom elts

/-- The address of a row's bank: a free place in the gradient area (R338). -/
def Dev.bankAt (d : Dev) (t i par elts : Nat) : Nat :=
  let room := (d.cfgF .UPD_GAREA [] 32 10 * 2 ^ 20 - bankLen elts) / 64 + 1
  d.cfgF .UPD_GAREA [] 0 32 * 4096 + Config.bankPlace ((t * 2 ^ 40 + i) * 2 + par) % room * 64

/-- The step rule of R341 with LAST_STEP `l`: `closed` while step l + 1 is closed. -/
def stepOk (l s : Nat) (closed : Bool) : Bool := s == l + 2 || (s == l + 1 && !closed)

/-- Step n is closed by a part (R366, R367): of a table, where `shard` is twice the shard's number, plus one for its rows held
by row entries; or of layer `t` - 4096. -/
def Dev.isClosed (d : Dev) (t shard n : Nat) : Bool := d.tabs.closed.contains (t, shard, n)

def shardOf (td : List Byte) (i : Nat) : Nat := if tdSharded td then i / 2 ^ tdShift td else 0

/-! ### Answers -/

/-- A row response (R521): marks, SOURCE, ATTEMPTS, data or entry. -/
def rowrBody (pm source att : Nat) (data : List Byte) : List Byte :=
  leBytes 8 pm ++ leBytes 1 source ++ leBytes 1 att ++ leBytes 6 0 ++ data

def Dev.modRepl (d : Dev) (h : Nat) (f : Repl → Repl) : Dev := d.onTabs fun t => { t with repls := t.repls.mod {} h f }
def Dev.modPart (d : Dev) (id : Nat) (f : Part → Part) : Dev :=
  d.onTabs fun t => { t with parts := t.parts.map fun p => if p.id = id then f p else p }

/-- A write or merge answered to its requester: OK, a fault or a refusal (R143, R145, R184, R345). -/
def Dev.rowAnswer (d : Dev) (now : Nat) (r : RowReq) (status : Nat) (body : List Byte := []) : Dev :=
  match r.by_ with
  | .msg p t => if (d.peer p).st = .up then d.respond p now 0x11 status t (rowrBody 0 0 0 body) else d
  | .repl h i =>
    let d := d.modRepl h fun x => { x with waiting := x.waiting.filter (· != i) }
    if status = sOk then d.modOp h fun o => { o with done := o.done + 1 }
    else if status = eFault then d.modRepl h fun x => { x with faulted := x.faulted + 1 }
    else d.modRepl h fun x => { x with skipped := x.skipped + 1, refused := true }
  | .merge c i => d.modCore c fun k => { k with mq := { k.mq with outs := k.mq.outs.put none i (some status) } }
  | .part id =>
    let par := ((d.tabs.parts.find? fun p => p.id == id).map (·.step)).getD 0 % 2
    let d := d.onTabs fun x => { x with banks := x.banks.filter fun b => !b.is r.table r.row par }
    (d.bump .UPD_ROWS).modPart id fun p =>
      { p with inProg := p.inProg.filter (· != r.row), fault := p.fault || status == eFault, written := p.written + 1 }
  | .moveIn =>
    d.onTabs fun t => { t with incoming := t.incoming.map fun i =>
      if i.table = r.table ∧ i.rows.any (fun x => x.1 == r.row) then { i with writes := i.writes - 1 } else i }
  | .look _ _ _ => d

/-! ### Sending a request (R162, R521) -/

/-- The body of a ROW message. R521 gives it no marks: a write or merge whose source is poisoned arrives unmarked at another home (DESIGN
CHOICE, log 85). -/
def rowBody (r : RowReq) (seq : Nat) : List Byte :=
  let h (op flags eoff nel step : Nat) (data : List Byte) : List Byte :=
    leBytes 1 op ++ leBytes 1 flags ++ leBytes 2 r.table ++ leBytes 2 eoff ++ leBytes 2 nel ++ leBytes 8 r.row ++
    leBytes 8 step ++ leBytes 2 seq ++ leBytes 6 0 ++ data
  let fw := if r.fwd then 2 else 0
  match r.op with
  | .read => h 0 fw 0 0 0 []
  | .write bs _ force => h 1 (fw + if force then 1 else 0) 0 0 0 bs
  | .merge step eoff vals _ => h 2 fw eoff vals.length step (vals.flatMap (leBytes 4))

/-- The job a request belongs to (R397, R534). -/
def Dev.reqJob (d : Dev) (r : RowReq) : Option Nat :=
  match r.by_ with
  | .merge c _ => ((d.core c).mq.q.head?).map (·.job)
  | .look c g _ => (((d.core c).ge.cmds.find? fun x => x.id == g)).map (·.ent.job)
  | .part id => (d.tabs.parts.find? fun p => p.id == id).bind (·.job)
  | _ => none

/-- The default row's bytes (R130). -/
def Dev.defaultRow (d : Dev) (td : List Byte) : List Byte :=
  if tdDefZero td || !d.rangeOk (tdDef td) (tdB td) then List.replicate (tdB td) 0 else d.bytes (tdDef td) (tdB td)

/-- A default row is read from DEF_ADDR: it is not B zero bytes (R130). -/
def Dev.defReads (d : Dev) (td : List Byte) : Bool := !tdDefZero td && d.rangeOk (tdDef td) (tdB td)

/-- The default row with its marks (R130). -/
def Dev.defRow (d : Dev) (td : List Byte) : List Byte × Nat :=
  (d.defaultRow td, if d.defReads td then pmMove (tdDef td) 0 (tdB td) (d.pmOf (tdDef td) (tdB td)) else 0)

/-- A read whose row has no home, lies in a hole, or whose home is lost or has no route, receives the default row with SOURCE
DEF_MISSING (R129, R534): a message is answered, a lookup's own request becomes the read of the default row, where that needs one. -/
def Dev.lostRead (d : Dev) (now : Nat) (r : RowReq) : Dev :=
  match r.by_ with
  | .msg p t =>
    let b := d.defRow (d.tdesc r.table)
    if (d.peer p).st = .up then d.respond p now 0x11 sOk t (rowrBody b.2 4 0 b.1) else d
  | _ =>
    d.onTabs fun x => { x with readers := x.readers.map fun y =>
      if y.st = .remote ∧ y.rows.any (fun q => q.lks.contains r.by_) then
        { y with st := .dflt, weight := if d.defReads (d.tdesc r.table) then y.weight else 0
                 rows := y.rows.map fun q => { q with src := 4, att := 0, loc := { row := tdDef (d.tdesc r.table) } } }
      else y }

/-- The tick at which the wait watchdog of a job's merge expires, from where it may wait for gradient space: at this module as it begins
to wait, at another home from its sending (R342, R409, R410; DEDUCED, log 86). -/
def Dev.mergeWatch (d : Dev) (now : Nat) (r : RowReq) : Option Nat :=
  match r.by_, d.reqJob r with
  | .merge _ _, some j => some (d.watchTick now j)
  | _, _ => none

/-- A request sent to module `k`; one issued to a lost peer or over no route is answered at once (R530, R534). -/
def Dev.sendRow (d : Dev) (now k : Nat) (r : RowReq) (seq : Nat) : Dev :=
  match d.routeCheck k with
  | .send =>
    let t := d.net.nextTag
    let r := { r with watch := d.mergeWatch now r, since := none }
    let d := d.request k now 0x10 0 (laneOfRow r.table r.row) 0 (rowBody r seq) (d.reqJob r) (.row t)
    d.onTabs fun x => { x with sent := x.sent.ins t r }
  | _ =>
    match r.op with
    | .read => d.lostRead now r
    | _ => d.rowAnswer now r eState

/-- Bytes of a forwarded request, charged to the fabric share (R172). -/
def fwdCost (r : RowReq) : Nat := 16 + (rowBody r 0).length

/-- A request forwarded to the new home under the fabric share; it waits while the share is spent (R172, R177). -/
def Dev.forward (d : Dev) (now k : Nat) (r : RowReq) : Dev :=
  let r := { r with fwd := true }
  if d.tabs.fabTok ≤ 0 then d.onTabs fun x => { x with fwdQ := x.fwdQ ++ [(k, r)] }
  else
    let d := d.onTabs fun x => { x with fabTok := x.fabTok - fwdCost r }
    d.sendRow now k r 0

/-! ### Partitions (R141, R172, R363, R474) -/

/-- The partition of migration copies (R172, R474). -/
def Dev.migPart (d : Dev) : Nat := d.cfgF .TBL_MIG [] 4 4

/-- The partition that a command's PARTITION field names, by its code (R141, R254, R363, R474, R555); none where it has no such field. -/
def HOp.part (o : HOp) : Option Nat :=
  let f (k : Nat) : Option Nat := some (recNum o.rcd k 1 % 16)
  match o.opc with
  | 0x0111 => f 57
  | 0x0112 => f 64
  | 0x0113 => f 56
  | 0x0114 => f 48
  | 0x0115 => f 49
  | 0x0120 => f 56
  | 0x0125 => f 48
  | 0x0130 => f 56
  | _ => none

/-- The partition of a row request's accesses (R474): of the command, the job or the part that it belongs to, of requests from other
modules, of migration copies. -/
def Dev.byPart (d : Dev) (b : RBy) : Nat :=
  match b with
  | .repl h _ => (((d.host.ops.find? fun o => o.handle == h).bind HOp.part)).getD d.maintPart
  | .msg _ _ => d.fabPart
  | .part id => ((d.tabs.parts.find? fun p => p.id == id).map (·.mem)).getD d.maintPart
  | .moveIn => d.migPart
  | _ => ((d.reqJob { by_ := b, table := 0, row := 0 }).map d.jobPart).getD d.maintPart

end Sys2Proof.Machine
end

