-- ==== Sys2Proof/Machine/WinOps.lean ====
section
/-! DEFINITION. Core windows, the tile view, and detections of Canopy, CLM and ACM that an access through them meets (spec/06
R203 to R207, R224, spec/13 R430, R440, R441). -/

namespace Sys2Proof.Machine

/-! ### Core windows (R203, R204) -/

/-- The dense tile that accumulator `a` of a core reads as, without the zero bytes after it; its NNZ is not counted (R204). -/
def Dev.tileView (d : Dev) (c a : Nat) : List Byte :=
  let x := d.acc c a
  uncounted (buildTile .dense (if x.fp then .fp32 else .int32) (if d.accPoisoned c a then 1 else 0) x.rows x.cols (d.accElt c a))

/-- `n` bytes of a core's window, and the marks of the granules touched; none at a reserved offset. -/
def Dev.winRead (d : Dev) (c off n : Nat) : Option (List Byte × Nat) :=
  match winOf off with
  | .clm | .raw _ => some (d.bytes (winAt c + off) n, d.pmOf (winAt c + off) n)
  | .tile a o =>
    let t := d.tileView c a
    let pm := if d.accPoisoned c a then maskOf (granules o n).length fun i => ((granules o n).getD i 0) < t.length else 0
    some ((t.drop o).take n ++ List.replicate (n - (t.length - o)) 0, pm)
  | .none => none

/-- The cluster of a core's window is OFF (R441). -/
def Dev.winOff (d : Dev) (c : Nat) : Bool := (d.clu (cluOfCore c)).pst == 2

/-- A write through a core's window: marks by R79; the tile view is read-only (R204, R205). -/
def Dev.winWrite (d : Dev) (c off : Nat) (bs : List Byte) (pm : Nat) : Dev :=
  if d.winOff c then d.bump .CLU_OFFACC [cluOfCore c]
  else match winOf off with
    | .clm | .raw _ =>
      (pieces (winAt c + off) bs.length).foldl (fun d p =>
        d.poke p.2.1 ((bs.drop (p.2.1 - winAt c - off)).take p.2.2) (bitAt pm p.1)) d
    | .tile _ _ => d.bump .CORE_ME_ERR [c]
    | .none => d

/-- An access of a stream to a DLA waits for an accumulator (R224). -/
def Dev.localBusy (d : Dev) (a : Nat) : Bool :=
  match d.target a with | .core c off => !d.winOff c && d.winBusy c off | _ => false

/-- An access of a stream to a range waits for one of the accumulators in it (R224). -/
def Dev.spanBusy (d : Dev) (a n : Nat) : Bool :=
  (List.range (n / 0x4000 + 2)).any fun i => d.localBusy (min (a + i * 0x4000) (a + n - 1))

/-- `n` bytes of this module as an engine or a command reads them, and their marks: memory, or a core's window by its views (R204, R206);
the window of a cluster that is OFF reads as zero (R441). -/
def Dev.localRead (d : Dev) (a n : Nat) : List Byte × Nat :=
  match d.target a with
  | .core c off => if d.winOff c then (List.replicate n 0, 0) else (d.winRead c off n).getD (List.replicate n 0, 0)
  | _ => (d.bytes a n, d.pmOf a n)

/-- A read counted where its cluster is OFF (R441), else at the homes of its lines (R428). -/
def Dev.localTouch (d : Dev) (a n : Nat) (x : Access) : Dev :=
  match d.target a with
  | .core c _ => if d.winOff c then d.bump .CLU_OFFACC [cluOfCore c] else d
  | _ => d.touch a n x

/-- A stream's tile written at a DLA of this module: memory, or a core's window, where a tile view drops it (R204, R296). -/
def Dev.localTile (d : Dev) (a : Nat) (bs : List Byte) (poison : Bool) (part : Option Nat) : Dev :=
  match d.target a with
  | .core c off =>
    d.winWrite c off (if poison then poisonTile bs else bs) (if poison then 2 ^ (granules a bs.length).length - 1 else 0)
  | _ => d.writeTile a bs poison part

/-! ### Detections that a read meets -/

/-- A read of a CLM granule or an ACM tile row in which the detection code finds an error: counted; failing twice, a CLM granule
is marked (R207, R440). True when it failed twice. -/
def Dev.winDetect (d : Dev) (c off : Nat) (det : Det) : Dev × Bool :=
  let hit := match det, winOf off with
    | .once .clm, .clm | .twice .clm, .clm | .once .acm, .raw _ | .twice .acm, .raw _ | .once .acm, .tile _ _
    | .twice .acm, .tile _ _ => true
    | _, _ => false
  if !hit then (d, false)
  else
    let clm := winOf off == .clm
    let second := match det with | .twice _ => true | _ => false
    let d := d.bump (if clm then .CORE_CLM_ERR else .CORE_ME_ACCERR) [c] (if second && !clm then 2 else 1)
    match det with
    | .twice _ => (if clm then d.markRange (winAt c + off) 1 true else d, true)
    | _ => (d, false)

/-- A parity error of the Canopy line or Clearing granule at a DLA as it is met (R430): a clean line is fetched again, a dirty one or a
granule is marked. True when something was marked. -/
def Dev.canopyHit (d : Dev) (a : Nat) : Dev × Bool :=
  match d.target a with
  | .clearing k => ((d.markRange a 1 true).sliceErr k (a / 64 * 64), true)
  | .ext u b =>
    let l := SMap.get {} d.canopy.lines (b / 128)
    match d.home u b with
    | some k =>
      if !l.here || d.attr a = 2 then (d, false)
      else if l.dirty then ((d.markLine (b / 128 * 128)).sliceErr k (a / 128 * 128), true)
      else ((d.bump .CAN_PERR [k]).bumpHi .CAN_WB [k], false)
    | none => (d, false)
  | _ => (d, false)

/-- The same, reported at once. -/
def Mach.canopyDetect (m : Mach) (a : Nat) : Mach × Bool :=
  let r := m.dev.canopyHit a
  (({ m with dev := r.1 } : Mach).flushReports, r.2)

/-- What an access that carries no finding of its own meets at a DLA (R207, R430, R440): true when the job that made it ends with E_FAULT. -/
def Dev.meet (d : Dev) (a : Nat) : Dev × Bool :=
  let f := d.takeFind
  match f.1.target a with
  | .core c off => f.1.winDetect c off f.2
  | _ => if detIs .canopy f.2 then f.1.canopyHit a else (f.1, false)

/-- The same at each line of a range. -/
def Dev.meetAll (d : Dev) (a n : Nat) : Dev × Bool :=
  (lineAddrs a n).foldl (fun s l => let x := s.1.meet (max a l); (x.1, s.2 || x.2)) (d, false)

/-- A job one of whose accesses to a DLA met an error that marks ends with E_FAULT; that of a core's window is the core's fault, reported
later (R430, R440, R610, R612). -/
def Dev.endMet (d : Dev) (now a j : Nat) : Dev :=
  let d := d.endJob now j .fault
  match d.target a with
  | .core c off => { d with reports := d.reports ++ [(64 + c + 256 * (if winOf off == .clm then 1 else 2), j)] }
  | _ => d

/-- The same of an access that no job owns: the core's fault is counted (R610, R612). -/
def Dev.countMet (d : Dev) (a : Nat) : Dev :=
  match d.target a with | .core c _ => { d with reports := d.reports ++ [(64 + c, 0)] } | _ => d

/-- An access of a sequencer or command faulted: its job, if it has one, ends with E_FAULT. -/
def Dev.faultJob (d : Dev) (now : Nat) (j : Option Nat) : Dev :=
  match j with | some j => d.endJob now j .fault | none => d

end Sys2Proof.Machine
end

