-- ==== Sys2Proof/Machine/CacheOps.lean ====
section
/-! DEFINITION. The L1 data cache and the prefetch side buffer as shared operations: fills, random replacement, offers of
evicted lines, reads through the cache, invalidation (spec/13 R429, R442 to R449). -/

namespace Sys2Proof.Machine

/-- The L1 data cache caches the line at a DLA (R442, R422). -/
def Dev.l1Caches (d : Dev) (a : Nat) : Bool :=
  match d.target a with
  | .clearing _ => true
  | .ext u b => d.attr a != 2 && (d.home u b).isSome
  | _ => false

/-- The step of the replacement LFSR (R443). -/
def l1Lfsr (s : Nat) : Nat := if s % 2 = 1 then (s / 2) ^^^ 0xB400 else s / 2

/-- The 8 ways of a line's set, as keys of the line map (R442). -/
def l1Ways (line : Nat) : List Nat := (List.range 8).map fun w => line % 256 * 8 + w

def Seq.l1At (s : Seq) (k : Nat) : Option L1Line := (s.l1.find? fun p => p.1 == k).map (·.2)

/-- The key of a line held by the cache. -/
def Seq.l1Find (s : Seq) (line : Nat) : Option Nat :=
  (l1Ways line).find? fun k => match s.l1At k with | some l => l.line == line | none => false

/-- A clean line evicted is offered to its cache home (R429): taken when it is absent there, its set has an invalid way or a clean one that
the slice, a free value, is willing to replace, no write has reached the slice since its fill, the region allows allocation and its
partition has credit at the port. Lines of Clearings are never offered. -/
def Dev.offer (d : Dev) (part : Nat) (l : L1Line) : Dev :=
  let a := l.line * 128
  match d.target a with
  | .ext u b =>
    match d.home u b with
    | some k =>
      let here := (SMap.get {} d.canopy.lines (b / 128)).here
      let ws := d.waysOf b
      let clean := ws.filter fun w => !w.2.dirty
      let full := decide (16 ≤ ws.length)
      let way := !full || (!clean.isEmpty && Config.freeNat d.fresh % 2 == 0)
      let d := if full then d.useFree 1 else d
      if here || !way || l.written || d.attr a != 0 || !(d.memPlace (64 + k)).admits part then d.bumpHi .CAN_OFFER [k]
      else
        let d := if full then (match clean[Config.freeNat d.fresh % clean.length]? with | some w => (d.useFree 1).evict w | none => d) else d
        { d.bump .CAN_OFFER [k] with
          canopy := { d.canopy with lines := d.canopy.lines.put {} (b / 128) ⟨true, false, 0⟩ } }
    | none => d
  | _ => d

/-- The partition of a line read: of the gather command that reads it (`gcmd` the command plus one), or of the core's thread (R474). -/
def Dev.linePart (d : Dev) (c gcmd : Nat) : Nat :=
  match (d.core c).ge.cmds.find? fun g => gcmd == g.id + 1 with
  | some g => d.jobPart g.ent.job
  | none => d.corePart c

/-- A line filled into the L1 data cache (R443): an invalid way first, the lowest-numbered one, else a random way. -/
def Dev.l1Fill (d : Dev) (c : Nat) (l : L1Line) : Dev :=
  let s := (d.core c).sq
  let ways := l1Ways l.line
  let k := match ways.find? fun k => (s.l1At k).isNone with
    | some k => k
    | none => ways.getD (s.l1s % 8) 0
  let d := match s.l1At k with | some o => d.offer (d.linePart c l.gcmd) o | none => d
  d.modSq c fun s => { s with l1 := s.l1.ins k l, l1s := l1Lfsr s.l1s }

/-- A line put into the side buffer; the oldest leaves when 32 are held (R448). -/
def Dev.sideFill (d : Dev) (c : Nat) (l : L1Line) : Dev :=
  let s := (d.core c).sq
  let d := if 32 ≤ s.side.length then d.bump .CORE_L1_PFDROP [c] else d
  d.modSq c fun s => { s with side := (if 32 ≤ s.side.length then s.side.drop 1 else s.side) ++ [l] }

/-- A line as memory holds it now. -/
def Dev.lineNow (d : Dev) (line gcmd : Nat) : L1Line :=
  let a := line * 128
  { line := line, data := d.bytes a 128, gcmd := gcmd,
    poison := (if d.mem.marked (d.cell a) then 1 else 0) + if d.mem.marked (d.cell (a + 64)) then 2 else 0 }

/-- A line read through the cache: a hit, a side-buffer hit that moves the line into the cache, or a miss read at the slice, which
allocates there where `alloc` says so; `gcmd` is 0 for a sequencer load and the command plus one for the small-row path, whose miss a
controller has been charged for (R442, R448, R449, R476). -/
def Dev.l1Line (d : Dev) (c line gcmd : Nat) (alloc : Bool := true) : Dev × L1Line × Bool :=
  let s := (d.core c).sq
  match (s.l1Find line).bind s.l1At with
  | some l => (d.bump .CORE_L1_HIT [c], l, true)
  | none =>
    match s.side.find? (·.line == line) with
    | some l =>
      let d := (d.bump .CORE_L1_HIT [c]).bump .CORE_L1_PFUSE [c]
      let d := d.modSq c fun s => { s with side := s.side.filter fun x => x.line != line }
      (d.l1Fill c l, l, true)
    | none =>
      let l := d.lineNow line gcmd
      let d := (d.bump .CORE_L1_MISS [c]).touch (line * 128) 128 { part := d.linePart c gcmd, alloc := alloc, fetched := gcmd != 0 }
      (if gcmd = 0 then d.l1Fill c l else d.sideFill c l, l, false)

/-- The L1 data cache and the side buffer invalidated (R446); side-buffer lines leave unused. -/
def Dev.l1Clear (d : Dev) (c : Nat) : Dev :=
  let n := (d.core c).sq.side.length
  let d := if n = 0 then d else d.bump .CORE_L1_PFDROP [c] n
  d.modSq c fun s => { s with l1 := [], side := [] }

/-- The lines that a gather command brought in invalidated when it completes (R449). -/
def Dev.l1DropCmd (d : Dev) (c gcmd : Nat) : Dev :=
  let n := ((d.core c).sq.side.filter fun l => l.gcmd == gcmd).length
  let d := if n = 0 then d else d.bump .CORE_L1_PFDROP [c] n
  d.modSq c fun s => { s with
    l1 := s.l1.filter fun p => p.2.gcmd != gcmd
    side := s.side.filter fun l => l.gcmd != gcmd }

/-- A core holds a line in its L1 data cache or its side buffer. -/
def Seq.holds (s : Seq) (line : Nat) : Bool := (s.l1Find line).isSome || s.side.any fun l => l.line == line

/-- A line with a parity error dropped, and counted; one of the side buffer leaves unused (R448, R450). -/
def Dev.l1Error (d : Dev) (c line : Nat) : Dev :=
  let d := if (d.core c).sq.side.any fun l => l.line == line then d.bump .CORE_L1_PFDROP [c] else d
  (d.bump .CORE_L1_PERR [c]).modSq c fun s =>
    { s with l1 := s.l1.filter fun p => p.2.line != line, side := s.side.filter fun l => l.line != line }

/-- One line invalidated in a core's L1 data cache (R436). -/
def Dev.l1Drop (d : Dev) (c line : Nat) : Dev :=
  d.modSq c fun s => { s with l1 := s.l1.filter fun p => p.2.line != line }

end Sys2Proof.Machine
end

