-- ==== Sys2Proof/Machine/ReadOps.lean ====
section
/-! DEFINITION. Rows read: requests issued, the reader rules, rows and default rows delivered to their lookups (spec/04 R129 to R153). -/

namespace Sys2Proof.Machine

/-! ### Commands in progress -/

def Dev.cmd? (d : Dev) (c id : Nat) : Option GCmd := (d.core c).ge.cmds.find? fun g => g.id == id

def Dev.modCmd (d : Dev) (c id : Nat) (f : GCmd → GCmd) : Dev :=
  d.modGe c fun e => { e with cmds := e.cmds.map fun g => if g.id = id then f g else g }

/-- Fields of the gather descriptor (R147, R319). -/
def GCmd.f (g : GCmd) (o n : Nat) : Nat := recNum g.ent.rcd o n
def GCmd.outEn (g : GCmd) : Bool := bitAt (g.f 1 1) 0
def GCmd.toRing (g : GCmd) : Bool := bitAt (g.f 1 1) 1

/-- The operations that hand rows to a ring. -/
def GCmd.rings (g : GCmd) : Bool := g.op != 1 || g.toRing

/-- A neighbour command (R318). -/
def GCmd.isNbr (g : GCmd) : Bool := 2 ≤ g.op && g.op ≤ 5

/-- The command has admitted its last lookup (R146). -/
def GCmd.admitted (g : GCmd) : Bool :=
  if g.isNbr then g.count ≤ g.blk && g.seeds.isEmpty && g.want.isEmpty && g.reads.isEmpty && g.pend.isEmpty else g.count ≤ g.next

/-- Bytes of one element row that the command delivers. -/
def GCmd.rowLen (g : GCmd) : Nat := if g.op = 0x11 then (if g.table = 5 then 128 else 64) else tdB g.td

/-- The element format of the rows that the command delivers. -/
def GCmd.rowType (g : GCmd) : DType := if g.op = 0x11 then (DType.ofCode g.table).getD .int8 else tdType g.td

/-- Elements of a row that enter tiles: the row's, or the width of the K tile (R245, R293). -/
def GCmd.rowElts (g : GCmd) : Nat := if g.op = 0x11 then g.ent.off else tdElts g.td

/-- Tiles per group of lookups (R293). -/
def GCmd.perGroup (g : GCmd) : Nat := max 1 (ceilDiv g.rowElts 64)

/-! ### Tracker entries (R152, R155) -/

/-- Tracker entries of a core in use: requests, adjacency reads, rows held until their tile is published. -/
def Dev.trackers (d : Dev) (c : Nat) : Nat :=
  ((d.tabs.readers.filter fun r => r.core == some c).map (·.weight)).foldl (· + ·) 0 +
  ((d.core c).ge.cmds.map fun g => (g.reads.map (·.own.length)).foldl (· + ·) 0 + (g.rows.filter fun p => p.2.2 % 2 == 1).length).foldl (· + ·) 0

/-- The clk with all entries busy are counted when they end (R155). -/
def Dev.fullClock (d : Dev) (now c : Nat) : Dev :=
  if 512 ≤ d.trackers c then
    d.modGe c fun e => { e with fullAt := some (e.fullAt.getD now) }
  else match (d.core c).ge.fullAt with
    | some t => (d.bump .CORE_GE_FULL [c] ((now - t) / clkT)).modGe c fun e => { e with fullAt := none }
    | none => d

/-! ### Delivery (R149 to R151) -/

def srcMain : Nat := 0
def srcShadow : Nat := 1
def srcPad : Nat := 2
def srcRange : Nat := 3
def srcMissing : Nat := 4
def srcBusy : Nat := 5

/-- The counters of a lookup by SOURCE (R154, R155). -/
def Dev.countSource (d : Dev) (c table source : Nat) : Dev :=
  match source with
  | 1 => (d.bump .CORE_GE_SHADOW [c]).bumpHi .TBL_RTY [table]
  | 2 => (d.bump .CORE_GE_DEFPAD [c]).bump .TBL_DEF [table]
  | 3 => (d.bump .CORE_GE_DEFRNG [c]).bump .TBL_DEF [table]
  | 4 => (d.bump .CORE_GE_DEFMISS [c]).bump .TBL_DEF [table]
  | 5 => (d.bump .CORE_GE_BUSY [c]).bumpHi .TBL_DEF [table]
  | _ => d

/-- An outcome entry (R150). -/
def outcomeBits (poison : Bool) (source att : Nat) : Nat :=
  (if poison then ePoison else if source = srcBusy then eBusy else sOk) + source * 256 + att * 4096

/-- A lookup delivered: counted, its row written or kept for its tile, its outcome entry written (R149, R150). -/
def Dev.deliverLook (d : Dev) (c id pos : Nat) (bs : List Byte) (pm source att : Nat) (held : Bool) : Dev :=
  match d.cmd? c id with
  | none => d
  | some g =>
    let d := d.modCmd c id fun g => { g with
      done := g.done + 1, poison := g.poison || pm != 0,
      nDef := g.nDef + (if 2 ≤ source ∧ source ≤ 4 then 1 else 0),
      nBusy := g.nBusy + (if source = srcBusy then 1 else 0),
      nShd := g.nShd + (if source = srcShadow then 1 else 0) }
    if g.ent.dead then d
    else
      let d := if g.op = 0x11 then d else d.countSource c g.table source
      let d := if pm != 0 then d.poisonIn c g.ent.job else d
      let d := if g.op = 1 && g.outEn then d.store (g.f 24 8 + 2 * pos) (leBytes 2 (outcomeBits (pm != 0 || g.mark) source att)) g.mark none
          (some (d.jobPart g.ent.job)) else d
      if g.rings then d.modCmd c id fun g => { g with rows := g.rows.ins pos (bs, 2 * pm + (if held then 1 else 0)) }
      else
        let stride := if g.f 32 4 = 0 then g.rowLen else g.f 32 4
        let dst := g.f 16 8 + pos * stride
        d.storePm dst bs (if g.mark then 2 ^ (granules dst bs.length).length - 1 else pmMove 0 dst bs.length pm)
          (some (d.jobPart g.ent.job))

/-- A row delivered to every lookup that joined its read, or answered to the module that asked (R153, R162). -/
def Dev.deliverRow (d : Dev) (now : Nat) (lks : List RBy) (bs : List Byte) (pm source att : Nat) : Dev :=
  lks.foldl (fun d l =>
    match l with
    | .look c g pos => d.deliverLook c g pos bs pm source att true
    | .msg p t => if (d.peer p).st = .up then d.respond p now 0x11 sOk t (rowrBody pm source att bs) else d
    | _ => d) d

/-! ### Requests (R137, R152, R153) -/

def Dev.reader? (d : Dev) (id : Nat) : Option Reader := d.tabs.readers.find? fun r => r.id == id
def Dev.setReader (d : Dev) (r : Reader) : Dev :=
  d.onTabs fun t => { t with readers := t.readers.map fun x => if x.id = r.id then r else x }
def Dev.dropReader (d : Dev) (id : Nat) : Dev :=
  (d.onTabs fun t => { t with readers := t.readers.filter fun x => x.id != id }).memDone (.row id)
def Dev.newReader (d : Dev) (r : Reader) : Dev :=
  d.onTabs fun t => { t with nextId := t.nextId + 1, readers := t.readers ++ [{ r with id := t.nextId }] }

/-- The table descriptor of a lookup: the one its command bound, or for a message the one in force at the home (R125). -/
def Dev.lookTd (d : Dev) (t : Nat) (l : RBy) : List Byte :=
  match l with
  | .look c g _ => match d.cmd? c g with | some x => x.td | none => d.tdesc t
  | _ => d.tdesc t

/-- The table descriptor of a request, by its first lookup: what the descriptors of joined lookups may differ in (R124) is looked up
for each of them. -/
def Dev.readerTd (d : Dev) (r : Reader) : List Byte :=
  d.lookTd r.table (((r.rows.head?).bind fun q => q.lks.head?).getD .moveIn)

/-- Bytes that a request's rows have. -/
def Dev.readerLen (d : Dev) (r : Reader) : Nat :=
  if r.bmp then (if r.table = 5 then 128 else 64) else tdB (d.readerTd r)

/-- A row of the request is versioned. -/
def Dev.readerVer (d : Dev) (r : Reader) : Bool := !r.bmp && tdVersioned (d.readerTd r)

/-- The version word and the row that an attempt reads: the main copy or the shadow (R137). -/
def RowRd.verAt (q : RowRd) : Nat := if q.sh then q.loc.sver else q.loc.ver
def RowRd.rowAt (q : RowRd) : Nat := if q.sh then q.loc.shd else q.loc.row

/-- The partition of a request: that of its first lookup (R474). -/
def Dev.readerPart (d : Dev) (r : Reader) : Nat := d.byPart (((r.rows.head?).bind fun q => q.lks.head?).getD .moveIn)

/-- The smallest aligned block of 64, 128 or 256 bytes that holds the bytes from `lo` to `hi` of a slab (R153). -/
def blockOf (lo hi : Nat) : Nat × Nat :=
  if lo / 64 = hi / 64 then (lo / 64 * 64, 64) else if lo / 128 = hi / 128 then (lo / 128 * 128, 128) else (lo / 256 * 256, 256)

/-- The blocks that the row read of a request reads: for each slab, what covers the granules its lookups need (R153). -/
def Dev.readerBlocks (d : Dev) (r : Reader) : List (Nat × Nat) :=
  let n := d.readerLen r
  let slabs := (r.rows.flatMap fun q => (lineAddrs q.rowAt n).map (· / 256)).eraseDups
  slabs.map fun s =>
    let parts := (r.rows.map fun q => overlap q.rowAt n (s * 256) 256).filter fun o => decide (0 < o.2)
    let lo := parts.foldl (fun m o => min m o.1) (s * 256 + 255)
    let hi := parts.foldl (fun m o => max m (o.1 + o.2 - 1)) (s * 256)
    blockOf lo hi

/-- A small row that the core's cache or side buffer holds is not read further away (R135, R448). -/
def Dev.readerInL1 (d : Dev) (r : Reader) : Bool :=
  match r.core with
  | some c =>
    let s := (d.core c).sq
    !r.bmp && !d.readerVer r && d.readerLen r ≤ 64 && r.rows.all fun q => s.holds (q.rowAt / 128)
  | none => false

/-- The data of a request is held at the slice ports of its rows: for a cap there, for their side's re-home, or behind a write (R423, R426,
R476). -/
def Dev.rowHeld (d : Dev) (r : Reader) : Bool :=
  r.st == .flight && !d.readerInL1 r && r.rows.any fun q => d.portWait (d.readerPart r) q.rowAt (d.readerLen r) != 0

/-- The storage of a row, or the version word that its attempt reads, has become a hole (R129, R462). -/
def Dev.rowGone (d : Dev) (r : Reader) (q : RowRd) : Bool :=
  if r.bmp then !d.rangeOk q.rowAt (d.readerLen r)
  else if q.sh then d.shdHole (d.readerTd r) q.loc else d.rowHole (d.readerTd r) q.loc

/-- The bank of a request as the engine groups it (R153): the channel and bank are free functions of the block (R460,
R472). -/
def Dev.bankKey (d : Dev) (r : Reader) : Nat × Nat × Nat :=
  let a := d.cell (r.slab * 256)
  match unitOf a with
  | some u => (u, bankOf u a)
  | none => (1000, (a - clearBase) / sliceSize, 0)

/-- The requests of a group that wait, oldest first. -/
def Dev.bankGroup (d : Dev) (r : Reader) : List Reader :=
  d.tabs.readers.filter fun x => x.core == r.core && (match x.st with | .wait _ => true | _ => false) &&
    d.bankKey x == d.bankKey r

/-- Tracker entries that `n` bytes of one row take (R152). -/
def entriesOf (n : Nat) : Nat := max 1 (ceilDiv n 256)

/-- A core's gather engine has `n` tracker entries free; a request of this module as home takes none. -/
def Dev.entriesFree (d : Dev) (core : Option Nat) (n : Nat) : Bool :=
  match core with | some c => d.trackers c + n ≤ 512 | none => true

/-- A lookup given the default row: at once where that is B zero bytes, else with the read of DEF_ADDR, which it begins or, at the same
slab, joins (R129, R130, R152). -/
def Dev.giveDefault (d : Dev) (now : Nat) (core : Option Nat) (t : Nat) (l : RBy) (source att : Nat) : Dev :=
  let td := d.lookTd t l
  if !d.defReads td then
    match l with
    | .look c g pos => d.deliverLook c g pos (List.replicate (tdB td) 0) 0 source att false
    | _ => d.deliverRow now [l] (List.replicate (tdB td) 0) 0 source att
  else
    let q : RowRd := { row := 0, loc := { row := tdDef td }, lks := [l], att := att, src := source }
    match d.tabs.readers.find? fun r => core.isSome && r.core == core && r.table == t && r.st == .dflt && r.slab == tdDef td / 256 with
    | some r => (match core with | some c => d.bump .CORE_GE_COAL [c] | none => d).setReader { r with rows := r.rows ++ [q] }
    | none =>
      let n := entriesOf (tdB td)
      d.newReader { id := 0, core := core, table := t, slab := tdDef td / 256, rows := [q], st := .dflt
                    weight := if d.entriesFree core n then n else 0 }

/-- The data of a row's lookups leaves the home slice (R167). -/
def Dev.rowLeaves (d : Dev) (now : Nat) (r : Reader) (q : RowRd) : Dev :=
  if r.bmp then d else d.loadWait (d.readerTd r) r.table q.row now q.since

/-- The lookups of a row that has become a hole before its read: the default row with DEF_MISSING, in the shadow's turn with DEF_BUSY, since
that attempt is not made (R129, R137, R462); the job of one of a GBMP tile ends as where a list becomes a hole (R148, DEDUCED, log 100). -/
def Dev.missing (d : Dev) (now : Nat) (r : Reader) (q : RowRd) : Dev :=
  if r.bmp then (q.lks.filterMap fun l => d.reqJob { by_ := l }).foldl (fun d j => d.endJob now j .fault) d
  else q.lks.foldl (fun d l => d.giveDefault now r.core r.table l (if q.sh then srcBusy else srcMissing) (if q.sh then 5 else 0))
    (d.rowLeaves now r q)

/-- The rows of a request that have become holes leave it before it is issued. -/
def Dev.dropHoles (d : Dev) (now : Nat) (r : Reader) : Dev × Option Reader :=
  let gone := r.rows.filter (d.rowGone r)
  let left := { r with rows := r.rows.filter fun q => !d.rowGone r q }
  if gone.isEmpty then (d, some r)
  else if left.rows.isEmpty then (gone.foldl (fun d q => d.missing now r q) (d.dropReader r.id), none)
  else (gone.foldl (fun d q => d.missing now r q) (d.setReader left), some left)

/-- A request issued, to its controllers where its blocks are not in Canopy; one that a drain covers is held where it is (R153, R471,
R564). -/
def Dev.issueRead (d : Dev) (now : Nat) (r : Reader) : Dev :=
  match d.dropHoles now r with
  | (d, none) => d
  | (d, some r) =>
    let a := match r.rows.head? with | some q => q.rowAt | none => r.slab * 256
    if d.heldRange a (d.readerLen r) then d.holdRange a (d.readerLen r) (2 ^ 42 + r.id)
    else
      let d := match r.core with | some c => d.bump .CORE_GE_REQ [c] | none => d
      let d := d.setReader { r with st := .flight }
      if d.readerInL1 r then d
      else (d.readerBlocks r).foldl (fun d b => d.askBlock now (d.readerPart r) (.row r.id) b.1 b.2) d

/-- A group issued back to back, up to 8 requests (R153). -/
def Dev.issueGroup (d : Dev) (now : Nat) (r : Reader) : Dev := ((d.bankGroup r).take 8).foldl (fun d x => d.issueRead now x) d

/-- A request is ready to be issued: it waits for companions, or goes with a group of 8. -/
def Dev.readWaits (d : Dev) (now : Nat) (r : Reader) : Dev :=
  let d := d.setReader { r with st := .wait now }
  if 8 ≤ (d.bankGroup r).length then d.issueGroup now r else d

/-- Where a request goes once its version words may be read (R137, R138). -/
def Dev.startReader (d : Dev) (now : Nat) (r : Reader) : Dev :=
  let id := d.tabs.nextId
  let d := d.newReader { r with st := if d.readerVer r then .ver1 else .wait now }
  match d.reader? id with
  | some x => if d.readerVer x then d else d.readWaits now x
  | none => d

/-- The rows that are left in a request whose turn it is: those whose V1 is in and whose slab read has not been issued wait for it
together; a row that joined while the slab was being read has its V1 read first and the slab read again for it (R137, R153, log 79). -/
def Dev.rowsLeft (d : Dev) (now : Nat) (r : Reader) : Dev :=
  let turn := match r.st with | .ver1 => true | .ver2 => r.rows.all (·.data.isEmpty) | _ => false
  if !turn then d
  else if r.rows.all (·.v1.isSome) then d.readWaits now r
  else d.setReader { r with st := .ver1 }

/-- A row leaves its request: what is left goes on. -/
def Dev.dropRow (d : Dev) (now : Nat) (r : Reader) (q : RowRd) : Dev :=
  let rows := r.rows.filter fun x => x != q
  if rows.isEmpty then d.dropReader r.id
  else
    let r := { r with rows := rows }
    (d.setReader r).rowsLeft now r

/-- A row's next attempt as a request of its own (R153). Where the row was split from a request that goes on and no entry is free, it
waits for one before the attempt (log 78). -/
def Dev.ownRequest (d : Dev) (now : Nat) (r : Reader) : Dev :=
  let n := entriesOf (d.readerLen r)
  if d.entriesFree r.core n then d.newReader { r with weight := n }
  else d.newReader { r with weight := 0, st := match r.st with | .backoff t => .backoff t | _ => .backoff now }

/-- The lookups of a row by the BACKOFF that their commands bound (R125). -/
def Dev.byBackoff (d : Dev) (t : Nat) (lks : List RBy) : List (List RBy) :=
  ((lks.map fun l => tdBackoff (d.lookTd t l)).eraseDups).map fun b => lks.filter fun l => tdBackoff (d.lookTd t l) == b

/-- A failed attempt (R137): a wait of BACKOFF × 10 ns × 2^(k-1), the shadow attempt after the fifth, or the default row with
DEF_BUSY. -/
def Dev.failRow (d : Dev) (now : Nat) (r : Reader) (q : RowRd) : Dev :=
  let td := d.readerTd r
  let d := if q.sh then d
    else
      let d := d.bump .TBL_RTY [r.table]
      match r.core with | some c => d.bump .CORE_GE_RETRY [c] | none => d
  let att := if q.sh then q.att else q.att + 1
  let q' := { q with att := att, v1 := none, v2 := none, data := [], pm := 0 }
  let one (q : RowRd) (st : RdSt) : Reader := { r with rows := [q], st := st, slab := q.rowAt / 256 }
  let d := d.dropRow now r q
  if !q.sh && att < 5 then
    (d.byBackoff r.table q.lks).foldl (fun d ls =>
      let b := tdBackoff (d.lookTd r.table (ls.headD .moveIn))
      d.ownRequest now (one { q' with lks := ls } (.backoff (now + b * 10 * nsT * 2 ^ (att - 1))))) d
  else if !q.sh && tdShadow td && !d.shdHole td q.loc then d.ownRequest now (one { q' with sh := true } .ver1)
  else q.lks.foldl (fun d l => d.giveDefault now r.core r.table l srcBusy 5)
    (d.loadWait td r.table q.row now q.since)

/-- A row read whole, delivered (R137). -/
def Dev.passRow (d : Dev) (now : Nat) (r : Reader) (q : RowRd) : Dev :=
  let ver := d.readerVer r
  ((d.rowLeaves now r q).dropRow now r q).deliverRow now q.lks q.data q.pm (if q.sh then srcShadow else srcMain)
    (if !ver then 0 else if q.sh then 5 else q.att + 1)

/-- What an access made for lookups meets: an error that marks ends the jobs they belong to (R430, R440). -/
def Dev.meetFor (d : Dev) (now a n : Nat) (lks : List RBy) : Dev :=
  let x := d.meetAll a n
  if x.2 then (lks.filterMap fun l => x.1.reqJob { by_ := l }).foldl (fun d j => d.endMet now a j) x.1 else x.1

/-- A row of at most 64 bytes read by the small-row path (R135, R448, R450): its bytes, its marks by granule touched. -/
def Dev.smallRow (d : Dev) (now c a n gcmd : Nat) (alloc : Bool) (lks : List RBy) : Dev × List Byte × Nat :=
  if d.l1Caches a then
    let line := a / 128
    let f := d.takeFind
    let held := (f.1.core c).sq.holds line
    let d := if held && detIs .l1 f.2 then f.1.l1Error c line
      else if held then f.1
      else d.meetFor now a n lks
    let r := d.l1Line c line gcmd alloc
    let o := a % 128
    (r.1, (r.2.1.data.drop o).take n, bitsOf r.2.1.poison (o / 64) (granules a n).length)
  else
    let d := d.meetFor now a n lks
    (d.touch a n { part := d.linePart c gcmd, alloc := false, fetched := true }, d.bytes a n, d.pmOf a n)

/-- The data of every row of a request as it returns, through the small-row path for unversioned tables with B ≤ 64
(R135, R138); a versioned row whose V1 is not in is not read. -/
def Dev.readRows (d : Dev) (now : Nat) (r : Reader) : Dev × List RowRd :=
  let n := d.readerLen r
  let alloc := r.bmp || tdAlloc (d.readerTd r)
  let ver := d.readerVer r
  let small := !r.bmp && !ver && n ≤ 64
  r.rows.foldl (fun s q =>
    if ver && q.v1.isNone then (s.1, s.2 ++ [q])
    else
    let d := if r.bmp then s.1 else s.1.loadBytes (s.1.readerTd r) r.table q.row n
    match small, r.core, q.lks.head? with
    | true, some c, some (.look _ g _) =>
      let x := d.smallRow now c q.rowAt n (g + 1) alloc q.lks
      (x.1, s.2 ++ [{ q with data := x.2.1, pm := pmMove q.rowAt 0 n x.2.2 }])
    | _, _, _ =>
      let d := (d.meetFor now q.rowAt n q.lks).touch q.rowAt n { part := d.readerPart r, alloc := alloc, fetched := true }
      (d, s.2 ++ [{ q with data := d.bytes q.rowAt n, pm := pmMove q.rowAt 0 n (d.pmOf q.rowAt n) }])) (d, [])

/-- The data of a request returns: delivered, or followed by the second version reads (R137). -/
def Dev.dataReturn (d : Dev) (now : Nat) (r : Reader) : Dev :=
  match r.st with
  | .flight =>
    let x := d.readRows now r
    if d.readerVer r then x.1.setReader { r with rows := x.2, st := .ver2 }
    else x.2.foldl (fun d q => (d.rowLeaves now r q).deliverRow now q.lks q.data q.pm srcMain 0) (x.1.dropReader r.id)
  | .dflt =>
    let td := d.readerTd r
    let n := entriesOf (tdB td)
    if d.defReads td && d.readWait (d.readerPart r) (tdDef td) (tdB td) != 0 then d
    else if r.weight = 0 && d.defReads td then (if d.entriesFree r.core n then d.setReader { r with weight := n } else d)
    else
      let d := if d.defReads td then
          (d.meetFor now (tdDef td) (tdB td) (r.rows.flatMap (·.lks))).touch (tdDef td) (tdB td) { part := d.readerPart r, alloc := tdAlloc td }
        else d
      r.rows.foldl (fun d q => q.lks.foldl (fun d l =>
        let b := d.defRow (d.lookTd r.table l)
        d.deliverRow now [l] b.1 b.2 q.src q.att) d) (d.dropReader r.id)
  | _ => d

/-- A version word of the k-th row of a request returns: as V1, or as V2 once the row's data is in (R137); its line is allocated, in a
no-allocate region too (R135). While a regulator or the controller makes the read wait it does not return (R472, R476). -/
def Dev.versionReturn (d : Dev) (now : Nat) (r : Reader) (k : Nat) : Dev :=
  match r.rows[k]? with
  | none => d
  | some q =>
    let reads := d.readerVer r && (r.st == .ver1 || r.st == .ver2)
    if !reads || (q.v1.isSome && (q.data.isEmpty || r.st != .ver2)) || d.readWait (d.readerPart r) q.verAt 8 != 0 then d
    else if d.rowGone r q then (d.dropRow now r q).missing now r q
    else
      let d := (d.meetFor now q.verAt 8 q.lks).touch q.verAt 8 { part := d.readerPart r, force := true }
      let v := d.num q.verAt 8
      if q.v1.isSome then (if some v = q.v1 then d.passRow now r q else d.failRow now r q)
      else if v % 2 = 1 then d.failRow now r q
      else
        let r := { r with rows := r.rows.set k { q with v1 := some v } }
        (d.setReader r).rowsLeft now r

end Sys2Proof.Machine
end

