-- ==== Sys2Proof/Machine/RowOps.lean ====
section
/-! DEFINITION. Rows written, and requests for rows served at their home, held, queued, forwarded or redirected (spec/04 R132 to R140,
spec/05 R161 to R185, spec/11 R339 to R342). -/

namespace Sys2Proof.Machine

/-! ### Writers (R132, R133, R136) -/

def Dev.setWriter (d : Dev) (w : Writer) : Dev :=
  d.onTabs fun t => { t with writers := t.writers.map fun x => if x.id = w.id then w else x }

/-- The address of the version word a writer claims, and of the row it writes. -/
def Writer.verAt (w : Writer) : Nat := if w.sh then w.loc.sver else w.loc.ver
def Writer.rowAt (w : Writer) : Nat := if w.sh then w.loc.shd else w.loc.row

/-- A version word written in one 8-byte write at its slice (R132, R135). -/
def Dev.putVer (d : Dev) (a v : Nat) (part : Option Nat := none) : Dev := d.store a (leBytes 8 v) false none part true

/-- The partition of a writer's accesses; that of a move's queued write is its move's (R172, R187, R474). -/
def Dev.writerPart (d : Dev) (w : Writer) : Nat :=
  match w.by_ with
  | .moveIn => ((d.tabs.incoming.find? fun i => i.table == w.table && i.rows.any fun x => x.1 == w.row).map (·.part)).getD d.migPart
  | b => d.byPart b

/-- The writes of a row that stood before `w` in a move's write queue and are not released yet (R176, R177). -/
def Dev.queuedBefore (d : Dev) (w : Writer) : List Writer :=
  if w.ord then d.tabs.writers.filter fun x => x.ord && x.id < w.id && x.table == w.table && x.row == w.row else []

/-- A claim tried by compare-swap at the word's slice (R133, R135), or taken over under FORCE (R142): writers of a row take turns in
the order in which their claims succeed. A write that came through a move's queue waits for those before it in the queue; under FORCE
not for one that finds the word odd (R142, R176). -/
def Dev.tryClaim (d : Dev) (now : Nat) (w : Writer) : Dev :=
  let again := { w with st := .retry (now + 100 * nsT) }
  let before := d.queuedBefore w
  let odd := tdVersioned (d.tdesc w.table) && d.num w.verAt 8 % 2 == 1
  let stuck := w.force && odd && before.all fun x => match x.st with | .retry _ => true | _ => false
  if !before.isEmpty && !stuck then d.setWriter again
  else if !tdVersioned (d.tdesc w.table) then d.setWriter { w with st := .claimed }
  else if d.writeWait (d.writerPart w) w.verAt 8 none true != 0 then d.setWriter { w with st := .retry now }
  else
    let d := d.meetFor now w.verAt 8 [w.by_]
    let v := d.num w.verAt 8
    let d := match d.sliceAt w.verAt with | some k => d.bump .CAN_ATOM [k] | none => d
    if v % 2 = 0 then (d.putVer w.verAt (v + 1) (some (d.writerPart w))).setWriter { w with st := .claimed, ver := v }
    else
      let d := d.touch w.verAt 8 { part := d.writerPart w, force := true }
      if w.force then d.setWriter { w with st := .claimed, ver := v - 1 } else d.setWriter again

/-- A drain of a range holds the requests of a writer to its row or version word (R564). -/
def Dev.writerHeld (d : Dev) (w : Writer) : Bool :=
  d.heldRange w.rowAt (tdB (d.tdesc w.table)) || (tdVersioned (d.tdesc w.table) && d.heldRange w.verAt 8)

/-- A writer starts: held while a drain covers its row, else it claims (R132, R564). -/
def Dev.startWriter (d : Dev) (now : Nat) (r : RowReq) (loc : Loc) (data : List Byte) (pm : Nat) (force : Bool) : Dev :=
  let id := d.tabs.nextId
  let w : Writer := { id := id, by_ := r.by_, table := r.table, row := r.row, loc := loc, data := data, pm := pm, force := force,
                      ord := r.ord || r.fwd, since := r.since.getD now }
  let d := d.onTabs fun x => { x with nextId := id + 1, writers := x.writers ++ [w] }
  if d.writerHeld w then d.holdRange w.rowAt (tdB (d.tdesc r.table)) (2 ^ 41 + id) else d.tryClaim now w

def Dev.writer? (d : Dev) (id : Nat) : Option Writer := d.tabs.writers.find? fun w => w.id == id

/-- The row written, or on an uncorrected fault every granule of the copy marked (R132 step 3, R139). -/
def Dev.writeRow (d : Dev) (w : Writer) (fault : Bool) : Dev :=
  let d := d.storePm w.rowAt w.data (pmMove 0 w.rowAt w.data.length w.pm) (some (d.writerPart w))
  let d := if fault then d.markRange w.rowAt (tdB (d.tdesc w.table)) true else d
  (d.loadBytes (d.tdesc w.table) w.table w.row w.data.length).setWriter
    { w with st := .written, fault := w.fault || fault, mark := w.mark || fault }

/-- Every row write of a writer has completed, and its release can be written: neither waits (R132 step 4, R136, R426, R437, R476). -/
def Dev.mayRelease (d : Dev) (w : Writer) : Bool :=
  w.st == .written &&
  !(d.held.any fun h => match h with
    | .store a bs _ _ _ _ => (overlap a bs.length w.rowAt (tdB (d.tdesc w.table))).2 != 0
    | _ => false) &&
  !(tdVersioned (d.tdesc w.table) && d.writeWait (d.writerPart w) w.verAt 8 none true != 0)

/-- The release of one copy (R132 step 5, R139); then the shadow copy, or the end of the write (R136). -/
def Dev.releaseRow (d : Dev) (now : Nat) (w : Writer) (fault : Bool) : Dev :=
  let td := d.tdesc w.table
  let fault := fault || w.mark
  let d := if fault then d.markRange w.rowAt (tdB td) true else d
  let d := if tdVersioned td then d.putVer w.verAt (w.ver + 2) (some (d.writerPart w)) else d
  let d := d.bump64 .TBL_REP [w.table]
  if tdShadow td && !w.sh then
    let w' := { w with sh := true, st := .held, fault := w.fault || fault, mark := false }
    (d.setWriter w').tryClaim now w'
  else
    let d := d.onTabs fun x => { x with writers := x.writers.filter fun y => y.id != w.id }
    let d := (d.loaded td w.table w.row true).loadWait td w.table w.row now w.since
    d.rowAnswer now { by_ := w.by_, table := w.table, row := w.row } (if w.fault || fault then eFault else sOk)

/-! ### Serving a request at the home -/

/-- The move whose rows include (t, i) and that has entered MOVING here. -/
def Dev.moveOf (d : Dev) (t i : Nat) : Option Move :=
  d.tabs.moves.find? fun m => m.table == t && m.rows.contains i && m.st != .wait

def Dev.setMove (d : Dev) (m : Move) : Dev :=
  d.onTabs fun x => { x with moves := x.moves.map fun y => if y.id = m.id then m else y }

def RowReq.isWrite (r : RowReq) : Bool := match r.op with | .write _ _ _ => true | _ => false

/-- A write that meets a move: queued in arrival order, at most 64 writes; more wait at the old home (R176). -/
def Dev.queueWrite (d : Dev) (m : Move) (r : RowReq) : Dev :=
  let n := ((m.before ++ m.after).filter RowReq.isWrite).length
  let r := { r with ord := true }
  if n < 64 then
    d.setMove (match m.st with
      | .snapped _ => { m with after := m.after ++ [r] }
      | _ => { m with before := m.before ++ [r] })
  else (d.setMove { m with full := m.full ++ [r] }).bump .TBL_MV_QFULL

/-- A merge added into a list of banks, as a row-merge-add at its slices (R339, R435, R455, R474). -/
def Dev.addMerge (d : Dev) (now : Nat) (td : List Byte) (r : RowReq) (step off n : Nat) : Dev :=
  let a := d.bankAt r.table r.row (step % 2) (tdElts td) + 4 * off
  ((((d.rmaLines a (4 * n)).touch a (4 * n) { part := d.byPart r.by_, write := true, force := true }).bump .UPD_MERGE).loaded td r.table r.row
    true).loadWait td r.table r.row now (r.since.getD now)

/-- Two merges are of one bank. -/
def RowReq.sameBank (r x : RowReq) : Bool :=
  r.table == x.table && r.row == x.row && match r.op, x.op with
    | .merge s _ _ _, .merge u _ _ _ => s % 2 == u % 2
    | _, _ => false

/-- A merge waits for a slice port, or behind an earlier merge of its bank (R339, R476). -/
def Dev.mergeBehind (d : Dev) (td : List Byte) (r : RowReq) (step off n : Nat) : Bool :=
  (d.tabs.gwait.any r.sameBank) ||
  d.writeWait (d.byPart r.by_) (d.bankAt r.table r.row (step % 2) (tdElts td) + 4 * off) (4 * n) none true != 0

/-- A merge at the home: refused with E_STEP, added into a move's merge buffer or the row's bank, queued behind the snapshot without an
acknowledgement, or made to wait for space (R176, R177, R183, R184, R341, R342). -/
def Dev.serveMerge (d : Dev) (now : Nat) (td : List Byte) (r : RowReq) (rs : Option Rsl) (step off : Nat) (xs : List Nat)
    (poison : Bool) : Dev :=
  let l := d.lastStep r.table rs
  if !stepOk l step (d.isClosed r.table (2 * shardOf td r.row + if rs.any (·.isRow) then 1 else 0) (l + 1)) then
    (d.bump .UPD_MSTEP).rowAnswer now r eStep
  else
    let add (bs : List Bank) := mergeIn bs r.table r.row (step % 2) (tdElts td) off xs poison
    let ok (d : Dev) : Dev := (d.addMerge now td r step off xs.length).rowAnswer now r sOk
    let waits (d : Dev) (full : Bool) : Dev :=
      let first := full && !r.full
      let r := { r with full := r.full || full, watch := if first then d.mergeWatch now r else r.watch }
      (if first then d.bump .UPD_GFULL else d).onTabs fun x => { x with gwait := x.gwait ++ [r] }
    let here (d : Dev) (put : Dev → Dev) : Dev :=
      if d.mergeBehind td r step off xs.length then waits d false
      else if d.bankRoom r.table r.row (step % 2) (tdElts td) then ok (put d)
      else waits d true
    match d.moveOf r.table r.row with
    | some m =>
      match m.st with
      | .snapped _ => d.setMove { m with after := m.after ++ [r] }
      | _ => here d fun d => d.setMove { m with banks := add m.banks }
    | none => here d fun d => d.onTabs fun x => { x with banks := add x.banks }

/-- A read at the home: a lookup of this module that had been sent on goes on under its own request, any other starts a reader of its own
(R162, R178); of an unversioned table its row read is issued at once, of a versioned one once V1 is in (R137, R138). -/
def Dev.homeRead (d : Dev) (now : Nat) (r : RowReq) (loc : Loc) : Dev :=
  let ver := tdVersioned (d.tdesc r.table)
  let st : RdSt := if ver then .ver1 else .wait now
  let since := r.since.getD now
  let mine (x : Reader) : Bool := x.st == .remote && x.rows.any fun q => q.lks.contains r.by_
  let goes (x : Reader) : Reader :=
    { x with rows := x.rows.map fun q => { q with loc := loc, since := since }, slab := loc.row / 256, st := st }
  let issue (d : Dev) (id : Nat) : Dev :=
    if ver then d else match d.reader? id with | some x => d.issueRead now x | none => d
  match d.tabs.readers.find? mine with
  | some x => issue (d.setReader (goes x)) x.id
  | none =>
    issue (d.newReader { id := 0, core := none, table := r.table, slab := loc.row / 256,
                         rows := [{ row := r.row, loc := loc, lks := [r.by_], since := since }], st := st }) d.tabs.nextId

/-- A request at the module that resolved it as home (R161, R162, R176). -/
def Dev.serveRow (d : Dev) (now : Nat) (td : List Byte) (r : RowReq) (loc : Loc) (rs : Option Rsl) : Dev :=
  let r := { r with since := some (r.since.getD now) }
  match r.op with
  | .read =>
    let d := d.loaded td r.table r.row false
    if d.rowHole td loc then d.lostRead now r else d.homeRead now r loc
  | .write bs pm force =>
    match d.moveOf r.table r.row with
    | some m => d.queueWrite m r
    | none =>
      if d.rowHole td loc || d.shdHole td loc then d.rowAnswer now r eRange
      else d.startWriter now r loc bs pm force
  | .merge step off xs p => d.serveMerge now td r rs step off xs p

/-- A request from a message: the answer that carries this module's entry (R177, R178). -/
def Dev.redirect (d : Dev) (now : Nat) (r : RowReq) (e : Option Rsl) : Dev :=
  let b := match e with | some x => x.ent.bytes | none => ({ kind := 0, key := entKey r.table r.row } : Ent).bytes
  d.rowAnswer now r eState b

/-- A merge is held by a drain of its table before it starts (R564). -/
def Dev.mergeHeld (d : Dev) (r : RowReq) : Bool :=
  match r.op with
  | .merge _ _ _ _ => d.heldTable r.table
  | _ => false

/-- A request for a row resolved and served, held, queued, forwarded, redirected, sent or refused (R161, R177, R345). -/
def Dev.rowReq (d : Dev) (now : Nat) (r : RowReq) : Dev :=
  let td := d.tdesc r.table
  let isMsg := match r.by_ with | .msg _ _ => true | _ => false
  if !tdValid td then d.rowAnswer now r eState
  else if tdRows td ≤ r.row then d.rowAnswer now r eRange
  else if d.mergeHeld r then (d.holdTable r.table (2 ^ 40 + d.tabs.gwait.length)).onTabs fun x => { x with gwait := x.gwait ++ [r] }
  else if d.tabs.incoming.any fun i => i.src != 0xFFF && i.table == r.table && i.rows.any fun x => x.1 == r.row then
    d.onTabs fun x => { x with incoming := x.incoming.map fun i =>
      if i.src ≠ 0xFFF ∧ i.table = r.table ∧ i.rows.any (fun y => y.1 == r.row) then { i with held := i.held ++ [r] } else i }
  else match d.resolve (now / usT) td r.table r.row with
    | .here loc rs => d.serveRow now td r loc rs
    | .away k x => if isMsg then d.redirect now r (some x) else d.sendRow now k r x.ent.seq
    | .fwd k _ => (d.bump .TBL_MV_FWD).forward now k r
    | .stale k x =>
      if isMsg then (d.bump .TBL_MV_STRAY).redirect now r (some x) else (d.bump .TBL_REDIR).sendRow now k r x.ent.seq
    | .none x =>
      match r.op with
      | .read => d.lostRead now r
      | _ => if isMsg then d.redirect now r x else d.rowAnswer now r eState

/-- A request of this module made again at the home that a returned entry names, which counts as a redirect followed (R178, R159, R188). -/
def Dev.followTo (d : Dev) (now : Nat) (r : RowReq) (e : Ent) : Dev :=
  if e.state = 0 then (match r.op with | .read => d.lostRead now r | _ => d.rowAnswer now r eState)
  else if d.isOwn e.module then (d.bump .TBL_REDIR).rowReq now r
  else (d.bump .TBL_REDIR).sendRow now e.module r e.seq

/-! ### Entries received and sent (R163 to R165) -/

/-- A returned entry as the requester keeps it: copies hold the HOME entry of the module that it names (R159). -/
def Ent.homeCopy (e : Ent) : Ent := if 2 ≤ e.state then { e with state := 1, lease := 0, cursor := 0 } else e

/-- Every module of the domain that the directory lists, but this one. -/
def Dev.domain (d : Dev) : List Nat := (d.net.dir.map (·.module)).filter fun k => !d.isOwn k

/-- A new entry sent to every module of the domain on lane 0 (R163, R515); nothing is sent while the module has no ID. -/
def Dev.propagate (d : Dev) (now : Nat) (e : Ent) : Dev :=
  d.domain.foldl (fun d k =>
    match d.routeCheck k with
    | .send => d.post k now 0x18 0 e.bytes
    | _ => d) d

/-- A received entry adopted if its SEQ is newer than this module's copy (R163, R165, R180); with a shard's entry ends what was kept of the
shard's move here (R181). -/
def Dev.adopt (d : Dev) (e : Ent) : Dev :=
  let t := bitsOf e.key 40 12
  let i := bitsOf e.key 0 40
  let td := d.tdesc t
  if !tdValid td then d
  else if e.kind = 0 then
    match d.shardIx t (i / 2 ^ tdShift td) with
    | some ix =>
      let a := d.shardEntAt ix
      if seqNewer e.seq (d.entAt a).seq then
        (d.putEnt a e).onTabs fun x => { x with arriving := x.arriving.put ([], 0) ix ([], 0) }
      else d
    | none => d
  else match d.rowEnt? t i with
    | some a => if seqNewer e.seq (d.entAt a).seq then (if e.state = 0 then d.delRent t i else d.putEnt a e) else d
    | none =>
      if e.state = 0 then d
      else match d.newRent t i e with | some d' => d' | none => d.bump .TBL_RENT_FULL

end Sys2Proof.Machine
end

