-- ==== Sys2Proof/Machine/GatherOps.lean ====
section
/-! DEFINITION. The gather engine as shared operations: lookups admitted and joined, tiles packed from rows, completion in issue order
(spec/04 R129 to R153; spec/09 R293 to R295; spec/10 R324). -/

namespace Sys2Proof.Machine

/-! ### Admission (R129, R146, R152, R153) -/

/-- A lookup that receives the default row (R130, R152); none while the read of DEF_ADDR that it would begin has no entries. -/
def Dev.admitDefault (d : Dev) (now c : Nat) (g : GCmd) (pos source : Nat) : Option Dev :=
  if d.defReads g.td && !d.entriesFree (some c) (entriesOf (tdB g.td)) &&
      !(d.tabs.readers.any fun r => r.core == some c && r.table == g.table && r.st == .dflt && r.slab == tdDef g.td / 256) then none
  else some (d.giveDefault now (some c) g.table (.look c g.id pos) source 0)

/-- A lookup of a row stored here: it joins a request for its row, or one of its slab that waits or is in flight, or becomes a
request of its own; none while no entry is free (R153). A versioned row that joins a slab read already issued has its V1 read, and
the slab read once more, under the same entry (log 79). -/
def Dev.admitRow (d : Dev) (now c : Nat) (g : GCmd) (pos row : Nat) (loc : Loc) (bmp : Bool) : Option Dev :=
  let by_ := RBy.look c g.id pos
  let q : RowRd := { row := row, loc := loc, lks := [by_], since := now }
  let n := g.rowLen
  let mine (r : Reader) : Bool := r.core == some c && r.table == g.table && r.bmp == bmp &&
    (match r.st with | .remote => false | .dflt => false | _ => true)
  let same (q : RowRd) : Bool := q.row == row && q.loc == loc
  match d.tabs.readers.find? fun r => mine r && r.rows.any same with
  | some r =>
    some ((d.bump .CORE_GE_COAL [c]).setReader
      { r with rows := r.rows.map fun q => if same q then { q with lks := q.lks ++ [by_] } else q })
  | none =>
    let open_ (r : Reader) : Bool := mine r && n ≤ 256 && r.slab == loc.row / 256 && !(r.rows.any (·.sh)) &&
      (match r.st with | .ver1 => true | .wait _ => true | .flight => true | .ver2 => true | _ => false)
    match d.tabs.readers.find? open_ with
    | some r =>
      let r := { r with rows := r.rows ++ [q] }
      let st := match r.st with | .wait _ => if d.readerVer r then RdSt.ver1 else r.st | _ => r.st
      some ((d.bump .CORE_GE_COAL [c]).setReader { r with st := st })
    | none =>
      if d.entriesFree (some c) (entriesOf n) then
        some (d.startReader now { id := 0, core := some c, table := g.table, slab := loc.row / 256,
                                  rows := [q], st := .ver1,
                                  weight := entriesOf n, bmp := bmp })
      else none

/-- A lookup of a row whose home is another module: it joins the command's own request for the row, or a ROW READ is sent
(R161, R525); none while no entry is free. -/
def Dev.admitAway (d : Dev) (now c : Nat) (g : GCmd) (pos row k seq : Nat) (fwd : Bool) : Option Dev :=
  let by_ := RBy.look c g.id pos
  let isCmd (l : RBy) : Bool := match l with | .look c' g' _ => c' == c && g' == g.id | _ => false
  match d.tabs.readers.find? fun r => r.core == some c && r.table == g.table && r.st == .remote &&
      r.rows.any fun q => q.row == row && q.lks.any isCmd with
  | some r =>
    some ((d.bump .CORE_GE_COAL [c]).setReader { r with rows := r.rows.map fun q => { q with lks := q.lks ++ [by_] } })
  | none =>
    if d.trackers c < 512 then
      let d := d.newReader { id := 0, core := some c, table := g.table, slab := 0, rows := [{ row := row, loc := {}, lks := [by_] }],
                             st := .remote }
      let r : RowReq := { by_ := by_, table := g.table, row := row, op := .read }
      some (if fwd then d.forward now k r else d.sendRow now k r seq)
    else none

/-- A lookup by index admitted (R129, R161): none while no tracker entry is free. `pad` marks the reserved index. -/
def Dev.admitIndex (d : Dev) (now c : Nat) (g : GCmd) (pos row : Nat) (pad : Bool) : Option Dev :=
  let td := g.td
  if pad then d.admitDefault now c g pos srcPad
  else if tdRows td ≤ row then d.admitDefault now c g pos srcRange
  else match d.resolve (now / usT) td g.table row with
    | .none _ => d.admitDefault now c g pos srcMissing
    | .here loc _ =>
      (if d.rowHole td loc then d.admitDefault now c g pos srcMissing else d.admitRow now c g pos row loc false).map fun d =>
        d.loaded td g.table row false
    | .away k x => d.admitAway now c g pos row k x.ent.seq false
    | .fwd k x => (d.bump .TBL_MV_FWD).admitAway now c g pos row k x.ent.seq true
    | .stale k x => (d.bump .TBL_REDIR).admitAway now c g pos row k x.ent.seq false

/-- Bytes of one index of the command's list, and its reserved value (R129). -/
def GCmd.idxLen (g : GCmd) : Nat :=
  if g.op = 4 then 8 else if g.op = 0x10 then (if g.ent.off = 1 then 4 else 6) else if bitAt (g.f 1 1) 2 then 4 else 6

/-- Entry `j` of the index list: its DLA. -/
def GCmd.idxAt (g : GCmd) (j : Nat) : Nat := dlaOf g.idxAddr + j * g.idxLen

/-- A poisoned operand of the command met: it is counted, and everything the command writes is marked (R77, R80, R151). -/
def Dev.cmdMark (d : Dev) (c : Nat) (g : GCmd) : Dev :=
  (d.poisonIn c g.ent.job).modCmd c g.id fun g => { g with mark := true, poison := true }

/-- Bytes of an index list read at the homes of their lines, charged to the job's partition (R106, R474, DESIGN CHOICE log 102): none
while the read waits (R426, R476), or where the list has become a hole or the read meets an error that marks, which ends the job (R148,
R430, R440); a poisoned granule marks the command. -/
def Dev.readList (d : Dev) (now c : Nat) (g : GCmd) (a n : Nat) : Dev × Option (List Byte) :=
  let part := d.jobPart g.ent.job
  if !d.rangeOk a n then (d.endJob now g.ent.job .fault, none)
  else if d.readWait part a n != 0 then (d, none)
  else
    let f := d.meetAll a n
    if f.2 then (f.1.endMet now a g.ent.job, none)
    else
      let r := f.1.localRead a n
      let d := f.1.localTouch a n { part := part }
      (if r.2 != 0 then d.cmdMark c g else d, some r.1)

/-- One entry of an index list read as it is admitted (R148). -/
def Dev.readIndex (d : Dev) (now c : Nat) (g : GCmd) (j : Nat) : Dev × Option Nat :=
  let r := d.readList now c g (g.idxAt j) g.idxLen
  (r.1, r.2.map leNat)

/-- One lookup admitted for the first command that has one left to take; none while all 512 entries are busy (R152). -/
def Dev.admitOne (d : Dev) (now c : Nat) (g : GCmd) : Dev :=
  let took (d : Dev) : Dev := (d.modCmd c g.id fun g => { g with next := g.next + 1 }).fullClock now c
  let count (d : Dev) : Dev := (d.bump .CORE_GE_LKP [c]).bump64 .TBL_LKP [g.table]
  if 512 ≤ d.trackers c then d.fullClock now c
  else if g.isNbr then
    match g.want with
    | [] => d
    | (pos, row) :: rest =>
      match (count d).admitIndex now c g pos row false with
      | some d => took (d.modCmd c g.id fun g => { g with want := rest })
      | none => d.fullClock now c
  else if g.op = 0x11 then
    let a := dlaOf g.idxAddr + g.neurons.getD g.next 0 * g.rowLen
    if !d.rangeOk a g.rowLen then d.refuseJob now g.ent.job eRange
    else match d.admitRow now c g g.next a { row := a } true with
      | some d => took d
      | none => d.fullClock now c
  else match d.readIndex now c g g.next with
    | (d, none) => d
    | (d', some v) =>
      let pad := v == 2 ^ (8 * g.idxLen) - 1
      match (count d').admitIndex now c { g with mark := (d'.cmd? c g.id).elim g.mark (·.mark) } g.next v pad with
      | some d => took d
      | none => d.fullClock now c

/-! ### Tiles from rows (R245, R293, R294, R324) -/

/-- A dense tile with NNZ 0xFFFF (R293). -/
def rowsTile (t : DType) (poison : Bool) (rows cols : Nat) (m : Nat → Nat → Nat) : List Byte :=
  let h : TileHdr :=
    { form := 0, dtype := t.code, flags := if poison then 1 else 0, res3 := 0, nnz := 0xFFFF, rows := rows, cols := cols,
      ptrOff := 0, idxOff := 0, valOff := 32, bytes := denseSize t rows cols, res16 := 0, chk := 0 }
  sealTile h ((List.range rows).flatMap fun r => packRow t ((List.range cols).map (m r)))

/-- Tile `j` of a group of rows, or its transpose (R293). -/
def groupTile (t : DType) (trans poison : Bool) (elts j : Nat) (rows : List (List Byte)) : List Byte :=
  let cols := min 64 (elts - 64 * j)
  let elt (r c : Nat) : Nat := packedElt (rows.getD r []) t 0 (64 * j + c)
  if trans then rowsTile t poison cols rows.length fun r c => elt c r else rowsTile t poison rows.length cols elt

/-- The ring a command fills, the first lookup and the number of lookups of the tile it emits next, and the tile's number in
its group. -/
def Dev.nextTile (d : Dev) (c : Nat) (g : GCmd) : Nat × Nat × Nat × Nat :=
  let f := g.perGroup
  if g.op = 0x10 then (g.se.getD 0, 0, g.count, g.outPos)
  else if g.op = 0x11 then (g.se.getD 0, 64 * g.outPos, min 64 (g.count - 64 * g.outPos), 0)
  else
    let s := g.f 16 1 % 2
    let n := max 1 (d.ring c s).group
    (s, g.outPos / f * n, min n (g.count - g.outPos / f * n), g.outPos % f)

/-- Tiles that a command to a ring emits in all. -/
def Dev.tileCount (d : Dev) (c : Nat) (g : GCmd) : Nat :=
  if g.slot.isSome then g.outPos + 1
  else if g.op = 0x10 then g.perGroup
  else if g.op = 0x11 then ceilDiv g.count 64
  else ceilDiv g.count (max 1 (d.ring c (g.f 16 1 % 2)).group) * g.perGroup

/-- Rows `a .. a + n - 1` of a command, when all have been delivered, with whether any of them is marked. -/
def GCmd.rowsAt (g : GCmd) (a n : Nat) : Option (List (List Byte) × Bool) :=
  let rs := (List.range n).map fun i => (g.rows.find? fun p => p.1 == a + i).map (·.2)
  if rs.all (·.isSome) then some (rs.map fun r => (r.getD ([], 0)).1, rs.any fun r => 2 ≤ (r.getD ([], 0)).2) else none

/-- A command refused once it runs: it delivers nothing more and completes with the status. -/
def Dev.refuseCmd (d : Dev) (c id status : Nat) : Dev :=
  d.modCmd c id fun g => { g with
    op := 0, count := g.next, want := [], reads := [], pend := [], seeds := [], chunks := [], rows := []
    ent := { g.ent with res := BitVec.ofNat 64 (status * 2 ^ 56) } }

/-- A slot filled again with its tile (R306). -/
def Dev.refillSlot (d : Dev) (c s i : Nat) (bs : List Byte) (poison : Bool) : Dev :=
  let r := d.ring c s
  let d := d.writeTile (r.at c i) bs poison
  let d := if poison then d.markSlot c s i else d
  (d.seBytes c bs.length).modRing c s fun r => r.setSlot i { r.slot i with st := 2 }

/-- How a slot that a command fills can be filled again: nothing for a FEED ring, the lookups of a GATH, the neuron rows of a
GBMP tile (R306). -/
def GCmd.refillSrc (g : GCmd) (a n : Nat) : Nat × List Nat :=
  if g.op = 0x10 then (2, [g.idxAddr, g.ent.off, g.table, g.count, g.outPos])
  else if g.op = 0x11 then (1, [g.idxAddr, g.table, g.ent.off] ++ (g.neurons.drop a).take n)
  else (3, [])

/-- A ring takes tiles from a command: a GATH or GBMP step fills its own FETCH ring, a gather a FEED or DRAIN ring (R285), a neighbour
command a FEED ring (R320). -/
def GCmd.takenBy (g : GCmd) (r : Ring) : Bool :=
  if g.se.isSome then r.mode == 1 else r.mode == 2 || (r.mode == 3 && !g.isNbr)

/-- The next tile of a gather: its ring, its bytes and whether it is poisoned; none while its rows are not all there. -/
def Dev.nextOut (d : Dev) (c : Nat) (g : GCmd) : Option (Nat × List Byte × Bool) :=
  if d.tileCount c g ≤ g.outPos || g.ent.dead then none
  else
    let (s, a, n, j) := d.nextTile c g
    (g.rowsAt a n).map fun p =>
      (s, groupTile g.rowType ((d.ring c s).trans && g.op != 0x11) (p.2 || g.mark) g.rowElts j p.1, p.2 || g.mark)

/-- The next tile of a gather published, when its rows and a slot are there; none when it cannot be (R286, R287, R294). -/
def Dev.emitTile (d : Dev) (now c : Nat) (g : GCmd) : Option Dev :=
  match d.nextOut c g with
  | none => none
  | some (s, bs, pois) =>
      let (_, a, n, j) := d.nextTile c g
      let r := d.ring c s
      let last := g.op == 0x11 || j + 1 == g.perGroup
      let step (d : Dev) : Dev := d.modCmd c g.id fun g => { g with
        outPos := g.outPos + 1, rows := if last then g.rows.filter fun p => p.1 < a || a + n ≤ p.1 else g.rows }
      if !g.takenBy r then some (d.refuseCmd c g.id eState)
      else if !r.fits bs then some (d.refuseJob now g.ent.job eRange)
      else match g.slot with
        | some i => some (step (d.refillSlot c s i bs pois))
        | none =>
          if r.room then
            let x := g.refillSrc a n
            some (step (d.publish c s bs pois x.1 x.2))
          else none

/-! ### Chunks (R323 to R326) -/

/-- The element format of an edge tile (R324). -/
def edgeType (t : DType) : DType :=
  match t with
  | .e4m3 => .e4m3 | .e5m2 => .e4m3 | .bf16 => .bf16 | _ => .int8

/-- The edge tile of a chunk (R324, R325). -/
def edgeTile (t : DType) (poison : Bool) (k : Chunk) : List Byte :=
  let et := edgeType t
  let fl := if poison then 1 else 0
  if k.es.isEmpty then buildTile .zero et fl k.rows k.cols.length (fun _ _ => 0)
  else buildCsr et fl k.rows k.cols.length (k.es.map fun e => ⟨e.1, e.2.1, encodeElt et .rne 0 (decodeElt .fp32 e.2.2)⟩)

/-- The next tile of a command's first closed chunk: the edge tile into the ring not named by DST, then the feature tiles into the
other (R324, R326); none while its rows are not all there. -/
def GCmd.chunkOut (g : GCmd) : Option (Nat × List Byte × Bool) :=
  if g.ent.dead then none
  else match g.chunks with
    | [] => none
    | k :: _ =>
      let t := tdType g.td
      let fl := if g.mark then 1 else 0
      if g.outPos = 0 then
        some (1 - g.f 16 1 % 2,
          if k.pad then buildTile .zero (edgeType t) fl k.rows 64 (fun _ _ => 0) else edgeTile t g.mark k, g.mark)
      else
        let s := g.f 16 1 % 2
        let j := g.outPos - 1
        let w := min 64 (tdElts g.td - 64 * j)
        if k.pad then some (s, buildTile .zero t fl 64 w (fun _ _ => 0), g.mark)
        else (g.rowsAt k.pos k.cols.length).map fun p =>
          (s, groupTile t false (p.2 || g.mark) (tdElts g.td) j p.1, p.2 || g.mark)

/-- The next tile of the first closed chunk emitted (R324, R326). -/
def Dev.emitChunk (d : Dev) (now c : Nat) (g : GCmd) : Option Dev :=
  match g.chunkOut, g.chunks with
  | some (s, bs, pois), k :: rest =>
        let r := d.ring c s
        if !g.takenBy r then some (d.refuseCmd c g.id eState)
        else if !r.fits bs then some (d.refuseJob now g.ent.job eRange)
        else if !r.room then none
        else
          let d := d.publish c s bs pois 3 []
          let d := if g.outPos = 0 then
              (if k.pad then d.bump .CORE_GR_PADCH [c]
               else (d.bump .CORE_GR_CHUNKS [c]).bump .CORE_GR_ENTRIES [c] k.es.length)
            else d
          let last := g.outPos == g.perGroup
          some (d.modCmd c g.id fun g =>
            let hit (m : Nat) : Bool := pois && k.es.any fun e => e.1 == m
            let g := { g with
              poison := g.poison || pois
              seeds := (g.seeds.zip (List.range g.seeds.length)).map fun (p : SeedX × Nat) => { p.1 with poison := p.1.poison || hit p.2 } }
            if last then { g with outPos := 0, chunks := rest, rows := g.rows.filter fun p => p.1 < k.pos || k.pos + k.cols.length ≤ p.1 }
            else { g with outPos := g.outPos + 1 })
  | _, _ => none

/-- A command holds a tile that only the AHEAD limit of its ring keeps back (R287). -/
def Dev.heldBack (d : Dev) (c : Nat) (g : GCmd) : Bool :=
  match if g.isNbr then g.chunkOut else if g.rings && g.op != 0 then d.nextOut c g else none with
  | some (s, bs, _) => g.slot.isNone && g.takenBy (d.ring c s) && (d.ring c s).fits bs && !(d.ring c s).room
  | none => false

/-! ### Completion (R146, R151, R329) -/

/-- The completion word. -/
def GCmd.word (g : GCmd) : Word :=
  if g.op = 0 then g.ent.res
  else if g.isNbr then
    BitVec.ofNat 64 (min g.nHub 0xFFFFFF + min g.nTrunc 0xFFFF * 2 ^ 24 + min g.nBad 0x7FFF * 2 ^ 40 + (if g.poison then 2 ^ 55 else 0))
  else
    BitVec.ofNat 64 (min g.nDef 0xFFFFFF + min g.nBusy 0xFFFF * 2 ^ 24 + min g.nShd 0x7FFF * 2 ^ 40 + (if g.poison then 2 ^ 55 else 0))

/-- A command has nothing left to do. -/
def Dev.cmdDone (d : Dev) (c : Nat) (g : GCmd) : Bool :=
  g.done == g.next && g.reads.isEmpty &&
  (g.op == 0 || g.ent.dead ||
   (g.admitted && g.chunks.isEmpty && (g.isNbr || !g.rings || d.tileCount c g ≤ g.outPos)))

/-- What a command writes in CLM as (DLA, length): the rows of a gather or the lists of an NLIST (R149, R330). -/
def GCmd.rowArea (g : GCmd) : List (Nat × Nat) :=
  let n := if g.op = 5 then 6 * (g.f 40 2 + if bitAt (g.f 39 1) 4 then 1 else 0) else g.rowLen
  let stride := if g.f 32 4 = 0 then n else g.f 32 4
  if g.op = 5 ∨ (g.op = 1 ∧ !g.toRing) then (List.range g.count).map fun j => (g.f 16 8 + j * stride, n) else []

/-- The hub list of a neighbour command, as far as it was written (R332). -/
def GCmd.hubArea (g : GCmd) (c n : Nat) : List (Nat × Nat) :=
  if g.isNbr && g.f 56 4 != 0 && n != 0 then [(clmAt c (g.f 52 4), 8 * n)] else []

/-- Rows, lists, outcomes and hub list of a command whose operands were poisoned are marked once they are all written, and every seed's
outcome has STATUS 0x22 (R77, R151, R329, R335). -/
def Dev.markOutput (d : Dev) (c : Nat) (g : GCmd) : Dev :=
  if g.mark && (g.op == 1 || g.isNbr) && !g.ent.dead then
    let out := if g.outEn then [(g.f 24 8, (if g.isNbr then 8 else 2) * g.count)] else []
    let d := if g.outEn && g.isNbr then
        (List.range g.count).foldl (fun d j => d.store (g.f 24 8 + 8 * j + 7) (leBytes 1 ePoison) true) d
      else d
    (g.rowArea ++ g.hubArea c g.nHub ++ out).foldl (fun d p => d.markRange p.1 p.2 true) d
  else d

/-- The first place that has started, removed. -/
def dropStarted : List QEnt → List QEnt
  | [] => []
  | x :: r => if x.started then r else x :: dropStarted r

/-- A command completed: the lines it brought in go, its place is freed, its word is sent (R149, R380, R449). -/
def Dev.completeCmd (d : Dev) (now c : Nat) (g : GCmd) : Dev :=
  let d := (d.markOutput c g).l1DropCmd c (g.id + 1)
  let d := d.memFree fun b => match b with | .adj k i _ => k == c && i == g.id | _ => false
  let d := d.modGe c fun e => { e with cmds := e.cmds.filter fun x => x.id != g.id }
  let d := if g.se.isSome then d else d.modGe c fun e => { e with q := dropStarted e.q }
  let d := d.modSe c 0 fun e => { e with chains := e.chains.map fun h =>
    if h.id = g.ent.chain && h.geIssued && g.se.isNone then { h with geDone := true } else h }
  let d := if g.ent.dead || g.se.isSome then d
    else if g.ent.chain ≠ 0 ∧ g.op = 0 then d.refuseJob now g.ent.job (bitsOf g.word.toNat 56 8)
    else d.complete now g.ent g.word
  (d.reap (cluOfCore c)).fullClock now c

/-- The tiles and completions that are due, in order: one of them done; none when nothing is. -/
def Dev.pumpGeOne (d : Dev) (now c : Nat) : Option Dev :=
  let cs := (d.core c).ge.cmds
  let firstQ := cs.find? (·.se.isNone)
  match cs.findSome? fun g => if g.isNbr then d.emitChunk now c g else if g.rings && g.op != 0 then d.emitTile now c g else none with
  | some d => some d
  | none =>
    match cs.find? fun g => d.cmdDone c g && (g.se.isSome || firstQ == some g) with
    | some g => some (d.completeCmd now c g)
    | none => none

def Dev.pumpGe (d : Dev) (now c : Nat) : Nat → Dev
  | 0 => d
  | n + 1 => match d.pumpGeOne now c with | some d => d.pumpGe now c n | none => d

/-- The gather engine's wait at a ring's limit begins or ends (R287, R308). -/
def Dev.ringClock (d : Dev) (now c : Nat) : Dev :=
  if (d.core c).ge.cmds.any (d.heldBack c) then d.stallOn now c 4 1 else d.stallEnd now c 4

/-- What a delivery makes possible: tiles published, commands completed. -/
def Dev.gePump (d : Dev) (now c : Nat) : Dev := ((d.pumpGe now c 1024).fullClock now c).ringClock now c

/-- The cores that wait for any lookup of a request. -/
def Reader.cores (r : Reader) : List Nat := match r.core with | some c => [c] | none => []

/-! ### The start of a gather (R148) -/

/-- Bytes of a range lie in a core's CLM, by DLA. -/
def inClm (c a n : Nat) : Bool := clmAt c 0 ≤ a && a + n ≤ clmAt c 0 + clmSize

/-- Every byte of an index list of a command is on this module and present. -/
def Dev.listOk (d : Dev) (ga n : Nat) : Bool := (d.remoteOf ga).isNone && d.rangeOk (dlaOf ga) n

/-- Whether bytes `o .. o + n - 1` of a record are zero. -/
def recZero (bs : List Byte) (o n : Nat) : Bool := recNum bs o n == 0

/-- The status with which a GATHER command is refused, or OK (R148). `bad` is the refusal of the record itself (R379). -/
def Dev.gatherStatus (d : Dev) (c : Nat) (x : QEnt) : Nat :=
  if x.bad ≠ 0 then x.bad
  else
    let f := recNum x.rcd
    let td := d.tdesc (f 2 2 % 4096)
    let il := if bitAt (f 1 1) 2 then 4 else 6
    let ring := bitAt (f 1 1) 1
    let out := bitAt (f 1 1) 0
    let n := f 4 4
    let b := tdB td
    let stride := if f 32 4 = 0 then b else f 32 4
    refusal [
      (decide (8 ≤ f 1 1) || decide (4096 ≤ f 2 2) || decide (n < 1) || decide (16777216 < n) || !recZero x.rcd 36 28 ||
        decide (2 ^ 56 ≤ f 8 8) || (ring && decide (1 < f 16 8)) || (!out && f 24 8 != 0) ||
        (f 32 4 != 0 && tdValid td && decide (f 32 4 < b)), eArg),
      (f 8 8 % 8 != 0 || (!ring && f 16 8 % 32 != 0) || (out && f 24 8 % 2 != 0) || f 32 4 % 32 != 0, eAlign),
      (!d.listOk (f 8 8) (il * n) || (!ring && tdValid td && !inClm c (f 16 8) (stride * (n - 1) + b)) ||
        (out && !inClm c (f 24 8) (2 * n)), eRange),
      (!tdValid td || (ring && (d.ring c (f 16 8 % 2)).mode != 2 && (d.ring c (f 16 8 % 2)).mode != 3), eState)]

/-- The next place of the gather queue started as a command: refused, or bound to its descriptors (R125, R146); what an NLIST or a hub
list may be writing when the job ends is kept with the place (R335). -/
def Dev.startCmd (d : Dev) (now c : Nat) (x : QEnt) (status : Nat) (g : GCmd) : Dev :=
  let area := if status = sOk ∧ g.isNbr then (({ g with ent := x } : GCmd).rowArea ++ ({ g with ent := x } : GCmd).hubArea c (g.f 56 4)) else []
  let d := d.modGe c fun e => { e with q := modNext (fun y => { y with started := true, area := area }) e.q }
  let x := { x with started := true }
  let d :=
    if status ≠ sOk then d.addCmd c { op := 0, ent := { x with res := BitVec.ofNat 64 (status * 2 ^ 56) } }
    else d.addCmd c { g with ent := x }
  d.gePump now c

/-- The next place may start: the command before it has admitted its last lookup (R146). -/
def Dev.geMayStart (d : Dev) (c : Nat) : Bool := (d.core c).ge.cmds.all fun g => g.se.isSome || g.admitted || g.op == 0 || g.ent.dead

end Sys2Proof.Machine
end

