-- ==== Sys2Proof/Machine/FetchOps.lean ====
section
/-! DEFINITION. How an engine fetches an operand tile from a ring: why it waits for the head slot, the check of the tile at its consumer
(spec/02 R75, R80; spec/09 R306, R308). -/

namespace Sys2Proof.Machine

/-- A request of a gather engine waits at a controller for its bank (R472). -/
def Dev.rowAtBank (d : Dev) (id : Nat) : Bool :=
  d.ext.places.any fun p => p.2.reqs.any fun q => q.by_ == .row id && p.2.bankFull p.1 q.cell

/-- The oldest outstanding read for the head slot of a ring: whether it is on Salrex, and why it waits (`readWait`). It is that of a LOAD,
or of the rows that the gather engine reads for the ring. -/
def Dev.headRead (d : Dev) (c s : Nat) : Option (Bool × Nat) :=
  let e := d.se c s
  let part := d.jobPart e.ring.job
  match e.xfers.find? fun x => !x.store && x.slot == e.ring.head with
  | some x => some ((d.remoteOf x.addr).isSome, d.xferWait c s x)
  | none =>
    let ids := ((d.core c).ge.cmds.filter fun g => g.se == some s || (g.se.isNone && (gatherRings g.ent.rcd).contains s)).map (·.id)
    (d.tabs.readers.find? fun r => r.core == some c && r.rows.any fun w => w.lks.any fun b =>
      match b with | .look _ id _ => ids.contains id | _ => false).map fun r =>
        (r.st == .remote,
         if d.rowAtBank r.id then 3
         else if d.rowHeld r then 1
         else if r.st == .ver1 || r.st == .ver2 then
           ((r.rows.map fun q => d.readWait part q.verAt 8).find? (· != 0)).getD 0
         else 0)

/-- The cause of a wait for the head slot of a ring (R308): a local read in flight waits at its bank or its slice port as the regulators
and quotas say; whether it stands behind a conflicting access at a slice port is a free value (log 71). -/
def Dev.dataCause (d : Dev) (c s : Nat) : Nat :=
  let e := d.se c s
  let rd := d.headRead c s
  let at_ (k : Nat) : Bool := match rd with | some (far, w) => !far && w == k | none => false
  if e.waiting then 6
  else if rd.any (·.1) then 5
  else if at_ 3 then 4
  else if at_ 1 || at_ 6 || at_ 8 || (at_ 0 && Config.freeNat d.fresh % 2 == 0) then 3
  else if (d.core c).ge.cmds.any fun g => g.op == 0x11 && g.se == some s then 7
  else if e.ring.ended && e.ring.busy == 0 && e.ring.rearms.isEmpty then 8
  else 0

/-- The tile in the head slot of a ring: a wait for the slot, a refusal for a ring that is not armed for consumers, and the
handling of a slot with a detected error or a bad tile (R285, R306). -/
def Dev.ringTile (d : Dev) (now c s : Nat) (det : Det) : Dev × Fetch :=
  let r := d.ring c s
  if r.mode ≠ 1 ∧ r.mode ≠ 2 then (d, .refuse eState)
  else if !r.headReady then ((d.useFree 1).why c (d.dataCause c s), .wait)
  else
    let a := r.at c r.head
    let bs := d.tileBytes a
    let x := r.slot r.head
    let bad := !tileGood bs || bs.length > r.slot64 * 64
    let hit := match det with | .once .slot => true | .twice .slot => true | _ => false
    if bad || hit then
      let d := if bad then d.bump .CORE_TILEERR [c] else d
      if x.kind = 3 then
        if d.poisoned a (r.slot64 * 64) && tileFlagsPoison bs then (d, .tile bs true)
        else
          let d := (d.poke a (poisonTile (d.bytes a 32))).markSlot c s r.head
          (d.bump .CORE_SE_BADSLOT [c], .tile (poisonTile bs) true)
      else if x.refilled then (d, .fault)
      else (d.refill now c s r.head, .wait)
    else (d, .tile bs (d.tilePoisoned a bs))

/-- An operand tile of an instruction: source 0 is CLM at an offset, 1 and 2 the rings of SE0 and SE1 (R194). -/
def Dev.operand (d : Dev) (now c src off : Nat) (det : Det) : Dev × Fetch :=
  if src = 0 then d.clmTile c off else d.ringTile now c (src - 1) det

end Sys2Proof.Machine
end

