-- ==== Sys2Proof/Machine/GraphOps.lean ====
section
/-! DEFINITION. Neighbour commands as shared operations: adjacency reads, the choice of neighbours, hubs, chunks, outcomes
(spec/10 R312 to R335). -/

namespace Sys2Proof.Machine

/-! ### Graph descriptors (R313 to R316) -/

def Dev.gdesc (d : Dev) (g : Nat) : List Byte := SMap.get [] d.conf.tab.grf g
def gdValid (b : List Byte) : Bool := bitAt (recNum b 0 1) 0
def gdWeighted (b : List Byte) : Bool := bitAt (recNum b 0 1) 1
def gdHubDeg (b : List Byte) : Nat := recNum b 2 2
def gdThkN (b : List Byte) : Nat := recNum b 4 4
def gdVerts (b : List Byte) : Nat := recNum b 8 8
def gdVtx (b : List Byte) : Nat := recNum b 16 8
def gdEdge (b : List Byte) : Nat := recNum b 24 8
def gdEdges (b : List Byte) : Nat := recNum b 32 8
def gdThk (b : List Byte) : Nat := recNum b 40 8
def gdGen (b : List Byte) : Nat := recNum b 48 4

/-! ### Fields of a neighbour command (R319) -/

def GCmd.wmode (g : GCmd) : Nat := bitsOf (g.f 39 1) 0 2
def GCmd.hubMode (g : GCmd) : Nat := bitsOf (g.f 39 1) 2 2
def GCmd.self (g : GCmd) : Bool := bitAt (g.f 39 1) 4
def GCmd.inc1 (g : GCmd) : Bool := bitAt (g.f 39 1) 5
def GCmd.fan (g : GCmd) (hop2 : Bool) : Nat := if hop2 then g.f 42 2 else g.f 40 2
def GCmd.types (g : GCmd) (hop2 : Bool) : Nat := if hop2 then g.f 46 2 else g.f 44 2
def GCmd.seedOf (g : GCmd) (hop2 : Bool) : Nat := if hop2 then (g.f 48 4 + 1) % 2 ^ 32 else g.f 48 4

/-- Seeds per block; an NLIST takes its list in pieces of 64. -/
def GCmd.block (g : GCmd) : Nat := if g.op = 5 then 64 else max 1 (g.f 37 1)

/-- The status with which a neighbour command is refused, or OK (R148, R318 to R320). -/
def Dev.nbrStatus (d : Dev) (c : Nat) (x : QEnt) : Nat :=
  if x.bad ≠ 0 then x.bad
  else
    let f := recNum x.rcd
    let op := f 0 1
    let td := d.tdesc (f 2 2 % 4096)
    let gd := d.gdesc (f 36 1)
    let il := if op = 4 then 8 else if bitAt (f 1 1) 2 then 4 else 6
    let ring := bitAt (f 1 1) 1
    let out := bitAt (f 1 1) 0
    let n := f 4 4
    let agg := f 39 1
    let wm := bitsOf agg 0 2
    let hm := bitsOf agg 2 2
    let self := if bitAt agg 4 then 1 else 0
    let defer := hm == 0 && op != 4
    let wide := 6 * (f 40 2 + self)
    let t := tdType td
    refusal [
      (decide (8 ≤ f 1 1) || decide (4096 ≤ f 2 2) || decide (n < 1) || decide (16777216 < n) || decide (2 ^ 56 ≤ f 8 8) ||
        !recZero x.rcd 60 4 || (ring != (op != 5)) || (op == 4 && bitAt (f 1 1) 2) || (ring && decide (1 < f 16 8)) ||
        (!out && f 24 8 != 0) || (op != 5 && f 32 4 != 0 && tdValid td && decide (f 32 4 < tdB td)) ||
        (op == 5 && decide (f 32 4 < wide)) ||
        (if op = 5 then f 37 1 != 0 || f 38 1 != 0 else decide (f 37 1 < 1) || decide (64 < f 37 1) || decide (f 38 1 < 1)) ||
        wm == 3 || hm == 3 || decide (64 ≤ agg) || (bitAt agg 5 && op != 3) || decide (4096 < f 40 2) ||
        (op == 5 && (f 40 2 == 0 || wm != 0)) || (op == 4 && (f 40 2 != 0 || hm != 0 || bitAt agg 4)) ||
        (if op = 3 then decide (f 42 2 < 1) || decide (256 < f 42 2) || f 46 2 == 0 else f 42 2 != 0 || f 46 2 != 0) ||
        f 44 2 == 0 || (if defer then decide (f 56 4 < 1) || decide (65536 < f 56 4) else f 52 4 != 0 || f 56 4 != 0) ||
        (wm == 1 && gdValid gd && !gdWeighted gd) || (wm == 2 && tdValid td && (t == .int4 || t == .int8)), eArg),
      (f 8 8 % 8 != 0 || (out && f 24 8 % 8 != 0) || (op == 5 && (f 16 8 % 8 != 0 || f 32 4 % 8 != 0)) ||
        (op != 5 && f 32 4 % 32 != 0) || f 52 4 % 8 != 0, eAlign),
      (!d.listOk (f 8 8) (il * n) || (op == 5 && !inClm c (f 16 8) (f 32 4 * (n - 1) + wide)) ||
        (out && !inClm c (f 24 8) (8 * n)) || (defer && decide (clmSize < f 52 4 + 8 * f 56 4)), eRange),
      (!tdValid td || !gdValid gd || (op != 5 && [0, 1].any fun s => (d.ring c s).mode != 2), eState)]

/-! ### Choosing neighbours (R321, R322) -/

/-- How a vertex enters the sampling key (R321). -/
def vtxKey (v : Nat) : Nat := bitsOf v 0 32 ^^^ (bitsOf v 32 8 * 2 ^ 24)

/-- The FAN candidates with the smallest keys, in edge order; all of them when FAN is 0 or they are no more than FAN. -/
def chooseFan (s a fan : Nat) (cs : List (Nat × ChEnt)) : List ChEnt :=
  if fan = 0 ∨ cs.length ≤ fan then cs.map (·.2)
  else
    let key (j : Nat) : Nat := sampleG s a j * 2 ^ 32 + j
    let kept := ((cs.map fun p => key p.1).mergeSort (· ≤ ·)).take fan
    (cs.filter fun p => kept.contains (key p.1)).map (·.2)

/-- Edge entry `e` of a graph (R315): its type, and the entry it gives. -/
def Dev.edge (d : Dev) (gd : List Byte) (e : Nat) : Nat × ChEnt :=
  let v := d.num (gdEdge gd + 8 * e) 8
  (bitsOf v 40 4, ⟨bitsOf v 0 40, bitsOf v 48 16, false⟩)

/-- The admitted edges among `n` from `off`, with their positions. -/
def Dev.admittedEdges (d : Dev) (gd : List Byte) (types off n : Nat) : List (Nat × ChEnt) :=
  ((List.range n).map fun j => (j, d.edge gd (off + j))).filterMap fun p =>
    if bitAt types p.2.1 then some (p.1, p.2.2) else none

/-- Sampled edges of a hub (R322). -/
def Dev.hubSample (d : Dev) (g : GCmd) (hop2 : Bool) (v off deg : Nat) : List ChEnt :=
  let f := if g.fan hop2 = 0 then gdHubDeg g.gd else g.fan hop2
  (List.range f).filterMap fun i =>
    let j := sampleG (g.seedOf hop2) (vtxKey v) (0x80000000 + i) * deg / 2 ^ 32
    let e := d.edge g.gd (off + j)
    if bitAt (g.types hop2) e.1 then some e.2 else none

/-! ### Expansion -/

/-- The DLA and length of each run of bytes that an adjacency read takes: the sampled entries of a hub, one run otherwise. -/
def GCmd.adjCells (g : GCmd) (via : Option Nat) (k : AdjKind) : List (Nat × Nat) :=
  match k with
  | .vtx v => [(gdVtx g.gd + 8 * v, 8)]
  | .thk h _ => [(gdThk g.gd + 32 * h, 32)]
  | .seg h _ => [(gdThk g.gd + 32 * h, 32)]
  | .edges _ off n => [(gdEdge g.gd + 8 * off, 8 * n)]
  | .hubEdges v off deg =>
    let f := if g.fan via.isSome = 0 then gdHubDeg g.gd else g.fan via.isSome
    (List.range f).map fun i => (gdEdge g.gd + 8 * (off + sampleG (g.seedOf via.isSome) (vtxKey v) (0x80000000 + i) * deg / 2 ^ 32), 8)
  | .segEdges off n => [(gdEdge g.gd + 8 * off, 8 * n)]

/-- The lines of an adjacency read, each once. -/
def GCmd.adjLines (g : GCmd) (via : Option Nat) (k : AdjKind) : List Nat :=
  ((g.adjCells via k).flatMap fun p => lineAddrs p.1 p.2).eraseDups

/-- A read queued for an expansion, in requests of one slab each (R327). -/
def GCmd.ask (g : GCmd) (seed : Nat) (via : Option Nat) (k : AdjKind) : GCmd :=
  { g with
    pend := g.pend ++ [⟨g.nextRd, seed, via, k, ((g.adjLines via k).map (· / 256)).eraseDups, []⟩]
    nextRd := g.nextRd + 1 }

def GCmd.modSeed (g : GCmd) (i : Nat) (f : SeedX → SeedX) : GCmd :=
  { g with seeds := (g.seeds.zip (List.range g.seeds.length)).map fun p => if p.2 = i then f p.1 else p.1 }

/-- The expansion of a vertex begins (R317): one at or above VERTS has no edges. -/
def GCmd.expand (g : GCmd) (seed : Nat) (via : Option Nat) (v : Nat) : GCmd :=
  if gdVerts g.gd ≤ v then g.modSeed seed fun s => { s with novtx := true } else g.ask seed via (.vtx v)

/-- Entries chosen by an expansion: at hop 1 of an NBR2 they are expanded in turn (R328). -/
def GCmd.chose (g : GCmd) (seed : Nat) (via : Option Nat) (es : List ChEnt) : GCmd :=
  match via with
  | some i => g.modSeed seed fun s => { s with hop2 := s.hop2.ins i es }
  | none =>
    let g := g.modSeed seed fun s => { s with hop1 := es }
    if g.op = 3 then
      (es.zip (List.range es.length)).foldl (fun g p => if p.1.dig then g else g.expand seed (some p.2) p.1.row) g
    else g

/-- An expansion under R317: no edges, BADADJ, counted. -/
def Dev.badAdj (d : Dev) (c : Nat) (g : GCmd) (seed : Nat) : Dev × GCmd :=
  (d.bump .CORE_GR_BADADJ [c], g.modSeed seed fun s => { s with badadj := true })

/-- What an adjacency read brings (R317, R321, R322, R331). -/
def Dev.adjStep (d : Dev) (c : Nat) (g : GCmd) (r : AdjRd) : Dev × GCmd :=
  let hop2 := r.via.isSome
  match r.kind with
  | .vtx v =>
    let e := d.num (gdVtx g.gd + 8 * v) 8
    let off := bitsOf e 0 44
    let deg := bitsOf e 44 19
    if bitAt e 63 then
      let g := g.modSeed r.seed fun s => { s with hub := true }
      if gdThkN g.gd ≤ off % 2 ^ 32 then d.badAdj c g r.seed else (d, g.ask r.seed r.via (.thk (off % 2 ^ 32) v))
    else if gdHubDeg g.gd < deg ∨ gdEdges g.gd < off + deg then d.badAdj c g r.seed
    else if deg = 0 then (d, g.chose r.seed r.via [])
    else (d, g.ask r.seed r.via (.edges v off deg))
  | .thk h v =>
    let a := gdThk g.gd + 32 * h
    let off := d.num (a + 8) 8
    let deg := d.num (a + 16) 4
    let dig := d.num (a + 24) 8
    if gdEdges g.gd < off + deg then d.badAdj c g r.seed
    else
      let d := d.bump .CORE_GR_HUB [c]
      let mode := if g.op = 5 ∧ g.hubMode = 2 then 1 else if hop2 ∧ g.hubMode = 0 then 1 else g.hubMode
      if mode = 0 then (d, g.modSeed r.seed fun s => { s with listed := true, thk := h })
      else if mode = 2 ∧ !bitAt dig 63 then
        (d, (g.modSeed r.seed fun s => { s with dig := true }).chose r.seed r.via [⟨bitsOf dig 0 40, 0x3F80, true⟩])
      else (d, g.ask r.seed r.via (.hubEdges v off deg))
  | .seg h k =>
    let a := gdThk g.gd + 32 * h
    let off := d.num (a + 8) 8
    let deg := d.num (a + 16) 4
    if gdEdges g.gd < off + deg ∨ ceilDiv deg (max 1 (gdHubDeg g.gd)) ≤ k then d.badAdj c g r.seed
    else
      let n := min (gdHubDeg g.gd) (deg - k * gdHubDeg g.gd)
      (d, (g.modSeed r.seed fun s => { s with segDeg := deg, hub := true }).ask r.seed none (.segEdges (off + k * gdHubDeg g.gd) n))
  | .edges v off n =>
    (d, g.chose r.seed r.via (chooseFan (g.seedOf hop2) (vtxKey v) (g.fan hop2) (d.admittedEdges g.gd (g.types hop2) off n)))
  | .hubEdges v off deg => (d, g.chose r.seed r.via (d.hubSample g hop2 v off deg))
  | .segEdges off n => (d, g.chose r.seed none ((d.admittedEdges g.gd (g.types false) off n).map (·.2)))

/-! ### Blocks, chunks, outcomes (R323 to R332) -/

/-- One entry of a seed: feature row, fp32 weight. -/
def mulRne (a b : Nat) : Nat := encodeElt .fp32 .rne 0 ((decodeElt .fp32 a).mul (decodeElt .fp32 b))

def f32One : Nat := 0x3F800000

/-- 1 ÷ n in fp32 under RNE (R325): the exact quotient decided by scaling. -/
def recipRne (n : Nat) : Nat :=
  if n = 0 then f32One
  else
    let q := 2 ^ 96 / n
    let odd := if 2 ^ 96 % n = 0 then 0 else 1
    encodeElt .fp32 .rne 0 (.fin false (2 * q + odd) (-97))

/-- A bf16 code as an fp32 code. -/
def bf16Up (w : Nat) : Nat := w * 65536

/-- The weight of a hop-1 entry (R325). -/
def GCmd.weight1 (g : GCmd) (s : SeedX) (e : ChEnt) : Nat :=
  if e.dig then f32One
  else if g.wmode = 0 then f32One
  else if g.wmode = 1 then bf16Up e.w
  else if g.op = 4 then recipRne s.segDeg else recipRne s.hop1.length

/-- The weight of a hop-2 entry through a hop-1 entry with `n2` chosen entries (R325). -/
def GCmd.weight2 (g : GCmd) (s : SeedX) (u e : ChEnt) (n2 : Nat) : Nat :=
  if e.dig then f32One
  else if g.wmode = 0 then f32One
  else if g.wmode = 1 then mulRne (bf16Up u.w) (bf16Up e.w)
  else mulRne (recipRne s.hop1.length) (recipRne n2)

/-- The entries of one seed in order, as (row, weight, whether a digest) (R323, R328). -/
def GCmd.entries (g : GCmd) (s : SeedX) : List (Nat × Nat × Bool) :=
  if s.pad then []
  else
    let own := if g.self then [(s.id, f32One, false)] else []
    if s.listed then own
    else if g.op = 3 then
      own ++ (s.hop1.zip (List.range s.hop1.length)).flatMap fun p =>
        let hs := SMap.get [] s.hop2 p.2
        if p.1.dig then [(p.1.row, f32One, true)]
        else (if g.inc1 then [(p.1.row, g.weight1 s p.1, false)] else []) ++
          hs.map fun e => (e.row, g.weight2 s p.1 e hs.length, e.dig)
    else own ++ s.hop1.map fun e => (e.row, g.weight1 s e, e.dig)

/-- Chunks as they are filled: closed ones, the open one's columns and entries, entries dropped by seed, seeds of which a digest was
taken. -/
structure Fill where
  closed : List (List Nat × List (Nat × Nat × Nat)) := []
  cols : List Nat := []
  es : List (Nat × Nat × Nat) := []
  dropped : SMap Nat := []
  digs : List Nat := []
  deriving DecidableEq, Repr, Inhabited

/-- The entry limit of a chunk (R323). -/
def chunkLimit (t : DType) : Nat := if t = .bf16 then 2676 else 1967

/-- One entry placed (R323, R326). -/
def Fill.place (maxc limit m : Nat) (x : Fill) (e : Nat × Nat × Bool) : Fill :=
  let has := x.cols.contains e.1
  let full := (!has && x.cols.length == 64) || x.es.length == limit
  let y := if full then { x with closed := x.closed ++ [(x.cols, x.es)], cols := [], es := [] } else x
  if maxc ≤ y.closed.length then { y with dropped := y.dropped.mod 0 m (· + 1) }
  else
    let cols := if y.cols.contains e.1 then y.cols else y.cols ++ [e.1]
    { y with cols := cols, es := y.es ++ [(m, cols.findIdx (· == e.1), e.2.1)], digs := if e.2.2 then m :: y.digs else y.digs }

/-- The chunks of a block with their padding (R326), their lookups formed; the entries dropped and the digests taken, by seed. -/
def GCmd.fillBlock (g : GCmd) : GCmd × SMap Nat × List Nat :=
  let maxc := g.f 38 1
  let ms := g.seeds.zip (List.range g.seeds.length)
  let x := ms.foldl (fun x p => (g.entries p.1).foldl (Fill.place maxc (chunkLimit (edgeType (tdType g.td))) p.2) x) ({} : Fill)
  let closed := if x.es.isEmpty then x.closed else x.closed ++ [(x.cols, x.es)]
  let n := g.seeds.length
  let g := closed.foldl (fun g k =>
    { g with
      chunks := g.chunks ++ [{ rows := n, cols := k.1, es := k.2.map fun e => (e.1, e.2.1, e.2.2), pad := false, pos := g.posN }]
      want := g.want ++ (k.1.zip (List.range k.1.length)).map fun p => (g.posN + p.2, p.1)
      posN := g.posN + k.1.length }) g
  let padding : Chunk := { rows := n, cols := List.range 64, es := [], pad := true, pos := 0 }
  ({ g with chunks := g.chunks ++ List.replicate (maxc - closed.length) padding }, x.dropped, x.digs)

/-- Deferred seeds entered in the hub list, in seed order (R332); one that finds it full is shown by a Thicket index past
the last. -/
def Dev.hubList (d : Dev) (c : Nat) (g : GCmd) : Dev × GCmd :=
  (g.seeds.zip (List.range g.seeds.length)).foldl (fun s p =>
    let (d, g) := s
    if p.1.listed then
      if g.nHub < g.f 56 4 then
        let v := (g.blk + p.2) % 2 ^ 24 + p.1.thk * 2 ^ 24
        (d.store (clmAt c (g.f 52 4 + 8 * g.nHub)) (leBytes 8 v) g.mark, { g with nHub := g.nHub + 1 })
      else (d, g.modSeed p.2 fun s => { s with trunc := true, thk := 2 ^ 32 })
    else s) (d, g)

/-- The lists of an NLIST block (R330). -/
def Dev.writeLists (d : Dev) (g : GCmd) : Dev :=
  let w := g.f 40 2 + if g.self then 1 else 0
  (g.seeds.zip (List.range g.seeds.length)).foldl (fun d p =>
    let s := p.1
    let ids := if s.pad || s.listed then [] else (if g.self then [s.id] else []) ++ s.hop1.map (·.row)
    let vs := (ids ++ List.replicate (w - ids.length) (2 ^ 48 - 1)).take w
    d.store (g.f 16 8 + (g.blk + p.2) * g.f 32 4) (vs.flatMap (leBytes 6)) g.mark) d

/-- The block's seeds walked: hub list, chunks or lists, counts per seed (R323, R330, R332). -/
def Dev.walkBlock (d : Dev) (c : Nat) (g : GCmd) : Dev × GCmd :=
  let (d, g) := d.hubList c g
  let chosen (s : SeedX) : Nat := (g.entries s).length
  if g.op = 5 then
    (d.writeLists g, { g with
      walked := true
      seeds := g.seeds.map fun s =>
        let n := if s.pad || s.listed then 0 else s.hop1.length + if g.self then 1 else 0
        { s with chosen := n, used := n } })
  else
    let ch := g.seeds.map chosen
    let (g, dr, digs) := g.fillBlock
    let total := (dr.map (·.2)).foldl (· + ·) 0
    let seeds := (g.seeds.zip (ch.zip (List.range g.seeds.length))).map fun p =>
      let k := SMap.get 0 dr p.2.2
      { p.1 with chosen := p.2.1, used := p.2.1 - k, trunc := p.1.trunc || k != 0, dig := digs.contains p.2.2 }
    ((if total = 0 then d else d.bump .CORE_GR_TRUNC [c] total), { g with seeds := seeds, walked := true })

/-- An outcome of a neighbour command (R329). -/
def seedOutcome (mark : Bool) (s : SeedX) : Nat :=
  let b (x : Bool) (i : Nat) : Nat := if x then 2 ^ i else 0
  min s.used 0xFFFFFF + min s.chosen 0xFFFFFF * 2 ^ 24 + b s.pad 48 + b s.novtx 49 + b s.badadj 50 + b s.hub 51 +
  b (s.listed && s.thk < 2 ^ 32) 52 + b s.trunc 53 + b s.dig 54 + (if s.poison || mark then ePoison * 2 ^ 56 else 0)

/-- The outcomes of a block written, and the block finished (R329). -/
def Dev.endBlock (d : Dev) (g : GCmd) : Dev × GCmd :=
  let n := g.seeds.length
  let d := if g.outEn then
      (g.seeds.zip (List.range n)).foldl (fun d p =>
        d.store (g.f 24 8 + 8 * (g.blk + p.2)) (leBytes 8 (seedOutcome g.mark p.1)) g.mark) d
    else d
  (d, { g with
    nTrunc := g.nTrunc + (g.seeds.filter (·.trunc)).length
    nBad := g.nBad + (g.seeds.filter fun s => s.novtx || s.badadj).length
    poison := g.poison || g.seeds.any (·.poison), seeds := [], walked := false, blk := g.blk + n })

/-- Seeds of the next block. -/
def GCmd.blockLen (g : GCmd) : Nat := min g.block (g.count - g.blk)

/-- The read of the next block's list entries waits (R426, R476). -/
def Dev.blockWaits (d : Dev) (g : GCmd) : Bool :=
  let a := g.idxAt g.blk
  let n := g.blockLen * g.idxLen
  d.rangeOk a n && d.readWait (d.jobPart g.ent.job) a n != 0

/-- The list entries of the next block read, and their expansions begun (R318, R323, R331). -/
def Dev.startBlock (d : Dev) (now c : Nat) (g : GCmd) : Dev :=
  let n := g.blockLen
  match d.readList now c g (g.idxAt g.blk) (n * g.idxLen) with
  | (d, none) => d
  | (d, some bs) =>
    let d := d.bump .CORE_GR_SEEDS [c] n
    let g := (d.cmd? c g.id).getD g
    let vs := (List.range n).map fun i => recNum bs (i * g.idxLen) g.idxLen
    let pad (v : Nat) : Bool := g.op != 4 && v == 2 ^ (8 * g.idxLen) - 1
    let g := { g with seeds := vs.map fun v => { id := v, pad := pad v } }
    let r := (vs.zip (List.range n)).foldl (fun s p =>
      let (d, g) := s
      if pad p.1 then (d, g)
      else if g.op = 4 then
        if gdThkN g.gd ≤ bitsOf p.1 0 32 ∨ bitsOf p.1 56 8 ≠ 0 then d.badAdj c g p.2
        else (d, g.ask p.2 none (.seg (bitsOf p.1 0 32) (bitsOf p.1 32 24)))
      else (d, g.expand p.2 none p.1)) (d, g)
    r.1.modCmd c g.id fun _ => r.2

/-- An adjacency read asks for what it can: slabs that another read of the engine has in flight it joins, for the others it takes
tracker entries while they last (R153, R327). A list read in several requests is taken in as its last request returns, and a joined
slab as its own read is (DESIGN CHOICE, log 77). -/
def Dev.adjIssueOne (d : Dev) (now c id : Nat) (r : AdjRd) : Dev :=
  let inFlight := (d.core c).ge.cmds.flatMap fun g => g.reads.flatMap (·.own)
  let mine := r.left.filter fun s => !inFlight.contains s
  let k := 512 - d.trackers c
  let part := match d.cmd? c id with | some g => d.jobPart g.ent.job | none => d.maintPart
  let d := d.modCmd c id fun g => { g with reads := g.reads.map fun x =>
    if x.id = r.id then { x with left := mine.drop k, own := x.own ++ mine.take k } else x }
  (mine.take k).foldl (fun d s => d.askBlock now part (.adj c id r.id) (s * 256) 256) d

/-- The adjacency reads of a command ask for what they can (R327). -/
def Dev.adjIssue (d : Dev) (now c id : Nat) : Dev :=
  let d := d.modCmd c id fun g => { g with reads := g.reads ++ g.pend, pend := [] }
  match d.cmd? c id with
  | some g => g.reads.foldl (fun d r => if r.left.isEmpty then d else d.adjIssueOne now c id r) d
  | none => d

/-- One thing a neighbour command can do: start a block, walk it once its expansions are in, or finish it. -/
def Dev.nbrOne (d : Dev) (now c : Nat) : Option Dev :=
  match (d.core c).ge.cmds.find? fun g => g.isNbr && !g.ent.dead && g.reads.isEmpty && g.pend.isEmpty &&
      (if g.seeds.isEmpty then decide (g.blk < g.count) && !d.blockWaits g
       else if g.walked then g.chunks.isEmpty && g.want.isEmpty && g.done == g.next else true) with
  | none => none
  | some g =>
    if g.seeds.isEmpty then some ((d.startBlock now c g).adjIssue now c g.id)
    else if g.walked then
      let r := d.endBlock g
      some (r.1.modCmd c g.id fun _ => r.2)
    else
      let r := d.walkBlock c g
      some (r.1.modCmd c g.id fun _ => r.2)

/-- Everything of the gather engine that is due. -/
def Dev.geRun (d : Dev) (now c : Nat) : Nat → Dev
  | 0 => d
  | n + 1 =>
    let d := d.gePump now c
    let d := (d.core c).ge.cmds.foldl (fun d g => if g.pend.isEmpty && g.reads.all (·.left.isEmpty) then d else d.adjIssue now c g.id) d
    match d.nbrOne now c with
    | some d => d.geRun now c n
    | none => d

/-- Enough rounds for every block that a core's commands have left: each is started, walked and finished. -/
def Dev.geRounds (d : Dev) (c : Nat) : Nat := ((d.core c).ge.cmds.map fun g => 3 * (g.count - g.blk + 1)).foldl (· + ·) 64

def Dev.geAll (d : Dev) (now c : Nat) : Dev := (d.geRun now c (d.geRounds c)).gePump now c

end Sys2Proof.Machine
end

