-- ==== Sys2Proof/Machine/StreamOps.lean ====
section
/-! DEFINITION. Stream engines as shared operations: arm records, Armature programs, transfers, fused chains (spec/09 R282 to
R309). -/

namespace Sys2Proof.Machine

/-! ### Armature instructions (R289, R290) -/

/-- OP of an instruction, and one field. -/
def armOp (w : Word) : Nat := w.toNat % 16
def armF (w : Word) (lo len : Nat) : Nat := bitsOf w.toNat lo len

/-- OFF of a LOAD, GATH or STORE, signed (R289). -/
def armOff (w : Word) : Int := sext 24 (armF w 40 24)

/-- An instruction is well formed and allowed for the ring's mode: 1 FETCH, 3 DRAIN (R289). -/
def armOk (mode : Nat) (w : Word) : Bool :=
  match armOp w with
  | 0 => w.toNat == 0
  | 1 => armF w 4 3 ≤ 5 && !bitAt w.toNat 7 && 1 ≤ armF w 8 24
  | 2 => armF w 4 3 ≤ 5 && armF w 7 57 == 0
  | 3 => mode == 1 && armF w 7 33 == 0 && armF w 40 5 == 0
  | 4 => mode == 1 && !bitAt w.toNat 7 && 1 ≤ armF w 20 7 && armF w 20 7 ≤ 64 && armF w 27 13 == 0 && armF w 40 3 == 0
  | 5 => mode == 1 && armF w 8 3 ≤ 5 && !bitAt w.toNat 11 && 1 ≤ armF w 12 12 && 1 ≤ armF w 24 16 && armF w 59 5 == 0
  | 6 => mode == 3 && armF w 7 33 == 0 && armF w 40 5 == 0
  | 7 => armF w 4 60 == 0
  | 8 => armF w 22 10 == 0
  | 9 => armF w 21 11 == 0
  | _ => false

/-- The loop levels open after an instruction; none when the nesting breaks (R290). -/
def loopStep (open_ : Option (List Nat)) (w : Word) : Option (List Nat) :=
  match open_ with
  | none => none
  | some l =>
    match armOp w with
    | 1 => if l.contains (armF w 4 3) then none else some (armF w 4 3 :: l)
    | 2 => match l with
      | x :: r => if x = armF w 4 3 then some r else none
      | [] => none
    | 5 => if l.contains (armF w 8 3) then some l else none
    | _ => some l

/-- A program is legal (R290). -/
def progOk (mode : Nat) (p : List Word) : Bool :=
  p.all (armOk mode) && (p.getLast?.map armOp) == some 0 && (p.dropLast.all fun w => armOp w != 0) &&
  p.foldl loopStep (some []) == some []

/-! ### Arm records (R284, R288) -/

/-- The program named by an arm record. -/
def Dev.armProg (d : Dev) (c : Nat) (r : List Byte) : List Word :=
  (List.range (recNum r 3 1)).map fun i => BitVec.ofNat 64 (d.num (clmAt c (recNum r 12 4 + 8 * i)) 8)

/-- The status with which an arm record is refused, the state of the ring apart (R288). -/
def Dev.armBad (d : Dev) (c : Nat) (r : List Byte) : Nat :=
  let f := recNum r
  let mode := f 0 1
  let feed := mode == 2
  refusal [
    (mode == 0 || decide (3 < mode) || decide (f 1 1 < 3) || decide (16 < f 1 1) || decide (f 2 1 < 1) || decide (f 1 1 ≤ f 2 1) ||
      (if feed then f 3 1 != 0 || f 12 4 != 0 || decide (f 7 1 < 1) || decide (64 < f 7 1)
       else decide (f 3 1 < 1) || decide (16 < f 3 1) || f 7 1 != 0) ||
      decide (f 4 2 < 1) || decide (257 < f 4 2) || decide (1 < f 6 1) || f 23 1 != 0 || f 31 1 != 0 || f 39 1 != 0 ||
      f 47 1 != 0 || f 48 16 != 0 ||
      (!feed && f 12 4 % 8 == 0 && decide (f 12 4 + 8 * f 3 1 ≤ clmSize) && !progOk mode (d.armProg c r)), eArg),
    (f 8 4 % 64 != 0 || f 12 4 % 8 != 0, eAlign),
    (decide (clmSize < f 8 4 + f 1 1 * f 4 2 * 64) || decide (clmSize < f 12 4 + 8 * f 3 1), eRange)]

/-- The ring of an accepted arm record (R284). -/
def Dev.armRing (d : Dev) (c job chain : Nat) (r : List Byte) : Ring :=
  let f := recNum r
  { mode := f 0 1, chain := chain, nslots := f 1 1, ahead := f 2 1, slot64 := f 4 2, trans := bitAt (f 6 1) 0,
    group := f 7 1, base := f 8 4, prog := d.armProg c r, job := job,
    b := [f 16 8, f 24 8, f 32 8, f 40 8].map (BitVec.ofNat 64) }

/-! ### The program of a ring -/

/-- The gather engine still works for a stream: a GATH or GBMP step, or a slot's refill (R293, R295, R306). -/
def Dev.seGathers (d : Dev) (c s : Nat) : Bool := (d.core c).ge.cmds.any fun g => g.se == some s && g.slot.isNone

/-- The instruction a ring's program is at, when it may run: armed, not at its end, no DISARM, no GATH or GBMP step in
progress. -/
def Dev.armNow (d : Dev) (c s op : Nat) : Option Word :=
  let e := d.se c s
  let r := e.ring
  if (r.mode == 1 || r.mode == 3) && !r.ended && !e.closing && !d.seGathers c s then
    match r.prog[r.pc]? with
    | some w => if armOp w = op then some w else none
    | none => none
  else none

def Dev.armNext (d : Dev) (c s : Nat) : Dev := d.modRing c s fun r => { r with pc := r.pc + 1 }

/-- Σ i_l × STRIDE_l over the open levels (R291). -/
def Ring.strides (r : Ring) : Int := r.loops.foldl (fun a l => a + l.i * l.stride) 0

/-- The address of a LOAD, GATH, GBMP or STORE (R291), as a 56-bit global address. -/
def Ring.addr (r : Ring) (b : Nat) (off : Int) : Nat := toBits 56 (((r.b.getD b 0).toNat : Int) + off + r.strides)

/-- The index of a level; 0 when it is not open (R291). -/
def Ring.index (r : Ring) (lvl : Nat) : Nat := ((r.loops.find? fun l => l.lvl == lvl).map (·.i)).getD 0

/-- A step's refusal ends the job of the ring (R291 to R297). -/
def Dev.armFail (d : Dev) (now c s status : Nat) : Dev := d.refuseJob now (d.ring c s).job status

/-- The program runs again with the oldest pending REARM (R300). -/
def Dev.rearmNow (d : Dev) (c s : Nat) : Dev :=
  let r := d.ring c s
  match r.rearms with
  | [] => d.modRing c s fun r => { r with ended := true }
  | x :: rest =>
    let m := recNum x 32 1
    let b := (r.b.zip (List.range 4)).map fun p => if bitAt m p.2 then BitVec.ofNat 64 (recNum x (8 * p.2) 8) else p.1
    d.modRing c s fun r => { r with b := b, pc := 0, loops := [], ended := false, rearms := rest }

/-! ### Transfers (R292, R296, R299, R305 to R307) -/

/-- A LOAD may begin: it joins a header batch, or another transfer may be outstanding (R299). -/
def Dev.mayFetch (d : Dev) (c s : Nat) : Bool := (d.se c s).batchOpen || (d.se c s).room

def Dev.xfer? (d : Dev) (c s id : Nat) : Option Xfer := (d.se c s).xfers.find? fun x => x.id == id
def Dev.dropXfer (d : Dev) (c s id : Nat) : Dev := d.modSe c s fun e => { e with xfers := e.xfers.filter fun x => x.id != id }

/-- A slot filled by a LOAD, with the marks of its source (R292, R307); published when its ADV has passed. -/
def Dev.fillSlot' (d : Dev) (now c s : Nat) (x : Xfer) (bs : List Byte) (poison : Bool) : Dev :=
  let r := d.ring c s
  let d := d.dropXfer c s x.id
  if !r.fits bs then d.armFail now c s eRange
  else
    let d := if poison then d.poisonIn c r.job else d
    let d := d.store (r.at c x.slot) bs
    let d := if poison then d.markSlot c s x.slot else d
    let sl := r.slot x.slot
    let d := if sl.adv && !sl.refilled then d.bump .CORE_SE_TILES [c] else d
    (d.seBytes c bs.length).modRing c s fun r => r.setSlot x.slot { r.slot x.slot with st := 2 }

/-- The header of a tile is known (R54, R299): a tile that is a header alone is whole, the body of another waits for its transfer. -/
def Dev.headerHere (d : Dev) (now c s : Nat) (x : Xfer) (bs : List Byte) (bad : Bool) : Dev :=
  if hdrLen bs ≤ 32 then d.fillSlot' now c s x bs bad
  else d.modSe c s fun e => e.setXfer { x with hdr := bs, bad := bad, ph := 1 }

/-- Data of a local LOAD arrives: its header, or the body that the header as read asks for (R292, R299, R305); a hole ends the job
with E_RANGE. -/
def Dev.loadArrives (d : Dev) (now c s : Nat) (x : Xfer) : Dev :=
  let a := dlaOf x.addr + x.hdr.length
  let n := if x.ph = 0 then 32 else hdrLen x.hdr - 32
  if !d.rangeOk a n then (d.dropXfer c s x.id).armFail now c s eRange
  else
    let na := ((d.ring c s).slot x.slot).src.getD 1 0
    let t := d.localRead a n
    let d := d.localTouch a n { part := d.jobPart (d.ring c s).job, alloc := na == 0 }
    if x.ph = 0 then d.headerHere now c s x t.1 (t.2 != 0)
    else d.fillSlot' now c s x (x.hdr ++ t.1) (x.bad || t.2 != 0)

/-- Data of a remote LOAD arrives: the header first, then the rest in pieces (R299, R522). -/
def Dev.remoteArrives (d : Dev) (now c s : Nat) (x : Xfer) (bs : List Byte) (poison : Bool) : Dev :=
  let got := x.hdr ++ bs
  let need := hdrLen got
  if x.ph = 0 then d.headerHere now c s x (got.take 32) poison
  else if got.length < need then
    let x := { x with hdr := got, bad := x.bad || poison }
    (d.modSe c s fun e => e.setXfer x).loadMore now c s x need
  else d.fillSlot' now c s x (got.take need) (x.bad || poison)

/-- A store's bytes in pieces that fit messages and pages (R520). -/
def storePieces (a : Nat) (bs : List Byte) (cap : Nat) : Nat → List (Nat × List Byte)
  | 0 => []
  | n + 1 =>
    if bs.isEmpty then []
    else
      let k := max 1 (min (min bs.length cap) (4096 - a % 4096))
      (a, bs.take k) :: storePieces (a + k) (bs.drop k) cap n

/-- The body of a WR (R521). -/
def wrBody (a : Nat) (bs : List Byte) (pm : Nat) : List Byte :=
  leBytes 8 a ++ leBytes 4 bs.length ++ leBytes 4 0 ++ leBytes 8 pm ++ bs

/-- A STORE begun: a local one waits for its completion, a remote one is sent (R296, R299). -/
def Dev.startStore (d : Dev) (now c s addr : Nat) (bs : List Byte) (poison : Bool) : Dev :=
  let e := d.se c s
  let d := d.modSe c s fun e => { e with xfers := e.xfers ++ [⟨e.nextX, e.ring.head, addr, true, bs, 2, 0, false⟩], nextX := e.nextX + 1 }
  let d := d.seBytes c bs.length
  match d.remoteOf addr with
  | none => d
  | some k =>
    (storePieces (dlaOf addr) bs (min 4096 (d.payloadMax - 64)) 64).foldl (fun d p =>
      let pm := if poison then 2 ^ (granules p.1 p.2.length).length - 1 else 0
      d.request k now 0x03 0 (laneOfDla p.1) 0 (wrBody p.1 p.2 pm) (some e.ring.job) (.streamStore c s e.nextX)) d

/-- A STORE has completed at its destination (R296). -/
def Dev.storeDone (d : Dev) (c s : Nat) (x : Xfer) : Dev :=
  let d := match d.remoteOf x.addr with
    | none => d.localTile (dlaOf x.addr) x.hdr (tileFlagsPoison x.hdr) (some (d.jobPart (d.ring c s).job))
    | some _ => d
  d.dropXfer c s x.id

/-! ### DISARM (R301) -/

/-- Whether a ring's disarming has finished: its transfers and gather reads have retired. -/
def Dev.disarmed (d : Dev) (c s : Nat) : Bool :=
  (d.se c s).xfers.isEmpty && !((d.core c).ge.cmds.any fun g => g.se == some s)

/-- A ring disarmed: its slots, REARMs, WAIT and gather steps go, and its program waits for nothing (R308); transfers in flight are waited
for. -/
def Dev.disarm (d : Dev) (now c s : Nat) : Dev :=
  let d := d.stallEnd now c (2 + s)
  let d := (d.core c).ge.cmds.foldl (fun d g => if g.se = some s then d.refuseCmd c g.id 0 else d) d
  let d := d.onSync fun y => { y with
    mons := y.mons.filter fun o => o.dst != .stream c s
    retry := y.retry.filter fun o => o.dst != .stream c s }
  d.modSe c s fun e => { e with
    ring := {}, waiting := false, waitTick := none, waitDone := false
    xfers := e.xfers.filter fun x => x.ph == 0 || x.ph == 2 }

/-- A refused stream command (R283). -/
def Dev.seRefuse (d : Dev) (now c s : Nat) (x : QEnt) (status : Nat) : Dev :=
  let d := (d.setQueue c (.se s) (dropAt 0 (d.queue c (.se s)))).bump .CORE_SE_ERR [c]
  d.complete now x (BitVec.ofNat 64 (status * 2 ^ 56))

/-- A stream command completed OK. -/
def Dev.seOk (d : Dev) (now c s : Nat) (x : QEnt) : Dev :=
  ((d.setQueue c (.se s) (dropAt 0 (d.queue c (.se s)))).complete now x 0).reap (cluOfCore c)

/-- A DISARM at the front of its queue that has taken effect completes once the ring is disarmed (R283, R301). -/
def Dev.closeRing (d : Dev) (now c s : Nat) : Dev :=
  let e := d.se c s
  if e.closing && d.disarmed c s then
    let d := d.modSe c s fun e => { e with closing := false }
    match d.queue c (.se s) with
    | x :: _ => if x.cmd = 3 then d.seOk now c s x else d
    | [] => d
  else d

/-! ### Fused chains (R302 to R304) -/

def ChainSt.hasGe (h : ChainSt) : Bool := bitAt (h.f 1 1) 2

/-- All of a chain's instructions and its gather have finished. -/
def ChainSt.worked (h : ChainSt) : Bool := (!h.hasGe || h.geDone) && h.meDone == h.meTotal && h.veDone == h.veTotal

/-- A block of chained instructions: SIG of each (R303). -/
def Dev.sigIn (d : Dev) (c a n : Nat) : Bool := (List.range n).any fun i => bitAt (d.num (clmAt c (a + 16 * i)) 8) 31

/-- The status with which a CHAIN is refused, or OK (R303). -/
def Dev.chainStatus (d : Dev) (c : Nat) (x : QEnt) : Nat :=
  if x.bad ≠ 0 then x.bad
  else
    let f := recNum x.rcd
    let fl := f 1 1
    let arm (o i : Nat) : List Byte := if bitAt fl i then d.bytes (clmAt c (f o 4)) 64 else []
    let inside (o n : Nat) : Bool := f o 4 + n ≤ clmSize
    let armBad (o i : Nat) : Bool := bitAt fl i && f o 4 % 64 == 0 && inside o 64 && d.armBad c (arm o i) != sOk
    let blkBad (o no i : Nat) : Bool := bitAt fl i && (decide (f no 1 < 1) || decide (64 < f no 1) ||
      (f o 4 % 16 == 0 && inside o (16 * f no 1) && d.sigIn c (f o 4) (f no 1)))
    let unused (i o n : Nat) : Bool := !bitAt fl i && f o n != 0
    let held (s : Nat) : Bool := bitAt fl s && (d.ring c s).mode != 0 && (d.ring c s).chain == 0
    refusal [
      (f 0 1 != 1 || decide (64 ≤ fl) || f 2 2 == 0 || f 4 4 != 0 || f 20 4 != 0 || f 29 3 != 0 || f 37 3 != 0 || f 44 84 != 0 ||
        decide (2 ^ 17 ≤ f 40 4) || unused 0 8 4 || unused 1 12 4 || unused 2 16 4 || unused 3 24 4 || unused 3 28 1 ||
        unused 4 32 4 || unused 4 36 1 || unused 5 40 4 || armBad 8 0 || armBad 12 1 || blkBad 24 28 3 || blkBad 32 36 4, eArg),
      (f 8 4 % 64 != 0 || f 12 4 % 64 != 0 || f 16 4 % 64 != 0 || f 24 4 % 16 != 0 || f 32 4 % 16 != 0, eAlign),
      ((bitAt fl 0 && !inside 8 64) || (bitAt fl 1 && !inside 12 64) || (bitAt fl 2 && !inside 16 64) ||
        (bitAt fl 3 && !inside 24 (16 * f 28 1)) || (bitAt fl 4 && !inside 32 (16 * f 36 1)), eRange),
      (held 0 || held 1, eState)]

/-- A chain brings no more tiles to a FEED ring: its gather has completed where it fills the ring, and no instruction that fills it is
left to retire (R303). -/
def Dev.fedAll (d : Dev) (c : Nat) (h : ChainSt) (s : Nat) : Bool :=
  let left (ve : Bool) (n done total : Nat) : Bool :=
    (List.range (min n (total - done))).any fun i => (d.dstRings c ve (d.chainInsn c h ve (done + i))).contains s
  (!h.hasGe || h.geDone || !(gatherRings (d.bytes (clmAt c (h.f 16 4)) 64)).contains s) &&
  !left false (h.f 28 1) h.meDone h.meTotal && !left true (h.f 36 1) h.veDone h.veTotal

/-- A chain's ring has reached END, or for FEED has delivered every tile, with all of its slots released (R303). -/
def Dev.ringDone (d : Dev) (c : Nat) (h : ChainSt) (s : Nat) : Bool :=
  let e := d.se c s
  let r := e.ring
  h.armed s && r.chain == h.id && r.busy == 0 && e.xfers.isEmpty && !d.seGathers c s &&
  (if r.mode = 2 then d.fedAll c h s else r.ended && r.rearms.isEmpty)

/-- A named ring armed: at once, or when the chain before it that names it has finished with it (R304). -/
def Dev.chainArm (d : Dev) (now c : Nat) (h : ChainSt) (s : Nat) : Dev :=
  let before (d : Dev) := (d.se c 0).chains.find? fun g => g.id < h.id && g.names s && !g.off s
  if !h.names s || h.armed s || (d.se c s).closing then d
  else
    let d := match before d with
      | some g => if d.ringDone c g s then (d.disarm now c s).modChain c g.id (·.setOff s) else d
      | none => d
    if (d.ring c s).mode == 0 && (before d).isNone then
      let r := d.bytes (clmAt c (h.f (8 + 4 * s) 4)) 64
      (d.modRing c s fun _ => d.armRing c h.ent.job h.id r).modChain c h.id (·.setArmed s)
    else d

/-- The gather of a chain issued once, after those before it and with the rings that it fills armed (R303, R304). -/
def Dev.chainGe (d : Dev) (c : Nat) (h : ChainSt) : Dev :=
  let rcd := d.bytes (clmAt c (h.f 16 4)) 64
  if h.hasGe && !h.geIssued && ((gatherRings rcd).all fun s => !h.names s || h.armed s) && d.hasPlace c .ge &&
      !((d.se c 0).chains.any fun g => g.id < h.id && g.hasGe && !g.geIssued) then
    let x : QEnt := { rcd := rcd, job := h.ent.job, thr := h.ent.thr, chain := h.id }
    (d.push c .ge x).modChain c h.id fun h => { h with geIssued := true }
  else d

/-- A chain whose every part has finished ends, and its rings are disarmed (R303). -/
def Dev.chainEnd (d : Dev) (now c : Nat) (h : ChainSt) : Dev :=
  if h.worked && ([0, 1].all fun s => !h.names s || h.off s || d.ringDone c h s) then
    let d := [0, 1].foldl (fun d s => if h.names s && !h.off s then d.disarm now c s else d) d
    let d := d.modSe c 0 fun e => { e with chains := e.chains.filter fun g => g.id != h.id }
    let d := if bitAt (h.f 1 1) 5 then d.syncAdd now (h.f 40 4) 1 else d
    (d.complete now h.ent 0).reap (cluOfCore c)
  else d

/-- One round over the chains in flight of a core. -/
def Dev.chainRound (d : Dev) (now c : Nat) : Dev :=
  let ids := (d.se c 0).chains.map (·.id)
  let one (d : Dev) (f : Dev → ChainSt → Dev) (id : Nat) : Dev :=
    match (d.se c 0).chains.find? fun h => h.id == id with
    | some h => f d h
    | none => d
  let d := ids.foldl (fun d id => one d (fun d h => (d.chainArm now c h 0)) id) d
  let d := ids.foldl (fun d id => one d (fun d h => (d.chainArm now c h 1)) id) d
  let d := ids.foldl (fun d id => one d (fun d h => d.chainGe c h) id) d
  ids.foldl (fun d id => one d (fun d h => d.chainEnd now c h) id) d

/-- What streams and chains of a core can do after an event: transfers go on, rings close, chains go on, blocks are fed (R299, R303,
R304). -/
def Dev.seAfter (d : Dev) (now c : Nat) : Dev :=
  let d := (d.pumpXfers now c 0).pumpXfers now c 1
  let d := (d.closeRing now c 0).closeRing now c 1
  if (d.se c 0).chains.isEmpty then d else ((d.chainRound now c).chainRound now c).feedChains c

/-- Everything of a core's gather and stream engines that is due after an event. -/
def Dev.coreAfter (d : Dev) (now c : Nat) : Dev := (d.geAll now c).seAfter now c

/-- The same of every core. -/
def Dev.coresAfter (d : Dev) (now : Nat) : Dev := (d.cores.map (·.1)).foldl (fun d c => d.coreAfter now c) d

end Sys2Proof.Machine
end

