-- ==== Sys2Proof/Machine/CmdOps.lean ====
section
/-! DEFINITION. How a host command is checked and started from its copied record, what counts as a table in use, and the
rows of a REPLACE_ROWS in progress (spec/16 R548 to R558, spec/04 R124, R141 to R145). -/

namespace Sys2Proof.Machine

/-- A command whose effect on the volatile part depends on the time. -/
def State.runAt (s : State) (f : Nat → Dev → Dev) : Out1 := s.run fun m => { m with dev := f m.und.now m.dev }

/-- The 1 µs tick that passes when no command waits; the ports' pauses and buffers follow it. -/
def State.tick (s : State) : State :=
  let m := s.mach.atTime (s.mach.und.now + 12000)
  { s with mach := m.onDev fun d => d.portTime m.und.now }

/-! ### Checking a command -/

/-- A field of an operation's record. -/
def HOp.f (o : HOp) (off n : Nat) : Nat := recNum o.rcd off n

/-- Bytes `lo` to `hi` - 1 of a record are zero. -/
def HOp.zero (o : HOp) (lo hi : Nat) : Bool := recNum o.rcd lo (hi - lo) == 0

/-- The accepted command of a slot that waits to be checked, when it has the code asked for (R552). -/
def Dev.queuedOp (d : Dev) (slot opc : Nat) : Option HOp :=
  d.host.ops.find? fun o => o.slot == slot && o.st == .queued && o.opc == opc

/-- The conditions that every command is checked for (R548, R550, R554). -/
def Dev.baseChecks (d : Dev) (o : HOp) (config : Bool) : List (Bool × Nat) :=
  [(config && !bitAt (d.cfg .CXL_CTX [o.ctx]) 1, ePriv), (!o.zero 12 32 || 2 ≤ o.f 10 2, eArg),
   (!bitAt (d.cfg .CXL_CTX [o.ctx]) 0, eState)]

/-- A command of a slot checked and, when nothing refuses it, started (R552). -/
def Dev.takeCmd (d : Dev) (now slot opc : Nat) (config : Bool) (checks : HOp → List (Bool × Nat)) (go : Dev → HOp → Dev) :
    Dev :=
  match d.queuedOp slot opc with
  | none => d
  | some o =>
    let st := refusal (d.baseChecks o config ++ checks o)
    if st != sOk then d.finish o st []
    else go (d.modOp o.handle fun q => { q with st := .running, at_ := now }) { o with st := .running, at_ := now }

/-- The operation with a handle completes with its results so far. -/
def Dev.opDone (d : Dev) (now handle status : Nat) : Dev :=
  match d.handleOp handle with
  | some o => d.finish o status (o.results d now)
  | none => d

/-- An operation is to stop at its next stopping point (R557). -/
def HOp.stopping (o : HOp) : Bool :=
  o.cancelBy.isSome || (match o.st with | .suspending _ => true | _ => false)

/-- An operation at its stopping point: cancelled, or suspended (R558, R667). -/
def Dev.stopOp (d : Dev) (now : Nat) (o : HOp) : Dev :=
  if o.cancelBy.isSome then d.stopCancelled now o else d.stopSuspended now o

/-- PRIO and CLU_MASK as a context allows them (R548). -/
def Dev.ctxPrio (d : Dev) (ctx prio : Nat) : Nat := min prio (d.cfgF .CXL_CTX [ctx] 35 3)
def Dev.ctxClusters (d : Dev) (ctx mask : Nat) : Nat := mask &&& d.cfgF .CXL_CTX [ctx] 19 16 &&& d.pres.clusters

/-- Every byte of a range lies in present memory: HBM3E, LPDDR5X, Clearings (R555). -/
def Dev.memOk (d : Dev) (a n : Nat) : Bool := d.rangeOk a n && decide (a + n ≤ syncBase)

/-! ### Host memory over CXL.cache (R540, R554) -/

/-- A CXL.cache access of a slot's command fails: flagged, and the command ends with E_FAULT (R554, R565); requests to stop it come
too late. -/
def Dev.cacheFail (d : Dev) (now slot : Nat) : Dev :=
  let d := (d.onHost fun h => { h with cacheReqs := h.cacheReqs.filter fun q => q.slot != slot }).cxlFlag 5
  match d.slotOp slot with
  | none => d
  | some o =>
    let d := (d.finish o eFault (o.results d now)).onTabs fun x => { x with repls := x.repls.del o.handle }
    let d := match o.cancelBy with | some b => d.finishReq b eState | none => d
    match o.st with | .suspending b => d.finishReq b eState | _ => d

/-- A CXL.cache read or write asked of the host for a command. -/
def Dev.hostAsk (d : Dev) (now slot addr len : Nat) (data : List Byte) (pm : Nat := 0) : Dev :=
  if !d.host.link then d.cacheFail now slot
  else
    (d.onHost fun h => { h with cacheReqs := h.cacheReqs ++ [⟨slot, addr, len, !data.isEmpty⟩] }).emit
      (.cxlCache slot addr (if data.isEmpty then len else 0) data pm)

/-! ### Tables in use (R124, R187, R555) -/

/-- A gather command of a table is active. -/
def Dev.gathering (d : Dev) (t : Nat) : Bool :=
  d.cores.any fun p => p.2.ge.cmds.any fun g => g.table == t && g.op != 0x11 && g.op != 0

/-- An accepted operation that has not completed, of a code and a table named at an offset. -/
def Dev.opOn (d : Dev) (opc off t : Nat) : Bool :=
  d.host.ops.any fun o => o.opc == opc && o.f off 2 % 4096 == t && o.st != .queued && o.st != .suspended && o.st != .final

/-- A module writer of a table is active: a replacement, a load, an update part, or a migration copy (R124, R133). -/
def Dev.writing (d : Dev) (t : Nat) : Bool :=
  (d.tabs.moves.any fun m => m.table == t && m.st != .wait) || (d.tabs.incoming.any fun i => i.table == t) ||
  (d.tabs.writers.any fun w => w.table == t) || d.opOn 0x0120 32 t || d.opOn 0x0112 32 t ||
  d.tabs.parts.any fun p => !p.layer && p.target == t && p.started

def Dev.tableBusy (d : Dev) (t : Nat) : Bool := d.gathering t || d.writing t

/-! ### REPLACE_ROWS (R143 to R145) -/

/-- Bytes of a replacement row and their marks: from memory, or from what the host sent. -/
def Dev.replSrc (d : Dev) (o : HOp) (r : Repl) (i : Nat) : List Byte × Nat :=
  let b := tdB (d.tdesc (o.f 32 2 % 4096))
  let a := o.f 48 8 + i * b
  match r.host with
  | some bs => ((bs.drop (i * b)).take b, pmMove a 0 b (r.hostPm / 2 ^ (a / 64 - o.f 48 8 / 64) % 2 ^ (granules a b).length))
  | none => (d.bytes a b, pmMove a 0 b (d.pmOf a b))

/-- Whether the next entry of a REPLACE_ROWS may start: fewer than 64 in progress, none of them of its row, no stop asked
for, no drain of its source, and none of the table that came before its first row (R143, R144, R564). -/
def Dev.replMay (d : Dev) (o : HOp) (r : Repl) : Bool :=
  let ix := r.idx.getD []
  let b := tdB (d.tdesc (o.f 32 2 % 4096))
  r.next < ix.length && r.waiting.length < 64 && o.st == .running && o.cancelBy.isNone &&
  !(r.waiting.any fun i => ix.getD i 0 == ix.getD r.next 0) && (r.next != 0 || !d.heldTable (o.f 32 2 % 4096)) &&
  (r.host.isSome || !d.heldRange (o.f 48 8 + r.next * b) b)

/-- The next entry of a REPLACE_ROWS: skipped where its source is poisoned, else written at its home (R143, R145). -/
def Dev.replOne (d : Dev) (now h : Nat) : Dev :=
  match d.handleOp h with
  | none => d
  | some o =>
    let r := SMap.get {} d.tabs.repls h
    if o.opc = 0x0120 ∧ d.replMay o r then
      let i := r.next
      let s := d.replSrc o r i
      if s.2 != 0 then d.modRepl h fun x => { x with next := i + 1, skipped := x.skipped + 1, srcPoison := true }
      else
        let pm := if r.poison then 2 ^ (granules 0 s.1.length).length - 1 else 0
        let d := d.modRepl h fun x => { x with next := i + 1, waiting := x.waiting ++ [i] }
        d.rowReq now { by_ := .repl h i, table := o.f 32 2 % 4096, row := (r.idx.getD []).getD i 0,
                       op := .write s.1 pm (bitAt (o.f 34 2) 1) }
    else d

/-- The status of a REPLACE_ROWS that has ended (R143). -/
def Repl.status (r : Repl) : Nat :=
  if r.faulted ≠ 0 then eFault else if r.refused then eRange else if r.srcPoison then ePoison else sOk

/-- A REPLACE_ROWS ends, or stops, once no row of it is in progress (R143, R144). -/
def Dev.replEnd (d : Dev) (now h : Nat) : Dev :=
  match d.handleOp h with
  | none => d
  | some o =>
    let r := SMap.get {} d.tabs.repls h
    if o.opc = 0x0120 ∧ r.idx.isSome ∧ r.waiting.isEmpty ∧ o.st ≠ .suspended then
      if (r.idx.getD []).length ≤ r.next then
        let d := d.opDone now h r.status
        let d := match o.st with | .suspending b => d.finishReq b eState | _ => d
        let d := match o.cancelBy with | some b => d.finishReq b eState | none => d
        d.onTabs fun x => { x with repls := x.repls.del h }
      else if o.stopping then d.stopOp now o
      else d
    else d

def Dev.pumpRepl (d : Dev) (now h : Nat) : Nat → Dev
  | 0 => d
  | n + 1 => (d.replOne now h).pumpRepl now h n

/-- Every REPLACE_ROWS in progress goes on as far as it can. -/
def Dev.replAll (d : Dev) (now : Nat) : Dev :=
  d.tabs.repls.foldl (fun d p => ((d.pumpRepl now p.1 (1 + (p.2.idx.getD []).length - p.2.next)).replEnd now p.1)) d

end Sys2Proof.Machine
end

