-- ==== Sys2Proof/Machine/ArmOps.lean ====
section
/-! DEFINITION. The host command monitor: arming a slot and accepting its command (spec/16 R549 to R556). -/

namespace Sys2Proof.Machine

/-- Command codes (R554). -/
def cmdCodes : List Nat :=
  [0x0101, 0x0102, 0x0103, 0x0104, 0x0105, 0x0110, 0x0111, 0x0112, 0x0113, 0x0114, 0x0115, 0x0116, 0x0117, 0x0120, 0x0121,
   0x0122, 0x0123, 0x0124, 0x0125, 0x0126, 0x0127, 0x0128, 0x0130, 0x0140]

/-- DLA of the command region (R549). -/
def Dev.cmdBase (d : Dev) : Nat := d.cfgF .CXL_CMDBASE [] 0 24 * 2 ^ 20

/-- The handle of a command (R556). -/
def handleOf (slot seq : Nat) : Nat := 2 ^ 31 + seq % 2 ^ 19 * 4096 + slot

/-- An armed slot's command accepted: its record is copied, PENDING is written; a code that is not listed, and every command in
DRAIN, is refused at once (R551, R552, R554, R594). -/
def Dev.accept (d : Dev) (now slot seq : Nat) (draining : Bool) : Dev :=
  let rcd := d.bytes (d.cmdBase + slot * 256) 256
  let opc := recNum rcd 8 2
  let o : HOp :=
    { handle := handleOf slot seq, slot := slot, seq := seq, ctx := (d.slotCtx slot).getD 0, opc := opc, copc := opc,
      irq := bitAt (recNum rcd 10 2) 0, rcd := rcd, st := .queued, at_ := now }
  let d := (d.onHost fun h => { h with lastSeq := h.lastSeq.put 0 slot seq, ops := h.ops ++ [o] }).bump .CXL_CMDS
  let d := d.writeRecord o sPending []
  if draining then d.finish o eState (if opc = 0x0113 ∨ opc = 0x0130 then [(16, 4, 0xFFFFFFFF)] else [])
  else if !cmdCodes.contains opc then d.finish o (refusal ((true, eArg) :: d.baseChecks o false)) []
  else d

/-- A write of an arm word, once the module is in RUN or DRAIN: it arms its slot, or is ignored and flagged (R551). -/
def Dev.armWord (d : Dev) (now slot v : Nat) (draining : Bool) : Dev :=
  let seq := v % 2 ^ 32
  if bitAt v 63 && seq != 0 && bitsOf v 32 31 == 0 && seq != SMap.get 0 d.host.lastSeq slot && (d.slotCtx slot).isSome &&
      (d.slotOp slot).isNone then d.accept now slot seq draining
  else d.cxlFlag 4

/-- The arm word of a slot as it stands in the command region. -/
def Dev.armValue (d : Dev) (slot : Nat) : Nat := d.num (d.cmdBase + slot * 256) 8

/-- Arm words examined at entry to RUN (R551, R593). -/
def Dev.examineArms (d : Dev) (now : Nat) : Dev :=
  (List.range 4096).foldl (fun d s =>
    if bitAt (d.armValue s) 63 then (d.bump .CXL_ARMS_PRE).armWord now s (d.armValue s) false else d) d

end Sys2Proof.Machine
end

