-- ==== Sys2Proof/Machine/TelOps.lean ====
section
/-! DEFINITION. The histogram latch, margin runs and traffic generators as their control registers start them (spec/19 R634,
R639 to R642). -/

namespace Sys2Proof.Machine

def Dev.onTel (d : Dev) (f : Tel → Tel) : Dev := { d with tel := f d.tel }

/-! ### Histogram latch (R634) -/

/-- Bin b of a class on a Treeline (R118, R119). -/
def Dev.histBin (d : Dev) (t cls b : Nat) : Nat := bitsOf (d.rd .QFE_HIST [t, cls * 64 + b / 2]) (b % 2 * 32) 32

/-- A write of TEL_HLATCH: with GO the class's bins of both Treelines are copied at this instant; a GO during a copy is dropped
and counted (DEDUCED, log 95: "while DONE is 0" is during a copy, since DONE reads 0 at reset too). -/
def Dev.hlatch (d : Dev) (now v : Nat) : Dev :=
  let c := bitsOf v 0 8
  if !bitAt v 8 then d.wr .TEL_HLATCH [] (setBits (d.rd .TEL_HLATCH) 0 8 c)
  else if d.tel.latchAt ≠ 0 then d.regErr
  else
    let d := (List.range 128).foldl (fun d b => d.wr .TEL_HSNAP [b] (d.histBin 0 c b + d.histBin 1 c b)) d
    (d.wr .TEL_HLATCH [] c).onTel fun t => { t with latchAt := now + 2 * usT }

/-! ### Channels of a memory unit (R460, R640) -/

/-- The channels of a mask hold unspecified values in a range of a unit. -/
def Dev.scrambleChans (d : Dev) (u a n mask : Nat) : Dev :=
  (List.range (n / 256)).foldl (fun d i =>
    if bitAt mask (chanOf u (a + i * 256)) then d.scramble (a + i * 256) 256 else d) d

/-! ### Margining (R639, R640) -/

/-- The unit and channel that a margin run's NUM names, for a memory. -/
def mgUnit (kind num : Nat) : Nat × Nat := if kind = 0 then (num / 32, num % 32) else (8 + num / 4, num % 4)

/-- The target of a margin run is present. -/
def Dev.mgHere (d : Dev) (kind num : Nat) : Bool :=
  if kind = 2 then num < 288 && bitAt d.pres.ports (num / 8)
  else num < (if kind = 0 then 256 else 128) && d.unitHere (mgUnit kind num).1

/-- The memory of a margin run's channel holds unspecified values. -/
def Dev.mgScramble (d : Dev) (kind num : Nat) : Dev :=
  if kind = 2 then d
  else
    let u := (mgUnit kind num).1
    d.scrambleChans u (unitBase u) (unitSize u) (2 ^ (mgUnit kind num).2)

/-- STATUS of TEL_MGRES. -/
def Dev.mgStatus (d : Dev) (st : Nat) : Dev := d.wr .TEL_MGRES [] (setBits (d.rd .TEL_MGRES) 24 8 st)

/-- A margin run ends: its results and status stand, BUSY reads 0. -/
def Dev.mgEnd (d : Dev) (st errors bitsK : Nat) : Dev :=
  (d.wr .TEL_MGCTL [] (bitsOf (d.rd .TEL_MGCTL) 0 36)).wr .TEL_MGRES []
    (min errors (2 ^ 24 - 1) + st * 2 ^ 24 + min bitsK (2 ^ 32 - 1) * 2 ^ 32)

/-- A margin run on a lane of a port that retrains ends with E_STATE and what it has counted so far, which the spec does not
fix (R644). -/
def Dev.mgRetrain (d : Dev) (n : Nat) : Dev :=
  let v := d.rd .TEL_MGCTL
  if bitAt v 37 && bitsOf v 0 2 == 2 && bitsOf v 2 11 / 8 == n then
    (d.mgEnd eState (Config.freeNat d.fresh) (Config.freeNat (d.fresh + 1))).useFree 2
  else d

/-- A write of TEL_MGCTL: while a run is in progress a GO is dropped and counted; a GO starts a run or is refused. -/
def Dev.marginWrite (d : Dev) (now v : Nat) : Dev :=
  let busy := bitAt (d.rd .TEL_MGCTL) 37
  if busy && bitAt v 36 then d.regErr
  else
    let d := d.wr .TEL_MGCTL [] (bitsOf v 0 36 + if busy then 2 ^ 37 else 0)
    if !bitAt v 36 then d
    else
      let kind := bitsOf v 0 2
      let num := bitsOf v 2 11
      let u := (mgUnit kind num).1
      let st := refusal [(!d.mgHere kind num, eRange),
        (kind != 2 && d.mgHere kind num && !d.drained (unitBase u) (unitSize u), eNonatomic)]
      if st != sOk then d.mgStatus st
      else
        ((d.mgScramble kind num).wr .TEL_MGCTL [] (bitsOf v 0 36 + 2 ^ 37)).onTel fun t => { t with mgAt := now }

/-! ### Memory traffic generators (R641) -/

/-- The range of a generator's unit that it is to use: DLA and length. -/
def Dev.mtgRange (d : Dev) (g : Nat) : Nat × Nat :=
  let v := d.rd .TEL_MTG_RANGE [g]
  (unitBase g + bitsOf v 0 32 * 4096, bitsOf v 32 32 * 4096)

/-- STATUS of TEL_MTG_ERR_g. -/
def Dev.mtgStatus (d : Dev) (g st : Nat) : Dev := d.wr .TEL_MTG_ERR [g] (setBits (d.rd .TEL_MTG_ERR [g]) 32 8 st)

/-- A write of TEL_MTG_CTL_g: a GO starts READ_BW or WRITE_CHECK, or is refused; a GO while the generator runs is dropped and
counted (DESIGN CHOICE, as R645 has it for TEL_MGCTL). -/
def Dev.mtgWrite (d : Dev) (now g v : Nat) : Dev :=
  let busy := bitAt (d.rd .TEL_MTG_CTL [g]) 6
  if busy && bitAt v 5 then d.regErr
  else
    let keep := setBits (setBits v 5 1 0) 6 1 (if busy then 1 else 0)
    let d := d.wr .TEL_MTG_CTL [g] keep
    let mode := bitsOf v 0 2
    if !bitAt v 5 || mode == 0 then d
    else
      let r := d.mtgRange g
      let st := refusal [(r.2 == 0 || unitBase g + unitSize g < r.1 + r.2, eRange), (!d.unitHere g, eState),
        (mode == 2 && !d.drained r.1 r.2, eNonatomic)]
      if st != sOk then d.mtgStatus g st
      else
        let d := ((d.wr .TEL_MTG_RES [g] 0).wr .TEL_MTG_ERR [g] 0).wr .TEL_MTG_ERRADDR [g] 0
        let d := if mode = 2 then d.scrambleChans g r.1 r.2 (d.rd .TEL_MTG_CH [g]) else d
        (d.wr .TEL_MTG_CTL [g] (setBits keep 6 1 1)).onTel fun t => { t with mtgAt := t.mtgAt.put 0 g now }

/-! ### Port traffic generators (R642) -/

/-- The port's condition for a generator mode. -/
def Dev.ptgOk (d : Dev) (n mode : Nat) : Bool :=
  if mode = 1 then bitAt d.pres.ports n && d.portMode n == 0
  else d.portMode n != 0 && bitAt (d.port n).up (bitsOf (d.rd .TEL_PTG_FRM [n]) 22 2)

/-- A write of TEL_PTG_CTL_n: a GO starts LANE_PRBS or FRAMES, or STATUS reads E_STATE; a GO while the generator runs is dropped
and counted (DESIGN CHOICE, as R645 has it for TEL_MGCTL). -/
def Dev.ptgWrite (d : Dev) (now n v : Nat) : Dev :=
  let old := d.rd .TEL_PTG_CTL [n]
  let busy := bitAt old 6
  if busy && bitAt v 5 then d.regErr
  else
    let keep := setBits (setBits (setBits v 5 1 0) 6 1 (if busy then 1 else 0)) 48 8 (bitsOf old 48 8)
    let d := d.wr .TEL_PTG_CTL [n] keep
    let mode := bitsOf v 0 2
    if !bitAt v 5 || mode == 0 then d
    else if !d.ptgOk n mode then d.wr .TEL_PTG_CTL [n] (setBits keep 48 8 eState)
    else
      let d := d.wr .TEL_PTG_RES [n, 0] 0
      let d := d.onTel fun t => { t with
        laneRun := setBits t.laneRun n 1 (if mode = 1 then 1 else 0), laneErr := t.laneErr.filter fun p => p.1 / 4 != n }
      (d.wr .TEL_PTG_CTL [n] (setBits (setBits keep 48 8 sOk) 6 1 1)).onTel fun t => { t with ptgAt := t.ptgAt.put 0 n now }

/-- A running LANE_PRBS stops once the port's MODE is no longer DOWN (R644). -/
def Dev.prbsStop (d : Dev) (n : Nat) : Dev :=
  let v := d.rd .TEL_PTG_CTL [n]
  if bitAt v 6 && bitsOf v 0 2 == 1 then d.wr .TEL_PTG_CTL [n] (setBits v 6 1 0) else d

end Sys2Proof.Machine
end

