-- ==== Sys2Proof/Machine/StartOps.lean ====
section
/-! DEFINITION. The moves between module states that more than one command makes (spec/17 R569 to R572, R594, R595). -/

namespace Sys2Proof.Machine

/-- The Understory's registers at their values on entry to BOOT (R15, R603, R604, R629, R645); the counts that span restarts, the
event log, whether a sensor's warning stands and what the map-out record is to be stay (R620, R625, R631). -/
def Und.bootRegs (u : Und) : Und :=
  { u with boots := u.boots + 1, rcvCause := 0, holdCause := 0, source := 0, cfgFailAt := 0, cfgFailKind := 0, bootMs := 0, trainMs := 0,
           linkMs := 0, evFlag := 0, evMask := 0xE, power := [], spdm := 0,
           sensors := (List.range 17).foldl (fun x i => x.mod {} i fun p => { p with temp := 0, max := 0 }) u.sensors }

/-- BOOT is entered: everything but the Understory at its starting value (R570, R571), and its registers too (R15). -/
def Mach.enterBoot (m : Mach) : Mach :=
  let n := m.toState .boot
  m.alertEdge { n with und := { n.und.bootRegs with rcv := {}, rails := 5 }, dev := n.dev.powerDown.bootRegs }

/-- RECOVERY is entered with a cause of R588. -/
def Mach.enterRecovery (m : Mach) (cause : Nat) : Mach :=
  let m := m.toState .recovery
  let m := { m with
    und := { m.und with rcvs := m.und.rcvs + 1, rcvCause := cause, rcv := {} }
    dev := m.dev.powerDown.bootRegs }
  m.event 0x0503 3 (evUnit 9 0) cause

/-- The rails go down but for the Understory's (R570). -/
def Mach.toUnderstory (m : Mach) : Mach :=
  let m := m.toState .understory
  let d := m.dev.powerDown
  { m with
    nv := m.nv.breakFlash
    und := { m.und with rails := 0, rcv := {}, spdm := 0 }
    dev := d.onHost fun h => { h with link := false, linkReg := 0 } }

/-- Rail sequencing starts: the first rail is enabled (R572). -/
def Mach.startRails (m : Mach) : Mach :=
  if m.und.st = .understory ∧ m.und.pwrEn ∧ m.und.rstN then
    { m with und := { m.und with rails := 1, railAt := m.und.now } }
  else m

/-- DRAIN is entered: both front ends stop accepting queries (R594). -/
def Mach.startDrain (m : Mach) (dst : DrainTo) : Mach :=
  let m := m.toState .drain
  let off (q : Qfe) : Qfe := { q with ctl := setBits q.ctl 0 1 0 }
  { m with
    und := { m.und with drainTo := some dst }
    dev := { m.dev with qfe0 := off m.dev.qfe0, qfe1 := off m.dev.qfe1 } }

/-- A write of UND_CTL (R594, R595). -/
def Mach.undCtl (m : Mach) (v : Nat) : Mach :=
  match m.und.st with
  | .run =>
    if bitAt v 0 then m.startDrain .shutdown
    else if bitAt v 1 then m.startDrain .reboot
    else if bitAt v 2 then m.startDrain .recover
    else m
  | .recovery => if bitAt v 1 && !bitAt v 0 then { m.enterBoot with nv := m.nv.breakFlash } else m
  | _ => m

end Sys2Proof.Machine
end

