-- ==== Sys2Proof/Machine/Image.lean ====
section
/-! DEFINITION. The Horum image: its header, sections and signature block, its verification, and the configuration it gives
(spec/17 R575 to R582, R600). -/

namespace Sys2Proof.Machine

/-- The bytes of an image by offset: the flash, or what RECOVERY has staged. -/
abbrev Img := Nat → Byte

def imgBytes (f : Img) (o n : Nat) : List Byte := (List.range n).map fun i => f (o + i)
def imgNum (f : Img) (o n : Nat) : Nat := leNat (imgBytes f o n)
def imgZero (f : Img) (o n : Nat) : Bool := imgNum f o n == 0

/-- What an erased byte of the NOR flash reads as (JESD251, PRESUMED). -/
def flashErased : Byte := 0xFF

/-- The image in the flash, and the one staged; Canopy bytes that no CHUNK wrote read as zero. -/
def Nv.img (n : Nv) : Img := fun o => SMap.get flashErased n.flash o
def Rcv.img (r : Rcv) : Img := fun o => SMap.get 0 r.staged o

def imgMax : Nat := 120 * 2 ^ 20

/-! ### Header and sections (R576, R577) -/

structure ImgSect where
  typ : Nat
  off : Nat
  len : Nat
  res : Bool
  digest : List Byte
  deriving DecidableEq, Repr, Inhabited

def imgSvn (f : Img) : Nat := imgNum f 8 1
def imgKey (f : Img) : Nat := imgNum f 9 1
def imgSigOff (f : Img) : Nat := imgNum f 28 4

/-- The sections in table order. -/
def imgSects (f : Img) : List ImgSect :=
  (List.range (imgNum f 12 2)).map fun i =>
    let o := 256 + 64 * i
    ⟨imgNum f o 2, imgNum f (o + 4) 4, imgNum f (o + 8) 4, imgNum f (o + 2) 2 == 0 && imgNum f (o + 12) 4 == 0,
      imgBytes f (o + 16) 48⟩

/-- The signed region. -/
def imgSigned (f : Img) : List Byte := imgBytes f 0 (256 + 64 * imgNum f 12 2)

def ImgSect.bytes (x : ImgSect) (f : Img) : List Byte := imgBytes f x.off x.len

/-- R582 step 1 for a part; the signature block lies within IMG_BYTES (DEDUCED). -/
def imgHeaderOk (f : Img) (part : Nat) : Bool :=
  imgNum f 0 4 == 0x4D555248 && imgNum f 4 2 == 1 && bitsOf (imgNum f 10 1) 2 6 == 0 && bitsOf (imgNum f 11 1) 2 6 == 0 &&
  imgZero f 14 2 && imgZero f 32 224 && 1 ≤ imgNum f 12 2 && imgNum f 12 2 ≤ 64 && imgNum f 24 4 ≤ imgMax &&
  imgSigOff f % 4096 == 0 && imgSigOff f + 17056 ≤ imgNum f 24 4 &&
  bitAt (imgNum f 11 1) (if part = 0x4810 then 1 else 0)

/-- How many sections of a type an image may have (R578). -/
def sectCount (t n : Nat) : Bool :=
  match t with
  | 0x0001 => n == 1
  | 0x0002 => true
  | 0x0004 => n ≤ 256
  | 0x0007 => n ≤ 63
  | 0x0003 | 0x0005 | 0x0006 | 0x0008 | 0x0009 | 0x000A | 0x000B | 0x000C => n ≤ 1
  | _ => n == 0

/-- The placement rules of R577 and R578. -/
def imgPlaced (f : Img) : Bool :=
  let ss := imgSects f
  ss.all (fun x => x.res && 1 ≤ x.typ && x.typ ≤ 12 && x.off % 4096 == 0 && 1 ≤ x.len && 256 + 64 * ss.length ≤ x.off &&
    x.off + x.len ≤ imgSigOff f) &&
  (List.range 12).all (fun t => sectCount (t + 1) (ss.filter fun x => x.typ == t + 1).length) &&
  (List.range ss.length).all fun i => (List.range i).all fun j =>
    (overlap (ss.getD i default).off (ss.getD i default).len (ss.getD j default).off (ss.getD j default).len).2 == 0

/-- The verification of R582: 0, or the first failing cause of R588. -/
def imgCause (f : Img) (u : Fuse) (part : Nat) : Nat :=
  let s := imgSigOff f
  let k := imgKey f
  if !imgHeaderOk f part then 2
  else if 4 ≤ k || bitAt u.keyRev k || u.keyDigest[k]? != some (Config.sha384 (imgBytes f s 436)) then 3
  else if !Config.rsaVerify (beNat (imgBytes f s 4)) (imgBytes f (s + 4) 384) (imgBytes f (s + 448) 384) (imgSigned f) then 4
  else if !Config.slhVerify (imgBytes f (s + 388) 48) (imgBytes f (s + 832) 16224) (imgSigned f) then 5
  else if !imgPlaced f then 2
  else if (imgSects f).any fun x => Config.sha384 (x.bytes f) != x.digest then 6
  else if imgSvn f < u.svn then 7
  else 0

/-! ### What the sections give (R578) -/

/-- The whole records of a length in the sections of a type, in order. -/
def imgRecs (f : Img) (t n : Nat) : List (List Byte) :=
  ((imgSects f).filter fun x => x.typ == t).flatMap fun x =>
    (List.range (x.len / n)).map fun i => imgBytes f (x.off + i * n) n

/-- A table from records with an 8-byte prefix whose first 4 bytes are the number; a descriptor's image is followed by the
handle 0, as no command has set it. -/
def imgTab (f : Img) (t n : Nat) : SMap (List Byte) :=
  (imgRecs f t (8 + n)).foldl (fun m r => SMap.put [] m (recNum r 0 4) (r.drop 8 ++ leBytes 8 0)) []

/-- The value the CONFIG records give a register, the last one prevailing; 0 without one. -/
def imgReg (f : Img) (o : Nat) : Nat :=
  (imgRecs f 0x0002 16).foldl (fun v r => if recNum r 0 8 = o then recNum r 8 8 else v) 0

/-- The configuration of an image: img values of the registers that change by COMMIT, and the tables. -/
def Conf.ofImage (f : Img) : Conf :=
  let regs := (imgRecs f 0x0002 16).foldl (fun m r =>
    match regAt (recNum r 0 8) with
    | some (g, _) => if g.row.view = .shadow then SMap.put 0 m (recNum r 0 8) (BitVec.ofNat 64 (recNum r 8 8)) else m
    | none => m) []
  let progs := ((imgSects f).filter fun x => x.typ == 4).foldl (fun m x =>
    SMap.put [] m (recNum (x.bytes f) 4 4) (x.bytes f ++ leBytes 8 0)) []
  let uprs := ((imgSects f).filter fun x => x.typ == 7).foldl (fun m x =>
    SMap.put [] m (recNum (x.bytes f) 0 4) ((x.bytes f).drop 8 ++ leBytes 8 0)) []
  { reg := regs
    tab :=
      { cls := imgTab f 3 64
        prog := progs
        tbl := imgTab f 5 64
        grf := imgTab f 6 64
        upr := uprs
        bind := imgTab f 8 32
        layer := imgTab f 9 72 } }

/-! ### Measurements (R600) -/

def zeros48 : List Byte := List.replicate 48 0

/-- Blocks 1 to 7 as an image is taken into use: how block 2 joins its three values is PRESUMED to be one byte each. -/
def measure (f : Img) (u : Fuse) (source : Nat) : List (List Byte) :=
  let rest := ((imgSects f).filter fun x => x.typ != 1).flatMap fun x => x.bytes f
  let fw := ((imgSects f).filter fun x => x.typ == 1).flatMap fun x => x.bytes f
  [Config.romMeasurement, Config.sha384 (leBytes 1 u.svn ++ leBytes 1 u.keyRev ++ leBytes 1 (imgKey f)),
   Config.sha384 (imgSigned f), Config.sha384 fw, Config.sha384 rest, leBytes 4 source, zeros48]

/-- Blocks in RECOVERY before BOOT: 3 to 5 hold zero bytes. -/
def measureNone (u : Fuse) : List (List Byte) :=
  [Config.romMeasurement, Config.sha384 (leBytes 1 u.svn ++ leBytes 1 u.keyRev ++ leBytes 1 0), zeros48, zeros48, zeros48,
   leBytes 4 0, zeros48]

end Sys2Proof.Machine
end

