-- ==== Sys2Proof/Machine/AtomOps.lean ====
section
/-! DEFINITION. Canopy atomics as one shared operation, reservations and what they hold back, and the core's atomic registers
(spec/13 R431 to R438). -/

namespace Sys2Proof.Machine

/-- Sizes that a scalar code is defined for (R431). -/
def atomSizes (code : Nat) : List Nat :=
  match code with
  | 0x01 | 0x04 | 0x05 | 0x06 | 0x07 | 0x0A | 0x0B | 0x0C | 0x0D => [4, 8]
  | 0x02 | 0x08 | 0x09 => [4]
  | 0x03 => [2]
  | 0x0E => [8]
  | _ => []

/-- The new value at the target (R431). -/
def atomNew (code size v a b : Nat) : Nat :=
  let w := 8 * size
  let a := a % 2 ^ w
  let f32 (x : Nat) := decodeElt .fp32 x
  match code with
  | 0x01 => (v + a) % 2 ^ w
  | 0x02 => addRne v a
  | 0x03 => encodeElt .bf16 .rne 0 ((decodeElt .bf16 v).add (decodeElt .bf16 a))
  | 0x04 => if sext w v ≤ sext w a then v else a
  | 0x05 => if sext w a ≤ sext w v then v else a
  | 0x06 => min v a
  | 0x07 => max v a
  | 0x08 => encodeElt .fp32 .rne 0 ((f32 v).min (f32 a))
  | 0x09 => encodeElt .fp32 .rne 0 ((f32 v).max (f32 a))
  | 0x0A => v &&& a
  | 0x0B => v ||| a
  | 0x0C => v ^^^ a
  | 0x0D => a
  | 0x0E => if v = a then b % 2 ^ w else v
  | _ => v

/-- Bytes of an atomic's target. -/
def AtomOp.len (o : AtomOp) : Nat := if o.code = 0x10 then 4 * o.n else o.size

/-- A line of external memory has no cache home: its region behaves as uncacheable (R422). -/
def Dev.homeless (d : Dev) (a : Nat) : Bool := match d.target a with | .ext u b => (d.home u b).isNone | _ => false

/-- A range touches a place that atomics do not apply to: an uncacheable region, the sync region, a core's window, a register
view, the mirror, the status window (R422, R432, R451). -/
def Dev.atomArg (d : Dev) (a n : Nat) : Bool :=
  ((granules a n).any fun g => d.attr g == 2 || d.homeless g) || (overlap a n syncBase 0x1000000).2 != 0 ||
  (overlap a n coreWin 0x80000000).2 != 0 || [viewP, viewM, viewU].any (fun v => (overlap a n v 0x1000000).2 != 0) ||
  (overlap a n statusWin 0x40000).2 != 0

/-- The status an atomic's code, size, count and target are refused with (R432, R438). -/
def Dev.atomRefusal (d : Dev) (o : AtomOp) : Nat :=
  let sized := if o.code = 0x10 then o.size == 4 && 1 ≤ o.n && o.n ≤ 1024 else (atomSizes o.code).contains o.size && o.n == 0
  refusal [(!sized, eArg), (sized && d.atomArg o.addr o.len, eArg),
    (o.addr % (if o.code = 0x10 then 4 else max o.size 1) != 0, eAlign), (sized && !d.memOk o.addr o.len, eRange)]

/-- What an atomic leaves: the state, the old value, whether the target or the source was poisoned. -/
structure AtomOut where
  d : Dev
  old : Nat
  poison : Bool
  deriving Inhabited

/-- The partition of an atomic's requests: its core's, or that of requests from other modules (R474). -/
def Dev.atomPart (d : Dev) (by_ : Option Nat) : Nat :=
  match by_ with | some k => if k < 128 then d.corePart k else d.fabPart | none => d.fabPart

/-- An atomic waits before it may be executed, by the codes of `lineWait`: its line is allocated in a no-allocate region too (R431, R437). -/
def Dev.atomWait (d : Dev) (a n : Nat) (by_ : Option Nat) : Nat := d.writeWait (d.atomPart by_) a n by_ true

/-- A scalar atomic at its slice: one indivisible read and write (R431, R433, R434). -/
def Dev.scalarAtom (d : Dev) (o : AtomOp) (by_ : Option Nat) : AtomOut :=
  let old := d.num o.addr o.size
  let p := d.poisoned o.addr o.size
  let d := match d.sliceAt o.addr with | some k => d.bump .CAN_ATOM [k] | none => d
  ⟨d.storeNow o.addr (leBytes o.size (atomNew o.code o.size old o.a o.b)) false (some (d.atomPart by_)) true, old, p⟩

/-- A row-merge-add, line by line: element i gets source i added; marks stay, and a poisoned source marks what it writes (R431,
R433, R434). -/
def Dev.rmaAtom (d : Dev) (o : AtomOp) (part : Nat) : AtomOut :=
  let sum := (List.range o.n).flatMap fun i =>
    leBytes 4 (addRne (d.num (o.addr + 4 * i) 4) (recNum o.src (4 * i) 4))
  let pm := if o.srcPoison then 2 ^ (granules o.addr o.len).length - 1 else d.pmOf o.addr o.len
  ⟨(d.rmaLines o.addr o.len).storePmNow o.addr sum pm (some part) true, 0, d.poisoned o.addr o.len || o.srcPoison⟩

/-- The row-merge-add of a list of fp32 codes. -/
def rmaOf (a : Nat) (xs : List Nat) (poison : Bool) : AtomOp :=
  { code := 0x10, size := 4, n := xs.length, addr := a, a := 0, b := 0, src := xs.flatMap (leBytes 4), srcPoison := poison, job := 0 }

/-- An atomic at its target on this module. -/
def Dev.atomAt (d : Dev) (o : AtomOp) (by_ : Option Nat) : AtomOut :=
  if o.code = 0x10 then d.rmaAtom o (d.atomPart by_) else d.scalarAtom o by_

/-- A gradient merge's row-merge-add: executed, or held back while its lines wait (R339, R426, R435, R476). -/
def Dev.rmaStore (d : Dev) (a : Nat) (xs : List Nat) (poison : Bool) (part : Nat) : Dev :=
  if d.writeWait part a (4 * xs.length) none true = 0 then (d.rmaAtom (rmaOf a xs poison) part).d
  else { d with held := d.held ++ [.rma a xs poison part] }

/-! ### Reservations (R437) -/

/-- LR by a requester: the value read, the reservation placed; a new LR of the requester replaces its old one. -/
def Dev.lrAt (d : Dev) (now who a size : Nat) : AtomOut :=
  let old := d.num a size
  let p := d.poisoned a size
  let d := match d.sliceAt a with | some k => d.bump .CAN_ATOM [k] | none => d
  let d := d.touch a size { part := d.atomPart (some who) }
  let r := (a / 128, now, true)
  let d : Dev := if who < 128 then d.modSq who fun s => { s with resv := some r }
    else { d with far := (d.far.filter fun p => p.1 != who) ++ [(who, r)] }
  ⟨d, old, p⟩

/-- A requester's reservation. -/
def Dev.resvOf (d : Dev) (who : Nat) : Option (Nat × Nat × Bool) :=
  if who < 128 then (d.core who).sq.resv else (d.far.find? fun p => p.1 == who).map (·.2)

/-- A requester's reservation gone. -/
def Dev.dropResv (d : Dev) (who : Nat) : Dev :=
  if who < 128 then d.modSq who fun s => { s with resv := none } else { d with far := d.far.filter fun p => p.1 != who }

/-- SC by a requester: written, and 0 returned, only with its reservation on the line intact; 1 otherwise. -/
def Dev.scAt (d : Dev) (who a size v : Nat) : AtomOut :=
  let ok := match d.resvOf who with | some (l, _, _) => l == a / 128 | none => false
  let d := match d.sliceAt a with | some k => d.bump .CAN_ATOM [k] | none => d
  let d := if ok then d.storeNow a (leBytes size v) false (some (d.atomPart (some who))) true else d
  ⟨d.dropResv who, if ok then 0 else 1, false⟩

/-- OLD of an ATR, with its mark (R521). -/
def atrBody (o : AtomOut) : List Byte := leBytes 8 o.old ++ leBytes 8 (if o.poison then 1 else 0)

/-- The body of an AT message (R521). LR and SC, for which R431 has no code, are carried as codes 0x11 and 0x12 with the core
in B (DESIGN CHOICE). It has no place for the marks of an RMA's source, which arrives unmarked (DESIGN CHOICE, log 85). -/
def atBody (o : AtomOp) : List Byte :=
  leBytes 8 o.addr ++ leBytes 1 o.code ++ leBytes 1 o.size ++ leBytes 2 o.n ++ leBytes 4 0 ++ leBytes 8 o.a ++ leBytes 8 o.b ++ o.src

/-- The operation an AT message asks for. -/
def atOp (body : List Byte) : AtomOp :=
  ⟨recNum body 8 1, recNum body 9 1, recNum body 10 2, recNum body 0 8, recNum body 16 8, recNum body 24 8, body.drop 32, false, 0⟩

/-- The requester of an AT message that a reservation names: the core of an LR or SC. -/
def atWho (src : Nat) (body : List Byte) : Option Nat :=
  let o := atOp body
  if o.code = 0x11 ∨ o.code = 0x12 then some (128 + 128 * src + o.b % 128) else none

/-- An AT message waits at its slice: an LR as a read, anything else as a write (R437, R476). -/
def Dev.atWait (d : Dev) (src : Nat) (body : List Byte) : Nat :=
  let o := atOp body
  let n := max o.len 1
  if o.code = 0x11 then d.readWait d.fabPart o.addr n else d.atomWait o.addr n (atWho src body)

/-- A remote atomic, LR or SC executed and answered (R523). -/
def Dev.serveAt (d : Dev) (now src tag : Nat) (body : List Byte) : Dev :=
  let o := atOp body
  let who := 128 + 128 * src + o.b % 128
  let lrsc := o.code = 0x11 || o.code = 0x12
  let o' := if lrsc then { o with code := 0x0D } else o
  let st := d.atomRefusal o'
  let priv := [viewP, viewM, viewU].any (fun v => (overlap o.addr (max o.len 1) v 0x1000000).2 != 0) ||
    (overlap o.addr (max o.len 1) statusWin 0x40000).2 != 0
  if priv then d.respond src now 0x06 ePriv tag []
  else if st ≠ sOk then d.respond src now 0x06 st tag []
  else
    let d := (d.meetAll o.addr o.len).1
    let r := if o.code = 0x11 then d.lrAt now who o.addr o.size
      else if o.code = 0x12 then d.scAt who o.addr o.size o.a else d.atomAt o none
    r.d.respond src now 0x06 sOk tag (atrBody r)

/-- One held request applied (R437). -/
def Dev.applyHeld (d : Dev) (now : Nat) : HeldAcc → Dev
  | .store a bs p by_ part force => d.store a bs p by_ part force
  | .rma a xs p part => (d.rmaAtom (rmaOf a xs p) part).d
  | .atom src tag body => d.serveAt now src tag body
  | .acm c off bs => d.poke (winAt c + off) bs

/-- A held request still waits. -/
def Dev.accWaits (d : Dev) : HeldAcc → Bool
  | .store a bs _ by_ part force => d.writeWait (part.getD d.maintPart) a bs.length by_ force != 0
  | .rma a xs _ part => d.writeWait part a (4 * xs.length) none true != 0
  | .atom src _ body => d.atWait src body != 0
  | .acm c off _ => d.winBusy c off

/-- Held writes and atomics that wait no more are applied, in order of arrival (R423, R426, R437, R476). -/
def Dev.releaseHeld (d : Dev) (now : Nat) : Dev :=
  d.held.foldl (fun d x => if d.accWaits x then { d with held := d.held ++ [x] } else d.applyHeld now x) { d with held := [] }

/-! ### The atomic registers (R438) -/

/-- The job of the thread running on a core. -/
def Dev.curJob (d : Dev) (c : Nat) : Option Nat := (d.core c).sq.cur.map fun h => (d.thr h).job

/-- A launched atomic of a code executes at its slice on this module (R431); it waits while its lines do (R426, R437, R476). One that
meets an error that marks ends its job with E_FAULT (R430, R454). The atomic of a job that is ending completes and its result is discarded
(R454). -/
def Dev.runAtom (d : Dev) (now c code : Nat) : Dev :=
  match (d.core c).sq.atom with
  | none => d
  | some o =>
    if o.code ≠ code || d.atomWait o.addr o.len (some c) != 0 then d
    else if d.heldRange o.addr o.len then d.holdRange o.addr o.len (2 ^ 43 + c)
    else
      let live := (d.job o.job).live && (d.job o.job).ending.isNone
      let st := d.atomRefusal o
      let d := d.modSq c fun s => { s with atom := none }
      if st ≠ sOk then (if live then d.refuseJob now o.job st else d)
      else
        let f := d.meetAll o.addr o.len
        let r := f.1.atomAt o (some c)
        let d :=
          if live then
            let d := if r.poison then r.d.poisonIn c o.job else r.d
            d.modSq c fun s => { s with atomRes := BitVec.ofNat 64 r.old }
          else r.d
        if f.2 && live then d.endMet now o.addr o.job else d

/-- A write of CORE_ATOM_CTL by the core's own sequencer: the merging buffer drains and the operation is launched, for a target
on another module as a message, under a code above the listed ones until it is answered; a refusal ends the job. While an atomic is in
progress the store that writes the register waits (DESIGN CHOICE, log 101). An error found as the CLM source is read ends the job (R440). -/
def Dev.launchAtom (d : Dev) (now c v : Nat) : Dev :=
  let d := d.drainMb now c
  let job := (d.curJob c).getD 0
  let ga := d.rd .CORE_ATOM_ADDR [c]
  let arg := d.rd .CORE_ATOM_ARG [c]
  let code := bitsOf v 0 8
  let n := bitsOf v 16 11
  let rma := code == 0x10
  let size := match bitsOf v 8 2 with | 0 => 2 | 1 => 4 | 2 => 8 | _ => 0
  let srcAt := clmAt c (arg % 2 ^ 22)
  let o : AtomOp := ⟨code, size, n, dlaOf ga, if rma then 0 else arg, d.rd .CORE_ATOM_ARG2 [c], [], false, job⟩
  let far := d.remoteOf ga
  let sized := if rma then size == 4 && 1 ≤ n && n ≤ 1024 else (atomSizes code).contains size && n == 0
  let st := refusal [
    (!sized, eArg), (rma && arg / 2 ^ 22 != 0, eArg), (rma && arg % 4 != 0, eAlign),
    (rma && clmSize < arg % 2 ^ 22 + 4 * n, eRange), (far.isNone && d.atomRefusal o != sOk, d.atomRefusal o),
    (o.addr % (if rma then 4 else max size 1) != 0, eAlign)]
  if (d.curJob c).isNone || (d.core c).sq.atom.isSome then d
  else if st ≠ sOk then d.refuseJob now job st
  else
    let f := if rma then d.meetAll srcAt (4 * n) else (d, false)
    let d := f.1
    let o := if rma then { o with src := d.bytes srcAt (4 * n), srcPoison := d.poisoned srcAt (4 * n) } else o
    let d := if o.srcPoison then d.poisonIn c job else d
    if f.2 then d.endMet now srcAt job
    else match far with
    | none => d.modSq c fun s => { s with atom := some o }
    | some k =>
      match d.routeCheck k with
      | .refuse e => d.refuseJob now job e
      | .lost => d.endJob now job .fault
      | .send =>
        (d.request k now 0x05 0 (laneOfDla o.addr) 0 (atBody o) (some job) (.atom c)).modSq c fun s =>
          { s with atom := some { o with code := 0x100 + code } }

end Sys2Proof.Machine
end

