-- ==== Sys2Proof/Machine/Gather.lean ====
section
/-! DEFINITION. The gather engine's commands and events (spec/04 R146 to R153) and the neighbour commands (spec/10). -/

namespace Sys2Proof.Machine

/-- The next place of the gather queue, when its descriptor has one of the OP codes, no command before it is still admitting,
and no drain holds a new gather of its table (R146, R564). -/
def Dev.geNext (d : Dev) (c : Nat) (ops : Nat → Bool) : Option QEnt :=
  match nextPlace (d.queue c .ge) with
  | some x => if d.geMayStart c && ops (recNum x.rcd 0 1) then some x else none
  | none => none

/-- The next place of the gather queue started, unless its table is held by a drain, which counts it once. -/
def Dev.geStart (d : Dev) (now c : Nat) (ops : Nat → Bool) (status : QEnt → Nat) (mk : QEnt → GCmd) : Dev :=
  match d.geNext c ops with
  | none => d
  | some x =>
    let t := recNum x.rcd 2 2 % 4096
    if x.bad = 0 && d.heldTable t then d.holdTable t (2 ^ 43 + c)
    else (d.startCmd now c x (status x) (mk x)).coreAfter now c

/-- The command of a gather descriptor, bound to what is in force (R125). -/
def Dev.mkGather (d : Dev) (x : QEnt) : GCmd :=
  let f := recNum x.rcd
  { op := f 0 1, table := f 2 2 % 4096, count := f 4 4, idxAddr := f 8 8, td := d.tdesc (f 2 2 % 4096), ent := x,
    gd := if 2 ≤ f 0 1 ∧ f 0 1 ≤ 5 then d.gdesc (f 36 1) else [],
    gen := if 2 ≤ f 0 1 ∧ f 0 1 ≤ 5 then gdGen (d.gdesc (f 36 1)) else 0 }

/-- GATHER: a gather descriptor starts (R148); a record that was not copied and a reserved OP are refused here. -/
def execGather (c : Nat) (s : State) : Out1 :=
  s.run fun m => { m with
    dev := m.dev.geStart m.und.now c (fun op => !(2 ≤ op && op ≤ 5))
      (fun x => if x.bad = 0 && recNum x.rcd 0 1 != 1 then eArg else m.dev.gatherStatus c x) m.dev.mkGather }

/-- NBR1 starts (R323). -/
def execNbr1 (c : Nat) (s : State) : Out1 :=
  s.run fun m => { m with dev := m.dev.geStart m.und.now c (· == 2) (m.dev.nbrStatus c) m.dev.mkGather }

/-- NBR2 starts (R328). -/
def execNbr2 (c : Nat) (s : State) : Out1 :=
  s.run fun m => { m with dev := m.dev.geStart m.und.now c (· == 3) (m.dev.nbrStatus c) m.dev.mkGather }

/-- NSEG starts (R331). -/
def execNseg (c : Nat) (s : State) : Out1 :=
  s.run fun m => { m with dev := m.dev.geStart m.und.now c (· == 4) (m.dev.nbrStatus c) m.dev.mkGather }

/-- NLIST starts (R330). -/
def execNlist (c : Nat) (s : State) : Out1 :=
  s.run fun m => { m with dev := m.dev.geStart m.und.now c (· == 5) (m.dev.nbrStatus c) m.dev.mkGather }

/-- One lookup admitted for the first command of a core's engine that has one (R152). -/
def execGatherAdmit (c : Nat) (s : State) : Out1 :=
  s.run fun m =>
    let d := m.dev
    match (d.core c).ge.cmds.find? fun g => !g.ent.dead && g.op != 0 &&
        (if g.isNbr then !g.want.isEmpty else decide (g.next < g.count)) with
    | some g => { m with dev := (d.admitOne m.und.now c g).coreAfter m.und.now c }
    | none => m

/-- The cores whose engines are looked at after a request of theirs has moved. -/
def Dev.geAfter (d : Dev) (now : Nat) (r : Reader) : Dev := r.cores.foldl (fun d c => d.coreAfter now c) d

/-- The first request of a bank group has waited 100 ns: the group is issued (R153). -/
def execGatherGroupHoldExpire (id : Nat) (s : State) : Out1 :=
  s.run fun m =>
    match m.dev.reader? id with
    | some r =>
      match r.st with
      | .wait since =>
        let m := m.atTime (since + 100 * nsT)
        { m with dev := m.dev.issueGroup m.und.now r }
      | _ => m
    | none => m

/-- A version word read of the k-th row of a request returns (R137). -/
def execVersionReadReturn (id k : Nat) (s : State) : Out1 :=
  s.run fun m =>
    match m.dev.reader? id with
    | some r => { m with dev := (m.dev.versionReturn m.und.now r k).geAfter m.und.now r }
    | none => m

/-- The data of a request returns, and its miss registers are free; not before its controllers have issued all of it, nor while the side
of its rows re-homes (R137, R426, R471). -/
def execRowReadReturn (id : Nat) (s : State) : Out1 :=
  s.run fun m =>
    match m.dev.reader? id with
    | some r =>
      if m.dev.notIssued (.row id) || m.dev.rowHeld r then m
      else { m with dev := ((m.dev.memDone (.row id)).dataReturn m.und.now r).geAfter m.und.now r }
    | none => m

/-- The next attempt of a row after its backoff, once it has an entry: the row is resolved again (R137, R152, R161); the shadow
attempt is made where the row was. -/
def Dev.nextAttempt (d : Dev) (now : Nat) (r : Reader) (q : RowRd) : Dev :=
  let td := d.readerTd r
  let n := entriesOf (d.readerLen r)
  let missing (d : Dev) : Dev := (d.dropReader r.id).missing now r q
  if r.weight = 0 && !d.entriesFree r.core n then d
  else
  let r := { r with weight := n }
  if !tdSharded td || q.sh then (if d.rowGone r q then missing d else d.setReader { r with st := .ver1 })
  else match d.resolve (now / usT) td r.table q.row with
    | .here loc _ =>
      if d.rowHole td loc then missing d
      else d.setReader { r with st := .ver1, rows := [{ q with loc := loc }], slab := loc.row / 256 }
    | .none _ => missing d
    | .away k x =>
      (d.setReader { r with st := .remote }).sendRow now k { by_ := q.lks.headD .moveIn, table := r.table, row := q.row } x.ent.seq
    | .fwd k _ =>
      ((d.setReader { r with st := .remote }).bump .TBL_MV_FWD).forward now k
        { by_ := q.lks.headD .moveIn, table := r.table, row := q.row }
    | .stale k x =>
      ((d.setReader { r with st := .remote }).bump .TBL_REDIR).sendRow now k
        { by_ := q.lks.headD .moveIn, table := r.table, row := q.row } x.ent.seq

/-- A backoff wait ends and the next attempt begins (R137). -/
def execLookupBackoffExpire (id : Nat) (s : State) : Out1 :=
  s.run fun m =>
    match m.dev.reader? id with
    | some r =>
      match r.st, r.rows.head? with
      | .backoff t, some q =>
        let m := m.atTime t
        { m with dev := m.dev.nextAttempt m.und.now r q }
      | _, _ => m
    | none => m

/-- The requests that an adjacency read has outstanding return: with the last of them, what it brings is expanded, chosen, walked
(R327). A read into a range that has become a hole, or that meets an error that marks, ends the job (R148, R430); one into a drained range
is held (R564), and so is one at its slice ports (R426, R476). -/
def execAdjacencyReadReturn (c id rd : Nat) (s : State) : Out1 :=
  s.run fun m =>
    let d := m.dev
    match d.cmd? c id with
    | none => m
    | some g =>
      match g.reads.find? fun r => r.id == rd with
      | none => m
      | some r =>
        let ps := g.adjCells r.via r.kind
        match ps.find? fun p => d.heldRange p.1 p.2 with
        | some p => { m with dev := d.holdRange p.1 p.2 (2 ^ 46 + c * 2 ^ 32 + id * 2 ^ 12 + rd) }
        | none =>
        if ps.any fun p => !d.rangeOk p.1 p.2 then { m with dev := (d.endJob m.und.now g.ent.job .fault).memDone (.adj c id rd) }
        else if d.notIssued (.adj c id rd) || ps.any fun p => d.portWait (d.jobPart g.ent.job) p.1 p.2 != 0 then m
        else
          let f := ps.foldl (fun (s : Dev × Option Nat) p => let x := s.1.meetAll p.1 p.2; (x.1, if x.2 then some p.1 else s.2))
            (d.memDone (.adj c id rd), none)
          match f.2 with
          | some a => { m with dev := f.1.endMet m.und.now a g.ent.job }
          | none =>
          let d := f.1
          let d := ((g.adjLines r.via r.kind).filter fun l => r.own.contains (l / 256)).foldl
            (fun d l => d.touchLine l 128 { part := d.jobPart g.ent.job, fetched := true }) d
          if !r.left.isEmpty then
            let back (y : AdjRd) : AdjRd := if y.id = rd then { y with own := [] } else y
            { m with dev := (d.modCmd c id fun g => { g with reads := g.reads.map back }).coreAfter m.und.now c }
          else
          let d := if ps.any fun p => d.poisoned p.1 p.2 then d.cmdMark c g else d
          let g := (d.cmd? c id).getD g
          let x := d.adjStep c { g with reads := g.reads.filter fun y => y.id != rd } r
          { m with dev := (x.1.modCmd c id fun _ => x.2).coreAfter m.und.now c }

/-- NX.ISSUE copies a record of `n` bytes of CLM into a queue: the place it takes, or the refusal it completes with (R379). -/
def Dev.copyRecord (d : Dev) (c n : Nat) (x : QEnt) : QEnt :=
  if x.off % 64 ≠ 0 then { x with bad := eAlign }
  else if clmSize < x.off + n then { x with bad := eRange }
  else { x with rcd := d.bytes (clmAt c x.off) n }

/-- What the reading of that record meets (R440). -/
def Dev.meetRecord (d : Dev) (c n : Nat) (x : QEnt) : Dev × Bool :=
  if n = 0 ∨ x.off % 64 ≠ 0 ∨ clmSize < x.off + n then (d, false) else d.meetAll (clmAt c x.off) n

end Sys2Proof.Machine
end

