-- ==== Sys2Proof/Machine/MoveOps.lean ====
section
/-! DEFINITION. Moves of rows and shards: hot-area space, the old home's and the new home's transitions, MIGRATE, the load
window and the migration policies (spec/05 R167 to R182). -/

namespace Sys2Proof.Machine

/-! ### Hot-area space (R173) -/

def Dev.hotBase (d : Dev) : Nat := d.cfgF .TBL_HOT [] 0 32 * 4096
def Dev.hotLen (d : Dev) : Nat := d.cfgF .TBL_HOT [] 32 10 * 2 ^ 20

/-- The lowest free place of `n` bytes in the hot area at a multiple of `al`. -/
def Dev.hotPlace (d : Dev) (n al : Nat) : Option Nat :=
  let used := d.tabs.hotUsed
  let starts := d.hotBase :: used.map fun p => roundUp (p.1 + p.2) al
  let fits := starts.filter fun a => a + n ≤ d.hotBase + d.hotLen && used.all fun p => (overlap a n p.1 p.2).2 == 0
  if fits.isEmpty then none else some (fits.foldl min (2 ^ 64))

def Dev.hotTake (d : Dev) (a n : Nat) : Dev := d.onTabs fun x => { x with hotUsed := x.hotUsed ++ [(a, n)] }
def Dev.hotFree (d : Dev) (a : Nat) : Dev := d.onTabs fun x => { x with hotUsed := x.hotUsed.filter fun p => p.1 != a }

/-- A row's place in the hot area taken (R173): slabs of the main copy, of the shadow, the version granule. -/
def Dev.hotRow (d : Dev) (td : List Byte) : Option (Dev × Loc) :=
  let n := ceilDiv (tdB td) 256 * 256
  match d.hotPlace n 256 with
  | none => none
  | some a =>
    let d := d.hotTake a n
    match (if tdShadow td then d.hotPlace n 256 else some 0) with
    | none => none
    | some b =>
      let d := if tdShadow td then d.hotTake b n else d
      match d.hotPlace 64 64 with
      | none => none
      | some g => some (d.hotTake g 64, ⟨a, g, b, if tdShadow td then g + 8 else 0⟩)

/-- The hot-area blocks of a place given back. -/
def Dev.hotDrop (d : Dev) (l : Loc) : Dev := ((d.hotFree l.row).hotFree l.ver).hotFree l.shd

/-- A place lies in the hot area. -/
def Dev.isHot (d : Dev) (l : Loc) : Bool := d.tabs.hotUsed.any fun p => p.1 == l.row

/-- Old hot-area storage whose time has come, freed once no read issued against it is left (R179). -/
def Dev.freeOld (d : Dev) (now : Nat) : Dev :=
  let ready (o : Nat × Nat × Nat × Nat) : Bool := o.2.2.1 ≤ now &&
    !(d.tabs.readers.any fun r => r.rows.any fun q =>
      (overlap o.1 o.2.1 q.loc.row 1).2 != 0 || (overlap o.1 o.2.1 q.loc.ver 1).2 != 0 || (overlap o.1 o.2.1 q.loc.shd 1).2 != 0)
  let go := d.tabs.old.filter ready
  go.foldl (fun d o => d.hotFree o.1) (d.onTabs fun x => { x with old := x.old.filter fun o => !ready o })

/-- A row's old hot-area storage kept until an instant and the end of its reads (R179). -/
def Dev.retire (d : Dev) (l : Loc) (at_ : Nat) : Dev :=
  let bs := d.tabs.hotUsed.filter fun p => p.1 == l.row || p.1 == l.ver || (l.shd != 0 && p.1 == l.shd)
  if d.isHot l then d.onTabs fun x => { x with old := x.old ++ bs.map fun p => (p.1, p.2, at_, 0) } else d

/-! ### What may move (R171, R175, R180, R181) -/

/-- The shard entry of a row. -/
def Dev.shardEnt (d : Dev) (td : List Byte) (t i : Nat) : Option Ent :=
  (d.shardIx t (i / 2 ^ tdShift td)).map fun ix => d.entAt (d.shardEntAt ix)

/-- Why a row is not moved: 0 it may, 1 no hot-area space, 2 no row entry, 3 anything else, 4 its home is not here. What the
destination module has room for, and the LAST_STEP of a shard whose home is another module, only that module knows: it answers busy
(R172, log 80). -/
def Dev.mayMove (d : Dev) (td : List Byte) (t i : Nat) (dst : Option Nat) (toHot : Bool) : Nat :=
  match d.lookupEnt td t i, d.shardEnt td t i with
  | some r, some s =>
    if r.ent.state = 0 ∨ r.ent.state = 3 ∨ !d.isOwn r.ent.module then 4
    else if r.ent.state ≠ 1 ∨ bitAt r.ent.flags 0 ∨ s.state = 2 ∨ (d.shardMove t (i / 2 ^ tdShift td)).isSome then 3
    else if d.tabs.moves.any (fun m => m.table == t && m.rows.contains i) then 3
    else if d.cfgF .TBL_MIG [] 8 7 ≤ d.tabs.moves.length then 3
    else if toHot then
      if dst = none ∧ r.isRow then 3
      else if dst = none ∧ (d.hotRow td).isNone then 1
      else if !r.isRow ∧ (d.freeRent t i).isNone then 2
      else 0
    else if !r.isRow then 3
    else if (match dst with | none => !d.isOwn s.module | some k => k != s.module || d.isOwn k) then 3
    else if dst = none ∧ r.ent.last ≠ s.last then 3
    else 0
  | _, _ => 3

/-- A move opened; it starts once R175 holds, and keeps the registers' values as it opens (R187). -/
def Dev.openMove (d : Dev) (t row : Nat) (rows : List Nat) (dst : Option Nat) (toHot shard : Bool) (handle : Option Nat)
    (image : List Byte) : Dev :=
  d.onTabs fun x => { x with
    nextId := x.nextId + 1
    moves := x.moves ++ [{ id := x.nextId, table := t, row := row, rows := rows, shard := shard, dst := dst, toHot := toHot,
                           handle := handle, image := image, tmo := d.cfgF .TBL_MIG [] 40 12, lease := d.cfgF .TBL_MIG [] 20 20,
                           share := d.cfgF .TBL_MIG [] 52 8, part := d.cfgF .TBL_MIG [] 4 4 }] }

/-- The next batch of a whole-shard move, or the same one again, under the values that the move started with (R181, R187). -/
def Dev.nextBatch (d : Dev) (m : Move) (row : Nat) (rows : List Nat) : Dev :=
  d.onTabs fun x => { x with
    nextId := x.nextId + 1
    moves := x.moves ++ [{ m with id := x.nextId, row := row, rows := rows, st := .wait, before := [], after := [], full := [], banks := [],
                                  seq := 0, marks := [] }] }

/-- A refusal counted as R171 has it for those of the policy; a row that MIGRATE leaves counts in the same way, beside NOT_MOVED (R165,
R171, R174; DESIGN CHOICE, log 104). -/
def Dev.countSkip (d : Dev) (why : Nat) : Dev :=
  if why = 1 then d.bump .TBL_HOT_FULL else if why = 2 then d.bump .TBL_RENT_FULL else d.bump .TBL_MV_SKIP

/-- A version word read where the table has them. -/
def Dev.evenVers (d : Dev) (td : List Byte) (l : Loc) : Bool :=
  !tdVersioned td || (d.num l.ver 8 % 2 == 0 && (!tdShadow td || d.num l.sver 8 % 2 == 0))

/-- Where a row of this module lies. -/
def Dev.rowLoc (d : Dev) (td : List Byte) (t i : Nat) : Option Rsl := d.lookupEnt td t i

/-- R175 holds for every row of a move: even version words, no writer of the row, no part at work on the shard, no drain. -/
def Dev.moveReady (d : Dev) (m : Move) : Bool :=
  let td := d.tdesc m.table
  !d.heldTable m.table &&
  !(d.tabs.parts.any fun p => !p.layer && p.target == m.table && p.shard == m.row / 2 ^ tdShift td && p.started) &&
  m.rows.all fun i =>
    !(d.tabs.writers.any fun w => w.table == m.table && w.row == i) &&
    match d.rowLoc td m.table i with
    | some r => d.evenVers td r.loc
    | none => false

/-! ### The old home -/

def Dev.dropMove (d : Dev) (id : Nat) : Dev := d.onTabs fun x => { x with moves := x.moves.filter fun m => m.id != id }
def Dev.move? (d : Dev) (id : Nat) : Option Move := d.tabs.moves.find? fun m => m.id == id

/-- Address and contents of the entry whose state a move changes: the row's, or the shard's. -/
def Dev.moveEnt (d : Dev) (m : Move) : Option (Nat × Ent) :=
  let td := d.tdesc m.table
  if m.shard then (d.shardIx m.table (m.row / 2 ^ tdShift td)).map fun ix => (d.shardEntAt ix, d.entAt (d.shardEntAt ix))
  else (d.rowEnt? m.table m.row).map fun a => (a, d.entAt a)

/-- A MIGRATE's row has moved or been left (R174). -/
def Dev.migCount (d : Dev) (h : Option Nat) (moved : Bool) : Dev :=
  match h with
  | some h => d.modOp h fun o => if moved then { o with done := o.done + 1 } else { o with aux := o.aux + 1 }
  | none => d

/-- The row enters MOVING: its entry is made where it has none, SEQ counts, its banks join the merge buffer (R175, R176). -/
def Dev.startMove (d : Dev) (m : Move) : Dev :=
  let td := d.tdesc m.table
  let made : Option Dev :=
    if m.shard then some d
    else match d.rowEnt? m.table m.row, d.lookupEnt td m.table m.row with
      | some _, _ => some d
      | none, some r =>
        d.newRent m.table m.row ⟨1, 1, r.ent.module, r.ent.slice, 0, 1, entKey m.table m.row, r.loc.row, r.loc.ver, r.loc.shd,
          r.loc.sver, r.ent.last, 0, 0⟩
      | none, none => none
  match made with
  | none => ((d.dropMove m.id).bump .TBL_RENT_FULL).migCount m.handle false
  | some d =>
    match d.moveEnt m with
    | none => d.dropMove m.id
    | some (a, e) =>
      let d := if e.state = 2 then d else d.putEnt a { e with state := 2, seq := (e.seq + 1) % 65536, cursor := 0 }
      let own := d.tabs.banks.filter fun b => b.table == m.table && m.rows.contains b.row
      let d := d.onTabs fun x => { x with banks := x.banks.filter fun b => !(b.table == m.table && m.rows.contains b.row) }
      (d.setMove { m with st := .moving, banks := own, seq := (e.seq + 1) % 65536 }).bump .TBL_MV_START

/-- A MOVE message (R521). -/
def moveBody (kind table nb bi row seq : Nat) (rest : List Byte) : List Byte :=
  leBytes 1 kind ++ leBytes 1 0 ++ leBytes 2 table ++ leBytes 1 nb ++ leBytes 1 bi ++ leBytes 2 0 ++ leBytes 8 row ++
  leBytes 2 seq ++ leBytes 14 0 ++ rest

def Dev.sendMove (d : Dev) (now k : Nat) (table row : Nat) (body : List Byte) : Dev :=
  match d.routeCheck k with
  | .send => d.post k now 0x19 (laneOfRow table row) body
  | _ => d

/-- A snapshot sent, its bytes charged to the fabric share (R172). -/
def Dev.sendSnap (d : Dev) (now k : Nat) (table row : Nat) (body : List Byte) : Dev :=
  (d.onTabs fun x => { x with fabTok := x.fabTok - ((16 + body.length : Nat) : Int) }).sendMove now k table row body

/-- The first row of a move's batch, which READY, COMMIT and DISCARD carry (R521). -/
def Move.first (m : Move) : Nat := m.rows.headD m.row

/-- A request's queued write as a snapshot carries it: FORCE, then the row (PRESUMED). -/
def snapWrite (r : RowReq) : List Byte :=
  match r.op with
  | .write bs _ f => leBytes 1 (if f then 1 else 0) ++ bs
  | _ => []

/-- The snapshot of one row of a move (R177, R340). -/
def Dev.snapOf (d : Dev) (m : Move) (i : Nat) (r : Rsl) : List Byte :=
  let td := d.tdesc m.table
  let banks := m.banks.filter fun b => b.row == i
  let bank (p : Nat) : List Byte := match banks.find? fun b => b.par == p with
    | some b => b.vals.flatMap (leBytes 4)
    | none => []
  let ws := (m.before.filter fun w => w.row == i).map snapWrite
  leBytes 8 (if tdVersioned td then d.num r.loc.ver 8 else 0) ++ leBytes 8 r.ent.last ++
  leBytes 1 (banks.foldl (fun v b => v ||| 2 ^ b.par) 0) ++ leBytes 1 ws.length ++
  d.bytes r.loc.row (tdB td) ++ (if tdShadow td then d.bytes r.loc.shd (tdB td) else []) ++ bank 0 ++ bank 1 ++ ws.flatten

/-- The granule marks that leave with the snapshot of a row, from bit 0 on: the row's, the shadow's, one for each bank, those of each
queued write (R185). R521 gives them no place in the message: they stand in the move, and the new home takes them as an operand of
MOVE_SNAP (DESIGN CHOICE, log 84). -/
def Dev.snapMarks (d : Dev) (m : Move) (i : Nat) (r : Rsl) : Nat :=
  let td := d.tdesc m.table
  let b := tdB td
  let g := (granules 0 b).length
  let bank (p : Nat) : Nat := if m.banks.any fun x => x.row == i && x.par == p && x.poison then 2 ^ (2 * g + p) else 0
  let ws := m.before.filter fun w => w.row == i
  let wpm (w : RowReq) : Nat := match w.op with | .write _ pm _ => pm % 2 ^ g | _ => 0
  pmMove r.loc.row 0 b (d.pmOf r.loc.row b) +
  (if tdShadow td then pmMove r.loc.shd 0 b (d.pmOf r.loc.shd b) * 2 ^ g else 0) + bank 0 + bank 1 +
  ((ws.zip (List.range ws.length)).map fun p => wpm p.1 * 2 ^ (2 * g + 2 + p.2 * g)).foldl (· + ·) 0

/-- What arrives with the marks, of one row: version word, LAST_STEP, row, shadow, banks, queued writes. -/
structure Snap where
  ver : Nat
  last : Nat
  row : List Byte
  shd : List Byte
  banks : List (Nat × List Nat)
  writes : List (Bool × List Byte)
  deriving DecidableEq, Repr, Inhabited

/-- The fields of a snapshot after its header (R521). -/
def Snap.parse (td : List Byte) (b : List Byte) : Snap :=
  let n := tdB td
  let f (o k : Nat) : List Byte := (b.drop o).take k
  let mask := leNat (f 16 1)
  let sh := if tdShadow td then n else 0
  let el := tdElts td
  let bank (o : Nat) : List Nat := (List.range el).map fun i => leNat (f (o + 4 * i) 4)
  let b0 := if bitAt mask 0 then 4 * el else 0
  let b1 := if bitAt mask 1 then 4 * el else 0
  let o := 18 + n + sh
  { ver := leNat (f 0 8), last := leNat (f 8 8), row := f 18 n, shd := f (18 + n) sh,
    banks := (if bitAt mask 0 then [(0, bank o)] else []) ++ (if bitAt mask 1 then [(1, bank (o + b0))] else []),
    writes := (List.range (leNat (f 17 1))).map fun i =>
      (bitAt (leNat (f (o + b0 + b1 + i * (n + 1)) 1)) 0, f (o + b0 + b1 + i * (n + 1) + 1) n) }

/-! ### The new home -/

/-- Whether an incoming batch holds a row. -/
def Incoming.has (i : Incoming) (t row : Nat) : Bool := i.table == t && i.rows.any fun x => x.1 == row

/-- An image that is a shard entry's, and one that is a row entry's (R158, R521): where a shard's rows arrive, and a row that goes to the
hot area. -/
def imgShard (img : List Byte) : List Byte := if (Ent.ofBytes img).kind = 1 then [] else img
def imgHot (img : List Byte) : Bool := !img.isEmpty && (Ent.ofBytes img).kind == 1

/-- The place of an arriving row: the storage of a shard's image, the hot area where the move is to it, else the storage of the shard
whose home this is (R173, R174, R180); none where it cannot be taken. -/
def Dev.arrivePlace (d : Dev) (td : List Byte) (t row last : Nat) (img : List Byte) : Option (Dev × Loc × Bool) :=
  let inShard (e : Ent) : Loc := locIn td e.rowB e.verB e.shdB e.sverB (row % 2 ^ tdShift td)
  let ok (l : Loc) : Bool := !d.rowHole td l && !d.shdHole td l
  if !(imgShard img).isEmpty then
    let l := inShard (Ent.ofBytes img)
    if ok l then some (d, l, false) else none
  else match d.shardEnt td t row with
    | none => none
    | some e =>
      if !imgHot img && e.state != 0 && d.isOwn e.module then
        let l := inShard e
        if ok l ∧ e.last = last then some (d, l, false) else none
      else match d.hotRow td with
        | some (d', l) => if (d.rowEnt? t row).isSome || (d.freeRent t row).isSome then some (d', l, true) else none
        | none => none

/-- A snapshot's queued writes started in their order, with their marks (R177). -/
def Dev.startQueued (d : Dev) (now t row : Nat) (l : Loc) (p : Snap) (pm : Nat) : Dev :=
  let g := (granules 0 (tdB (d.tdesc t))).length
  (p.writes.zip (List.range p.writes.length)).foldl (fun d w =>
    d.startWriter now { by_ := .moveIn, table := t, row := row, ord := true } l w.1.2 (pm / 2 ^ (2 * g + 2 + w.2 * g) % 2 ^ g) w.1.1) d

/-- A snapshot taken in, charged to the partition of the move (R172, R177): the destination allocated, row and shadow written with their
marks, the version words set to V, the banks added, the queued writes started in their order; none where this module answers busy (R172).
Marks as `snapMarks` gives them. -/
def Dev.takeSnap (d : Dev) (now src t nb bi row : Nat) (b : List Byte) (pm : Nat) (img : List Byte) (part : Nat) : Option Dev :=
  let td := d.tdesc t
  let p := Snap.parse td b
  let have? := d.tabs.incoming.find? fun i => i.src == src && i.table == t && !i.ready && i.nbatch == nb && 1 < nb &&
    i.row / 2 ^ tdShift td == row / 2 ^ tdShift td
  let part := (have?.map (·.part)).getD part
  let need := p.banks.filter fun x => !(d.tabs.banks.any fun y => y.is t row x.1)
  if !tdValid td || !tdSharded td || (have?.isNone && 64 ≤ d.tabs.incoming.length) ||
     (d.cfgF .UPD_GAREA [] 32 10 * 2 ^ 20 < d.gradUsed + need.length * bankLen (tdElts td) && src != 0xFFF) then none
  else match d.arrivePlace td t row p.last img with
    | none => none
    | some (d, l, hot) =>
      let g := (granules 0 (tdB td)).length
      let d := d.storePm l.row p.row (pmMove 0 l.row p.row.length (pm % 2 ^ g)) (some part)
      let d := if tdShadow td then d.storePm l.shd p.shd (pmMove 0 l.shd p.shd.length (pm / 2 ^ g % 2 ^ g)) (some part) else d
      let d := if tdVersioned td then d.putVer l.ver p.ver (some part) else d
      let d := if tdShadow td then d.putVer l.sver p.ver (some part) else d
      let d := d.onTabs fun x => { x with
        banks := p.banks.foldl (fun bs y => mergeIn bs t row y.1 (tdElts td) 0 y.2 (bitAt pm (2 * g + y.1))) x.banks }
      let it : Incoming := have?.getD { src := src, table := t, row := row, nbatch := nb, rows := [], hot := hot, part := part }
      let it' := { it with rows := it.rows ++ [(row, l, p.last)], writes := it.writes + p.writes.length,
                           row := if bi = 0 then row else it.row, hot := it.hot || hot
                           image := if it.image.isEmpty then imgShard img else it.image }
      let d := match have? with
        | some i => d.onTabs fun x => { x with incoming := x.incoming.map fun y => if y = i then it' else y }
        | none => d.onTabs fun x => { x with incoming := x.incoming ++ [it'] }
      let d := d.loadBytes td t row (p.row.length + p.shd.length)
      some (d.startQueued now t row l p pm)

/-- READY is sent for each batch that has arrived whole with its queued writes applied (R177); a move within the module
waits for it in the same way. -/
def Dev.sendReady (d : Dev) (now : Nat) : Dev :=
  d.tabs.incoming.foldl (fun d i =>
    if !i.ready && i.rows.length == i.nbatch && i.writes == 0 then
      let d := d.onTabs fun x => { x with incoming := x.incoming.map fun y => if y = i then { y with ready := true } else y }
      if i.src = 0xFFF then d else d.sendMove now i.src i.table i.row (moveBody 1 i.table i.nbatch 0 i.row 0 [])
    else d) d

/-- What a DISCARD or the loss of the old home leaves: destinations freed, the banks that came removed, held requests
answered E_STATE with the old home's entry, on which this module's own are made again (R177, R178, R534). -/
def Dev.discard (d : Dev) (now : Nat) (i : Incoming) : Dev :=
  let d := d.onTabs fun x => { x with
    incoming := x.incoming.filter fun y => y != i
    banks := if i.src = 0xFFF then x.banks else x.banks.filter fun b => !(b.table == i.table && i.rows.any fun r => r.1 == b.row)
    writers := x.writers.filter fun w => !(w.by_ == .moveIn && w.table == i.table && i.rows.any fun r => r.1 == w.row) }
  let d := i.rows.foldl (fun d r => if d.isHot r.2.1 then d.hotDrop r.2.1 else d) d
  i.held.foldl (fun d r =>
    let e := d.lookupEnt (d.tdesc r.table) r.table r.row
    match r.by_ with
    | .msg _ _ => d.redirect now r e
    | _ => d.followTo now r ((e.map (·.ent)).getD { state := 1, module := i.src })) d

/-- The slice a place in Clearings lies in. -/
def sliceOfAddr (a : Nat) : Nat := if clearBase ≤ a ∧ a < clearBase + 64 * sliceSize then (a - clearBase) / sliceSize else 0

/-- A row entry of this module as home (R173, R177). -/
def Dev.homeEnt (d : Dev) (t row seq last : Nat) (l : Loc) : Ent :=
  { state := 1, kind := 1, module := d.ownId, slice := sliceOfAddr l.row, flags := if d.isHot l then 2 else 0, seq := seq,
    key := entKey t row, rowB := l.row, verB := l.ver, shdB := l.shd, sverB := l.sver, last := last }

/-- A row entry written: over the one there is, or a new one. -/
def Dev.setRent (d : Dev) (t row : Nat) (e : Ent) : Dev :=
  match d.rowEnt? t row with
  | some a => d.putEnt a e
  | none => match d.newRent t row e with | some d => d | none => d.bump .TBL_RENT_FULL

/-- Rows of a shard. -/
def shardRows (td : List Byte) (s : Nat) : Nat := min (2 ^ tdShift td) (tdRows td - s * 2 ^ tdShift td)

/-- The row entry of a row that has come to this module's hot area, sent to the domain: its SEQ is newer than that of the copy here, too,
where a whole-shard move brings the row with the shard's SEQ (R163, R177, R181; DESIGN CHOICE, log 81). -/
def Dev.hotCommit (d : Dev) (now t seq : Nat) (r : Nat × Loc × Nat) : Dev :=
  let old := (d.rowEnt? t r.1).map fun a => (d.entAt a).seq
  let seq := match old with | some q => if seqNewer seq q then seq else (q + 1) % 65536 | none => seq
  let e := d.homeEnt t r.1 seq r.2.2 r.2.1
  (d.setRent t r.1 e).propagate now e

/-- COMMIT takes effect at the new home (R177, R180, R181). -/
def Dev.commitIn (d : Dev) (now : Nat) (i : Incoming) (seq : Nat) : Dev :=
  let td := d.tdesc i.table
  let s := i.row / 2 ^ tdShift td
  let d := d.onTabs fun x => { x with incoming := x.incoming.filter fun y => y != i }
  let d :=
    if !i.image.isEmpty then
      match d.shardIx i.table s with
      | none => d
      | some ix =>
        let cur := i.row % 2 ^ tdShift td / 64 * 64 + 64
        let last := ((i.rows.find? fun r => !d.isHot r.2.1).getD (0, {}, 0)).2.2
        let d := i.rows.foldl (fun d r => if d.isHot r.2.1 then d.hotCommit now i.table seq r else d.delRent i.table r.1) d
        if shardRows td s ≤ cur then
          let e := Ent.ofBytes i.image
          let e := { e with state := 1, module := d.ownId, seq := seq, last := last, cursor := 0, lease := 0 }
          let d := d.onTabs fun x => { x with arriving := x.arriving.put ([], 0) ix ([], 0) }
          (d.putEnt (d.shardEntAt ix) e).propagate now e
        else d.onTabs fun x => { x with arriving := x.arriving.put ([], 0) ix ({ Ent.ofBytes i.image with last := last }.bytes, cur) }
    else
      i.rows.foldl (fun d r =>
        if d.isHot r.2.1 then d.hotCommit now i.table seq r
        else
          (d.delRent i.table r.1).propagate now { kind := 1, seq := seq, key := entKey i.table r.1 }) d
  i.held.foldl (fun d r => d.rowReq now r) d

/-! ### The end of a move at the old home -/

/-- The rows of the next batch of a shard move, from a cursor: those stored on this module. Rows held by row entries here go with them to
another module, and stay in the hot area where the shard moves within this one (R181; DEDUCED, log 81). -/
def Dev.batchRows (d : Dev) (td : List Byte) (t s cur : Nat) (away : Bool) : List Nat :=
  ((List.range (min 64 (shardRows td s - cur))).map fun k => s * 2 ^ tdShift td + cur + k).filter fun i =>
    match d.lookupEnt td t i with
    | some r => d.isOwn r.ent.module && (if r.isRow then away && r.ent.state == 1 else r.ent.state != 3)
    | none => false

/-- The rows of a shard that this module's row entries hold. -/
def Dev.entRows (d : Dev) (t shard : Nat) : List Nat :=
  let td := d.tdesc t
  (d.tabs.rent.filterMap fun q =>
    let i := q.1 % 2 ^ 40
    match d.rowEnt? t i with
    | some a =>
      if q.1 / 2 ^ 40 = t ∧ shardOf td i = shard ∧ d.isOwn (d.entAt a).module ∧ (d.entAt a).state ≠ 3 ∧ (d.entAt a).state ≠ 0 then some i
      else none
    | none => none)

/-- What a move queued leaves the home: the wait of each request ends (R167). -/
def Dev.queueWaits (d : Dev) (now : Nat) (rs : List RowReq) : Dev :=
  rs.foldl (fun d r => d.loadWait (d.tdesc r.table) r.table r.row now (r.since.getD now)) d

/-- A move within this module commits: the row's entry becomes HOME at the new storage, or a shard's cursor goes on, and with the last batch
the shard's entry does (R174, R179 to R181). -/
def Dev.commitHere (d : Dev) (now : Nat) (m : Move) (a : Nat) (e : Ent) (seq : Nat) (oldLocs : List Loc) : Dev :=
  let td := d.tdesc m.table
  let i? := d.tabs.incoming.find? fun i => i.src == 0xFFF && i.has m.table m.first
  let l := ((i?.bind fun i => i.rows.head?).getD (0, {}, 0)).2.1
  let d := d.onTabs fun x => { x with
    incoming := x.incoming.filter fun y => some y != i?
    banks := m.banks.foldl (fun bs b => mergeIn bs b.table b.row b.par b.vals.length 0 b.vals b.poison) x.banks }
  let d := oldLocs.foldl (fun d o => d.retire o now) d
  let later (d : Dev) : Dev :=
    (m.after ++ m.full).foldl (fun d r => d.rowReq now r) (m.before.foldl (fun d r => d.rowAnswer now r sOk) (d.queueWaits now m.before))
  if m.shard then
    let s := m.row / 2 ^ tdShift td
    if shardRows td s ≤ e.cursor + 64 then
      let n := { Ent.ofBytes m.image with state := 1, module := d.ownId, seq := seq, last := e.last, lease := 0, cursor := 0 }
      (later ((d.putEnt a n).propagate now n)).migCount m.handle true
    else
      let d := d.putEnt a { e with seq := seq, cursor := e.cursor + 64 }
      later (d.nextBatch m (s * 2 ^ tdShift td + e.cursor + 64) (d.batchRows td m.table s (e.cursor + 64) false))
  else
    let d := if m.toHot then d.putEnt a { d.homeEnt m.table m.row seq e.last l with slice := e.slice } else d.delRent m.table m.row
    ((later d).migCount m.handle true).freeOld now

/-- The move commits (R177, R179 to R181). Requests that the move queued and those that meet a shard's rows behind its cursor are counted as
forwarded within a lease, though none runs yet (R188; DESIGN CHOICE, log 105). -/
def Dev.commitMove (d : Dev) (now : Nat) (m : Move) : Dev :=
  let td := d.tdesc m.table
  let tick := now / usT
  match d.moveEnt m with
  | none => d.dropMove m.id
  | some (a, e) =>
    let seq := (e.seq + 1) % 65536
    let oldLocs := m.rows.filterMap fun i => (d.lookupEnt td m.table i).map (·.loc)
    let d := (d.dropMove m.id).bump .TBL_MV_DONE
    match m.dst with
    | none => d.commitHere now m a e seq oldLocs
    | some k =>
      let d := m.before.foldl (fun d r => d.rowAnswer now r sOk) (d.queueWaits now m.before)
      let later := m.after ++ m.full
      let fwd (d : Dev) : Dev := later.foldl (fun d r => (d.bump .TBL_MV_FWD).forward now k r) (d.queueWaits now later)
      let lease := (tick + m.lease) % 2 ^ 32
      let commit (d : Dev) : Dev := d.sendMove now k m.table m.row (moveBody 2 m.table m.rows.length 0 m.first seq [])
      if m.shard then
        let s := m.row / 2 ^ tdShift td
        let d := commit d
        let d := oldLocs.foldl (fun d o => d.retire o (now + m.lease * usT)) d
        let d := m.rows.foldl (fun d i => d.delRent m.table i) d
        if shardRows td s ≤ e.cursor + 64 then
          let d := d.putEnt a { e with state := 3, module := k, seq := seq, lease := lease, cursor := 0 }
          let img := Ent.ofBytes m.image
          let d := d.propagate now { img with state := 1, module := k, seq := seq, last := e.last, lease := 0, cursor := 0 }
          fwd (d.migCount m.handle true)
        else
          let d := d.putEnt a { e with seq := seq, cursor := e.cursor + 64 }
          (fwd d).nextBatch m (s * 2 ^ tdShift td + e.cursor + 64) (d.batchRows td m.table s (e.cursor + 64) true)
      else
        let d := d.putEnt a { e with state := 3, module := k, seq := seq, lease := lease }
        let d := oldLocs.foldl (fun d o => d.retire o (now + m.lease * usT)) d
        let d := commit d
        let d := fwd (d.migCount m.handle true)
        if m.toHot then d.propagate now { e with state := 1, module := k, seq := seq, flags := 2, lease := 0 } else d

/-- The move is aborted (R177): what was queued is applied here in order, the merge buffer joins the row's banks. A batch of
a shard tries again (DESIGN CHOICE). -/
def Dev.abortMove (d : Dev) (now : Nat) (m : Move) : Dev :=
  let td := d.tdesc m.table
  let d := match m.dst with
    | some k => d.sendMove now k m.table m.row (moveBody 3 m.table m.rows.length 0 m.first m.seq [])
    | none => d
  let d := match m.dst, d.tabs.incoming.find? fun i => i.src == 0xFFF && i.has m.table m.first with
    | none, some i => d.discard now i
    | _, _ => d
  let d := (d.dropMove m.id).bump .TBL_MV_ABORT
  let d := d.onTabs fun x => { x with
    banks := m.banks.foldl (fun bs b => mergeIn bs b.table b.row b.par b.vals.length 0 b.vals b.poison) x.banks }
  let d := match d.moveEnt m with
    | none => d
    | some (a, e) =>
      if m.shard then (if e.cursor = 0 then d.putEnt a { e with state := 1, seq := (e.seq + 1) % 65536 } else d)
      else
        let back := match d.shardEnt td m.table m.row with
          | some s => d.isOwn s.module && !d.isHot ⟨e.rowB, e.verB, e.shdB, e.sverB⟩
          | none => false
        if back then d.delRent m.table m.row else d.putEnt a { e with state := 1, seq := (e.seq + 1) % 65536 }
  let d := (m.before ++ m.after ++ m.full).foldl (fun d r => d.rowReq now r) d
  if m.shard && (match d.moveEnt m with | some (_, e) => e.cursor != 0 | none => false) then
    d.nextBatch m m.row m.rows
  else d.migCount m.handle false

/-- The areas of a shard beside its rows that a batch takes with it (R356): the auxiliary state of its 64 local indices and their freeze
bits, as offset from ROW_BASE and length. -/
def Dev.auxAreas (d : Dev) (t l : Nat) : List (Nat × Nat) :=
  let td := d.tdesc t
  let b := SMap.get [] d.conf.tab.bind t
  let h := recNum (SMap.get [] d.conf.tab.upr (recNum b 1 1)) 0 8
  let n := if recNum b 1 1 = 0 then 0 else roundUp (bitsOf h 6 3 * tdElts td * if bitAt h 9 then 2 else 4) 64
  if !bitAt (recNum b 0 1) 0 then []
  else (if n = 0 then [] else [(recNum b 8 8 + l * n, 64 * n)]) ++
    if bitAt (recNum b 0 1) 1 then [(recNum b 16 8 + l / 8, 8)] else []

/-- A batch's auxiliary state and freeze bits written at the new home, at the same offsets from its ROW_BASE, with their marks, in WR
messages of at most 256 bytes charged to the fabric share (R172, R356, R521). -/
def Dev.sendAux (d : Dev) (now k : Nat) (m : Move) : Dev :=
  let td := d.tdesc m.table
  match d.shardEnt td m.table m.row with
  | none => d
  | some e =>
    let src := e.rowB
    let dst := (Ent.ofBytes m.image).rowB
    (d.auxAreas m.table (m.row % 2 ^ tdShift td)).foldl (fun d x =>
      (List.range (ceilDiv x.2 256)).foldl (fun d i =>
        let o := x.1 + i * 256
        let n := min 256 (x.2 - i * 256)
        if d.routeCheck k = .send then
          let b := leBytes 8 (dst + o) ++ leBytes 4 n ++ leBytes 4 0 ++ leBytes 8 (pmMove (src + o) (dst + o) n (d.pmOf (src + o) n)) ++
            d.bytes (src + o) n
          ((d.touch (src + o) n { part := m.part }).onTabs fun t => { t with fabTok := t.fabTok - ((16 + b.length : Nat) : Int) }).request k now
            0x03 0 (laneOfDla (dst + o)) 0 b none
            (.moveWr m.id)
        else d) d) d

/-- A batch's auxiliary state and freeze bits copied to the new storage of a shard that moves within this module (R181, R356). -/
def Dev.copyAux (d : Dev) (m : Move) : Dev :=
  match d.shardEnt (d.tdesc m.table) m.table m.row with
  | none => d
  | some e =>
    let dst := (Ent.ofBytes m.image).rowB
    (d.auxAreas m.table (m.row % 2 ^ tdShift (d.tdesc m.table))).foldl (fun d x =>
      let a := e.rowB + x.1
      (d.touch a x.2 { part := m.part }).storePm (dst + x.1) (d.bytes a x.2) (pmMove a (dst + x.1) x.2 (d.pmOf a x.2)) (some m.part)) d

/-- What the copy of a row reads on this module: the row, its shadow, its version words. -/
def copySpans (td : List Byte) (l : Loc) : List (Nat × Nat) :=
  [(l.row, tdB td)] ++ (if tdShadow td then [(l.shd, tdB td)] else []) ++ (if tdVersioned td then [(l.ver, 8)] else [])

/-- The copy's reads charged to the move's partition, and to the load of the rows' shard (R167, R172). -/
def Dev.copyReads (d : Dev) (m : Move) (rs : List (Nat × Rsl)) : Dev :=
  let td := d.tdesc m.table
  rs.foldl (fun d x => ((copySpans td x.2.loc).foldl (fun d s => d.touch s.1 s.2 { part := m.part }) d).loadBytes td m.table x.1
    (tdB td * if tdShadow td then 2 else 1)) d

/-- The rows of a move's batch, with what they resolve to. -/
def Dev.batchOf (d : Dev) (m : Move) : List (Nat × Rsl) :=
  m.rows.filterMap fun i => (d.lookupEnt (d.tdesc m.table) m.table i).map fun r => (i, r)

/-- What the copy of a move reads waits at its slice ports or controllers (R426, R476). -/
def Dev.copyWaits (d : Dev) (m : Move) : Bool :=
  (d.batchOf m).any fun x => (copySpans (d.tdesc m.table) x.2.loc).any fun s => d.readWait m.part s.1 s.2 != 0

/-- A row of this module copied to its hot area: none where it has no space. -/
def Dev.copyHot (d : Dev) (now : Nat) (m : Move) (i : Nat) (body : List Byte) (pm : Nat) : Option Dev :=
  let td := d.tdesc m.table
  let g := (granules 0 (tdB td)).length
  (d.hotRow td).map fun (d1, l) =>
    let p := Snap.parse td body
    let d1 := d1.storePm l.row p.row (pmMove 0 l.row p.row.length (pm % 2 ^ g)) (some m.part)
    let d1 := if tdShadow td then d1.storePm l.shd p.shd (pmMove 0 l.shd p.shd.length (pm / 2 ^ g % 2 ^ g)) (some m.part) else d1
    let d1 := if tdVersioned td then d1.putVer l.ver p.ver (some m.part) else d1
    let d1 := if tdShadow td then d1.putVer l.sver p.ver (some m.part) else d1
    let it : Incoming := { src := 0xFFF, table := m.table, row := i, nbatch := 1, rows := [(i, l, p.last)], hot := true,
                           writes := p.writes.length, part := m.part }
    let d1 := (d1.onTabs fun x => { x with incoming := x.incoming ++ [it] }).loadBytes td m.table i (p.row.length + p.shd.length)
    (d1.startQueued now m.table i l p pm).sendReady now

/-- The copy of a move within this module: a row to the hot area, rows to their shard's storage or to the new one of a whole shard; it
aborts where a row finds no place (R173, R174, R177, R181). -/
def Dev.copyHere (d : Dev) (now : Nat) (m : Move) (rs : List (Nat × Rsl)) : Dev :=
  let td := d.tdesc m.table
  let own : Move := { m with banks := [] }
  let img (i : Nat) : List Byte := if m.shard then m.image else match d.shardIx m.table (i / 2 ^ tdShift td) with
    | some ix => d.bytes (d.shardEntAt ix) 64
    | none => []
  if m.toHot then
    match rs with
    | (i, r) :: _ => match d.copyHot now m i (d.snapOf own i r) (d.snapMarks own i r) with
      | some d => d
      | none => (d.bump .TBL_HOT_FULL).abortMove now m
    | [] => d.dropMove m.id
  else
    let d0 := if m.shard then d.copyAux m else d
    let r := (rs.zip (List.range rs.length)).foldl (fun (o : Option Dev) x => o.bind fun d =>
      d.takeSnap now 0xFFF m.table rs.length x.2 x.1.1 (d.snapOf own x.1.1 x.1.2) (d.snapMarks own x.1.1 x.1.2) (img x.1.1) m.part) (some d0)
    match r with
    | some d => d.sendReady now
    | none => d.abortMove now m

/-- The start of a move's copy (R177): snapshots are sent, or written to the new storage of a move within the module. An
uncorrected fault of the copy aborts the move. -/
def Dev.copyMove (d : Dev) (now : Nat) (m : Move) (fault : Bool) : Dev :=
  if fault then d.abortMove now m
  else
    let m' := { m with st := .snapped now }
    let rs := d.batchOf m
    let d := (d.setMove m').copyReads m rs
    if rs.isEmpty && !m.shard then d.dropMove m.id
    else match m.dst with
    | some k =>
      let d := if m.shard then d.sendAux now k m else d
      if rs.isEmpty then d.commitMove now m'
      else
        let d := d.setMove { m' with marks := rs.map fun x => (x.1, d.snapMarks m x.1 x.2) }
        ((rs.zip (List.range rs.length)).foldl (fun d (x : (Nat × Rsl) × Nat) =>
          d.sendSnap now k m.table x.1.1
            (moveBody 0 m.table rs.length x.2 x.1.1 m.seq (d.snapOf m x.1.1 x.1.2))) d)
    | none => if rs.isEmpty then (d.copyAux m).commitMove now m' else d.copyHere now m' rs

/-! ### MIGRATE (R174) -/

/-- The next row of a MIGRATE moved, or left where it is; the command ends after the last, or stops (R174). -/
def Dev.migOne (d : Dev) (now h : Nat) : Dev :=
  match d.handleOp h with
  | none => d
  | some o =>
    let r := SMap.get {} d.tabs.repls h
    let t := o.f 32 2 % 4096
    let td := d.tdesc t
    let dst := if d.isOwn (o.f 40 2 % 4096) then none else some (o.f 40 2 % 4096)
    let ix := r.idx.getD []
    if o.opc ≠ 0x0123 ∨ o.st = .suspended ∨ o.st = .queued ∨ (d.tabs.moves.any fun m => m.handle == some h) then d
    else if o.stopping && r.next < ix.length then d.stopOp now o
    else if ix.length ≤ r.next then
      let d := d.opDone now h sOk
      let d := match o.st with | .suspending b => d.finishReq b eState | _ => d
      let d := match o.cancelBy with | some b => d.finishReq b eState | none => d
      d.onTabs fun x => { x with repls := x.repls.del h }
    else
      let i := ix.getD r.next 0
      let d := d.modRepl h fun x => { x with next := x.next + 1 }
      if o.f 34 1 = 1 then
        match d.shardIx t i with
        | none => d.migCount (some h) false
        | some k =>
          let e := d.entAt (d.shardEntAt k)
          let rows := d.batchRows td t i 0 dst.isSome
          if e.state = 1 ∧ d.isOwn e.module ∧ !bitAt e.flags 0 ∧ d.tabs.moves.length < d.cfgF .TBL_MIG [] 8 7 ∧
             !(d.tabs.moves.any fun m => m.table == t && m.row / 2 ^ tdShift td == i) then
            d.openMove t (i * 2 ^ tdShift td) rows dst false true (some h) (d.bytes (o.f 56 8) 64)
          else (d.bump .TBL_MV_SKIP).migCount (some h) false
      else
        let toHot := bitAt (o.f 35 1) 0
        let why := d.mayMove td t i dst toHot
        if why = 0 then d.openMove t i [i] dst toHot false (some h) []
        else (d.countSkip why).migCount (some h) false

def Dev.migPump (d : Dev) (now h : Nat) : Nat → Dev
  | 0 => d
  | n + 1 => (d.migOne now h).migPump now h n

/-- Every MIGRATE in progress goes on. -/
def Dev.migAll (d : Dev) (now : Nat) : Dev :=
  d.tabs.repls.foldl (fun d p => d.migPump now p.1 (1 + (p.2.idx.getD []).length - p.2.next)) d

/-! ### Load windows and policies (R167 to R172) -/

/-- The 32-byte load record of a shard written as its window closes (R167), as an entry is (log 113). -/
def Dev.loadRecord (d : Dev) (ix : Nat) (l : Load) (hotRows win : Nat) : Dev :=
  d.storeNow (d.loadAt ix)
    (leBytes 4 l.lkp ++ leBytes 4 l.upd ++ leBytes 4 (l.bytes / 1024) ++ leBytes 2 (min 0xFFFF (l.tail / (100 * nsT))) ++
     leBytes 2 hotRows ++ leBytes 4 win ++ leBytes 12 0)

/-- The peers of R170. -/
def Dev.loadPeers (d : Dev) : List Nat :=
  ((List.range 16).map fun n => d.cfg .TBL_PEER [n]).filterMap fun v => if bitAt v 12 then some (v % 4096) else none

/-- The tables whose descriptor is VALID and SHARDED, and the shards of each that this module is home of. -/
def Dev.ownShards (d : Dev) : List (Nat × Nat × Nat) :=
  d.conf.tab.tbl.flatMap fun p =>
    if tdValid p.2 && tdSharded p.2 then
      (List.range (d.cfgF .TBL_SHB [p.1] 20 17)).filterMap fun s =>
        match d.shardIx p.1 s with
        | some ix => if d.isOwn (d.entAt (d.shardEntAt ix)).module && (d.entAt (d.shardEntAt ix)).state != 0 then some (p.1, s, ix) else none
        | none => none
    else []

/-- The lookups of a table that a peer reported last. -/
def Dev.peerLookups (d : Dev) (k t : Nat) : Nat :=
  (((SMap.get [] d.tabs.peerTot k).find? fun p => p.1 == t).map (·.2)).getD 0

/-- Where a hot row goes under the policy (R169): none for the hot area of this module. A peer that has reported nothing counts as 0
lookups of the table, and of equally loaded peers the one of the lowest TBL_PEER_n is taken (DESIGN CHOICE: R169 says neither, log 83). -/
def Dev.policyDst (d : Dev) (t : Nat) : Option Nat :=
  if d.cfgF .TBL_MIG [] 0 2 ≠ 2 then none
  else
    let ps := d.loadPeers
    let low := (ps.map fun k => d.peerLookups k t).foldl min (2 ^ 64)
    match ps.find? fun k => d.peerLookups k t == low with
    | some k => if d.cfgF .TBL_MIGS [] 0 8 * low < 16 * SMap.get 0 d.tabs.lkTot t then some k else none
    | none => none

/-- A policy move of one row, or its refusal counted (R171). -/
def Dev.policyMove (d : Dev) (t i : Nat) (toHot : Bool) : Dev :=
  let td := d.tdesc t
  let dst := if toHot then d.policyDst t else match d.shardEnt td t i with
    | some e => if d.isOwn e.module then none else some e.module
    | none => none
  let hotHere := match d.lookupEnt td t i with | some r => r.isRow && d.isHot r.loc && d.isOwn r.ent.module | none => false
  if toHot && hotHere && dst.isNone then d
  else
    let why := d.mayMove td t i dst toHot
    if why = 0 then d.openMove t i [i] dst toHot false none [] else if why = 4 then d else d.countSkip why

/-- A load window closes (R167 to R171). -/
def Dev.closeWindow (d : Dev) (now : Nat) : Dev :=
  let rows := d.tabs.hot.flatMap (·.2)
  let win := d.tabs.window
  let hotRows (ix : Nat) : Nat := (rows.filter fun h => d.shardIx h.table (h.row / 2 ^ tdShift (d.tdesc h.table)) == some ix).length
  let ixs := (d.ownShards.map (·.2.2) ++ d.tabs.loads.map (·.1)).eraseDups
  let d := ixs.foldl (fun d' ix => d'.loadRecord ix (SMap.get {} d.tabs.loads ix) (hotRows ix) win) d
  let tot := d.tabs.lkTot
  let rep := leBytes 4 win ++ leBytes 2 tot.length ++ leBytes 2 0 ++ tot.flatMap fun p => leBytes 2 p.1 ++ leBytes 2 0 ++ leBytes 4 p.2
  let d := d.loadPeers.foldl (fun d k => match d.routeCheck k with | .send => d.post k now 0x1A 0 rep | _ => d) d
  let thr := d.cfgF .TBL_MIGT [] 20 32
  let hold : Nat := d.cfgF .TBL_MIGT [] 52 4
  let cdiv := d.cfgF .TBL_MIGT [] 56 8
  let cnt (t i : Nat) : Nat := ((rows.find? fun h => h.table == t && h.row == i).map (·.count)).getD 0
  let isHotRow (h : Hot) : Bool := thr ≤ h.count
  let held := (d.tabs.rent.filterMap fun p =>
    match d.rowEnt? (p.1 / 2 ^ 40) (p.1 % 2 ^ 40) with
    | some a =>
      let e := d.entAt a
      if e.state = 1 && d.isOwn e.module && bitAt e.flags 1 then some (p.1 / 2 ^ 40, p.1 % 2 ^ 40) else none
    | none => none)
  let old (t i : Nat) : Streak := (d.tabs.streaks.find? fun s => s.table == t && s.row == i).getD ⟨t, i, 0, 0⟩
  let keys := ((rows.filter isHotRow).map fun h => (h.table, h.row)) ++
    held.filter fun p => !(rows.any fun h => isHotRow h && h.table == p.1 && h.row == p.2)
  let next : List Streak := keys.map fun (p : Nat × Nat) =>
    let s := old p.1 p.2
    { s with hot := if thr ≤ cnt p.1 p.2 then s.hot + 1 else 0
             cold := if held.contains p && cnt p.1 p.2 * cdiv < thr then s.cold + 1 else 0 }
  let d := d.onTabs fun x => { x with streaks := next, loads := [], hot := [], window := (win + 1) % 2 ^ 32, winStart := now }
  let pol : Nat := d.cfgF .TBL_MIG [] 0 2
  let d := if pol == 1 || pol == 2 then
      next.foldl (fun d (s : Streak) =>
        if hold ≤ s.hot then d.policyMove s.table s.row true
        else if hold ≤ s.cold then d.policyMove s.table s.row false else d) d
    else d
  d.onTabs fun x => { x with lkTot := [] }

/-- FAB_SHARE in force: that of the oldest move to another module in flight, else the register's (R187). -/
def Dev.fabShare (d : Dev) : Nat :=
  match d.tabs.moves.find? fun m => m.dst.isSome && m.st != .wait with
  | some m => m.share
  | none => d.cfgF .TBL_MIG [] 52 8

/-- The bytes that 1 µs of the fabric share allows (R172): FAB_SHARE ÷ 256 of the up Salrex ports' bandwidth. -/
def Dev.fabRefill (d : Dev) : Nat :=
  let gbps (n : Nat) : Nat :=
    if d.portMode n = 4 then (if bitAt (d.port n).up 0 then 1600 else 0)
    else if d.portMode n = 0 then 0
    else popCount 4 (d.port n).up * (1600 / max 1 (subPorts (d.portMode n)))
  ((List.range 36).map gbps).foldl (· + ·) 0 * 125 * d.fabShare / 256

/-- The token bucket refilled, capped at one refill, and waiting requests forwarded while it lasts (R172). -/
def Dev.refillFab (d : Dev) (now : Nat) : Dev :=
  let n := d.fabRefill
  let q := d.tabs.fwdQ
  let d := d.onTabs fun x => { x with fabTok := min (x.fabTok + n) n, fwdQ := [] }
  q.foldl (fun d p => d.forward now p.1 p.2) d

end Sys2Proof.Machine
end

