-- ==== Sys2Proof/Machine/UpdateOps.lean ====
section
/-! DEFINITION. Update programs, update parts of tables and of layers, gradient merges from a job (spec/11 R343 to R368). -/

namespace Sys2Proof.Machine

/-! ### Update programs (R347 to R354) -/

/-- An operation word (R350). -/
structure UOp where
  opc : Nat
  d : Nat
  a : Nat
  b : Nat
  c : Nat
  rnd : Nat
  bimm : Bool
  res : Nat
  imm : Nat
  deriving DecidableEq, Repr, Inhabited

def UOp.ofWord (w : Nat) : UOp :=
  ⟨bitsOf w 0 8, bitsOf w 8 4, bitsOf w 12 4, bitsOf w 16 4, bitsOf w 20 4, bitsOf w 24 2, bitAt w 26, bitsOf w 27 5, bitsOf w 32 32⟩

/-- A program (R348). -/
structure UProg where
  nops : Nat
  naux : Nat
  bf16 : Bool
  ornd : Nat
  res : Nat
  ops : List UOp
  deriving DecidableEq, Repr, Inhabited

def UProg.parse (b : List Byte) : UProg :=
  let h := recNum b 0 8
  let n := bitsOf h 0 6
  ⟨n, bitsOf h 6 3, bitAt h 9, bitsOf h 10 2, bitsOf h 12 52, (List.range n).map fun i => UOp.ofWord (recNum b (8 + 8 * i) 8)⟩

/-- Program 0, P := fma(-LR, G, P) (R353): LR negated into Q0, then the FMA. -/
def nativeProg : UProg :=
  ⟨2, 0, false, 0, 0, [⟨0x12, 8, 2, 0, 0, 0, true, 0, 0xBF800000⟩, ⟨0x13, 0, 8, 1, 0, 0, false, 0, 0⟩]⟩

def Dev.uprog (d : Dev) (id : Nat) : UProg := if id = 0 then nativeProg else UProg.parse (SMap.get [] d.conf.tab.upr id)

/-- Operand registers an operation reads, of A, B and C (R350, R351). -/
def UOp.uses (o : UOp) : Bool × Bool × Bool :=
  if o.opc = 0x13 ∨ o.opc = 0x1C then (true, true, true)
  else if o.opc = 0x1E ∨ o.opc = 0x1F ∨ o.opc = 0x30 then (true, false, false) else (true, true, false)

/-- A program is legal (R348 to R351). -/
def UProg.ok (p : UProg) : Bool :=
  let sums := (p.ops.filter fun o => o.opc == 0x30).length
  1 ≤ p.nops && p.nops ≤ 32 && p.naux ≤ 4 && p.ornd ≤ 2 && p.res == 0 && sums ≤ 2 &&
  (sums == 0 || !(p.ops.any fun o => o.rnd == 2)) &&
  p.ops.all fun o =>
    let u := o.uses
    [0x10, 0x11, 0x12, 0x13, 0x14, 0x15, 0x1C, 0x1E, 0x1F, 0x20, 0x22, 0x23, 0x30].contains o.opc &&
    o.res == 0 && o.rnd ≤ 2 && (o.rnd == 0 || !([0x1E, 0x1F, 0x20, 0x22, 0x23, 0x30].contains o.opc)) &&
    (o.bimm || o.imm == 0) && (!o.bimm || (u.2.1 && o.b == 0)) && (u.2.1 || o.b == 0) && (u.2.2 || o.c == 0) &&
    o.d != 2 && o.d != 3 && (o.d < 4 || 8 ≤ o.d || o.d - 4 < p.naux)

/-- An element as a program works it: its 16 registers, its index in the unit, whether it takes part, the exceptional results it has
given (R269). -/
structure UEl where
  r : List Nat
  idx : Nat
  act : Bool := true
  exc : Nat := 0
  deriving DecidableEq, Repr, Inhabited

/-- The 16 registers at the start (R349). -/
def uregs (p g lr t : Nat) (x : List Nat) : List Nat :=
  [p, g, lr, t] ++ (List.range 4).map (fun k => x.getD k 0) ++ List.replicate 8 0

/-- One operation on one element other than RSUM, executed in `n` passes (R351, R352). -/
def UOp.elt (o : UOp) (s n : Nat) (e : UEl) : UEl :=
  let f (k : Nat) : FV := decodeElt .fp32 (e.r.getD k 0)
  let b := if o.bimm then decodeElt .fp32 o.imm else f o.b
  let r : Rnd := (Rnd.ofCode o.rnd).getD .rne
  let v : LaneR :=
    if o.opc = 0x20 ∨ o.opc = 0x22 ∨ o.opc = 0x23 then { code := if laneCmp o.opc (f o.a) b then 0x3F800000 else 0 }
    else (laneOp o.opc .f32 r (drawH s e.idx) (f o.a) b (f o.c) (!(f o.c).isZero)).getD { code := 0 }
  { e with r := e.r.set o.d v.code, exc := e.exc + if v.exc then n else 0 }

/-- The sum of register `a` over a unit of groups (R352): each group's tree, the groups' sums in order. -/
def unitSum (a : Nat) (gs : List (List UEl)) : Nat :=
  match (gs.filter fun g => g.any (·.act)).map fun g => sumF32 (g.map fun e => if e.act then e.r.getD a 0 else 0) with
  | [] => 0
  | x :: xs => xs.foldl addRne x

/-- A sum that is exceptional for the register it sums (R269). -/
def unitExc (a : Nat) (gs : List (List UEl)) : Bool :=
  let ins := ((gs.flatMap id).filter (·.act)).map fun e => decodeElt .fp32 (e.r.getD a 0)
  (narrowOp .f32 .rne 0 ins (decodeElt .fp32 (unitSum a gs))).exc

/-- A program run over a unit with the core's LFSR (R351, R352): every pass computes the same values, so one is enough; an operation is
executed in the `n` passes from its own on, an RSUM in the one that keeps it. Gives the exceptional sums, too (R269). -/
def runOps : List UOp → Nat → Nat → List (List UEl) → Nat → Nat × List (List UEl) × Nat
  | [], _, s, gs, x => (s, gs, x)
  | o :: rest, n, s, gs, x =>
    if o.opc = 0x30 then
      let v := unitSum o.a gs
      runOps rest (n - 1) s (gs.map fun g => g.map fun e => { e with r := e.r.set o.d v }) (x + if unitExc o.a gs then 1 else 0)
    else
      let s := if o.rnd = 2 then lfsrStep s else s
      runOps rest n s (gs.map fun g => g.map (o.elt s n)) x

/-- A parameter converted to its format under ORND (R354): its code, and what the conversion counts. -/
def outP (t : DType) (ornd s : Nat) (e : UEl) : LaneR :=
  let v := decodeElt .fp32 (e.r.getD 0 0)
  let r : Rnd := (Rnd.ofCode ornd).getD .rne
  let c := encodeElt t r (drawH s e.idx) v
  let sat := encodeSat t r (drawH s e.idx) v
  { code := c, sat := t.isInt && sat, exc := !t.isInt && t != .fp32 && sat }

/-- An auxiliary value as it is stored overflows (R354). -/
def UProg.xExc (p : UProg) (v : Nat) : Bool := p.bf16 && encodeSat .bf16 .rne 0 (decodeElt .fp32 v)

/-- A unit of one executing core (R351 to R354): its groups after the program, the results, the counts. -/
def Dev.runUnit (d : Dev) (core : Nat) (p : UProg) (t : DType) (gs : List (List UEl)) :
    Dev × List (List (LaneR × List Nat)) :=
  let passes := 1 + (p.ops.filter fun o => o.opc == 0x30).length
  let x := runOps p.ops passes (d.lfsr core) gs 0
  let s := if p.ornd = 2 then lfsrStep x.1 else x.1
  let d := d.modCore core fun k => { k with me := { k.me with lfsr := s } }
  let aux (e : UEl) : List Nat := (List.range p.naux).map fun k => e.r.getD (4 + k) 0
  let out := x.2.1.map fun g => g.map fun e => (outP t p.ornd s e, aux e)
  let act := (x.2.1.flatMap id).filter (·.act)
  let exc (e : UEl) : Nat :=
    e.exc + (if (outP t p.ornd s e).exc then 1 else 0) + ((aux e).filter p.xExc).length
  let d := d.bump .CORE_VE_SAT [core] (act.filter fun e => (outP t p.ornd s e).sat).length
  (d.bump .CORE_VE_FEXC [core] ((act.map exc).foldl (· + ·) x.2.2), out)

/-! ### Bindings and layers (R355, R356, R359) -/

def Dev.bindOf (d : Dev) (t : Nat) : List Byte := SMap.get [] d.conf.tab.bind t
def Dev.layerOf (d : Dev) (l : Nat) : List Byte := SMap.get [] d.conf.tab.layer l
def bdValid (b : List Byte) : Bool := bitAt (recNum b 0 1) 0
def bdFreeze (b : List Byte) : Bool := bitAt (recNum b 0 1) 1
def ldValid (l : List Byte) : Bool := bitAt (recNum l 0 1) 0
def ldCopies2 (l : List Byte) : Bool := bitAt (recNum l 0 1) 1
def ldFreeze (l : List Byte) : Bool := bitAt (recNum l 0 1) 2
def ldMasked (l : List Byte) : Bool := bitAt (recNum l 0 1) 3
def ldChisel (l : List Byte) : Bool := bitAt (recNum l 0 1) 4
def ldNt (l : List Byte) : Nat := recNum l 4 2
def ldHome (l : List Byte) : Nat := recNum l 6 2 % 4096
def ldPub (l : List Byte) : Nat := recNum l 28 4 % 2 ^ 17

/-- Bytes of a stored auxiliary value. -/
def UProg.xSize (p : UProg) : Nat := if p.bf16 then 2 else 4

/-- AUXB (R356). -/
def UProg.auxb (p : UProg) (e : Nat) : Nat := roundUp (p.naux * e * p.xSize) 64

/-- An auxiliary value widened, and stored (R349, R354). -/
def UProg.xIn (p : UProg) (v : Nat) : Nat := if p.bf16 then v * 65536 else v
def UProg.xOut (p : UProg) (v : Nat) : List Byte :=
  if p.bf16 then leBytes 2 (encodeElt .bf16 .rne 0 (decodeElt .fp32 v)) else leBytes 4 v

/-- Auxiliary value k of element c of a row, from the row's auxiliary bytes (R356). -/
def UProg.xAt (p : UProg) (bs : List Byte) (e c k : Nat) : Nat := p.xIn (recNum bs ((k * e + c) * p.xSize) p.xSize)

/-- Address of bank b of tile i of a layer (R359). -/
def gradAt (l : List Byte) (b i : Nat) : Nat := recNum l 40 8 + (b * ldNt l + i) * 16384

/-! ### Parts of a table (R365 to R367) -/

def Part.key (p : Part) : Nat × Nat × Nat :=
  if p.layer then (4096 + p.target, 0, p.step) else (p.target, 2 * p.shard + (if p.ents then 1 else 0), p.step)

def Dev.part? (d : Dev) (id : Nat) : Option Part := d.tabs.parts.find? fun p => p.id == id

/-- A row belongs to a part: it is of its shard, and held by a row entry here or not as the part says. -/
def Dev.partHas (d : Dev) (p : Part) (row : Nat) : Bool :=
  let td := d.tdesc p.target
  shardOf td row == p.shard && (tdSharded td || !p.ents) &&
  (match d.rowEnt? p.target row with
   | some a => p.ents && d.isOwn (d.entAt a).module && (d.entAt a).state != 3
   | none => !p.ents)

/-- LAST_STEP of a part: the table's, the shard entry's, the layer's, or that of its row entries; none where they differ. -/
def Dev.partLast (d : Dev) (p : Part) : Option Nat :=
  if p.layer then some (d.rd .UPD_LSTEP [p.target])
  else if !tdSharded (d.tdesc p.target) then some (d.rd .UPD_TSTEP [p.target])
  else if p.ents then
    match (d.entRows p.target p.shard).map fun i => ((d.rowEnt? p.target i).map fun a => (d.entAt a).last).getD 0 with
    | [] => none
    | x :: xs => if xs.all (· == x) then some x else none
  else (d.shardIx p.target p.shard).map fun ix => (d.entAt (d.shardEntAt ix)).last

/-- LAST_STEP set to n in each entry of a part (R366). -/
def Dev.setLast (d : Dev) (p : Part) : Dev :=
  if p.layer then d.wr .UPD_LSTEP [p.target] p.step
  else if !tdSharded (d.tdesc p.target) then d.wr .UPD_TSTEP [p.target] p.step
  else if p.ents then
    (d.entRows p.target p.shard).foldl (fun d i =>
      match d.rowEnt? p.target i with | some a => d.putEnt a { d.entAt a with last := p.step } | none => d) d
  else match d.shardIx p.target p.shard with
    | some ix => d.putEnt (d.shardEntAt ix) { d.entAt (d.shardEntAt ix) with last := p.step }
    | none => d

/-- Where the outcomes of an UPDATE, or of a part request of another module, are gathered. -/
def Part.outKey (p : Part) : Nat :=
  match p.who with | .inl h => h | .inr (k, t) => 2 ^ 32 + k + t * 4096

def Dev.modOut (d : Dev) (key idx : Nat) (f : UOut → UOut) : Dev :=
  d.onTabs fun x => { x with uouts := x.uouts.mod [] key fun l => l.modify idx f }

/-- The order in which an outcome's STATUS is chosen (R368). -/
def outOrder : List Nat := [eFault, eWatchdog, ePoison, eStep, eState, eCancelled, eSuspended]
def UOut.status (o : UOut) : Nat := ((outOrder.filter fun s => o.sts.contains s).head?).getD sOk
def UOut.bytes (o : UOut) : List Byte :=
  leBytes 1 o.status ++ leBytes 1 (min 255 o.parts) ++ leBytes 6 o.rows ++ leBytes 8 o.last

/-- An UPDATE completes once every part has its outcome (R368): the list is written, marked where a part met poison (R77), the counts
given. -/
def Dev.updEnd (d : Dev) (now h : Nat) : Dev :=
  match d.handleOp h with
  | none => d
  | some o =>
    let waits := (d.tabs.parts.any fun p => p.who == .inl h) || d.net.outst.any fun x => x.who == .part h
    if o.opc ≠ 0x0125 ∨ waits ∨ o.st = .suspended ∨ o.st = .queued then d
    else
      let outs := SMap.get [] d.tabs.uouts h
      let d := d.store (o.f 64 8) (outs.flatMap UOut.bytes) (outs.any fun x => x.sts.contains ePoison) none o.part
      let ok := (outs.filter fun x => x.status == sOk).length
      let rows := (outs.map (·.rows)).foldl (· + ·) 0
      let d := d.modOp h fun q => { q with done := ok + (outs.length - ok) * 2 ^ 32, aux := rows }
      if outs.any fun x => x.sts.contains eCancelled || x.sts.contains eSuspended then
        match d.handleOp h with
        | some o => d.stopOp now o
        | none => d
      else
        let d := d.opDone now h sOk
        let d := match o.st with | .suspending b => d.finishReq b eState | _ => d
        let d := match o.cancelBy with | some b => d.finishReq b eState | none => d
        d.onTabs fun x => { x with uouts := x.uouts.del h }

/-- The parts another module asked for have all ended: UPDOUT answers, in messages of as many outcomes as fit in one packet each (R365,
R520). -/
def Dev.remoteEnd (d : Dev) (now k t : Nat) : Dev :=
  if d.tabs.parts.any fun p => p.who == .inr (k, t) then d
  else
    let key := 2 ^ 32 + k + t * 4096
    let outs := SMap.get [] d.tabs.uouts key
    let d := d.onTabs fun x => { x with uouts := x.uouts.del key }
    let per := max 1 ((d.payloadMax - 24) / 16)
    if (d.peer k).st = .up then
      (List.range (ceilDiv outs.length per)).foldl (fun d i =>
        let o := (outs.drop (i * per)).take per
        d.respond k now 0x1C sOk t (leBytes 4 (i * per) ++ leBytes 4 o.length ++ o.flatMap UOut.bytes)) d
    else d

/-- LAST_STEP of a shard's entry where this module is its home, else `v` (R368). -/
def Dev.shardLast (d : Dev) (t shard v : Nat) : Nat :=
  match d.shardIx t shard with
  | some ix => if d.isOwn (d.entAt (d.shardEntAt ix)).module then (d.entAt (d.shardEntAt ix)).last else v
  | none => v

/-- The status of a part whose rows or tiles have all been worked: poisoned operands end a job with E_POISON (R80, R366; DEDUCED, log
87). -/
def Part.worked (p : Part) : Nat := if p.fault then eFault else if p.poison then ePoison else sOk

/-- A part ends with a status (R366, R368): its job goes, its outcome is gathered, the step reopened unless it was stopped. -/
def Dev.partEnd (d : Dev) (now : Nat) (p : Part) (status : Nat) : Dev :=
  let stopped := status = eCancelled ∨ status = eSuspended
  let last := (d.partLast p).getD 0
  let ofLayer (o : Mon) : Bool := match o.dst with | .layer l _ => p.layer && l == p.target | _ => false
  let d := d.onSync fun s => { s with mons := s.mons.filter fun o => !ofLayer o, retry := s.retry.filter fun o => !ofLayer o }
  let d := d.onTabs fun x => { x with
    parts := x.parts.filter fun q => q.id != p.id
    closed := if stopped ∨ !p.started then x.closed else x.closed.filter (· != p.key)
    auxIn := x.auxIn.filter fun a => a.1 != p.id
    stopped := if status = eSuspended then x.stopped ++ [{ p with started := false, job := none, rows := [], inProg := [], written := 0 }]
      else x.stopped }
  let d := match p.job with | some j => { d with jobs := d.jobs.del j } | none => d
  let d := if status = sOk then d.bump .UPD_PART_OK
    else if status = eStep then d.bump .UPD_PART_STEP
    else if status = ePoison ∨ status = eFault ∨ status = eWatchdog then d.bump .UPD_PART_FAIL else d
  let d := d.modOut p.outKey p.outIdx fun o =>
    { o with sts := o.sts ++ [status], parts := o.parts + 1, rows := o.rows + p.written,
             last := if !p.ents then last else if o.own then o.last else d.shardLast p.target p.shard last
             own := o.own || !p.ents }
  match p.who with
  | .inl h => d.updEnd now h
  | .inr (k, t) => d.remoteEnd now k t

/-- Where the shard storage of a part's row lies, and on which module: none for this one (R356). -/
def Dev.auxHome (d : Dev) (t row : Nat) : Option Nat × Nat :=
  let td := d.tdesc t
  if !tdSharded td then (none, tdF td 16 8)
  else match d.shardEnt td t row with
    | some e => (if d.isOwn e.module then none else some e.module, e.rowB)
    | none => (none, 0)

/-- Local index of a row (R356). -/
def auxIdx (td : List Byte) (row : Nat) : Nat := if tdSharded td then row % 2 ^ tdShift td else row

/-- Under this piece number stands a row whose pieces held a mark. -/
def auxMark : Nat := 2 ^ 20

/-- The pieces a row's update needs from a shard's home on another module: (number, address, length); piece 0 holds the
freeze byte, the others the auxiliary state in blocks that stay within a message (R356, R520). -/
def Dev.auxPieces (d : Dev) (t row : Nat) : List (Nat × Nat × Nat) :=
  let td := d.tdesc t
  let b := d.bindOf t
  let base := (d.auxHome t row).2
  let l := auxIdx td row
  let p := d.uprog (recNum b 1 1)
  let n := p.auxb (tdElts td)
  let a := base + recNum b 8 8 + l * n
  (if bdFreeze b then [(0, (base + recNum b 16 8 + l / 8) / 8 * 8, 8)] else []) ++
  (List.range (ceilDiv n 64)).map fun k => (k + 1, a + k * 64, 64)

/-- A row an update has reached on this module, or whose pieces have come: its freeze bit, its auxiliary bytes (R356). -/
def Dev.auxOf (d : Dev) (p : Part) (row : Nat) : Bool × List Byte :=
  let td := d.tdesc p.target
  let b := d.bindOf p.target
  let l := auxIdx td row
  let h := d.auxHome p.target row
  let n := (d.uprog (recNum b 1 1)).auxb (tdElts td)
  let fz (byte : Nat) : Bool := bdFreeze b && bitAt byte (l % 8)
  match h.1 with
  | none => (fz (d.num (h.2 + recNum b 16 8 + l / 8) 1), d.bytes (h.2 + recNum b 8 8 + l * n) n)
  | some _ =>
    let piece (k : Nat) : List Byte := ((d.tabs.auxIn.find? fun a => a.1 == p.id && a.2.1 == row && a.2.2.1 == k).map (·.2.2.2)).getD []
    (fz (leNat ((piece 0).drop ((h.2 + recNum b 16 8 + l / 8) % 8) |>.take 1)), (List.range (ceilDiv n 64)).flatMap fun k => piece (k + 1))

/-- The byte with a row's freeze bit, where it is kept on this module (R356). -/
def Dev.frzAt (d : Dev) (t row : Nat) : Option Nat :=
  let b := d.bindOf t
  let h := d.auxHome t row
  if bdFreeze b && h.1.isNone then some (h.2 + recNum b 16 8 + auxIdx (d.tdesc t) row / 8) else none

/-- Address and length of a row's auxiliary state, where it is kept on this module (R356). -/
def Dev.auxAt (d : Dev) (t row : Nat) : Option (Nat × Nat) :=
  let b := d.bindOf t
  let h := d.auxHome t row
  let n := (d.uprog (recNum b 1 1)).auxb (tdElts (d.tdesc t))
  if n != 0 && h.1.isNone then some (h.2 + recNum b 8 8 + auxIdx (d.tdesc t) row * n, n) else none

/-- Ranges that a part reads for one unit, charged to its partition (R369); true where one meets an error that marks (R430). -/
def Dev.readSpans (d : Dev) (part : Nat) (xs : List (Nat × Nat)) : Dev × Bool :=
  xs.foldl (fun s x => let f := s.1.meetAll x.1 x.2; (f.1.localTouch x.1 x.2 { part := part }, s.2 || f.2)) (d, false)

/-- One of the ranges waits at its slice port, its controller or its side (R426, R476). -/
def Dev.spansWait (d : Dev) (part : Nat) (xs : List (Nat × Nat)) : Bool := xs.any fun x => d.readWait part x.1 x.2 != 0

/-- The cores that execute a part: those present on its clusters. -/
def Dev.partCores (d : Dev) (p : Part) : List Nat :=
  (bitList 16 p.mask).flatMap fun n => if d.cluHere n then ((List.range 8).map (n * 8 + ·)).filter d.coreHere else []

/-- The executing core of the row that a part works on: its cores take turns. -/
def Dev.partCore (d : Dev) (p : Part) : Nat := (d.partCores p).getD (p.count % max 1 (d.partCores p).length) 0

/-- A row leaves a part that does not write it: its bank is freed and never applied (R358, R366). -/
def Dev.leaveRow (d : Dev) (id row : Nat) (fault : Bool) : Dev :=
  match d.part? id with
  | none => d
  | some p =>
    let d := d.onTabs fun x => { x with banks := x.banks.filter fun b => !b.is p.target row (p.step % 2) }
    d.modPart id fun q => { q with inProg := q.inProg.filter (· != row), fault := q.fault || fault }

/-- The row's update begins: its freeze bit is read, a frozen row is skipped (R358), any other is claimed (R357). A poisoned freeze granule
counts as an operand of the row (R77, R80). -/
def Dev.partRow (d : Dev) (now : Nat) (p : Part) (row : Nat) : Dev :=
  let td := d.tdesc p.target
  let fs := match d.frzAt p.target row with | some a => [(a, 1)] | none => []
  let f := d.readSpans p.mem fs
  let d := if f.2 then f.1.modPart p.id fun q => { q with fault := true } else f.1
  if (d.auxOf p row).1 then
    let mark := (fs.any fun x => d.poisoned x.1 1) || d.tabs.auxIn.any fun x => x.1 == p.id && x.2.1 == row && x.2.2.1 == auxMark
    let d := if mark then (d.bump .CORE_POISONIN [d.partCore p]).modPart p.id fun q => { q with poison := true } else d
    (d.bump .UPD_FROZEN).leaveRow p.id row false
  else match d.resolve (now / usT) td p.target row with
    | .here loc _ =>
      if d.rowHole td loc then d.leaveRow p.id row true
      else d.startWriter now { by_ := .part p.id, table := p.target, row := row } loc [] 0 false
    | _ => d.leaveRow p.id row false

/-- The next row of a part begun: what lies at another module is asked for first (R356). -/
def Dev.partNext (d : Dev) (now : Nat) (p : Part) : Dev :=
  match p.rows with
  | [] => d
  | row :: rest =>
    let d := d.modPart p.id fun q => { q with rows := rest, inProg := q.inProg ++ [row], count := q.count + 1 }
    match (d.auxHome p.target row).1 with
    | none => d.partRow now p row
    | some k =>
      let ps := d.auxPieces p.target row
      if ps.isEmpty then d.partRow now p row
      else if d.routeCheck k = .send then
        ps.foldl (fun d x => d.request k now 0x01 0 (laneOfDla x.2.1) 0 (leBytes 8 x.2.1 ++ leBytes 4 x.2.2 ++ leBytes 4 0) p.job
          (.partRd p.id row x.1)) d
      else d.leaveRow p.id row true

/-- Whether a part's command is to stop between rows (R367). -/
def Dev.partStop (d : Dev) (p : Part) : Option Nat :=
  match p.who with
  | .inl h => match d.handleOp h with
    | some o => if o.cancelBy.isSome then some eCancelled else if o.stopping then some eSuspended else none
    | none => some eCancelled
  | .inr _ => none

/-- The next row of a part waits for its freeze bit's line, or the part's job is ending (R397, R426, R476). -/
def Dev.partHeld (d : Dev) (p : Part) : Bool :=
  (match p.rows with
   | row :: _ => (match d.frzAt p.target row with | some a => d.readWait p.mem a 1 != 0 | none => false)
   | [] => false) ||
  (match p.job with | some j => (d.job j).ending.isSome | none => false)

/-- A started part of a table goes on: rows begin while each core has fewer than 32 in progress; it ends after the last
(R354, R366, R367). -/
def Dev.partPump (d : Dev) (now id : Nat) : Nat → Dev
  | 0 => d
  | n + 1 =>
    match d.part? id with
    | none => d
    | some p =>
      if p.layer || !p.started then d
      else match d.partStop p with
        | some st => if p.inProg.isEmpty && p.outWr == 0 && !p.rows.isEmpty then d.partEnd now p st
            else if p.rows.isEmpty && p.inProg.isEmpty && p.outWr == 0 then
              (d.setLast p).partEnd now p p.worked else d
        | none =>
          if p.rows.isEmpty then
            if p.inProg.isEmpty && p.outWr == 0 then (d.setLast p).partEnd now p p.worked else d
          else if p.inProg.length < 32 * max 1 (d.partCores p).length && !d.partHeld p then (d.partNext now p).partPump now id n
          else d

/-- Every part goes on as far as it can; one that has not started and is to stop ends, and so does one of a layer, which has not written
yet (R367). -/
def Dev.partAll (d : Dev) (now : Nat) : Dev :=
  d.tabs.parts.foldl (fun d p =>
    if !p.started || p.layer then
      match d.partStop p with
      | some st => d.partEnd now p st
      | none => d
    else d.partPump now p.id (2 + p.rows.length)) d

/-- What the update of a claimed row reads on this module: the row and its auxiliary state. -/
def Dev.updSpans (d : Dev) (p : Part) (w : Writer) : List (Nat × Nat) :=
  (w.rowAt, tdB (d.tdesc p.target)) :: (match d.auxAt p.target w.row with | some x => [x] | none => [])

/-- The new row of a claimed row of an update (R357): computed by the program from the row, its bank and its auxiliary
state, which is written with it. -/
def Dev.updRow (d : Dev) (now : Nat) (p : Part) (w : Writer) : Dev × List Byte × Nat :=
  let td := d.tdesc p.target
  let b := d.bindOf p.target
  let pr := d.uprog (recNum b 1 1)
  let e := tdElts td
  let core := d.partCore p
  let f := d.readSpans p.mem (d.updSpans p w)
  let d := if f.2 then f.1.modPart p.id fun q => { q with fault := true } else f.1
  let old := d.bytes w.rowAt (tdB td)
  let aux := (d.auxOf p w.row).2
  let bank := (d.tabs.banks.find? fun k => k.is p.target w.row (p.step % 2)).getD ⟨p.target, w.row, 0, List.replicate e 0, false⟩
  let t := encodeElt .fp32 .rne 0 (FV.ofInt p.step)
  let els := (List.range e).map fun i =>
    let v := encodeElt .fp32 .rne 0 (decodeElt (tdType td) (packedElt old (tdType td) 0 i))
    ({ r := uregs v (bank.vals.getD i 0) p.lr t ((List.range pr.naux).map fun k => pr.xAt aux e i k), idx := i } : UEl)
  let x := d.runUnit core pr (tdType td) [els]
  let res := x.2.headD []
  let row := padTo (tdB td) (packRow (tdType td) (res.map (·.1.code)))
  let h := d.auxHome p.target w.row
  let n := pr.auxb e
  let a := h.2 + recNum b 8 8 + auxIdx td w.row * n
  let marks := (if d.poisoned w.rowAt (tdB td) then 1 else 0) + (if h.1.isNone && pr.naux != 0 && d.poisoned a n then 1 else 0) +
    (if match d.frzAt p.target w.row with | some f => d.poisoned f 1 | none => false then 1 else 0) +
    (if d.tabs.auxIn.any fun x => x.1 == p.id && x.2.1 == w.row && x.2.2.1 == auxMark then 1 else 0)
  let poison := marks != 0
  let d := x.1.loadBytes td p.target w.row (tdB td)
  let d := if poison then (d.bump .CORE_POISONIN [core] marks).modPart p.id fun q => { q with poison := true } else d
  let new := padTo n ((List.range pr.naux).flatMap fun k => res.flatMap fun q => pr.xOut (q.2.getD k 0))
  let d :=
    if pr.naux = 0 then d
    else match h.1 with
      | none => d.store a new poison none (some p.mem)
      | some k =>
        if d.routeCheck k = .send then
          (List.range (ceilDiv n 64)).foldl (fun d j =>
            (d.request k now 0x03 0 (laneOfDla (a + j * 64)) 0
              (leBytes 8 (a + j * 64) ++ leBytes 4 64 ++ leBytes 4 0 ++ leBytes 8 (if poison then 1 else 0) ++ (new.drop (j * 64)).take 64)
              p.job (.partWr p.id)).modPart p.id fun q => { q with outWr := q.outWr + 1 }) d
        else d.modPart p.id fun q => { q with fault := true }
  (d, row, if poison then 2 ^ (granules 0 row.length).length - 1 else 0)

/-! ### Starting a part -/

/-- A job for a part (R395): none while no cluster serves or no number is free, which is counted once for the part (R416). The update unit
works its rows, and no program entry is given for it: it has no thread (DEDUCED, log 103). -/
def Dev.partJob (d : Dev) (now : Nat) (p : Part) : Dev × Option Nat :=
  match d.chooseCluster p.mask 0 with
  | none => (d, none)
  | some n =>
    match d.freeJob n with
    | none => (if p.full then d else (d.bump .FOR_SLOTFULL [n]).modPart p.id fun q => { q with full := true }, none)
    | some j =>
      let r := d.jobMode n none
      let b : Job := { live := true, ctx := p.ctx, prio := p.prio, part := p.mem, creator := .part p.id, startAt := now, obs := r.2 }
      ((r.1.modJob j fun _ => b).wakeWire n 5 true, some j)

/-- Parts of UPDATE in a range of shards on this module (R365): for each shard held here, and for its rows held by row
entries here. -/
def Dev.addParts (d : Dev) (p : Part) (first n : Nat) : Dev :=
  let td := d.tdesc p.target
  let add (d : Dev) (shard idx : Nat) (ents : Bool) : Dev :=
    d.onTabs fun x => { x with
      nextId := x.nextId + 1
      parts := x.parts ++ [{ p with id := x.nextId, shard := shard, ents := ents, outIdx := idx }] }
  if p.layer || !tdSharded td then add d 0 0 false
  else (List.range n).foldl (fun d k =>
    let s := first + k
    let d := match d.shardIx p.target s with
      | some ix =>
        let e := d.entAt (d.shardEntAt ix)
        if (e.state = 1 ∨ e.state = 2) ∧ d.isOwn e.module then add d s k false else d
      | none => d
    if (d.entRows p.target s).isEmpty then d else add d s k true) d

/-- The modules that this module's copies name as holders of shards in a range, or of rows in them (R365). -/
def Dev.holders (d : Dev) (t first n : Nat) : List Nat :=
  let td := d.tdesc t
  let sh := (List.range n).filterMap fun k => (d.shardIx t (first + k)).bind fun ix =>
    let e := d.entAt (d.shardEntAt ix)
    if e.state ≠ 0 ∧ !d.isOwn e.module then some e.module else none
  let rows := d.tabs.rent.filterMap fun q =>
    let i := q.1 % 2 ^ 40
    match d.rowEnt? t i with
    | some a =>
      let e := d.entAt a
      if q.1 / 2 ^ 40 = t ∧ first ≤ shardOf td i ∧ shardOf td i < first + n ∧ e.state ≠ 0 ∧ !d.isOwn e.module then some e.module else none
    | none => none
  (sh ++ rows).dedup

/-- Whether a bank of a part's step is poisoned (R366): of its rows, or of a layer's tiles. -/
def Dev.partPoison (d : Dev) (p : Part) : Bool :=
  if p.layer then
    let l := d.layerOf p.target
    (List.range (ldNt l)).any fun i => d.poisoned (gradAt l (p.step % 2) i) 16384
  else d.tabs.banks.any fun b => b.table == p.target && b.par == p.step % 2 && b.poison && d.partHas p b.row

/-- The banks of a part's step freed, or a layer's zeroed (R359, R366). -/
def Dev.freeBanks (d : Dev) (p : Part) : Dev :=
  if p.layer then
    let l := d.layerOf p.target
    (List.range (ldNt l)).foldl (fun d i => d.fillZero (gradAt l (p.step % 2) i) 16384 (some p.mem)) d
  else
    let mine (b : Bank) : Bool := b.table == p.target && b.par == p.step % 2 && d.partHas p b.row
    d.onTabs fun x => { x with banks := x.banks.filter fun b => !mine b }

/-- Moves of rows of a part's shard that are under way: between two batches of the shard, too (R175, R181). -/
def Dev.movesOn (d : Dev) (p : Part) : Bool :=
  !p.layer && d.tabs.moves.any fun m => m.table == p.target && m.row / 2 ^ tdShift (d.tdesc p.target) == p.shard &&
    (m.st != .wait || (m.shard && (d.moveEnt m).any fun e => e.2.state == 2))

/-- A part starts (R366). -/
def Dev.startPart (d : Dev) (now : Nat) (p : Part) : Dev :=
  if p.started || d.movesOn p then d
  else if !p.layer && d.heldTable p.target then d.holdTable p.target (2 ^ 44 + p.id)
  else match d.partJob now p with
    | (d, none) => d
    | (d, some j) =>
      let p := { p with job := some j, started := true }
      let busy := d.tabs.parts.any fun q => q.id != p.id && q.started && q.key == p.key
      let legal := if p.layer then ldValid (d.layerOf p.target) else tdValid (d.tdesc p.target) && bdValid (d.bindOf p.target)
      if busy || d.partLast p != some (p.step - 1) || p.step == 0 then d.partEnd now { p with started := false } eStep
      else if !legal then d.partEnd now { p with started := false } eState
      else
        let d := d.onTabs fun x => { x with closed := if x.closed.contains p.key then x.closed else x.closed ++ [p.key] }
        if p.discard then ((d.freeBanks p).setLast p).partEnd now p sOk
        else if d.partPoison p then d.partEnd now p ePoison
        else if p.layer then
          let l := d.layerOf p.target
          let d := d.modPart p.id fun _ => { p with
            readers := !ldCopies2 l, watch := if ldCopies2 l then some (d.watchTick now (p.job.getD 0)) else none }
          if ldCopies2 l then d.syncWait now ⟨ldPub l + 1 + p.step % 2, true, 0, .layer p.target (p.step % 2), now⟩ else d
        else
          let rows := ((d.tabs.banks.filter fun b => b.table == p.target && b.par == p.step % 2 && d.partHas p b.row).map (·.row)).dedup
          let rows := rows.mergeSort (· ≤ ·)
          (d.modPart p.id fun _ => { p with rows := rows }).partPump now p.id (2 + rows.length)

/-! ### Layers (R360, R361) -/

/-- A tile of a layer as the update reads it. -/
structure LTile where
  addr : Nat
  bs : List Byte
  rows : Nat
  cols : Nat
  poison : Bool
  deriving DecidableEq, Repr, Inhabited

/-- Tile i of copy c of a layer (R359, R361). -/
def Dev.layerTile (d : Dev) (l : List Byte) (c i : Nat) : LTile :=
  let a := recNum l (8 + 8 * c) 8 + i * recNum l 24 4
  let bs := d.tileBytes a
  let h := TileHdr.parse bs
  ⟨a, bs, h.rows, h.cols, d.tilePoisoned a bs⟩

/-- What the update of a layer reads: its tiles, banks, auxiliary state, masks and freeze bits (R359). -/
def Dev.layerSpans (d : Dev) (p : Part) : List (Nat × Nat) :=
  let l := d.layerOf p.target
  let n := (d.uprog (recNum l 2 1)).naux * 4096 * (d.uprog (recNum l 2 1)).xSize
  (List.range (ldNt l)).flatMap fun i =>
    let t := d.layerTile l (if ldCopies2 l then (p.step - 1) % 2 else 0) i
    [(t.addr, t.bs.length), (gradAt l (p.step % 2) i, 16384)] ++ (if n = 0 then [] else [(recNum l 32 8 + i * n, n)]) ++
      (if ldMasked l then [(recNum l 56 8 + i * 512, 512)] else []) ++ (if ldFreeze l then [(recNum l 48 8 + i * 8, 8)] else [])

/-- A layer's update writes its new copy and its auxiliary state, publishes it and sets LAST_STEP (R360, R361). A bad tile is read twice
and ends it with E_FAULT (R68), as an error that marks does (R430); dropped entries are counted (R69); a poisoned tile, auxiliary state,
mask or freeze granule marks all that the one unit writes (R77, R80). -/
def Dev.updLayer (d : Dev) (now : Nat) (p : Part) : Dev :=
  let f := d.readSpans p.mem (d.layerSpans p)
  let d := f.1
  let l := d.layerOf p.target
  let pr := d.uprog (recNum l 2 1)
  let t := (DType.ofCode (recNum l 1 1)).getD .fp32
  let src := if ldCopies2 l then (p.step - 1) % 2 else 0
  let dst := if ldCopies2 l then p.step % 2 else 0
  let tiles := (List.range (ldNt l)).map fun i => d.layerTile l src i
  let tstep := encodeElt .fp32 .rne 0 (FV.ofInt p.step)
  let sz := pr.xSize
  let auxAt (i : Nat) : Nat := recNum l 32 8 + i * pr.naux * 4096 * sz
  let masked (i r c : Nat) : Bool := ldMasked l && !bitAt (d.num (recNum l 56 8 + i * 512 + r * 8) 8) c
  let frozen (i r : Nat) : Bool := ldFreeze l && bitAt (d.num (recNum l 48 8 + i * 8) 8) r
  let old (tl : LTile) (r c : Nat) : Nat := tileCode tl.bs r c
  let auxOld (i r c k : Nat) : Nat := pr.xIn (d.num (auxAt i + (k * 4096 + r * 64 + c) * sz) sz)
  let pos := (tiles.zip (List.range tiles.length)).flatMap fun q => (List.range q.1.rows).map fun r => (q.1, q.2, r)
  let start (n : Nat) : Nat := ((pos.take n).map fun q => q.1.cols).foldl (· + ·) 0
  let gs := (pos.zip (List.range pos.length)).map fun q =>
    let tl := q.1.1
    let i := q.1.2.1
    let r := q.1.2.2
    (List.range tl.cols).map fun c =>
      let v := encodeElt .fp32 .rne 0 (decodeElt t (old tl r c))
      let g := d.num (gradAt l (p.step % 2) i + r * 256 + c * 4) 4
      ({ r := uregs v (if masked i r c then 0 else g) p.lr tstep ((List.range pr.naux).map (auxOld i r c)),
         idx := start q.2 + c, act := !masked i r c && !frozen i r } : UEl)
  let core := (d.partCores p).headD 0
  let auxLen := if pr.naux = 0 then 0 else pr.naux * 4096 * sz
  let marked (i : Nat) (tl : LTile) : Bool :=
    tl.poison || d.poisoned (auxAt i) auxLen || (ldMasked l && d.poisoned (recNum l 56 8 + i * 512) 512) ||
      (ldFreeze l && d.poisoned (recNum l 48 8 + i * 8) 8)
  let nPois := ((tiles.zip (List.range tiles.length)).filter fun q => marked q.2 q.1).length
  if f.2 then d.partEnd now p eFault
  else if tiles.any fun tl => !tileGood tl.bs then (d.bump .CORE_TILEERR [core] 2).partEnd now p eFault
  else
  let x := (d.bump .CORE_BADIDX [core] ((tiles.map fun tl => tileDropped tl.bs).foldl (· + ·) 0)).runUnit core pr t gs
  let d1 := x.1.bump .CORE_POISONIN [core] nPois
  let poison := nPois != 0
  let rowOf (i r : Nat) : List (LaneR × List Nat) :=
    (((pos.zip x.2).find? fun q => q.1.2.1 == i && q.1.2.2 == r).map (·.2)).getD []
  let d2 := (tiles.zip (List.range tiles.length)).foldl (fun d q =>
    let tl := q.1
    let i := q.2
    let val (r c : Nat) : Nat := if frozen i r then old tl r c else if masked i r c then 0 else ((rowOf i r).getD c default).1.code
    let out := d.outTile core (ldChisel l) t poison false tl.rows tl.cols val
    let d := out.1.writeTile (recNum l (8 + 8 * dst) 8 + i * recNum l 24 4) out.2 poison (some p.mem)
    if pr.naux = 0 then d
    else
      (List.range pr.naux).foldl (fun d k => (List.range tl.rows).foldl (fun d r =>
        d.store (auxAt i + (k * 4096 + r * 64) * sz) ((List.range tl.cols).flatMap fun c =>
          if frozen i r then pr.xOut (auxOld i r c k) else if masked i r c then leBytes sz 0
          else pr.xOut (((rowOf i r).getD c default).2.getD k 0)) poison none (some p.mem)) d) d) d1
  let p := { p with written := ((tiles.map fun tl => tl.rows * tl.cols).foldl (· + ·) 0) / 4096 }
  let d3 := (d2.freeBanks p).bump .UPD_LAYERS
  let d3 := if ldCopies2 l then d3.syncSet now (ldPub l) (BitVec.ofNat 64 p.step) else d3
  (d3.setLast p).partEnd now { p with poison := poison } (if poison then ePoison else sOk)

/-! ### Merges from a job (R343 to R346) -/

/-- A merge into a layer's bank at its home (R345, R359): one tile row added under the step rule, as a row-merge-add (R435); its outcome. -/
def Dev.layerMerge (d : Dev) (l tile r step : Nat) (xs : List Nat) (poison : Bool) (part : Nat) : Dev × Nat :=
  let ld := d.layerOf l
  let last := d.rd .UPD_LSTEP [l]
  let st := refusal [(ldValid ld && decide (ldNt ld ≤ tile), eRange), (!stepOk last step (d.isClosed (4096 + l) 0 (last + 1)), eStep),
    (!ldValid ld || !d.isOwn (ldHome ld), eState)]
  if st ≠ sOk then (if st = eStep then d.bump .UPD_MSTEP else d, st)
  else
    let d := d.rmaStore (gradAt ld (step % 2) tile + r * 256) xs poison part
    let d := if poison then d.markRange (gradAt ld (step % 2) tile) 16384 true else d
    (d.bump .UPD_MERGE, sOk)

/-- A field of the descriptor of a merge-queue place. -/
def QEnt.g (x : QEnt) (o n : Nat) : Nat := recNum x.rcd o n

/-- Bytes of one index of a GMERGE list (R343). -/
def QEnt.gIdx (x : QEnt) : Nat := if x.g 0 1 = 2 then 2 else if bitAt (x.g 1 1) 1 then 4 else 6

/-- A GMERGE completes once every entry has its outcome (R346). -/
def Dev.gmEnd (d : Dev) (now c : Nat) : Dev :=
  let k := d.core c
  match k.mq.q with
  | [] => d
  | x :: rest =>
    let n := if x.dead then k.mq.next else x.g 4 4
    if !x.started then d
    else if k.mq.next < n || k.mq.outs.length < n ||
        d.net.outst.any (fun o => match o.who with | .merge c' _ | .gmHdr c' _ => c' == c | _ => false) then d
    else
      let outs := (List.range n).map fun i => (SMap.get none k.mq.outs i).getD 0
      let cnt (f : Nat → Bool) : Nat := (outs.filter f).length
      let w := min (cnt (· == sOk)) 0xFFFFFF + min (cnt (· == eStep)) 0xFFFF * 2 ^ 24 +
        min (cnt fun s => s != sOk && s != eStep) 0x7FFF * 2 ^ 40 + (if k.mq.poison then 2 ^ 55 else 0)
      let d := d.modCore c fun k => { k with mq := { k.mq with q := rest, next := 0, outs := [], poison := false, hdr := false } }
      if x.dead then d
      else
        let d := if bitAt (x.g 1 1) 0 then d.store (x.g 40 8) (outs.map fun s => BitVec.ofNat 8 s) k.mq.poison else d
        (d.complete now x (BitVec.ofNat 64 w)).reap (cluOfCore c)

/-- Writers that a drain held claim once no drain covers them (R564). -/
def Dev.wakeWriters (d : Dev) (now : Nat) : Dev :=
  d.tabs.writers.foldl (fun d w => if w.st = .held && !d.writerHeld w then d.tryClaim now w else d) d

/-- Merges of a bank that wait, and one of which its requester's drain no longer holds but that lacks space: its wait is counted and watched
(R342). -/
def Dev.countFull (d : Dev) (now : Nat) : Dev :=
  let short (r : RowReq) : Bool := !r.full && !d.heldTable r.table && match r.op with
    | .merge step _ _ _ => !d.bankRoom r.table r.row (step % 2) (tdElts (d.tdesc r.table))
    | _ => false
  let n := (d.tabs.gwait.filter short).length
  if n = 0 then d
  else (d.bump .UPD_GFULL [] n).onTabs fun x => { x with
    gwait := x.gwait.map fun r => if short r then { r with full := true, watch := d.mergeWatch now r } else r }

/-- Everything the table units may do now: writers' commands, moves and parts go on (R143, R174, R177, R366). -/
def Dev.settle (d : Dev) (now : Nat) : Dev :=
  let d := ((((((d.countFull now).wakeWriters now).sendReady now).replAll now).migAll now).partAll now).freeOld now
  d.cores.foldl (fun d p => d.gmEnd now p.1) d

end Sys2Proof.Machine
end

