-- ==== Sys2Proof/Machine/SeqOps.lean ====
section
/-! DEFINITION. What every sequencer instruction shares: the mode, exceptions, the encoding checks of R378, waiting issues, and
the end of jobs and threads (spec/12 R373 to R400). -/

namespace Sys2Proof.Machine

/-- The sequencer can execute its next instruction: its core is present and its cluster runs, it waits for no queue place, no
remote reply and no thread, and in U a thread runs (R373, R379, R389). -/
def Dev.seqReady (d : Dev) (q : Sq) : Bool :=
  let s := (d.core q.core).sq
  d.coreHere q.core && (d.clu (cluOfCore q.core)).pst == 0 && s.stall.isNone && s.remote.isNone && s.gated.isNone &&
  (!q.user || s.cur.isSome)

/-- The mode an instruction is executed in; entering M starts the kernel watchdog (R373, R615). -/
def Dev.enter (d : Dev) (now : Nat) (q : Sq) : Dev :=
  d.modSq q.core fun s => { s with user := q.user, mAt := if s.user && !q.user then now else s.mAt }

/-- A result written to rd; x0 stays zero. -/
def Dev.setX (d : Dev) (core rd : Nat) (v : Word) : Dev :=
  if rd = 0 then d else d.modSq core fun s => { s with x := s.x.put 0 rd v }

/-- A trap into Copse that leaves the thread where it is: ecall and exceptions (R376). -/
def Dev.toCopse (d : Dev) (now core cause : Nat) : Dev :=
  (d.modSq core fun s => { s with user := false, mcause := cause, mAt := now }).emit (.trap core cause)

/-- The CSRs of a sequencer that the spec names, as an instruction in U or M reads them: the global core number, the 1 µs tick count, the
clk while not clock-gated, the running thread's word and its PIN (R27, R373, R375, R377); none where the mode may not, or where no such
CSR is named. No row of the table reads a CSR. -/
def Dev.csrRead (d : Dev) (now c csr : Nat) (user : Bool) : Option Nat :=
  let s := (d.core c).sq
  let b (x : Bool) : Nat := if x then 1 else 0
  match csr with
  | 0xC00 => some (s.cycle + if s.gated.isSome then 0 else (now - s.cycAt) / clkT)
  | 0xC01 => some (now / usT)
  | 0xF14 => if user then none else some c
  | 0x7C0 =>
    if user then none
    else match s.cur with
      | some h =>
        let j := (d.thr h).job
        some (h + j % 4096 * 2 ^ 16 + (d.job j).ctx * 2 ^ 28 + b (d.job j).serve * 2 ^ 34 + b (d.job j).obs * 2 ^ 35)
      | none => some 0
  | 0x7C1 => if user then none else some (match s.cur with | some h => b (d.thr h).pin.isSome | none => 0)
  | _ => none

/-- The job of the running thread ends under a refusal; without one nothing ends. -/
def Dev.refuseCur (d : Dev) (now core status : Nat) : Dev :=
  match d.curJob core with | some j => d.refuseJob now j status | none => d

/-- An exception: in U it traps to Copse, is counted and ends the thread's job; in M Copse handles it itself (R376, R419). -/
def Dev.exc (d : Dev) (now : Nat) (q : Sq) (cause status : Nat) : Dev :=
  let d := d.toCopse now q.core cause
  if q.user then (d.bump .CORE_SQ_TRAP [q.core]).refuseCur now q.core status else d

/-- Exception codes as mcause holds them (RISC-V privileged architecture, PRESUMED). -/
def excIllegal : Nat := 2
def excBreak : Nat := 3
def excLoadAlign : Nat := 4
def excLoad : Nat := 5
def excStoreAlign : Nat := 6
def excStore : Nat := 7

/-- Fields of a Natriuk instruction word (R378). -/
def nxF (w : BitVec 32) (lo len : Nat) : Nat := bitsOf w.toNat lo len

/-- The word is the one of an opcode and funct3. -/
def nxIs (w : BitVec 32) (opc f3 : Nat) : Bool := nxF w 0 7 == opc && nxF w 12 3 == f3

/-- No reserved field is set: funct7 bits outside a mask, and the register fields shown as x0 (R378). -/
def nxOk (w : BitVec 32) (mask : Nat) (rs1z rs2z rdz : Bool) : Bool :=
  nxF w 25 7 &&& mask == nxF w 25 7 && (!rs1z || nxF w 15 5 == 0) && (!rs2z || nxF w 20 5 == 0) && (!rdz || nxF w 7 5 == 0)

def nxRd (w : BitVec 32) : Nat := nxF w 7 5
def nxK (w : BitVec 32) : Nat := nxF w 29 2

/-- A Natriuk instruction executed: nothing where the sequencer cannot execute it or the word is another one's; an illegal
instruction where a reserved field is set or the mode is wrong (R376, R378). -/
def Dev.nx (d : Dev) (now : Nat) (q : Sq) (w : BitVec 32) (opc f3 : Nat) (ok : Bool) (f : Dev → Dev) : Dev :=
  if !d.seqReady q || !nxIs w opc f3 then d
  else
    let d := d.enter now q
    if ok then f d else d.exc now q excIllegal eArg

/-- Engines by the number a waiting issue keeps. -/
def Eng.num : Eng → Nat
  | .me => 0 | .ve => 1 | .ge => 2 | .se s => 3 + s | .mq => 5
def Eng.ofNum : Nat → Eng
  | 0 => .me | 1 => .ve | 2 => .ge | 3 => .se 0 | 4 => .se 1 | _ => .mq

/-- NX.ISSUE: the place is taken, or the sequencer waits while the queue is full (R379, R419). The record is copied when the
place is taken; an error that its reading meets ends the job (R440). An issue by no thread, which Copse never makes, has no effect. -/
def Dev.issue (d : Dev) (now c : Nat) (e : Eng) (rec_ : Nat) (x : QEnt) : Dev :=
  match (d.core c).sq.cur with
  | none => d
  | some h =>
    let x := { x with thr := h, job := (d.thr h).job }
    if !d.hasPlace c e then d.modSq c fun s => { s with stall := some (e.num + 8 * rec_, x) }
    else
      let f := d.meetRecord c (64 * rec_) x
      if f.2 then f.1.endMet now (clmAt c x.off) x.job
      else
        let x := if rec_ = 0 then x else f.1.copyRecord c (64 * rec_) x
        (((f.1.bump .CORE_SQ_ISSUE [c]).place c e x).coreAfter now c)

/-- The operand of its pending delay entry is one a thread needs, so its wait is not watched (R409). -/
def Thread.watched (t : Thread) : Bool := match t.delay with | some (_, k) => !bitAt t.need k | none => true

/-- Stores of a core that have not completed at their destination: remote ones, and those held back at their slices. -/
def Dev.storesOut (d : Dev) (c : Nat) : Bool :=
  (d.net.outst.any fun o => match o.who with | .store k => k == c | _ => false) ||
  d.held.any fun h => match h with | .store _ _ _ by_ _ _ => by_ == some c | _ => false

/-- An operation that leaves the sequencer only after every earlier store of the thread has completed (R384, R385, R404): the
merging buffer drains; the operation waits while a store is out. -/
def Dev.afterStores (d : Dev) (now c : Nat) (f : Dev → Dev) : Dev :=
  let d := d.drainMb now c
  if d.storesOut c then d else f d

/-- A thread with a handle is one of the job's; a slot that drains is still its thread's, and discards the token (R384, R394). -/
def Dev.ofJob (d : Dev) (h j : Nat) : Bool := (d.thr h).st != .free && (d.thr h).job == j

/-- The last thread of a job has left it without a job end (R397, R398). -/
def Dev.lastExit (d : Dev) (now j : Nat) : Dev :=
  if d.threads.any fun p => p.2.job == j && p.2.st != .free && p.2.st != .drain then d else d.endJob now j .lastExit

/-- Nothing of an ending job is outstanding: no engine work, no request, no posted operation, no atomic in flight, no writer or
merge it asked for (R397 step 4). -/
def Dev.jobQuiet (d : Dev) (j : Nat) : Bool :=
  let n := j / 4096
  (List.range 8).all (fun i =>
    let k := d.core (n * 8 + i)
    !(k.works fun e => e.job == j) && !k.streaming (some j) && (k.sq.mb.all fun e => e.job != j) &&
    (k.sq.atom.all fun o => o.job != j) &&
    (k.sq.cur.all fun h => (d.thr h).job != j)) &&
  !(d.net.outst.any fun o => o.job == some j && (d.peer o.dst).st != .lost) &&
  !(d.tabs.gwait.any fun r => d.reqJob r == some j) && !(d.tabs.writers.any fun w => d.reqJob { by_ := w.by_ } == some j) &&
  !(d.tabs.parts.any fun p => p.job == some j && (!p.inProg.isEmpty || p.outWr != 0))

/-- The status of a job that has ended told to its creator (R397 step 6, R611). -/
def Dev.reportJob (d : Dev) (now j status : Nat) : Dev :=
  match (d.job j).creator with
  | .query _ _ => d.reportQuery now j status
  | .slot h =>
    match d.handleOp h with
    | some o =>
      let d := d.finish o status (o.results d now)
      let d := match o.cancelBy with | some b => d.finishReq b sOk | none => d
      match o.st with | .suspending b => d.finishReq b eState | _ => d
    | none => d
  | .part id =>
    match d.tabs.parts.find? fun p => p.id == id with
    | some p => d.partEnd now p status
    | none => d

/-- JOB_END_DRAINED: declared objects checked, slots freed, the status reported (R397 steps 5 and 6, R400). -/
def Dev.jobDone (d : Dev) (now j : Nat) : Dev :=
  let b := d.job j
  match b.ending with
  | none => d
  | some cause =>
    if !d.jobQuiet j then d
    else
      let n := j / 4096
      let bad := d.declChanged b
      let d := d.bump .FOR_DECLERR [n] bad
      let d := d.onNet fun t => { t with outst := t.outst.filter fun o => o.job != some j }
      let hs := (d.slotsOf n).filter fun h => (d.thr h).job == j
      let d := hs.foldl Dev.freeThr d
      let d := d.reportJob now j (finalStatus cause b.poison (bad != 0))
      let d : Dev := { d with
        jobs := d.jobs.del j
        cores := d.cores.map fun p => if p.2.sq.ran = some j then (p.1, { p.2 with sq := { p.2.sq with ran := none } }) else p }
      d.schedule now n

end Sys2Proof.Machine
end

