-- ==== Sys2Proof/Machine/RegOps.lean ====
section
/-! DEFINITION. Register accesses: legal values, values computed from the rest of the state, reads and writes through the
views and the mirror (spec/00 R12 to R20, spec/16 R559, spec/19 R633). -/

namespace Sys2Proof.Machine

/-! ### Legal values (R19, R20) -/

/-- The bits that some field of a register names. -/
def Reg.named (r : Reg) : Nat := (r.row.flds.map fun f => (2 ^ f.len - 1) * 2 ^ f.lo).foldl (· ||| ·) 0

/-- The bits of a register's fields of one access code. -/
def Reg.bitsOf (r : Reg) (a : Acc) : Nat :=
  ((r.row.flds.filter fun f => f.acc == a).map fun f => (2 ^ f.len - 1) * 2 ^ f.lo).foldl (· ||| ·) 0

/-- A field lies in a range. -/
def inRange (lo hi x : Nat) : Bool := lo ≤ x && x ≤ hi

/-- The fields of a register with a range of their own (R20): lowest bit, width, and whether the value given lies in the range its
table gives; `c` is the configuration the value is part of. -/
def Reg.checks (r : Reg) (c : Conf) (ix : List Nat) (v : Nat) : List (Nat × Nat × Bool) :=
  let f := Sys2Proof.bitsOf v
  let rng (lo len a b : Nat) : Nat × Nat × Bool := (lo, len, inRange a b (f lo len))
  let pos (lo len : Nat) : Nat × Nat × Bool := (lo, len, 1 ≤ f lo len)
  let mode (lo : Nat) : Nat × Nat × Bool := (lo, 2, f lo 2 != 3)
  match r with
  | .UND_LINKCFG => [rng 0 16 100 60000, rng 16 16 0 60000, rng 32 16 10 60000]
  | .UND_PROGSTORE => [rng 24 16 16 4096]
  | .UND_FLTCFG => [pos 8 16, pos 40 8, pos 48 16]
  | .TEL_PCAP => [rng 1 11 400 1650, rng 12 10 1 1000]
  | .TEL_MGCTL => [mode 0, pos 20 16]
  | .TEL_MTG_CTL => [mode 0, mode 2, pos 7 25]
  | .TEL_MTG_RANGE => [pos 32 32]
  | .TEL_PTG_CTL => [mode 0, mode 2, pos 16 32]
  | .TEL_PTG_FRM => [rng 0 14 64 9216, pos 14 8]
  | .CXL_CMTCFG => [rng 0 16 100 10000]
  | .CXL_CTX => [rng 10 9 0 256]
  | .MEM_ERRCFG => [pos 0 20, pos 20 12]
  | .MEM_PART => [rng 0 9 0 256, rng 9 9 1 256, (0, 18, f 0 9 ≤ f 9 9), pos 18 8]
  | .HBM_THR => [rng 0 8 70 100]
  | .SFX_CFG => [pos 0 16]
  | .SFX_DOM => [rng 19 12 0 0xFFE]
  | .SFX_TMO => [rng 0 16 10 10000, rng 16 16 1 60000, pos 32 8, rng 40 8 1 128, rng 48 16 1 1000]
  | .SFX_CC => [rng 16 16 8 32768, (0, 32, inRange 8 (f 16 16) (f 0 16)), rng 32 16 16 1008, pos 48 16]
  | .ETH_ADDRC => [(0, 10, !bitAt v 0 || inRange 1 (if bitAt v 1 then 128 else 32) (f 2 8))]
  | .ETH_PORT => [rng 0 3 0 4, rng 4 12 0 4094]
  | .ETH_PFC => [(0, 32, Sys2Proof.bitsOf (c.get .ETH_PORT ix) 16 8 == 0 ||
      (inRange 16 1008 (f 0 16) && 8 ≤ f 16 16 && f 16 16 + 8 ≤ f 0 16))]
  | .CLU_PWR => [(20, 24, 1000 ≤ f 20 24)]
  | .CLU_MQCFG => [(0, 5, f 0 5 ≤ 24 || f 0 5 == 31)]
  | .FOR_WTMO => [pos 0 24]
  | .QFE_UDP => [pos 0 16, pos 16 16]
  | .QFE_RASM => [rng 32 16 1 256]
  | .UPD_GAREA | .TBL_HOT => [(32, 10, f 32 10 == 0 || inRange 12 768 (f 32 10))]
  | .TBL_RHT => [rng 36 2 0 2]
  | .TBL_MIG => [mode 0, rng 8 7 1 64, rng 20 20 100 500000, rng 40 12 100 4000, pos 52 8]
  | .TBL_MIGT => [rng 0 20 1000 1000000, pos 20 32, pos 52 4, (56, 8, 2 ≤ f 56 8)]
  | .TBL_MIGS => [(0, 8, 17 ≤ f 0 8)]
  | .TBL_SHB => [rng 20 17 0 65536]
  | .CORE_SPCFG => [rng 24 3 0 5]
  | .CORE_L1CFG => [pos 1 3]
  | _ => []

/-- Every field of a register's value that meets bits `lo + n - 1 .. lo` lies in its range: a write of a half puts nothing into the
fields of the other half (R13, R20). -/
def Reg.legalIn (r : Reg) (c : Conf) (ix : List Nat) (v lo n : Nat) : Bool :=
  (r.checks c ix v).all fun k => k.2.2 || k.1 + k.2.1 ≤ lo || lo + n ≤ k.1

/-- Every field of a register's value lies in its range. -/
def Reg.legal (r : Reg) (c : Conf) (ix : List Nat) (v : Nat) : Bool := r.legalIn c ix v 0 64

/-! ### Values computed from the rest of the state -/

/-- STATE of UND_STATE (R569). -/
def MSt.code : MSt → Nat
  | .off => 0 | .understory => 1 | .boot => 2 | .memtrain => 3 | .linkup => 4 | .run => 5 | .drain => 6 | .recovery => 7
  | .faultHold => 8

/-- The units that are listed in the map-out record, or were mapped out and are about to be (R620). -/
def Mach.outUnits (m : Mach) : Units := m.nv.mapOut.or m.und.newOut

/-- CAP_PART.DEGRADED (R621). -/
def Mach.degraded (m : Mach) : Bool := m.outUnits != {}

/-- The unit counts of CAP_COUNTS and CAP_BUILT (R628). -/
def Units.counts (u : Units) : Nat :=
  popCount 128 u.cores + popCount 16 u.clusters * 2 ^ 8 + popCount 64 u.slices * 2 ^ 16 + popCount 8 u.hbms * 2 ^ 24 +
  popCount 32 u.lpds * 2 ^ 32 + popCount 36 u.ports * 2 ^ 40

/-- The 32 bytes of an event record (R625). -/
def EvRec.bytes (e : EvRec) : List Byte :=
  leBytes 8 e.seq ++ leBytes 8 e.tick ++ leBytes 2 e.code ++ leBytes 1 e.sev ++ leBytes 1 0 ++ leBytes 4 e.unit ++ leBytes 8 e.data

/-- Word `i` of the event records as UND_EVREC shows them (R625). -/
def Und.evWord (u : Und) (i : Nat) : Nat :=
  match u.evLog.find? fun e => e.seq % 64 == i / 4 with
  | some e => recNum e.bytes (i % 4 * 8) 8
  | none => 0

/-- The record registers of the map-out record (R629). -/
def Units.recWord (u : Units) (k : Nat) : Nat :=
  match k with
  | 0 => bitsOf u.cores 0 64
  | 1 => bitsOf u.cores 64 64
  | 2 => u.slices
  | 3 => u.hbms + u.lpds * 2 ^ 8 + u.clusters * 2 ^ 40
  | _ => u.ports

/-- The mean of a rail group's samples over the last millisecond (R636). -/
def Power.avg (p : Power) : Nat := ((p.samples.take 100).foldl (· + ·) 0) / max 1 (p.samples.take 100).length

/-- Bits of units that are leaving, from unit `base` on (R491). -/
def Dev.leavingMask (d : Dev) (base n : Nat) : Nat :=
  ((List.range n).map fun i => if (SMap.get {} d.ext.units (base + i)).leaving then 2 ^ i else 0).foldl (· + ·) 0

/-- Low 16 bits of the epoch a unit has adopted, in place (R562). -/
def Dev.epochBits (d : Dev) (u : Nat) : Nat := SMap.get 0 d.epochs u % 65536 * 2 ^ 48

/-- A channel's error window (R493). -/
def Chan.word (c : Chan) : Nat := min c.ce 0xFFFFF + min c.ue 0xFF * 2 ^ 20 + if c.qual then 2 ^ 28 else 0

/-- FOR_LOAD of a cluster (R415). -/
def Dev.forLoad (d : Dev) (n : Nat) : Nat :=
  let ts := (d.slotsOf n).map d.thr
  let cnt (f : Thread → Bool) : Nat := (ts.filter f).length
  cnt (fun t => t.st == .ready || t.st == .local_) + cnt (fun t => t.st == .wait) * 2 ^ 13 + d.serveLoad n * 2 ^ 26 +
  cnt (fun t => t.st == .running) * 2 ^ 39 + ((d.jobs.filter fun j => j.1 / 4096 == n).length) * 2 ^ 43

/-- FOR_DLY of a cluster: deadline entries, delay entries, and the head entry's tick (R415). -/
def Dev.forDly (d : Dev) (n : Nat) : Nat :=
  let dl := (d.jobs.filter fun j => j.1 / 4096 == n).filterMap fun j => j.2.deadTick
  let de := (d.slotsOf n).filterMap fun h => (d.thr h).delay.map (·.1)
  let head := match dl ++ de with | [] => 0 | t :: r => r.foldl min t
  dl.length + de.length * 2 ^ 13 + head % 2 ^ 32 * 2 ^ 32

/-- DEPTH and ACTIVE of an engine queue (R226, R281). -/
def queueWord (q : List QEnt) : Nat :=
  (q.filter fun e => !e.started).length + if q.any (·.started) then 2 ^ 5 else 0

/-- CORE_RING_s (R311). -/
def Ring.word (r : Ring) : Nat :=
  if r.mode = 0 then 0
  else r.mode + (if r.ended then 4 else 0) + (if r.chain != 0 then 8 else 0) + r.head * 2 ^ 4 + r.tail * 2 ^ 8 +
    (r.slots.filter fun s => s.2.adv && s.2.st == 2).length * 2 ^ 12 + r.rearms.length * 2 ^ 17 + r.pc % 16 * 2 ^ 19

/-- TBL_GBIND_g (R336). -/
def Dev.gbindWord (d : Dev) (g : Nat) : Nat :=
  let gen := recNum (SMap.get [] d.conf.tab.grf g) 48 4
  let cs := d.cores.flatMap fun p => p.2.ge.cmds.filter fun c => 2 ≤ c.op && c.op ≤ 5 && recNum c.ent.rcd 36 1 == g
  let cur := (cs.filter fun c => c.gen == gen).length
  cur + (cs.length - cur) * 2 ^ 16 + gen * 2 ^ 32

/-- Word `n` of a table of images of `w` words. -/
def imgWord (t : SMap (List Byte)) (w n : Nat) : Nat := recNum (SMap.get [] t (n / w)) (n % w * 8) 8

/-- A counter of clk with the clk of what still goes on (R155, R308, R419). -/
def Dev.withOpen (d : Dev) (r : Reg) (ix : List Nat) (n : Nat) : Nat := (d.rd r ix + n) % 2 ^ 32

/-- The clk so far of the stalls of a core that go on and satisfy a test; entry 9 is no stall. -/
def Dev.openStalls (d : Dev) (now c : Nat) (f : Nat × Nat × Nat → Bool) : Nat :=
  (((d.core c).stalls.filter fun p => p.1 != 9 && f p).map fun p => (now - p.2.2) / clkT).foldl (· + ·) 0

/-- The value of a register that is computed from the rest of the state; none where a stored value is read. -/
def Mach.live (m : Mach) (r : Reg) (ix : List Nat) : Option Nat :=
  let d := m.dev
  let u := m.und
  let i := ix.getD 0 0
  let j := ix.getD 1 0
  match r with
  | .CAP_PART => some (setBits (d.rd .CAP_PART) 32 1 (if m.degraded then 1 else 0))
  | .CAP_COUNTS => some d.pres.counts
  | .CAP_CORE0 => some (bitsOf d.pres.cores 0 64)
  | .CAP_CORE1 => some (bitsOf d.pres.cores 64 64)
  | .CAP_CLU => some d.pres.clusters
  | .CAP_SLICE | .CAN_PRESENT => some d.pres.slices
  | .CAP_MEM => some (d.pres.hbms + d.pres.lpds * 2 ^ 8)
  | .CAP_PORT => some d.pres.ports
  | .UND_STATE => some (u.st.code + u.rcvCause * 2 ^ 4 + u.holdCause * 2 ^ 8 + u.source * 2 ^ 12)
  | .UND_CFGFAIL => some (u.cfgFailAt % 2 ^ 48 + u.cfgFailKind * 2 ^ 48)
  | .UND_BOOTT => some (u.bootMs % 65536 + u.trainMs % 65536 * 2 ^ 16 + u.linkMs % 65536 * 2 ^ 32)
  | .UND_BOOTS => some (u.boots % 2 ^ 32)
  | .UND_RCVS => some (u.rcvs % 2 ^ 32)
  | .UND_MRECCTL => some (if u.mrecClear then 2 else 0)
  | .UND_MREC => some (m.nv.mapOut.recWord i)
  | .UND_EVFLAG => some (u.evFlag + u.evMask * 2 ^ 8)
  | .UND_EVSTAT => some u.evSeq
  | .UND_EVREC => some (u.evWord i)
  | .SEC_SPDM => some u.spdm
  | .TEL_TEMP => let s := SMap.get {} u.sensors i; some (s.temp % 256 + s.max % 256 * 2 ^ 8)
  | .TEL_PWR =>
    let p := SMap.get {} u.power i
    some ((p.samples.headD 0) % 65536 + p.avg % 65536 * 2 ^ 16 + p.peak % 65536 * 2 ^ 32)
  | .TEL_PTG_RES => if j != 0 && bitAt d.tel.laneRun i then some (SMap.get 0 d.tel.laneErr (i * 4 + j - 1)) else none
  | .CXL_LINK => some d.host.linkReg
  | .MEM_HBMPRES => some (d.pres.hbms + d.leavingMask 0 8 * 2 ^ 8)
  | .MEM_LPDPRES => some (d.pres.lpds + d.leavingMask 8 32 * 2 ^ 32)
  | .MEM_CAPB => some (24 * popCount 8 d.pres.hbms + 32 * popCount 32 d.pres.lpds * 2 ^ 32)
  | .MEM_STATE => some (d.epochBits 5)
  | .CAN_STATE => some ((if d.canopy.rehome0.isSome || d.canopy.rehome1.isSome then 1 else 0) + d.epochBits 4)
  | .HBM_STAT => let x := SMap.get {} d.ext.units i; some (x.temp % 256 + x.level * 2 ^ 8)
  | .LPD_STAT => some ((SMap.get {} d.ext.units (8 + i)).temp % 256)
  | .HBM_PCERR => some (SMap.get {} d.ext.chans (i * 32 + j)).word
  | .LPD_CHERR => some (SMap.get {} d.ext.chans (256 + i * 4 + j)).word
  | .SFX_ID => some (d.ownId + if d.net.id.isSome then 2 ^ 12 else 0)
  | .SFX_INC => some d.net.inc
  | .SFX_STATE =>
    let cnt (s : PSt) : Nat := (d.net.peers.filter fun p => p.2.st == s).length
    some (cnt .up + cnt .lost * 2 ^ 12 + d.epochBits 6)
  | .ETH_LSTAT => some ((d.port i).up + if d.portMode i = 4 then (d.port i).nbr * 2 ^ 4 else 0)
  | .CLU_PSTATE => let c := d.clu i; some ((if d.cluHere i then c.pst else 3) + c.wake * 2 ^ 2)
  | .SYN_MON =>
    let ms := d.sync.mons.filter fun o => syncHome o.obj == i
    let rs := ms.filter fun o => match o.dst with | .remote _ _ => true | _ => false
    some (ms.length + rs.length * 2 ^ 13)
  | .FOR_LOAD => some (d.forLoad i)
  | .FOR_DLY => some (d.forDly i)
  | .QFE_CTL => some (d.qfe i).ctl
  | .QFE_STATE =>
    let q := d.qfe i
    some ((q.keys.filter Query.active).length + (d.rasmPages i - q.usedPages) * 2 ^ 16 + q.epoch % 65536 * 2 ^ 48)
  | .UPD_STATE =>
    some ((d.tabs.parts.filter (·.started)).length % 256 + d.allBanks.length % 2 ^ 24 * 2 ^ 8 + d.epochBits 3)
  | .UPD_TBIND => some (imgWord d.conf.tab.bind 4 i)
  | .TBL_STATE => some ((d.conf.tab.tbl.filter fun t => tdValid t.2).length + d.epochBits 2)
  | .TBL_DESC => some (imgWord d.conf.tab.tbl 8 i)
  | .TBL_MVSTATE => some (d.tabs.moves.length % 128 + d.tabs.incoming.length % 128 * 2 ^ 8 + d.rentUsed * 2 ^ 16)
  | .TBL_GDESC => some (imgWord d.conf.tab.grf 8 i)
  | .TBL_GBIND => some (d.gbindWord i)
  | .CORE_GE_FULL => some (d.withOpen .CORE_GE_FULL ix (match (d.core i).ge.fullAt with | some t => (u.now - t) / clkT | none => 0))
  | .CORE_SQ_RUN => some (d.withOpen .CORE_SQ_RUN ix (if (d.core i).sq.cur.isSome then (u.now - (d.core i).sq.runAt) / clkT else 0))
  | .CORE_SQ_IDLE => some (d.withOpen .CORE_SQ_IDLE ix (if (d.core i).sq.gated.isSome then (u.now - (d.core i).sq.runAt) / clkT else 0))
  | .CORE_ST => some (d.withOpen .CORE_ST ix (d.openStalls u.now i fun p => (if p.2.1 % 16 = 8 then 0 else p.2.1) == j))
  | .CORE_VE_BUSY => some (d.withOpen .CORE_VE_BUSY ix (d.openStalls u.now i fun p => p.1 == 1))
  | .CORE_ACCFLAGS => some (maskOf 32 (fun a => (d.acc i a).sat) + maskOf 32 (d.accPoisoned i) * 2 ^ 32)
  | .CORE_ACCTYPE => some (maskOf 32 fun a => (d.acc i a).fp)
  | .CORE_LFSR => some (d.lfsr i)
  | .CORE_MEQ => some (queueWord (d.core i).me.q)
  | .CORE_SPCFG => some (d.core i).me.spcfg
  | .CORE_VEQ => some (queueWord (d.core i).ve.q)
  | .CORE_VMASK => some (SMap.get 0 (d.core i).ve.vm j)
  | .CORE_RING => some (d.ring i j).word
  | .CORE_SECMD =>
    let k := d.core i
    some (k.se0.q.length + k.se1.q.length * 2 ^ 3 + k.se0.chains.length * 2 ^ 6)
  | .CORE_L1CFG => some (d.rd .CORE_L1CFG [i] ^^^ 5)
  | .CORE_ATOM_CTL => some 0
  | .CORE_ATOM_RES => some (d.core i).sq.atomRes.toNat
  -- Counts of waits and of line codewords that the spec does not derive from what the commands do: free values, 0 at reset.
  | .CAN_WAIT | .ETH_FECCW | .ETH_FECUNC =>
    some (if u.now = 0 then 0 else Config.freeReg (r.off ix) u.now % 2 ^ 32)
  | _ => none

/-- The fields of shadow registers that the module itself sets (R492, R567). -/
def Mach.shadowRo (m : Mach) (r : Reg) (ix : List Nat) : Nat :=
  match r with
  | .CXL_CMTCFG => if m.dev.host.commits.isEmpty then 0 else 2 ^ 16
  | .MEM_RGN =>
    let o := m.outUnits
    match m.dev.conf.region (ix.getD 0 0) with
    | some g => if g.units.any fun u => if u < 8 then bitAt o.hbms u else bitAt o.lpds (u - 8) then 2 ^ 4 else 0
    | none => 0
  | _ => 0

/-- A register of the page of a stack, package or port that is absent, which reads as zero (R493, R646). -/
def Mach.absentPage (m : Mach) (r : Reg) (ix : List Nat) : Bool :=
  let i := ix.getD 0 0
  if Reg.off .HBM_THR [0] ≤ r.off ix ∧ r.off ix < Reg.off .HBM_THR [8] then !bitAt m.dev.pres.hbms i
  else if Reg.off .LPD_STAT [0] ≤ r.off ix + 8 ∧ r.off ix < Reg.off .LPD_STAT [32] then !bitAt m.dev.pres.lpds i
  else if Reg.off .TEL_MTG_CTL [0] ≤ r.off ix ∧ r.off ix < Reg.off .TEL_MTG_CTL [40] then
    !(if i < 8 then bitAt m.dev.pres.hbms i else bitAt m.dev.pres.lpds (i - 8))
  else if Reg.off .TEL_PTG_CTL [0] ≤ r.off ix ∧ r.off ix < Reg.off .TEL_PTG_CTL [36] then !bitAt m.dev.pres.ports i
  else false

/-- The value of a register: of a shadow register, its shadow, or the value in force (R559). -/
def Mach.regValue (m : Mach) (r : Reg) (ix : List Nat) (force : Bool) : Nat :=
  if m.absentPage r ix then 0
  else match m.live r ix with
  | some v => v
  | none =>
    if r.row.view = .shadow then
      let v := (if force then m.dev.conf else m.dev.shad).get r ix &&& r.named
      let v := if r = .CAN_MODE then v &&& m.dev.pres.slices else v
      let v := if r = .ETH_PORT && !bitAt m.dev.pres.ports (ix.getD 0 0) then setBits v 0 3 0 else v
      v + m.shadowRo r ix
    else m.dev.rd r ix

/-! ### Accesses -/

/-- Through which window an access comes (R12, R14, R559). -/
inductive View where
  | priv | mirror | user
  deriving DecidableEq, Repr, Inhabited

/-- The atomic registers of a core (R438). -/
def Reg.atomic (r : Reg) : Bool :=
  r == .CORE_ATOM_ADDR || r == .CORE_ATOM_ARG || r == .CORE_ATOM_ARG2 || r == .CORE_ATOM_CTL || r == .CORE_ATOM_RES

/-- An access of a size at an offset is a naturally aligned 32-bit or 64-bit one (R13). -/
def regSized (o size : Nat) : Bool := (size == 4 || size == 8) && o % size == 0

def Mach.regErr (m : Mach) : Mach := m.onDev Dev.regErr

/-- The fields that a read clears, when the half read holds them (R16). -/
def Mach.readClears (m : Mach) (r : Reg) (ix : List Nat) (lo n : Nat) : Mach :=
  let i := ix.getD 0 0
  let has (f n' : Nat) : Bool := lo ≤ f && f + n' ≤ lo + n
  match r with
  | .TEL_TEMP => if has 8 8 then m.onUnd fun u => { u with sensors := u.sensors.mod {} i fun s => { s with max := 0 } } else m
  | .TEL_PWR => if has 32 16 then m.onUnd fun u => { u with power := u.power.mod {} i fun p => { p with peak := 0 } } else m
  | .FOR_WAITMAX => if has 0 32 then m.onDev fun d => d.wr .FOR_WAITMAX [i] 0 else m
  | _ => m

/-- A read of `size` bytes at an offset of a view; `by_` is the core whose sequencer reads (R12 to R16, R438, R559). -/
def Mach.readReg (m : Mach) (vw : View) (by_ : Option Nat) (o size : Nat) : Mach × Nat :=
  if !regSized o size then (m.regErr, 0)
  else match regAt (o / 8 * 8) with
    | none => (m.regErr, 0)
    | some (r, ix) =>
      if vw == .user && r.row.view != .u then (m, 0)
      else if r.atomic && (by_.isNone || by_ != ix.head?) then (m.regErr, 0)
      else
        let lo := o % 8 * 8
        (m.readClears r ix lo (8 * size), bitsOf (m.regValue r ix (vw == .mirror)) lo (8 * size))

/-- A write of QFE_CTL: dropped and counted before RUN (R118) and with a reserved bit set (R19). -/
def Mach.qfeCtl (m : Mach) (t v : Nat) : Mach :=
  if (m.und.st == .run || m.und.st == .drain) && v < 8 then
    m.onDev fun d => d.setQfe t { d.qfe t with ctl := bitsOf v 0 3 }
  else m.regErr

/-- UND_MRECCTL.CLEAR (R620). -/
def Mach.mrecClear (m : Mach) : Mach := m.onUnd fun u => { u with mrecClear := true }

/-- A write of UND_EVFLAG: flags cleared, the mask stored (R626). -/
def Mach.evFlagWrite (m : Mach) (v : Nat) : Mach :=
  m.alertEdge (m.onUnd fun u => { u with evFlag := maskOf 4 (fun i => bitAt u.evFlag i && !bitAt v i), evMask := bitsOf v 8 4 })

/-- What a legal write of a register does: `v` has its RW bits and, in the half written, the other bits as written. -/
def Mach.regAct (m : Mach) (r : Reg) (ix : List Nat) (v : Nat) : Mach :=
  let i := ix.getD 0 0
  let now := m.und.now
  match r with
  | .UND_CTL => m.undCtl v
  | .UND_MRECCTL => if bitAt v 0 then m.mrecClear else m
  | .UND_EVFLAG => m.evFlagWrite v
  | .TEL_HLATCH => m.onDev fun d => d.hlatch now v
  | .TEL_MGCTL => m.onDev fun d => d.marginWrite now v
  | .TEL_MTG_CTL => m.onDev fun d => d.mtgWrite now i v
  | .TEL_PTG_CTL => m.onDev fun d => d.ptgWrite now i v
  | .QFE_CTL => m.qfeCtl i v
  | .CXL_STAT => m.onDev fun d => d.wr .CXL_STAT [] (maskOf 6 fun k => bitAt (d.rd .CXL_STAT) k && !bitAt v k)
  | .CORE_SPCFG => m.onDev fun d => d.modCore i fun k => { k with me := { k.me with spcfg := v &&& Reg.named .CORE_SPCFG } }
  | .CORE_L1CFG => m.onDev fun d => d.wr .CORE_L1CFG [i] ((v &&& Reg.named .CORE_L1CFG) ^^^ 5)
  | .CORE_ATOM_CTL => m.onDev fun d => d.launchAtom now i v
  | _ => if r.bitsOf .rw = 0 then m else m.onDev fun d => d.wr r ix (v &&& r.bitsOf .rw)

/-- A write of `size` bytes at an offset of a view; `by_` is the core whose sequencer writes (R12 to R20, R438, R559, R560). -/
def Mach.writeReg (m : Mach) (vw : View) (by_ : Option Nat) (o size v : Nat) : Mach :=
  if !regSized o size || vw == .mirror then m.regErr
  else match regAt (o / 8 * 8) with
    | none => m.regErr
    | some (r, ix) =>
      let lo := o % 8 * 8
      if vw == .user && r.row.view != .u then m.regErr
      else if r.atomic && (by_.isNone || by_ != ix.head?) then m.regErr
      else if r.row.view = .shadow then
        let x := setBits (m.dev.shad.get r ix) lo (8 * size) v
        let x := x &&& (x ^^^ r.bitsOf .ro)
        m.onDev fun d => { d with shad := { d.shad with reg := d.shad.reg.put 0 (r.off ix) (BitVec.ofNat 64 x) } }
      else
        let x := setBits (m.regValue r ix false &&& r.bitsOf .rw) lo (8 * size) v
        if x &&& r.named != x || !r.legalIn m.dev.conf ix x lo (8 * size) then m.regErr else m.regAct r ix x

end Sys2Proof.Machine
end

