-- ==== Sys2Proof/Machine/ConfCheck.lean ====
section
/-! DEFINITION. The check of a configuration as a whole, at a COMMIT and at start-up (spec/16 R560, R561, spec/17 R590, and each
chapter's rules for its registers and descriptors). -/

namespace Sys2Proof.Machine

/-! ### Failures (R561) -/

/-- A failure found: its status, FAIL_AT and FAIL_KIND. -/
structure Fail where
  status : Nat
  at_ : Nat
  kind : Nat
  deriving DecidableEq, Repr, Inhabited

/-- The order in which failures are reported: by status; then registers by offset, then descriptors by command code and
number (DESIGN CHOICE within a status). -/
def Fail.key (f : Fail) : Nat :=
  (if f.status = eArg then 0 else if f.status = eRange then 1 else 2) * 2 ^ 80 + f.kind * 2 ^ 70 +
  (if f.kind = 1 then f.at_ else f.at_ % 2 ^ 16 * 2 ^ 40 + f.at_ / 2 ^ 16)

def firstFail : List Fail → Option Fail
  | [] => none
  | f :: r =>
    match firstFail r with
    | none => some f
    | some g => if f.key ≤ g.key then some f else some g

/-- What a check works on: the configuration to check; the module as it would be under it, and as it is; whether it is the check
of start-up; the slot of the committing command; ports that may have a MODE. -/
structure Chk where
  c : Conf
  e : Dev
  d : Dev
  boot : Bool
  slot : Option Nat
  ports : Nat
  deriving Inhabited

/-- The module under a configuration and its slice roles. -/
def Dev.under (d : Dev) (c : Conf) : Dev :=
  ({ d with conf := c } : Dev).wr .CAN_ACTIVE [] (c.get .CAN_MODE &&& d.pres.slices)

/-- A register differs from its value in force; every register is new at start-up. -/
def Chk.changed (k : Chk) (r : Reg) (ix : List Nat := []) : Bool := k.boot || k.c.get r ix != k.d.conf.get r ix

def regFail (st : Nat) (r : Reg) (ix : List Nat := []) : Fail := ⟨st, r.off ix, 1⟩
def descFail (st opc num : Nat) : Fail := ⟨st, opc + num % 2 ^ 32 * 2 ^ 16, 2⟩

/-- A failure where a condition holds. -/
def when_ (b : Bool) (f : Fail) : List Fail := if b then [f] else []

/-! ### Fields and ranges (R19, R20) -/

/-- Every index of a register's instances. -/
def dimAll : List (Nat × Nat) → List (List Nat)
  | [] => [[]]
  | (_, n) :: ds => (List.range n).flatMap fun i => (dimAll ds).map (i :: ·)

def shadowRegs : List Reg := Reg.all.filter fun r => r.row.view == .shadow

/-- A reserved bit or a value outside its range, in any shadow register. -/
def Chk.fields (k : Chk) : List Fail :=
  shadowRegs.flatMap fun r => (dimAll r.row.dims).flatMap fun ix =>
    let v := k.c.get r ix
    when_ (v &&& r.named != v || !r.legal k.c ix v) (regFail eArg r ix)

/-! ### Areas that registers name -/

/-- An area outside HBM3E and, where allowed, the Clearings of the configuration. -/
def Chk.outside (k : Chk) (a n : Nat) (hbm clear : Bool) : Bool :=
  !((hbm && a + n ≤ 8 * hbmSize) || (clear && inClearings (k.e.rd .CAN_ACTIVE) a n))

/-- The failures of an area: a register that changed is reported itself; one that a change of slice roles leaves without its
Clearings is reported at CAN_MODE (R425). -/
def Chk.area (k : Chk) (r : Reg) (ix : List Nat) (a n : Nat) (hbm clear : Bool) : List Fail :=
  let out := k.outside a n hbm clear
  if k.changed r ix then when_ out (regFail eArg r ix) ++ when_ (!out && !k.e.rangeOk a n) (regFail eRange r ix)
  else when_ (out && k.changed .CAN_MODE) (regFail eArg .CAN_MODE)

def Chk.f (k : Chk) (r : Reg) (ix : List Nat) (lo len : Nat) : Nat := bitsOf (k.c.get r ix) lo len

/-- The region of a front end's reassembly (R117). -/
def Chk.rasm (k : Chk) (t : Nat) : Nat × Nat := (k.f .QFE_RASM [t] 0 32 * 4096, k.f .QFE_RASM [t] 32 16 * 2 ^ 20)

/-- Reassembly regions (R118). -/
def Chk.rasmFails (k : Chk) : List Fail :=
  [0, 1].flatMap fun t =>
    let a := k.rasm t
    let b := k.rasm (1 - t)
    k.area .QFE_RASM [t] a.1 a.2 false true ++
    when_ (k.changed .QFE_RASM [t] && (overlap a.1 a.2 b.1 b.2).2 != 0) (regFail eArg .QFE_RASM [t]) ++
    when_ (!k.boot && k.changed .QFE_RASM [t] && (k.d.qfe t).keys.any Query.active) (regFail eNonatomic .QFE_RASM [t])

/-- A sharded table with a gather command, writer or move active (R187). -/
def Dev.shardedBusy (d : Dev) : Bool :=
  d.conf.tab.tbl.any fun p => tdValid p.2 && tdSharded p.2 &&
    (d.tableBusy p.1 || d.tabs.moves.any (·.table == p.1) || d.tabs.incoming.any (·.table == p.1))

/-- The row-home table, the hot area and the shard entries (R157, R187). -/
def Chk.tblFails (k : Chk) : List Fail :=
  let e := k.e
  let len := (e.shardCap + e.rowCap) * 64 + e.shardCap * 32
  let shb (t : Nat) : Nat × Nat := (k.f .TBL_SHB [t] 0 20, k.f .TBL_SHB [t] 20 17)
  let used := (List.range 4096).filter fun t => (shb t).2 != 0
  k.area .TBL_RHT [] e.rhtBase len true true ++
  (if e.hotLen = 0 then [] else k.area .TBL_HOT [] e.hotBase e.hotLen false true) ++
  when_ (!k.boot && k.changed .TBL_RHT && k.d.shardedBusy) (regFail eNonatomic .TBL_RHT) ++
  (List.range 4096).flatMap fun t =>
    let x := shb t
    let c := k.changed .TBL_SHB [t]
    when_ (c && x.2 != 0 && used.any fun u => u != t && (overlap x.1 x.2 (shb u).1 (shb u).2).2 != 0) (regFail eArg .TBL_SHB [t]) ++
    when_ (c && x.2 != 0 && e.shardCap < x.1 + x.2) (regFail eRange .TBL_SHB [t]) ++
    when_ (!k.boot && c && k.d.shardedBusy) (regFail eNonatomic .TBL_SHB [t])

/-- The gradient area (R371). -/
def Chk.updFails (k : Chk) : List Fail :=
  let n := k.f .UPD_GAREA [] 32 10 * 2 ^ 20
  (if n = 0 then [] else k.area .UPD_GAREA [] (k.f .UPD_GAREA [] 0 32 * 4096) n false true) ++
  when_ (!k.boot && k.changed .UPD_GAREA && !k.d.allBanks.isEmpty) (regFail eNonatomic .UPD_GAREA)

/-- Some peer is UP. -/
def Dev.peerUp (d : Dev) : Bool := d.net.peers.any fun p => p.2.st == .up

/-- The address of an address entry, with its family. -/
def Conf.ethAddr (c : Conf) (n : Nat) : Bool × Nat :=
  (bitAt (c.get .ETH_ADDRC [n]) 1, c.get .ETH_ADDRL [n] + c.get .ETH_ADDRH [n] * 2 ^ 64)

/-- Fabric and Ethernet (R530, R537, R539). -/
def Chk.netFails (k : Chk) : List Fail :=
  let up := !k.boot && k.d.peerUp
  let valid (n : Nat) : Bool := bitAt (k.c.get .ETH_ADDRC [n]) 0
  let idn := k.f .SFX_IDTAB [] 32 12 * 16
  k.area .SFX_RT [] (k.f .SFX_RT [] 0 32 * 4096) 0x20000 true true ++
  when_ (k.changed .SFX_IDTAB && idn != 0 && !k.e.memOk (k.f .SFX_IDTAB [] 0 32 * 4096) idn) (regFail eRange .SFX_IDTAB) ++
  when_ (up && k.changed .SFX_RT) (regFail eNonatomic .SFX_RT) ++
  when_ (up && k.f .SFX_DOM [] 0 16 != bitsOf (k.d.conf.get .SFX_DOM) 0 16) (regFail eNonatomic .SFX_DOM) ++
  ((List.range 8).flatMap fun n =>
    when_ (valid n && (List.range 8).any fun j => j != n && valid j && k.c.ethAddr j == k.c.ethAddr n &&
      (k.changed .ETH_ADDRC [n] || k.changed .ETH_ADDRL [n] || k.changed .ETH_ADDRH [n] || k.changed .ETH_ADDRC [j] ||
       k.changed .ETH_ADDRL [j] || k.changed .ETH_ADDRH [j])) (regFail eArg .ETH_ADDRC [n])) ++
  (List.range 36).flatMap fun n =>
    when_ (k.changed .ETH_PORT [n] && k.f .ETH_PORT [n] 0 3 != 0 && !bitAt k.ports n) (regFail eRange .ETH_PORT [n])

/-- First slot group and groups of a context. -/
def Conf.ctxGroups (c : Conf) (n : Nat) : Nat × Nat := (bitsOf (c.get .CXL_CTX [n]) 2 8, bitsOf (c.get .CXL_CTX [n]) 10 9)

/-- A slot other than the committing one is PENDING, among those of some groups. -/
def Chk.pendingIn (k : Chk) (lo n : Nat) : Bool :=
  k.d.host.ops.any fun o => o.st != .suspended && o.st != .covering && o.st != .final && some o.slot != k.slot &&
    decide (lo * 16 ≤ o.slot ∧ o.slot < (lo + n) * 16)

/-- The host port (R549, R567). -/
def Chk.cxlFails (k : Chk) : List Fail :=
  let on (n : Nat) : Bool := bitAt (k.c.get .CXL_CTX [n]) 0
  k.area .CXL_CMDBASE [] (k.f .CXL_CMDBASE [] 0 24 * 2 ^ 20) 0x100000 true false ++
  when_ (!k.boot && k.changed .CXL_CMDBASE && k.pendingIn 0 256) (regFail eNonatomic .CXL_CMDBASE) ++
  ((List.range 64).flatMap fun n =>
    let g := k.c.ctxGroups n
    let o := k.d.conf.ctxGroups n
    when_ (256 < g.1 + g.2 || (on n && (List.range 64).any fun j => j != n && on j &&
      (overlap g.1 g.2 (k.c.ctxGroups j).1 (k.c.ctxGroups j).2).2 != 0)) (regFail eArg .CXL_CTX [n]) ++
    when_ (!k.boot && (g != o || on n != bitAt (k.d.conf.get .CXL_CTX [n]) 0) && (k.pendingIn g.1 g.2 || k.pendingIn o.1 o.2))
      (regFail eNonatomic .CXL_CTX [n])) ++
  (List.range 8).flatMap fun n =>
    when_ (!k.boot && k.changed .CXL_HDMMAP [n] && (SMap.get {} k.d.host.decs n).on) (regFail eNonatomic .CXL_HDMMAP [n])

/-- The program store (R580, R603). -/
def Chk.undFails (k : Chk) : List Fail :=
  k.area .UND_PROGSTORE [] (k.f .UND_PROGSTORE [] 0 24 * 2 ^ 20) (k.f .UND_PROGSTORE [] 24 16 * 2 ^ 20) true false ++
  when_ (!k.boot && k.changed .UND_PROGSTORE && !k.d.progs.isEmpty) (regFail eNonatomic .UND_PROGSTORE)

/-! ### External memory and slice roles -/

/-- The version arrays, and version words of shard and row entries, that lie in HBM3E or LPDDR5X, by their DLAs (R123). -/
def Dev.verAreas (d : Dev) : List (Nat × Nat) :=
  let two (td : List Byte) (v s n : Nat) : List (Nat × Nat) :=
    ((v, n) :: if tdShadow td then [(s, n)] else []).filter fun p => p.1 < clearBase
  d.conf.tab.tbl.flatMap fun p =>
    let td := p.2
    if !tdValid td || !tdVersioned td then []
    else if !tdSharded td then two td (tdF td 24 8) (tdF td 40 8) (tdRows td * 8)
    else
      let sh := (List.range (d.cfgF .TBL_SHB [p.1] 20 17)).flatMap fun s =>
        match d.shardIx p.1 s with
        | some ix =>
          let x := d.entAt (d.shardEntAt ix)
          if x.state = 0 then []
          else two td x.verB x.sverB (2 ^ tdShift td * 8)
        | none => []
      let rows := (d.tabs.rent.filter fun q => q.1 / 2 ^ 40 == p.1).flatMap fun q =>
        match q.2 with
        | some ix => let x := d.entAt (d.rowEntAt ix); two td x.verB x.sverB 8
        | none => []
      sh ++ rows

/-- Some cache-mode slice is present. -/
def Dev.anyCache (d : Dev) : Bool := !(d.cacheSlices 0).isEmpty

/-- Units that a region names. -/
def Conf.regionUnits (c : Conf) (n : Nat) : List Nat :=
  match c.region n with | some g => g.units | none => []

/-- The pieces of a region's entry. -/
def Conf.pieces (c : Conf) (n : Nat) : List (Nat × Nat) :=
  match c.region n with | some g => g.units.map fun u => (unitBase u + g.uoff, g.psize) | none => []

/-- A valid region entry that no module has (R464, R466). -/
def Conf.regionBad (c : Conf) (n : Nat) : Bool :=
  match c.region n with
  | none => false
  | some g =>
    let cnt := popCount 32 (c.get .MEM_RGNM [n])
    g.attr == 3 || g.psize == 0 || !([1, 2, 4, 8, 16, 32].contains cnt) || (g.kind == 0 && 8 < cnt) ||
    (g.kind == 0 && bitsOf (c.get .MEM_RGNM [n]) 8 24 != 0) || (if g.kind = 0 then hbmSize else lpdSize) < g.uoff + g.psize ||
    (List.range 64).any fun j => j != n && (c.pieces n).any fun p => (c.pieces j).any fun q => (overlap p.1 p.2 q.1 q.2).2 != 0

/-- Regions and partitions (R466, R478): a change to the region table has every entry of it checked. -/
def Chk.memFails (k : Chk) : List Fail :=
  let vers := k.e.verAreas
  let any := (List.range 64).any fun n => k.changed .MEM_RGN [n] || k.changed .MEM_RGNM [n]
  let sum := ((List.range 16).map fun p => k.f .MEM_PART [p] 0 9).foldl (· + ·) 0
  when_ (256 < sum && (List.range 16).any fun p => k.changed .MEM_PART [p]) (regFail eArg .MEM_PART [0]) ++
  (List.range 64).flatMap fun n =>
    let ch := k.changed .MEM_RGN [n] || k.changed .MEM_RGNM [n]
    let unc := match k.c.region n with | some g => g.attr == 2 | none => false
    let gone := (k.c.regionUnits n).any fun u => !k.d.unitHere u
    when_ (any && k.c.regionBad n) (regFail eArg .MEM_RGN [n]) ++
    when_ (any && unc && (k.c.pieces n).any fun p => vers.any fun v => (overlap p.1 p.2 v.1 v.2).2 != 0) (regFail eArg .MEM_RGN [n]) ++
    when_ (any && gone) (regFail eRange .MEM_RGN [n]) ++
    when_ (!k.boot && ch && (k.c.pieces n ++ k.d.conf.pieces n).any fun p => !k.d.drained p.1 p.2) (regFail eNonatomic .MEM_RGN [n])

/-- Slice roles (R425): what lies in Clearings is checked with each area. -/
def Chk.canFails (k : Chk) : List Fail :=
  let old := k.d.rd .CAN_ACTIVE
  let new := k.e.rd .CAN_ACTIVE
  when_ (k.changed .CAN_MODE && !k.e.anyCache && !k.e.verAreas.isEmpty) (regFail eArg .CAN_MODE) ++
  when_ (!k.boot && (List.range 64).any fun s => bitAt old s && !bitAt new s && bitAt k.d.pres.slices s &&
    !k.d.drained (clearBase + s * sliceSize) sliceSize) (regFail eNonatomic .CAN_MODE)

/-! ### Descriptors -/

/-- An entry of a table of the configuration was set since the values in force. -/
def Chk.newDesc (k : Chk) (f : Tabs → SMap (List Byte)) (n : Nat) : Bool :=
  k.boot || SMap.get [] (f k.c.tab) n != SMap.get [] (f k.d.conf.tab) n

/-- The entries of a table that were set. -/
def Chk.descs (k : Chk) (f : Tabs → SMap (List Byte)) : List (Nat × List Byte) := (f k.c.tab).filter fun p => k.newDesc f p.1

/-- Input kinds of a record or program: no reserved kind below `n`, zero from there on (R102, R103). -/
def kindsOk (v n : Nat) : Bool := v / 2 ^ (2 * n) == 0 && (List.range n).all fun s => bitsOf v (2 * s) 2 != 3

/-- A program image is one R579 describes. -/
def progImgOk (b : List Byte) : Bool :=
  let code := recNum b 8 4
  recNum b 0 1 == 1 && inRange 1 64 (recNum b 1 1) && recNum b 2 2 == 0 && code % 4 == 0 && recNum b 12 4 % 64 == 0 &&
  recNum b 16 4 % 4 == 0 && recNum b 16 4 < code && recNum b 20 12 == 0 && recNum b 48 16 == 0 &&
  kindsOk (recNum b 32 16) (recNum b 1 1) && 64 + roundUp code 64 + recNum b 12 4 + 8 ≤ b.length

/-- Programs (R555, R579). -/
def Chk.progFails (k : Chk) : List Fail :=
  (k.descs (·.prog)).flatMap fun p => when_ (!progImgOk p.2 || recNum p.2 4 4 != p.1) (descFail eArg 0x0117 p.1)

/-- A class descriptor is illegal under a configuration (R103). -/
def classBad (c : Conf) (clusters : Nat) (b : List Byte) : Bool :=
  let n := recNum b 5 1
  let p := SMap.get [] c.tab.prog (recNum b 8 4)
  bitsOf (recNum b 0 1) 4 4 != 0 || !inRange 1 64 (recNum b 1 1) || 3 < recNum b 2 1 || 7 < recNum b 3 1 || 15 < recNum b 4 1 ||
  !inRange 1 64 n || !inRange 1 8192 (recNum b 6 2) || !inRange 1 (recNum b 16 4) (recNum b 12 4) ||
  !inRange 1 1000000 (recNum b 16 4) || !inRange 1 4096 (recNum b 26 2) || !inRange 32 1048576 (recNum b 28 4) ||
  !kindsOk (recNum b 32 16) n || recNum b 48 16 != 0 || p.isEmpty || recNum p 1 1 != n ||
  recNum p 32 16 != recNum b 32 16 || (bitAt (recNum b 0 1) 0 && recNum b 24 2 &&& clusters == 0)

/-- Classes: those set, and those whose program was (R103). -/
def Chk.clsFails (k : Chk) : List Fail :=
  k.c.tab.cls.flatMap fun p =>
    when_ ((k.newDesc (·.cls) p.1 || k.newDesc (·.prog) (recNum p.2 8 4)) && classBad k.c k.d.pres.clusters p.2)
      (descFail eArg 0x0116 p.1)

/-- A range of the map that some module's memory could hold. -/
def inMap (a n : Nat) : Bool :=
  a + n ≤ 8 * hbmSize || (lpdBase ≤ a && a + n ≤ lpdBase + 32 * lpdSize) || (clearBase ≤ a && a + n ≤ clearBase + 64 * sliceSize)

/-- An area of a descriptor outside present memory; at start-up one that an absent unit holds is adopted (R590). -/
def Chk.gone (k : Chk) (a n : Nat) : Bool := n != 0 && (if k.boot then !inMap a n else !k.e.memOk a n)

/-- Two areas of a list overlap. -/
def overlaps (l : List (Nat × Nat)) : Bool :=
  (List.range l.length).any fun i => (List.range i).any fun j =>
    (overlap (l.getD i (0, 0)).1 (l.getD i (0, 0)).2 (l.getD j (0, 0)).1 (l.getD j (0, 0)).2).2 != 0

/-- The areas of an unsharded table's descriptor, and its default row. -/
def tdAreas (td : List Byte) : List (Nat × Nat) :=
  let own := if tdSharded td then []
    else
      [(tdF td 16 8, storeLen (tdB td) (tdRows td))] ++
      (if tdVersioned td then [(tdF td 24 8, tdRows td * 8)] else []) ++
      (if tdShadow td then [(tdF td 32 8, storeLen (tdB td) (tdRows td)), (tdF td 40 8, tdRows td * 8)] else [])
  own ++ if tdDefZero td then [] else [(tdDef td, tdB td)]

/-- A VALID table descriptor is illegal (R122, R123). -/
def tableBad (td : List Byte) : Bool :=
  let f := tdF td 0 1
  let sh := tdSharded td
  bitsOf f 6 2 != 0 || !([0, 1, 3, 4, 5].contains (tdF td 1 1)) || !inRange 1 32 (tdF td 2 1) || tdBackoff td == 0 ||
  (sh && !inRange 10 24 (tdShift td)) || tdF td 5 3 != 0 || !inRange 1 (2 ^ 40) (tdRows td) || tdF td 60 4 != 0 ||
  tdF td 16 8 % 256 != 0 || tdF td 24 8 % 64 != 0 || tdF td 32 8 % 256 != 0 || tdF td 40 8 % 64 != 0 ||
  (!tdVersioned td && tdF td 24 8 != 0) || (!tdShadow td && (tdF td 32 8 != 0 || tdF td 40 8 != 0)) ||
  tdDef td % 32 != 0 || (tdDefZero td && tdDef td != 0) || (tdShadow td && !tdVersioned td) || (!tdDefZero td && tdDef td == 0) ||
  overlaps (tdAreas td)

/-- A change of a descriptor that commits while the table is in use (R124). -/
def tableMild (old new : List Byte) : Bool :=
  let strip (td : List Byte) : List Byte :=
    let f := setBits (setBits (tdF td 0 1) 3 1 0) 4 1 0
    let td := putAt td 0 (leBytes 1 f)
    let td := putAt td 3 (leBytes 1 0)
    let td := putAt td 8 (leBytes 8 0)
    let td := putAt td 48 (leBytes 12 0)
    td.take 64
  strip old == strip new && tdRows old ≤ tdRows new

/-- Tables (R122 to R124, R187). -/
def Chk.tableFails (k : Chk) : List Fail :=
  let unc (td : List Byte) : Bool :=
    let vs := if tdSharded td || !tdVersioned td then []
      else [tdF td 24 8] ++ if tdShadow td then [tdF td 40 8] else []
    vs.any fun a => a < clearBase && (!k.e.anyCache || (List.range 64).any fun n =>
      (match k.c.region n with | some g => g.attr == 2 | none => false) &&
      (k.c.pieces n).any fun p => (overlap p.1 p.2 a (tdRows td * 8)).2 != 0)
  (k.descs (·.tbl)).flatMap fun p =>
    let td := p.2
    let t := p.1
    let old := SMap.get [] k.d.conf.tab.tbl t
    let v := tdValid td
    when_ (v && (tableBad td || unc td)) (descFail eArg 0x0121 t) ++
    when_ (v && (tdAreas td).any fun a => k.gone a.1 a.2) (descFail eRange 0x0121 t) ++
    when_ (v && tdSharded td && k.f .TBL_SHB [t] 20 17 * 2 ^ tdShift td < tdRows td) (descFail eRange 0x0121 t) ++
    when_ (!k.boot && !tableMild old td && k.d.tableBusy t) (descFail eNonatomic 0x0121 t)

/-- Sharded tables whose reserved entries a change of TBL_SHB leaves too few for their rows (R187). -/
def Chk.shbRows (k : Chk) : List Fail :=
  k.c.tab.tbl.flatMap fun p =>
    when_ (!k.boot && !k.newDesc (·.tbl) p.1 && k.changed .TBL_SHB [p.1] && tdValid p.2 && tdSharded p.2 &&
      k.f .TBL_SHB [p.1] 20 17 * 2 ^ tdShift p.2 < tdRows p.2) (regFail eRange .TBL_SHB [p.1])

/-- Graphs (R313): a COMMIT checks every descriptor that it sets; of an image only those with VALID are checked (DEDUCED, log 56: an
image holds no word for the graphs that it leaves out). -/
def Chk.graphFails (k : Chk) : List Fail :=
  (k.descs (·.grf)).flatMap fun p =>
    let b := p.2
    let f (o n : Nat) : Nat := recNum b o n
    let areas := [(f 16 8, f 8 8 * 8), (f 24 8, f 32 8 * 8)] ++ if f 4 4 = 0 then [] else [(f 40 8, f 4 4 * 32)]
    let v := bitAt (f 0 1) 0 || !k.boot
    when_ (v && (bitsOf (f 0 1) 2 6 != 0 || f 1 1 != 0 || !inRange 64 4096 (f 2 2) || f 2 2 % 64 != 0 ||
      !inRange 1 (2 ^ 40) (f 8 8) || !inRange 1 (2 ^ 44) (f 32 8) || f 16 8 % 64 != 0 || f 24 8 % 64 != 0 || f 40 8 % 64 != 0 ||
      (f 4 4 == 0 && f 40 8 != 0) || f 52 12 != 0 || overlaps areas)) (descFail eArg 0x0124 p.1) ++
    when_ (v && areas.any fun a => k.gone a.1 a.2) (descFail eRange 0x0124 p.1)

/-- Parts that run and use an update program. -/
def Dev.partsUse (d : Dev) (id : Nat) : Bool :=
  d.tabs.parts.any fun p => p.started &&
    recNum (if p.layer then SMap.get [] d.conf.tab.layer p.target else SMap.get [] d.conf.tab.bind p.target)
      (if p.layer then 2 else 1) 1 == id

/-- Update programs (R347 to R351). -/
def Chk.uprFails (k : Chk) : List Fail :=
  (k.descs (·.upr)).flatMap fun p =>
    when_ (p.1 == 0 || 64 ≤ p.1 || !(UProg.parse p.2).ok) (descFail eArg 0x0126 p.1) ++
    when_ (!k.boot && k.d.partsUse p.1) (descFail eNonatomic 0x0126 p.1)

/-- A program number that names a loaded update program. -/
def Conf.hasUpr (c : Conf) (id : Nat) : Bool := id == 0 || !(SMap.get [] c.tab.upr id).isEmpty

/-- A GMERGE of a table (`op` 1) or of a layer (`op` 2) is active on this module (R355, R359). -/
def Dev.merging (d : Dev) (op t : Nat) : Bool :=
  d.cores.any fun p => p.2.mq.q.any fun x => x.started && recNum x.rcd 0 1 == op && recNum x.rcd 2 2 % 4096 == t

/-- Requests for rows that wait: for gradient space, in a move's queues, for the commit of a move, for the fabric share. -/
def Dev.waitingReqs (d : Dev) : List RowReq :=
  d.tabs.gwait ++ (d.tabs.moves.flatMap fun m => m.before ++ m.after ++ m.full) ++ (d.tabs.incoming.flatMap (·.held)) ++ d.tabs.fwdQ.map (·.2)

/-- A merge or an update of a table is active (R355). -/
def Dev.updating (d : Dev) (t : Nat) : Bool :=
  (d.tabs.parts.any fun p => !p.layer && p.target == t) || d.merging 1 t ||
  d.waitingReqs.any fun r => r.table == t && match r.op with | .merge _ _ _ _ => true | _ => false

/-- Bindings (R355). -/
def Chk.bindFails (k : Chk) : List Fail :=
  (k.descs (·.bind)).flatMap fun p =>
    let b := p.2
    let v := bitAt (recNum b 0 1) 0
    let prog := recNum b 1 1
    let naux := (k.e.uprog prog).naux
    when_ (bitsOf (recNum b 0 1) 2 6 != 0 || recNum b 2 6 != 0 || (v && (!k.c.hasUpr prog || (naux != 0 && recNum b 8 8 == 0) ||
      recNum b 8 8 % 256 != 0 || recNum b 16 8 % 64 != 0 || (!bitAt (recNum b 0 1) 1 && recNum b 16 8 != 0) ||
      (naux == 0 && recNum b 8 8 != 0) || (tdSharded (SMap.get [] k.c.tab.tbl p.1) && recNum b 24 8 != 0)))) (descFail eArg 0x0127 p.1) ++
    when_ (!k.boot && k.d.updating p.1) (descFail eNonatomic 0x0127 p.1)

/-- The areas of a layer, and whether they are its gradient banks (R359). -/
def layerAreas (b : List Byte) (naux xs : Nat) : List ((Nat × Nat) × Bool) :=
  let f (o n : Nat) : Nat := recNum b o n
  let nt := f 4 2
  let tiles (a : Nat) : List ((Nat × Nat) × Bool) := [((a, (nt - 1) * f 24 4 + 32 + 4096 * (if f 1 1 = 5 then 2 else 4)), false)]
  tiles (f 8 8) ++ (if bitAt (f 0 1) 1 then tiles (f 16 8) else []) ++
  (if naux = 0 then [] else [((f 32 8, nt * naux * 4096 * xs), false)]) ++ [((f 40 8, 2 * nt * 16384), true)] ++
  (if bitAt (f 0 1) 2 then [((f 48 8, 8 * nt), false)] else []) ++ if bitAt (f 0 1) 3 then [((f 56 8, 4096 * nt / 8), false)] else []

/-- Layers (R359, R425). -/
def Chk.layerFails (k : Chk) : List Fail :=
  k.c.tab.layer.flatMap fun p =>
    let b := p.2
    let f (o n : Nat) : Nat := recNum b o n
    let v := bitAt (f 0 1) 0
    let new := k.newDesc (·.layer) p.1
    let pr := k.e.uprog (f 2 1)
    let own := k.d.isOwn (f 6 2 % 4096)
    let ars := layerAreas b pr.naux pr.xSize
    let dense := 32 + 4096 * (if f 1 1 = 5 then 2 else 4)
    let bad := bitsOf (f 0 1) 5 3 != 0 || !([5, 7].contains (f 1 1)) || !k.c.hasUpr (f 2 1) || f 3 1 != 0 || !inRange 1 1024 (f 4 2) ||
      4096 ≤ f 6 2 || f 8 8 % 64 != 0 || f 16 8 % 64 != 0 || (!bitAt (f 0 1) 1 && f 16 8 != 0) || f 24 4 % 64 != 0 || f 24 4 < dense ||
      2 ^ 17 ≤ f 28 4 || (!bitAt (f 0 1) 2 && f 48 8 != 0) || (!bitAt (f 0 1) 3 && f 56 8 != 0)
    let noClear := own && ars.any fun a => a.2 && !inClearings (k.e.rd .CAN_ACTIVE) a.1.1 a.1.2
    when_ (new && v && (bad || noClear)) (descFail eArg 0x0128 p.1) ++
    when_ (!new && v && noClear && k.changed .CAN_MODE) (regFail eArg .CAN_MODE) ++
    when_ (new && v && own && ars.any fun a => k.gone a.1.1 a.1.2) (descFail eRange 0x0128 p.1) ++
    when_ (!k.boot && new && ((k.d.tabs.parts.any fun q => q.layer && q.target == p.1) || k.d.merging 2 p.1)) (descFail eNonatomic 0x0128 p.1)

/-! ### The program store (R580) -/

/-- Bytes of a program in the store: its code, rounded up to 64, and its data. -/
def progLen (b : List Byte) : Nat := roundUp (recNum b 8 4) 64 + recNum b 12 4

/-- The first free place of `n` bytes in the store, a multiple of 64 (DESIGN CHOICE: first fit). -/
def storeFit (ps : List Prog) (base len n : Nat) : Option Nat :=
  let cands := base :: ps.map fun p => roundUp (p.base + p.size) 64
  let ok (a : Nat) : Bool := base ≤ a && a + n ≤ base + len && ps.all fun p => (overlap a n p.base p.size).2 == 0
  (cands.filter ok).foldl (fun m a => match m with | none => some a | some b => some (min a b)) none

/-- A program's job may still run: it stays in the store when it is replaced (R580). -/
def Dev.progUsed (d : Dev) (p : Prog) : Bool := d.jobs.any fun j => j.2.live && j.2.prog == p.id && j.2.entry == p.entry

/-- The programs set by a configuration placed one after another: the store afterwards, and what is to be written; none when
one does not fit. -/
def Dev.placeProgs (d : Dev) (base len : Nat) : List (Nat × List Byte) → List Prog → Option (List Prog × List (Nat × List Byte))
  | [], ps => some (ps, [])
  | (id, b) :: r, ps =>
    let ps := (ps.map fun p => if p.id = id then { p with old := true } else p).filter fun p => !p.old || d.progUsed p
    match storeFit ps base len (progLen b) with
    | none => none
    | some a =>
      let p : Prog := ⟨id, a, progLen b, a + recNum b 16 4, recNum b 1 1, recNum b 32 16, false⟩
      (d.placeProgs base len r (ps ++ [p])).map fun x =>
        (x.1, (a, (b.drop 64).take (progLen b)) :: x.2)

/-- Base and length of the program store in a configuration. -/
def Conf.progStore (c : Conf) : Nat × Nat :=
  (bitsOf (c.get .UND_PROGSTORE) 0 24 * 2 ^ 20, bitsOf (c.get .UND_PROGSTORE) 24 16 * 2 ^ 20)

/-- A set of programs that does not fit is reported at its last one. -/
def Chk.storeFails (k : Chk) : List Fail :=
  let l := k.descs (·.prog)
  let s := k.c.progStore
  match k.d.placeProgs s.1 s.2 l (if k.boot then [] else k.d.progs) with
  | some _ => []
  | none => [descFail eRange 0x0117 ((l.getLast?.map (·.1)).getD 0)]

/-! ### The whole check -/

/-- Every failure of a configuration. -/
def Chk.fails (k : Chk) : List Fail :=
  k.fields ++ k.rasmFails ++ k.tblFails ++ k.updFails ++ k.netFails ++ k.cxlFails ++ k.undFails ++ k.memFails ++ k.canFails ++
  k.progFails ++ k.clsFails ++ k.tableFails ++ k.shbRows ++ k.graphFails ++ k.uprFails ++ k.bindFails ++ k.layerFails ++ k.storeFails

/-- The first failure of a COMMIT's snapshot (R561). -/
def Dev.checkCommit (d : Dev) (c : Conf) (slot : Nat) : Option Fail :=
  firstFail (Chk.mk c (d.under c) d false (some slot) d.pres.ports).fails

/-- The first failure at start-up; a port that was mapped out reads MODE 0 and fails nothing (R494, R590). -/
def Dev.checkBoot (d : Dev) (c : Conf) (ports : Nat) : Option Fail :=
  firstFail (Chk.mk c (d.under c) d true none ports).fails

end Sys2Proof.Machine
end

