-- ==== Sys2Proof/Machine/MemOps.lean ====
section
/-! DEFINITION. External memory and the Canopy lines over it: bytes transferred and charged, lines written back or discarded,
what a decoding leaves (spec/13 R428, spec/14 R474 to R487). -/

namespace Sys2Proof.Machine

/-! ### Canopy lines leaving -/

/-- The L1 data caches and side buffers of every core invalidated (R427, R467). -/
def Dev.l1ClearAll (d : Dev) : Dev := d.cores.foldl (fun d p => d.l1Clear p.1) d

/-! ### Decoding a read (R484) -/

/-- What a decoding finds: 2 one symbol corrected, 3 uncorrectable, else no error: the granule is clean or marked as it is stored. -/
abbrev Decoded := Nat

/-- A corrected or uncorrectable read counted at its unit and channel; it qualifies the channel at its threshold (R485). True
when the channel has just qualified. -/
def Dev.chanError (d : Dev) (u a : Nat) (ue : Bool) : Dev × Bool :=
  let c := chanNum u (chanOf u a)
  let x : Chan := SMap.get {} d.ext.chans c
  let y : Chan := if ue then { x with ue := x.ue + 1 } else { x with ce := x.ce + 1 }
  let thr := d.cfgF .MEM_ERRCFG [] 0 20
  let uthr := d.cfgF .MEM_ERRCFG [] 32 8
  let now := (thr < y.ce || (uthr != 0 && uthr ≤ y.ue)) && !y.qual
  let z : Chan := if now then { y with qual := true } else y
  (d.onExt fun e => { e with chans := e.chans.put {} c z }, now)

/-- A unit enters LEAVING (R487 step 1). -/
def Dev.unitLeaves (d : Dev) (u : Nat) : Dev :=
  d.onExt fun e => { e with units := e.units.mod {} u fun x => { x with leaving := true } }

/-- An uncorrectable granule at its place `b`: marked, unless a Canopy line still covers it (R484). -/
def Dev.badGranule (d : Dev) (u b : Nat) : Dev :=
  let l := SMap.get {} d.canopy.lines (b / 128)
  if l.here && (d.home u b).isSome then
    { d with canopy := { d.canopy with lines := d.canopy.lines.put {} (b / 128) { l with bad := l.bad ||| 2 ^ (b % 128 / 64) } } }
  else d.spoil b

/-- A channel that qualifies raises its event, and in RUN with AUTO_MAP its unit leaves (R485 to R487). -/
def Mach.qualify (m : Mach) (u c : Nat) : Mach :=
  let x : Chan := SMap.get {} m.dev.ext.chans c
  let m := m.event 0x0102 1 (evUnit 6 c) (x.ce % 2 ^ 32 + x.ue % 256 * 2 ^ 32)
  if m.und.st = .run ∧ m.dev.cfgF .MEM_ERRCFG [] 40 1 = 1 then m.onDev fun d => d.unitLeaves u else m

/-- A read of the 64 bytes at DLA `a`, which lie at place `b` of unit `u`, decoded at the controller (R484): counted, rewritten
where they must be, and the channel looked at. -/
def Mach.decodeAt (m : Mach) (u b a : Nat) (res : Decoded) : Mach :=
  let hbm := u < 8
  let i := if hbm then u else u - 8
  let c := chanNum u (chanOf u b)
  let qual (r : Dev × Bool) (m : Mach) : Mach := if r.2 then m.qualify u c else m
  match res with
  | 2 =>
    let r := ((m.dev.bump (if hbm then .HBM_CE else .LPD_CE) [i]).memBytes u m.dev.maintPart 64).chanError u b false
    qual r { m with dev := r.1 }
  | 3 =>
    let r := (((m.dev.bump (if hbm then .HBM_UE else .LPD_UE) [i]).memBytes u m.dev.maintPart 64).badGranule u b).chanError u b true
    qual r (({ m with dev := r.1 } : Mach).event 0x0101 2 (evUnit 6 c) (a / 64 * 64))
  | _ => if m.dev.mem.marked b then m.onDev fun d => d.bump (if hbm then .HBM_PRD else .LPD_PRD) [i] else m

/-- A read of the granule at a DLA decoded (R484). -/
def Mach.decodeRead (m : Mach) (a : Nat) (res : Decoded) : Mach :=
  match m.dev.target a with
  | .ext u b => m.decodeAt u b a res
  | _ => m

end Sys2Proof.Machine
end

