-- ==== Sys2Proof/Machine/RouteOps.lean ====
section
/-! DEFINITION. The entries of the route table that the module keeps by itself (spec/15 R530). -/

namespace Sys2Proof.Machine

/-- The native ports on which module `k` has said hello. -/
def Dev.nativePorts (d : Dev) (k : Nat) : Nat :=
  maskOf 36 fun n => d.portMode n == 4 && (d.port n).nbrMac != 0 && (d.port n).nbr == k

/-- The Ethernet-mode ports that have a valid address of a family. -/
def Dev.familyPorts (d : Dev) (v6 : Bool) : Nat :=
  maskOf 36 fun n => d.portMode n != 0 && d.portMode n != 4 && (d.addrsOn n).any fun a => a.v6 == v6

/-- A route entry without PIN rebuilt from the native neighbours and the directory; STATE and INC stay. -/
def Dev.rebuildRoute (d : Dev) (k : Nat) : Dev :=
  let r := d.route k
  if r.pin then d
  else
    let n := d.nativePorts k
    if n ≠ 0 then d.setRoute k { r with flags := 5, ports := n, addr := 0 }
    else match d.net.dir.find? fun e => e.module == k with
      | some e => d.setRoute k { r with flags := 1 + (if e.v6 then 2 else 0), ports := d.familyPorts e.v6, addr := e.addr }
      | none => d.setRoute k { r with flags := 0, ports := 0, addr := 0 }

/-- Every entry without PIN of the directory and of native neighbours rebuilt, as ports and addresses have changed. -/
def Dev.rebuildAll (d : Dev) : Dev :=
  let near := (d.net.ports.filter fun p => p.2.nbrMac != 0 && p.2.nbr != 0xFFF).map (·.2.nbr)
  ((d.net.dir.map (·.module) ++ near).filter fun k => d.net.id != some k).foldl Dev.rebuildRoute d

end Sys2Proof.Machine
end

