-- ==== Sys2Proof/Machine/Rows.lean ====
section
/-! DEFINITION. Replacing rows, the steps of a module writer, and row messages at the home and at the requester (spec/04 R132
to R145; spec/05 R161, R162, R176 to R178, R183; spec/15 R521, R534). -/

namespace Sys2Proof.Machine

/-! ### REPLACE_ROWS -/

/-- An index list as numbers. -/
def idxList (n : Nat) (bs : List Byte) : List Nat := (List.range n).map fun i => recNum bs (6 * i) 6

/-- An index of the list is refused (R142): reserved, at or above ROWS, or a row of an unsharded table that lies in a hole. -/
def Dev.idxBad (d : Dev) (t : Nat) (ix : List Nat) : Bool :=
  let td := d.tdesc t
  ix.any fun i => tdRows td ≤ i || (!tdSharded td &&
    let l := locIn td (tdF td 16 8) (tdF td 24 8) (tdF td 32 8) (tdF td 40 8) i
    d.rowHole td l || d.shdHole td l)

/-- The index list of a REPLACE_ROWS that is not in host memory, where it can be read. -/
def Dev.replIdx (d : Dev) (o : HOp) : List Nat :=
  if bitAt (o.f 34 2) 0 || 1048576 < o.f 36 4 || !d.memOk (o.f 40 8) (6 * o.f 36 4) then []
  else idxList (o.f 36 4) (d.bytes (o.f 40 8) (6 * o.f 36 4))

/-- A table whose rows REPLACE_ROWS does not replace (R142). -/
def Dev.replState (d : Dev) (o : HOp) : Bool :=
  let td := d.tdesc (o.f 32 2 % 4096)
  !tdValid td || !tdVersioned td

/-- The checks of R142. Those that come after a bad index of a list in host memory are made when the list has been read (R668). -/
def Dev.replChecks (d : Dev) (o : HOp) : List (Bool × Nat) :=
  let t := o.f 32 2 % 4096
  let host := bitAt (o.f 34 2) 0
  let n := o.f 36 4
  [(4096 ≤ o.f 32 2 || 4 ≤ o.f 34 2 || n == 0 || 1048576 < n || 16 ≤ o.f 56 1 || !o.zero 57 256, eArg),
   (o.f 40 8 % 8 != 0 || o.f 48 8 % 32 != 0, eAlign),
   (!host && (!d.memOk (o.f 40 8) (6 * n) || !d.memOk (o.f 48 8) (tdB (d.tdesc t) * n)), eRange),
   (tdValid (d.tdesc t) && d.idxBad t (d.replIdx o), eRange), (d.replState o && (!host || !tdValid (d.tdesc t)), eState)]

/-- The list read whole: the command is refused, or starts (R142, R143). A poisoned list marks every row it writes (R77). -/
def Dev.replList (d : Dev) (now : Nat) (o : HOp) (bs : List Byte) (poison : Bool) : Dev :=
  let ix := idxList (o.f 36 4) bs
  let st := refusal [(d.idxBad (o.f 32 2 % 4096) ix, eRange), (d.replState o, eState)]
  if st != sOk then d.finish o st []
  else
    let host := bitAt (o.f 34 2) 0
    let r : Repl := { idx := if host then none else some ix, poison := poison }
    let d := d.onTabs fun x => { x with repls := x.repls.put {} o.handle r }
    let d := if d.heldTable (o.f 32 2 % 4096) then d.holdTable (o.f 32 2 % 4096) o.handle else d
    if host then
      let d := d.modRepl o.handle fun r => { r with waiting := ix }
      d.hostAsk now o.slot (o.f 48 8) (tdB (d.tdesc (o.f 32 2 % 4096)) * o.f 36 4) []
    else (d.pumpRepl now o.handle (1 + ix.length)).replEnd now o.handle

/-- What the host answered to a REPLACE_ROWS with SRC_HOST: the index list first, then the rows. `pm` has a bit for each
64-byte granule answered as poisoned. -/
def Dev.replHost (d : Dev) (now : Nat) (o : HOp) (bs : List Byte) (pm : Nat) : Dev :=
  let r := SMap.get {} d.tabs.repls o.handle
  if r = {} then d.replList now o bs (pm != 0)
  else
    let d := d.modRepl o.handle fun r => { r with idx := some r.waiting, waiting := [], host := some bs, hostPm := pm }
    (d.pumpRepl now o.handle (1 + r.waiting.length)).replEnd now o.handle

/-- REPLACE_ROWS (R141 to R145). -/
def execReplaceRows (slot : Nat) (s : State) : Out1 :=
  s.run fun m =>
    let d := m.dev
    { m with dev := d.takeCmd m.und.now slot 0x0120 false d.replChecks fun d o =>
        if bitAt (o.f 34 2) 0 then d.hostAsk m.und.now slot (o.f 40 8) (6 * o.f 36 4) []
        else d.replList m.und.now o (d.bytes (o.f 40 8) (6 * o.f 36 4)) (d.poisoned (o.f 40 8) (6 * o.f 36 4)) }

/-! ### The steps of a writer (R132, R133) -/

/-- A writer that found the word odd tries again after 100 ns; one that a drain held tries once it is free. -/
def execRowClaimRetry (id : Nat) (s : State) : Out1 :=
  s.run fun m =>
    match m.dev.writer? id with
    | some w =>
      match w.st with
      | .retry t =>
        let m := m.atTime t
        { m with dev := m.dev.tryClaim m.und.now w }
      | .held => if m.dev.writerHeld w then m else { m with dev := m.dev.tryClaim m.und.now w }
      | _ => m
    | none => m

/-- The claim has completed at the slice: the writer writes the row (R132); an update's row is computed first (R357), once what it reads
does not wait (R426, R476). -/
def execRowClaimComplete (id : Nat) (fault : Bool) (s : State) : Out1 :=
  s.run fun m =>
    let d := m.dev
    match d.writer? id with
    | some w =>
      if w.st = .claimed then
        let reads := match w.by_, w.sh with
          | .part p, false => match d.part? p with | some p => d.spansWait p.mem (d.updSpans p w) | none => false
          | _, _ => false
        if reads then m else
        let x : Dev × Writer := match w.by_, w.sh with
          | .part p, false => match d.part? p with
            | some p =>
              let y := d.updRow m.und.now p w
              (y.1, { w with data := y.2.1, pm := y.2.2 })
            | none => (d, w)
          | _, _ => (d, w)
        { m with dev := x.1.writeRow x.2 fault }
      else m
    | none => m

/-- Every row write of a writer has completed: it releases the version word, goes on to the shadow copy, or ends (R132, R136,
R139). While a write or the release is held at the slice, nothing happens. -/
def execRowWritesComplete (id : Nat) (fault : Bool) (s : State) : Out1 :=
  s.run fun m =>
    match m.dev.writer? id with
    | some w => if m.dev.mayRelease w then { m with dev := (m.dev.releaseRow m.und.now w fault).settle m.und.now } else m
    | none => m

/-! ### Row messages -/

/-- A message that breaks its layout (R521): counted, and answered E_ARG when it expects an answer. -/
def Dev.badMsg (d : Dev) (now src mtype tag : Nat) (answer : Bool) : Dev :=
  let d := d.bump .SFX_RXBAD
  if answer && (d.peer src).st == .up then d.respond src now mtype eArg tag [] else d

/-- The request of a ROW message with OP `op` (R521). -/
def rowMsg (src tag : Nat) (body : List Byte) (op : RowOp) : RowReq :=
  { by_ := .msg src tag, table := recNum body 2 2 % 4096, row := recNum body 8 8, op := op, fwd := bitAt (recNum body 1 1) 1 }

/-- Reserved fields of a ROW message that are not zero. -/
def rowBad (body : List Byte) (op : Nat) : Bool :=
  body.length < 32 || recNum body 0 1 != op || 4 ≤ recNum body 1 1 || recNum body 26 6 != 0 || 4096 ≤ recNum body 2 2

/-- ROW READ at the module it was sent to (R161, R162). -/
def execRowRead (src tag : Nat) (body : List Byte) (s : State) : Out1 :=
  s.runAt fun now d =>
    let d := d.took (some src) 0x10 tag body
    if rowBad body 0 then d.badMsg now src 0x11 tag true else d.rowReq now (rowMsg src tag body .read)

/-- ROW WRITE (R145, R161, R176). -/
def execRowWrite (src tag : Nat) (body : List Byte) (s : State) : Out1 :=
  s.runAt fun now d =>
    let d := d.took (some src) 0x10 tag body
    let td := d.tdesc (recNum body 2 2 % 4096)
    if rowBad body 1 || (tdValid td && body.length != 32 + tdB td) then d.badMsg now src 0x11 tag true
    else (d.rowReq now (rowMsg src tag body (.write (body.drop 32) 0 (bitAt (recNum body 1 1) 0)))).settle now

/-- ROW MERGE (R183, R184). -/
def execRowMerge (src tag : Nat) (body : List Byte) (s : State) : Out1 :=
  s.runAt fun now d =>
    let d := d.took (some src) 0x10 tag body
    let td := d.tdesc (recNum body 2 2 % 4096)
    let off := recNum body 4 2
    let n := recNum body 6 2
    if rowBad body 2 || n == 0 || 1024 < n || body.length != 32 + 4 * n || (tdValid td && tdElts td < off + n) then
      d.badMsg now src 0x11 tag true
    else
      let xs := (List.range n).map fun i => recNum body (32 + 4 * i) 4
      d.rowReq now (rowMsg src tag body (.merge (recNum body 16 8) off xs false))

/-- ROW LMERGE (R359): a tile row added into the layer's bank. -/
def execRowLmerge (src tag : Nat) (body : List Byte) (s : State) : Out1 :=
  s.runAt fun now d =>
    let d := d.took (some src) 0x10 tag body
    if rowBad body 3 || body.length != 32 + 256 || 2 ^ 22 ≤ recNum body 8 8 then d.badMsg now src 0x11 tag true
    else
      let xs := (List.range 64).map fun i => recNum body (32 + 4 * i) 4
      let x := d.layerMerge (recNum body 2 2) (recNum body 8 2) (recNum body 10 1 % 64) (recNum body 16 8) xs false d.fabPart
      if (x.1.peer src).st = .up then x.1.respond src now 0x11 x.2 tag (rowrBody 0 0 0 []) else x.1

/-- The row of a remote lookup arrives: it is delivered to every lookup that joined its request (R153, R525). -/
def Dev.remoteRow (d : Dev) (now : Nat) (r : RowReq) (pm source att : Nat) (bs : List Byte) : Dev :=
  match d.tabs.readers.find? fun x => x.st == .remote && x.rows.any fun q => q.lks.contains r.by_ with
  | some x => x.rows.foldl (fun d q => d.deliverRow now q.lks bs pm source att) (d.dropReader x.id)
  | none => d.deliverRow now [r.by_] bs pm source att

/-- A read that was redirected is made again at the home that the entry names, or given up after four redirects (R178). -/
def Dev.redirectRead (d : Dev) (now : Nat) (r : RowReq) (e : Ent) : Dev :=
  if 4 ≤ r.redirects then
    let b := d.defRow (d.lookTd r.table r.by_)
    d.remoteRow now r b.2 srcBusy 0 b.1
  else d.followTo now { r with redirects := r.redirects + 1 } e

/-- A row response returns (R178, R523): a row, an acknowledgement, a refusal, or E_STATE with an entry. The entry is adopted, as the HOME
entry of the module that it names, unless that is this one (R159, R177); a request of this module is made again there, and one that was
forwarded for another module is answered with the entry. -/
def Dev.rowr (d : Dev) (now tag status : Nat) (body : List Byte) : Dev :=
  match d.net.outst.find? fun o => o.tag == tag with
  | none => d
  | some o =>
    let d := d.onNet fun t => { t with outst := t.outst.filter fun x => x.tag != tag }
    let status := knownStatus status
    match o.who with
    | .merge c i =>
      d.modCore c fun k => { k with mq := { k.mq with
        outs := k.mq.outs.put none i (match SMap.get none k.mq.outs i with
          | some 0 => some status
          | some x => some x
          | none => some status) } }
    | _ =>
      match SMap.get {} d.tabs.sent tag with
      | r =>
        let d := d.onTabs fun x => { x with sent := x.sent.del tag }
        let reads := match r.op with | .read => true | _ => false
        if status = eState ∧ 80 ≤ body.length then
          let e := Ent.ofBytes (body.drop 16)
          let d := if d.isOwn e.module && e.state != 0 then d else d.adopt e.homeCopy
          match r.by_ with
          | .msg _ _ => d.rowAnswer now r eState e.bytes
          | _ =>
            if reads then d.redirectRead now r e
            else d.followTo now { r with redirects := r.redirects + 1 } e
        else if reads then
          if status = sOk then d.remoteRow now r (recNum body 0 8) (recNum body 8 1) (recNum body 9 1) (body.drop 16)
          else d.lostRead now r
        else d.rowAnswer now r status []

/-- A ROWR breaks its layout (R521): SOURCE, ATTEMPTS and the reserved bytes stand in it, and behind them nothing or the entry with
E_STATE, and with OK nothing or the row. -/
def rowrBad (status : Nat) (body : List Byte) : Bool :=
  (status == sOk && decide (body.length < 16)) || (body.drop 10).take 6 != List.replicate (min 6 (body.length - 10)) 0 ||
  (status == eState && body.length != 16 && body.length != 80 && body.length != 0)

/-- ROWR (R178); one that breaks its layout is dropped and counted (R521). -/
def execRowr (tag status : Nat) (body : List Byte) (s : State) : Out1 :=
  s.run fun m =>
    let cores := m.dev.cores.map (·.1)
    let d := m.dev.took none 0x11 tag body
    if rowrBad status body then { m with dev := d.bump .SFX_RXBAD }
    else { m with dev := cores.foldl (fun d c => d.coreAfter m.und.now c) ((d.rowr m.und.now tag status body).settle m.und.now) }

end Sys2Proof.Machine
end

