-- ==== Sys2Proof/Machine/Shards.lean ====
section
/-! DEFINITION. The commands and events of tables' descriptors, shards, load windows and moves (spec/04 R121; spec/05 R163 to
R182). -/

namespace Sys2Proof.Machine

/-! ### Descriptor commands (R554, R559) -/

def Dev.onShad (d : Dev) (f : Tabs → Tabs) : Dev := { d with shad := { d.shad with tab := f d.shad.tab } }

/-- The checks of a command that writes the shadow of one table. -/
def Dev.setChecks (d : Dev) (idn top n al extra : Nat) (o : HOp) : List (Bool × Nat) :=
  [(top ≤ o.f 32 idn || !o.zero (32 + idn) 40 || !o.zero (48 + extra) 256, eArg), (o.f 40 8 % al != 0, eAlign),
   (!d.memOk (o.f 40 8) n, eRange)]

/-- A command that writes the shadow of one table: an identifier of `idn` bytes below `top` at offset 32, the DLA of an image
of `n` bytes at offset 40, zero elsewhere but for `extra` bytes at 48; the shadow keeps the image, the extra bytes and the
operation's handle, which tells one setting from the next. -/
def Dev.setCmd (d : Dev) (now slot opc idn top n al extra : Nat) (put : Tabs → Nat → List Byte → Tabs) : Dev :=
  d.takeCmd now slot opc true (d.setChecks idn top n al extra)
    fun d o =>
      let img := d.bytes (o.f 40 8) n ++ (o.rcd.drop 48).take extra ++ leBytes 8 o.handle
      (d.onShad fun t => put t (o.f 32 idn) img).finish o sOk []

/-- TBL_SET (R121): TABLE at 32 and the image's DLA at 40 (DEDUCED from the commands of its kind). -/
def execTblSet (slot : Nat) (s : State) : Out1 :=
  s.run fun m => { m with dev := m.dev.setCmd m.und.now slot 0x0121 2 4096 64 64 0 fun t i b => { t with tbl := t.tbl.put [] i b } }

/-- GRAPH_SET (R312). -/
def execGraphSet (slot : Nat) (s : State) : Out1 :=
  s.run fun m => { m with dev := m.dev.setCmd m.und.now slot 0x0124 1 256 64 64 0 fun t i b => { t with grf := t.grf.put [] i b } }

/-- UPD_BIND_SET (R355). -/
def execUpdBindSet (slot : Nat) (s : State) : Out1 :=
  s.run fun m => { m with dev := m.dev.setCmd m.und.now slot 0x0127 2 4096 32 32 0 fun t i b => { t with bind := t.bind.put [] i b } }

/-- LAYER_SET (R359). -/
def execLayerSet (slot : Nat) (s : State) : Out1 :=
  s.run fun m => { m with dev := m.dev.setCmd m.und.now slot 0x0128 2 1024 64 64 8 fun t i b => { t with layer := t.layer.put [] i b } }

/-- UPD_PROG_SET (R347): the image is its header and its NOPS words. -/
def execUpdProgSet (slot : Nat) (s : State) : Out1 :=
  s.run fun m =>
    let d := m.dev
    let n := match d.queuedOp slot 0x0126 with | some o => 8 + 8 * (d.num (o.f 40 8) 1 % 64) | none => 8
    { m with dev := d.setCmd m.und.now slot 0x0126 1 64 n 8 0 fun t i b => { t with upr := t.upr.put [] i b } }

/-! ### SHARD_SET and MIGRATE -/

/-- An entry image's version arrays lie in an uncached region, or outside Clearings without a cache-mode slice (R123). -/
def Dev.verUncached (d : Dev) (td : List Byte) (e : Ent) : Bool :=
  let n := 2 ^ tdShift td * 8
  let bad (a : Nat) : Bool := a != 0 && decide (a < clearBase) &&
    ((d.cacheSlices 0).isEmpty || (d.conf.regions.any fun r => r.attr == 2 &&
      r.units.any fun u => (overlap a n (unitBase u + r.uoff) r.psize).2 != 0))
  tdVersioned td && (bad e.verB || (tdShadow td && bad e.sverB))

/-- The image of shard `s` is legal (R158, R166). -/
def Dev.shardImgBad (d : Dev) (td : List Byte) (t s : Nat) (b : List Byte) : Bool :=
  let e := Ent.ofBytes b
  e.kind != 0 || e.key != entKey t (s * 2 ^ tdShift td) || 1 < e.state || recNum b 0 1 != e.state || 4096 ≤ recNum b 2 2 ||
  64 ≤ e.slice || 4 ≤ e.flags || (e.state != 0 && d.verUncached td e)

/-- The shards a SHARD_SET names, and the image it gives for one of them. -/
def HOp.shards (o : HOp) : List Nat := (List.range (o.f 40 4)).map (o.f 36 4 + ·)
def Dev.shardImg (d : Dev) (o : HOp) (s : Nat) : List Byte := d.bytes (o.f 48 8 + (s - o.f 36 4) * 64) 64

/-- The checks of SHARD_SET. -/
def Dev.shardChecks (d : Dev) (o : HOp) : List (Bool × Nat) :=
  let t := o.f 32 2 % 4096
  let td := d.tdesc t
  let big := 65536 < o.f 40 4 || o.f 40 4 == 0
  let cnt := d.cfgF .TBL_SHB [t] 20 17
  let old (s : Nat) : Ent := match d.shardIx t s with | some ix => d.entAt (d.shardEntAt ix) | none => {}
  let there := !big && d.memOk (o.f 48 8) (64 * o.f 40 4)
  [(4096 ≤ o.f 32 2 || !o.zero 34 36 || big || !o.zero 44 48 || !o.zero 56 256, eArg), (o.f 48 8 % 64 != 0, eAlign),
   (!d.memOk (o.f 48 8) (64 * o.f 40 4) || cnt < o.f 36 4 + o.f 40 4, eRange),
   (there && o.shards.any fun s => d.shardImgBad td t s (d.shardImg o s), eArg),
   (!big && o.shards.any fun s => 2 ≤ (old s).state, eState),
   (there && d.tableBusy t && o.shards.any fun s =>
      let e := Ent.ofBytes (d.shardImg o s)
      (old s).state == 1 && (e.state != 1 || (old s).module != e.module), eNonatomic)]

/-- SHARD_SET (R166). -/
def execShardSet (slot : Nat) (s : State) : Out1 :=
  s.run fun m =>
    { m with dev := m.dev.takeCmd m.und.now slot 0x0122 true m.dev.shardChecks fun d o =>
        let t := o.f 32 2 % 4096
        let d := o.shards.foldl (fun d s =>
          match d.shardIx t s with
          | none => d
          | some ix =>
            let e := { Ent.ofBytes (m.dev.shardImg o s) with seq := ((d.entAt (d.shardEntAt ix)).seq + 1) % 65536 }
            (d.putEnt (d.shardEntAt ix) e).propagate m.und.now e) d
        d.finish o sOk [] }

/-- The rows a MIGRATE lists, or its one shard. -/
def Dev.migRows (d : Dev) (o : HOp) : List Nat :=
  if o.f 34 1 = 1 then [d.num (o.f 48 8) 4] else idxList (o.f 36 4) (d.bytes (o.f 48 8) (6 * o.f 36 4))

/-- The checks of MIGRATE. -/
def Dev.migChecks (d : Dev) (o : HOp) : List (Bool × Nat) :=
  let t := o.f 32 2 % 4096
  let td := d.tdesc t
  let k := o.f 34 1
  let de := o.f 35 1
  let n := o.f 36 4
  let bad := 4096 ≤ o.f 32 2 || 2 ≤ k || (k == 0 && de != 1 && de != 2) || (k == 1 && de != 0) || n == 0 || 65536 < n ||
    (k == 1 && n != 1) || 4096 ≤ o.f 40 2 || !o.zero 42 48 || (k == 0 && o.f 56 8 != 0) || !o.zero 64 256
  let len := if k = 1 then 4 else 6 * n
  [(bad, eArg), (o.f 48 8 % 8 != 0, eAlign), (!tdValid td || !tdSharded td, eState),
   (!d.memOk (o.f 48 8) len || (k == 1 && !d.memOk (o.f 56 8) 64), eRange),
   (!bad && d.memOk (o.f 48 8) len && (d.migRows o).any fun i => (if k = 1 then d.cfgF .TBL_SHB [t] 20 17 else tdRows td) ≤ i, eRange),
   (!bad && k == 1 && d.memOk (o.f 48 8) 4 && d.memOk (o.f 56 8) 64 && d.shardImgBad td t (d.num (o.f 48 8) 4) (d.bytes (o.f 56 8) 64), eArg)]

/-- MIGRATE (R174). -/
def execMigrate (slot : Nat) (s : State) : Out1 :=
  s.run fun m =>
    { m with dev := m.dev.takeCmd m.und.now slot 0x0123 true m.dev.migChecks fun d o =>
        let ix := d.migRows o
        (d.onTabs fun x => { x with repls := x.repls.put {} o.handle { idx := some ix } }).migPump m.und.now o.handle (1 + ix.length) }

/-! ### Entries and load -/

/-- An ENTRY breaks its layout (R158, R521). -/
def entBad (b : List Byte) : Bool :=
  b.length != 64 || decide (4 ≤ recNum b 0 1) || decide (2 ≤ recNum b 1 1) || decide (4096 ≤ recNum b 2 2) || decide (64 ≤ recNum b 4 1) ||
  decide (4 ≤ recNum b 5 1) || decide (2 ^ 52 ≤ recNum b 8 8)

/-- A LOADREP breaks its layout (R521). -/
def loadrepBad (b : List Byte) : Bool :=
  b.length != 8 + 8 * recNum b 4 2 || recNum b 6 2 != 0 || (List.range (recNum b 4 2)).any fun i => recNum b (10 + 8 * i) 2 != 0

/-- A MOVE of a kind breaks its layout (R521). -/
def moveBad (kind : Nat) (b : List Byte) : Bool :=
  decide (b.length < if kind = 0 then 50 else 18) || recNum b 0 1 != kind || recNum b 1 1 != 0 || decide (4096 ≤ recNum b 2 2) ||
  recNum b 6 2 != 0 || ((b.drop 18).take 14).any (· != 0) || (kind == 0 && (recNum b 4 1 == 0 || decide (64 < recNum b 4 1)))

/-- ENTRY (R163, R165). -/
def execEntry (body : List Byte) (s : State) : Out1 :=
  s.runDev fun d =>
    let d := d.took none 0x18 0 body
    if entBad body then d.bump .SFX_RXBAD else d.adopt (Ent.ofBytes body)

/-- A load window closes (R167 to R171). -/
def execLoadWindowClose (s : State) : Out1 :=
  s.run fun m =>
    let m := m.atTime (m.dev.tabs.winStart + m.dev.cfgF .TBL_MIGT [] 0 20 * usT)
    { m with dev := m.dev.closeWindow m.und.now }

/-- LOADREP (R170). -/
def execLoadrep (src : Nat) (body : List Byte) (s : State) : Out1 :=
  s.runDev fun d =>
    let d := d.took (some src) 0x1A 0 body
    let n := recNum body 4 2
    if loadrepBad body then d.bump .SFX_RXBAD
    else d.onTabs fun x => { x with
      peerTot := x.peerTot.put [] src ((List.range n).map fun i => (recNum body (8 + 8 * i) 2, recNum body (12 + 8 * i) 4)) }

/-- The token bucket of cross-module copies refilled (R172). -/
def execFabShareRefill (s : State) : Out1 :=
  s.run fun m =>
    let m := { m with und := { m.und with now := m.und.now + usT } }
    { m with dev := m.dev.refillFab m.und.now }

/-! ### Moves (R175 to R180) -/

/-- A move that waits enters MOVING once R175 holds; a drain of its table holds it (R564). -/
def execMoveStart (id : Nat) (s : State) : Out1 :=
  s.run fun m =>
    let d := m.dev
    match d.move? id with
    | some v =>
      if v.st != .wait then m
      else if d.heldTable v.table then { m with dev := d.holdTable v.table (2 ^ 45 + id) }
      else if d.moveReady v then { m with dev := (d.startMove v).settle m.und.now }
      else m
    | none => m

/-- The copy starts (R177), to another module once the fabric share has bytes left (R172), and once what it reads does not wait (R426,
R476); `fault` is an uncorrected fault that it meets. -/
def execMoveCopyStart (id : Nat) (fault : Bool) (s : State) : Out1 :=
  s.run fun m =>
    match m.dev.move? id with
    | some v =>
      if v.st = .moving ∧ (v.dst.isNone ∨ 0 < m.dev.tabs.fabTok) ∧ !m.dev.copyWaits v then
        { m with dev := (m.dev.copyMove m.und.now v fault).settle m.und.now }
      else m
    | none => m

/-- A row move refused here for lack of hot-area space is counted (R171, R188). -/
def Dev.countBusy (d : Dev) (t : Nat) (img : List Byte) : Dev :=
  if imgHot img && (d.hotRow (d.tdesc t)).isNone then d.bump .TBL_HOT_FULL else d

/-- A snapshot arrives at the new home (R172, R177). What R521's message has no field for comes as operands: the marks `pm` and
the entry image `img` of the row's new place (DESIGN CHOICE, log 84). -/
def execMoveSnap (src : Nat) (body : List Byte) (pm : Nat) (img : List Byte) (s : State) : Out1 :=
  s.run fun m =>
    let d := m.dev.took (some src) 0x19 0 body
    let now := m.und.now
    if moveBad 0 body then { m with dev := d.bump .SFX_RXBAD }
    else
      let t := recNum body 2 2 % 4096
      let row := recNum body 8 8
      match d.takeSnap now src t (recNum body 4 1) (recNum body 5 1) row (body.drop 32) pm img d.migPart with
      | some d => { m with dev := d.settle now }
      | none => { m with dev := (d.countBusy t img).sendMove now src t row (moveBody 4 t (recNum body 4 1) 0 row (recNum body 16 2) []) }

/-- The move at this module whose first row and destination a message names. -/
def Dev.moveFor (d : Dev) (src : Nat) (body : List Byte) : Option Move :=
  d.tabs.moves.find? fun v => v.table == recNum body 2 2 % 4096 && v.first == recNum body 8 8 && v.dst.getD 0xFFF == src

/-- The incoming batch whose first row and origin a message names; its first row may not have been taken in. -/
def Dev.incomingFor (d : Dev) (src : Nat) (body : List Byte) : Option Incoming :=
  d.tabs.incoming.find? fun i => i.table == recNum body 2 2 % 4096 && i.src == src &&
    (i.row == recNum body 8 8 || (1 < i.nbatch && i.row / 64 == recNum body 8 8 / 64))

/-- READY within MOVE_TMO_US of the snapshot (R177); a move within the module is READY, with 0xFFF for its source, once its
copy has been written. -/
def execMoveReady (src : Nat) (body : List Byte) (s : State) : Out1 :=
  s.run fun m =>
    let d := m.dev.took (some src) 0x19 0 body
    if moveBad 1 body then { m with dev := d.bump .SFX_RXBAD }
    else match d.moveFor src body with
    | some v =>
      match v.st with
      | .snapped t =>
        let own := v.dst.isSome || (d.tabs.incoming.any fun i => i.src == 0xFFF && i.has v.table v.first && i.ready)
        if own && m.und.now ≤ t + v.tmo * usT then { m with dev := (d.commitMove m.und.now v).settle m.und.now } else { m with dev := d }
      | _ => { m with dev := d }
    | none => { m with dev := d }

/-- COMMIT at the new home (R177). -/
def execMoveCommit (src : Nat) (body : List Byte) (s : State) : Out1 :=
  s.run fun m =>
    let m := m.onDev fun d => d.took (some src) 0x19 0 body
    if moveBad 2 body then m.onDev fun d => d.bump .SFX_RXBAD
    else match m.dev.incomingFor src body with
    | some i => { m with dev := (m.dev.commitIn m.und.now i (recNum body 16 2)).settle m.und.now }
    | none => m

/-- DISCARD at the new home (R177). -/
def execMoveDiscard (src : Nat) (body : List Byte) (s : State) : Out1 :=
  s.run fun m =>
    let m := m.onDev fun d => d.took (some src) 0x19 0 body
    if moveBad 3 body then m.onDev fun d => d.bump .SFX_RXBAD
    else match m.dev.incomingFor src body with
    | some i => { m with dev := (m.dev.discard m.und.now i).settle m.und.now }
    | none => m

/-- A policy move that its destination turned away, counted as one not made (R171, R180): in TBL_MV_SKIP, or for a move to a hot area in
TBL_HOT_FULL where the space was short, which the answer does not say: a free value decides (log 80). -/
def Dev.countTurned (d : Dev) (v : Move) : Dev :=
  if v.shard || v.handle.isSome then d
  else if v.toHot then (d.useFree 1).bump (if Config.freeNat d.fresh % 2 = 0 then .TBL_HOT_FULL else .TBL_MV_SKIP)
  else d.bump .TBL_MV_SKIP

/-- A busy answer at the old home: the move is aborted (R172, R177). -/
def execMoveBusy (src : Nat) (body : List Byte) (s : State) : Out1 :=
  s.run fun m =>
    let m := m.onDev fun d => d.took (some src) 0x19 0 body
    let row := recNum body 8 8
    if moveBad 4 body then m.onDev fun d => d.bump .SFX_RXBAD
    else match m.dev.tabs.moves.find? fun v => v.table == recNum body 2 2 % 4096 && v.rows.contains row && v.dst == some src with
    | some v =>
      match v.st with
      | .snapped _ =>
        { m with dev := ((m.dev.countTurned v).abortMove m.und.now v).settle m.und.now }
      | _ => m
    | none => m

/-- MOVE_TMO_US has passed without READY (R177). -/
def execMoveTimeout (id : Nat) (s : State) : Out1 :=
  s.run fun m =>
    match m.dev.move? id with
    | some v =>
      match v.st with
      | .snapped t =>
        let m := m.atTime (t + v.tmo * usT)
        { m with dev := (m.dev.abortMove m.und.now v).settle m.und.now }
      | _ => m
    | none => m

/-- A FORWARD row entry's lease ends (R179, R180): old hot-area storage is freed once its reads are over, and the entry of a
row that went back to its shard's home goes. -/
def execLeaseEnd (t row : Nat) (s : State) : Out1 :=
  s.run fun m =>
    let d := m.dev
    match d.rowEnt? t row with
    | some a =>
      let e := d.entAt a
      if e.state = 3 then
        let left := (e.lease + 2 ^ 32 - m.tick % 2 ^ 32) % 2 ^ 32
        let m := if left < 2 ^ 31 then m.atTime ((m.tick + left) * usT) else m
        let home := match d.shardEnt (d.tdesc t) t row with | some s => s.module == e.module | none => false
        { m with dev := (if home then d.delRent t row else d).freeOld m.und.now }
      else m
    | none => { m with dev := d.freeOld m.und.now }

end Sys2Proof.Machine
end

