-- ==== Sys2Proof/Machine/ConfAdopt.lean ====
section
/-! DEFINITION. What an accepted configuration does: programs placed at once, then each unit's registers and tables adopted, with
the effects each chapter gives (spec/16 R561, R562, spec/13 R426, R427, spec/14 R467, spec/15 R539, spec/17 R580, R601). -/

namespace Sys2Proof.Machine

/-! ### Who adopts what -/

/-- The unit that adopts a shadow register. -/
def Reg.unit (r : Reg) (ix : List Nat) : CUnit :=
  let i := ix.getD 0 0
  match r with
  | .UND_LINKCFG | .UND_PROGSTORE | .UND_FLTCFG | .UND_SCRUB => .und
  | .TEL_PCAP => .tel
  | .CXL_CMDBASE | .CXL_CMTCFG | .CXL_CTX | .CXL_HDMMAP => .cxl
  | .MEM_ERRCFG | .MEM_SRCPART | .MEM_PART | .MEM_CTXPART | .MEM_RGN | .MEM_RGNM => .mem
  | .HBM_THR => .hbm i
  | .CAN_MODE => .can
  | .SFX_CFG | .SFX_DOM | .SFX_MGRL | .SFX_MGRH | .SFX_RT | .SFX_IDTAB | .SFX_TMO | .SFX_CC => .sfx
  | .ETH_DSCPMAP | .ETH_ADDRC | .ETH_ADDRL | .ETH_ADDRH | .ETH_GWL | .ETH_GWH | .ETH_PORT | .ETH_PFC => .eth
  | .CLU_PWR | .CLU_MQCFG | .FOR_CFG => .cluster i
  | .QFE_UDP | .QFE_RASM => .qfe i
  | .UPD_GAREA => .upd
  | .FOR_WTMO => .cxl
  | _ => .tbl

/-- The unit that adopts the register at an offset. -/
def offUnit (o : Nat) : Option CUnit := (regAt o).map fun p => p.1.unit p.2

/-- The units that adopt every COMMIT: those that are present. -/
def Dev.adopters (d : Dev) : List CUnit :=
  [.und, .tel, .cxl, .mem, .can, .sfx, .eth, .tbl, .upd, .qfe 0, .qfe 1] ++ (bitList 8 d.pres.hbms).map CUnit.hbm ++
  (bitList 16 d.pres.clusters).map CUnit.cluster

/-- A configuration with one unit's registers taken from another. -/
def Conf.take (c s : Conf) (u : CUnit) : Conf :=
  let mine (p : Nat × Word) : Bool := offUnit p.1 == some u
  { c with reg := (s.reg.filter mine).foldl (fun m p => SMap.put 0 m p.1 p.2) (c.reg.filter fun p => !mine p) }

def Dev.onConfTab (d : Dev) (f : Tabs → Tabs) : Dev := { d with conf := { d.conf with tab := f d.conf.tab } }

/-! ### Effects of adoption -/

/-- A port that goes down to retrain (R497, R539). -/
def Dev.portRetrain (d : Dev) (n : Nat) : Dev :=
  (d.mgRetrain n).modPort n fun p => { p with up := 0, training := true, nbr := 0, nbrMac := 0, paused := 0, txq := [], buf := [], xoff := 0 }

/-- ETH: a change of MODE or MEDIA takes a port down and retrains it (R539, R644). -/
def Dev.adoptEth (old d : Dev) : Dev :=
  (List.range 36).foldl (fun d n =>
    if old.cfgF .ETH_PORT [n] 0 4 = d.cfgF .ETH_PORT [n] 0 4 then d
    else if d.portMode n = 0 then (d.portRetrain n).modPort n fun p => { p with training := false }
    else (d.portRetrain n).prbsStop n) d

/-- The pieces, old and new, of region entries that change; and those whose contents a change leaves unspecified (R467). -/
def regionMoves (old new : Conf) : List (Nat × Nat) × List (Nat × Nat) :=
  let ch := (List.range 64).filter fun n => old.get .MEM_RGN [n] != new.get .MEM_RGN [n] || old.get .MEM_RGNM [n] != new.get .MEM_RGNM [n]
  let moved := ch.filter fun n =>
    match old.region n, new.region n with
    | some a, some b => a.units != b.units || a.uoff != b.uoff || a.psize != b.psize || a.kind != b.kind
    | none, none => false
    | _, _ => true
  (ch.flatMap fun n => old.pieces n ++ new.pieces n, moved.flatMap fun n => new.pieces n)

/-- MEM: lines of changed pieces leave Canopy and the L1 caches, contents of new pieces are unspecified (R467); a new MEM_ERRCFG
starts every channel's window afresh (R669). -/
def Dev.adoptMem (now : Nat) (old d : Dev) : Dev :=
  let mv := regionMoves old.conf d.conf
  let inP (l : List (Nat × Nat)) (b : Nat) : Bool := l.any fun p => p.1 ≤ b && b < p.1 + p.2
  let d := if mv.1.isEmpty then d
    else
      let c := d.conf
      let o : Dev := ({ d with conf := old.conf } : Dev).flushLines (inP mv.1)
      ({ o with conf := c } : Dev).l1ClearAll
  let d := mv.2.foldl (fun d p => d.scramble p.1 p.2) d
  if old.cfg .MEM_ERRCFG = d.cfg .MEM_ERRCFG then d
  else d.onExt fun e => { e with chans := ((List.range 384).map fun c =>
    (c, { SMap.get {} e.chans c with ce := 0, ue := 0, at_ := now })).filter fun p => p.2 != {} }

/-- A Clearing window's bytes as zero with no mark (R426 step 3). -/
def Dev.zeroSlice (d : Dev) (k : Nat) : Dev :=
  let a := clearBase + k * sliceSize
  let keep (x : Nat) : Bool := x < a || a + sliceSize ≤ x
  { d with mem := ⟨d.mem.bytes.filter fun p => keep p.1, d.mem.poison.filter fun p => keep (p.1 * 64)⟩ }

/-- CAN: roles in force change; each side whose cache-mode slices change re-homes, dirty lines written back, every line
invalidated; slices that become Clearings read zero; L1 caches are invalidated (R426, R427). -/
def Dev.adoptCan (now : Nat) (d : Dev) : Dev :=
  let old := d.rd .CAN_ACTIVE
  let new := d.cfg .CAN_MODE &&& d.pres.slices
  if old = new then d
  else
    let e := d.wr .CAN_ACTIVE [] new
    let side (s : Nat) : Bool := d.cacheSlices s != e.cacheSlices s
    let f := d.flushLines fun b => (match unitOf b with | some u => side (sideOfUnit u) | none => false)
    let f := (f.wr .CAN_ACTIVE [] new).l1ClearAll
    let f := ((List.range 64).filter fun k => bitAt old k != bitAt new k).foldl Dev.zeroSlice f
    { f with canopy := { f.canopy with
        rehome0 := if side 0 then some (f.canopy.rehome0.getD now) else f.canopy.rehome0
        rehome1 := if side 1 then some (f.canopy.rehome1.getD now) else f.canopy.rehome1 } }

/-- A table of images with the generation of each entry that was set, by another command or to something else, counted up from its old one
(R122, R313). -/
def genUp (o : Nat) (old new : SMap (List Byte)) : SMap (List Byte) :=
  new.map fun p =>
    let was := SMap.get [] old p.1
    let gen := recNum was o 4
    let same := was != [] && p.2.drop 64 == was.drop 64 && putAt p.2 o (leBytes 4 gen) == was
    (p.1, putAt p.2 o (leBytes 4 (if same then gen else gen + 1)))

/-- The images adopted at start-up have had no committed change: their generations are 0 (R122, R313; log 56). -/
def genZero (o : Nat) (new : SMap (List Byte)) : SMap (List Byte) := new.map fun p => (p.1, putAt p.2 o (leBytes 4 0))

/-- TBL: descriptors of tables and graphs; a moved row-home table starts without row entries known to the module. -/
def Dev.adoptTbl (old d : Dev) (s : Conf) (boot : Bool) : Dev :=
  let d := d.onConfTab fun t => { t with
    tbl := if boot then genZero 56 s.tab.tbl else genUp 56 old.conf.tab.tbl s.tab.tbl
    grf := if boot then genZero 48 s.tab.grf else genUp 48 old.conf.tab.grf s.tab.grf }
  if old.cfg .TBL_RHT = d.cfg .TBL_RHT then d else d.onTabs fun x => { x with rent := [], arriving := [], loads := [] }

/-- UPD: programs, bindings and layers; STEP0 of those that were set goes to LAST_STEP, and of a layer to its publish object
(R355, R359). -/
def Dev.adoptUpd (now : Nat) (old d : Dev) (s : Conf) : Dev :=
  let fresh (f : Tabs → SMap (List Byte)) : List (Nat × List Byte) :=
    (f s.tab).filter fun p => SMap.get [] (f old.conf.tab) p.1 != p.2
  let d := d.onConfTab fun t => { t with upr := s.tab.upr, bind := s.tab.bind, layer := s.tab.layer }
  let d := (fresh (·.bind)).foldl (fun d p =>
    if tdSharded (SMap.get [] s.tab.tbl p.1) then d else d.wr .UPD_TSTEP [p.1] (recNum p.2 24 8)) d
  (fresh (·.layer)).foldl (fun d p =>
    (d.wr .UPD_LSTEP [p.1] (recNum p.2 64 8)).syncSet now (recNum p.2 28 4 % 2 ^ 17) (BitVec.ofNat 64 (recNum p.2 64 8))) d

/-- A front end adopts its class table (R104). -/
def Dev.adoptQfe (d : Dev) (t : Nat) (s : Conf) (epoch : Nat) : Dev :=
  (d.setQfe t { d.qfe t with classes := s.tab.cls, epoch := epoch }).onConfTab fun x => { x with cls := s.tab.cls }

/-- The number under which a unit reports its epoch (R562). -/
def unitEpoch : CUnit → Option Nat
  | .tbl => some 2
  | .upd => some 3
  | .can => some 4
  | .mem => some 5
  | .sfx => some 6
  | _ => none

/-- One unit adopts a configuration. -/
def Dev.adoptUnit (d : Dev) (now : Nat) (s : Conf) (u : CUnit) (epoch : Nat) (boot : Bool := false) : Dev :=
  let old := d
  let d : Dev := { d with conf := d.conf.take s u }
  let d := match u with
    | .mem => if boot then d else d.adoptMem now old
    | .can => if boot then d.wr .CAN_ACTIVE [] (d.cfg .CAN_MODE &&& d.pres.slices) else d.adoptCan now
    | .eth => (Dev.adoptEth old d).rebuildAll
    | .sfx => d.rebuildAll
    | .tbl => Dev.adoptTbl old d s boot
    | .upd => Dev.adoptUpd now old d s
    | .qfe t => d.adoptQfe t s epoch
    | .cluster c =>
      let d := d.modClu c fun x => { x with
        wtmo := ((List.range 64).map fun i => (i, s.get .FOR_WTMO [i])).filter fun p => p.2 != 0 }
      if boot then d else d.schedule now c
    | .und => if boot || old.cfg .UND_FLTCFG = d.cfg .UND_FLTCFG then d else { d with fltWin := {} }
    | _ => d
  match unitEpoch u with
  | some e => { d with epochs := d.epochs.put 0 e epoch }
  | none => d

/-! ### Acceptance -/

/-- The programs a snapshot sets, placed in the store and written there (R580). -/
def Dev.loadProgs (d : Dev) (s : Conf) (l : List (Nat × List Byte)) : Dev :=
  let st := s.progStore
  match d.placeProgs st.1 st.2 l d.progs with
  | some (ps, ws) =>
    let d : Dev := { d with progs := ps }
    (ws.foldl (fun (d : Dev) w => d.store w.1 w.2) d).onConfTab fun t => { t with prog := s.tab.prog }
  | none => d

/-- The class programs and update programs that a snapshot sets, in ascending number (R601). -/
def newProgs (old new : Tabs) : List (Nat × List Byte) :=
  let f (g : Tabs → SMap (List Byte)) : List (Nat × List Byte) := (g new).filter fun p => SMap.get [] (g old) p.1 != p.2
  (f (·.upr)).foldl (fun l p => (l.takeWhile fun q => q.1 ≤ p.1) ++ [p] ++ l.dropWhile fun q => q.1 ≤ p.1) (f (·.prog))

/-- Measurement block 7 extended by newly applied program images, and counted (R601). -/
def Mach.extend7 (m : Mach) (l : List (Nat × List Byte)) : Mach :=
  if l.isEmpty then m
  else
    let old := m.und.meas.getD 6 zeros48
    let v := Config.sha384 (old ++ l.flatMap fun p => Config.sha384 (p.2.take (p.2.length - 8)))
    { m with und := { m.und with meas := m.und.meas.take 6 ++ [v] }, dev := m.dev.bump .SEC_MEAS7 }

end Sys2Proof.Machine
end

