-- ==== Sys2Proof/Machine/Startup.lean ====
section
/-! DEFINITION. The module's states: pins and rails, the image, MEMTRAIN, LINKUP, RUN, DRAIN and RECOVERY (spec/17 R569 to
R595, spec/18 R620, spec/20 R654, R663). -/

namespace Sys2Proof.Machine

/-! ### Power, pins and rails -/

/-- The registers that the fuses give (R4, R536, R537, R604, R628). -/
def Mach.fuseRegs (m : Mach) (f : Fuse) : Mach :=
  m.onDev fun d =>
    let d := d.wr .CAP_PART [] (f.part % 2 ^ 16 + f.stepping % 256 * 2 ^ 16 + f.boardRev % 256 * 2 ^ 24 + bitsOf (d.rd .CAP_PART) 48 16 * 2 ^ 48)
    let d := d.wr .CAP_BUILT [] f.built.counts
    let d := d.wr .SEC_FUSE [] (f.svn % 256 + f.keyRev % 16 * 2 ^ 8 + d.rd .SEC_FUSE / 2 ^ 12 * 2 ^ 12)
    (d.wr .ETH_MACBASE [] f.macBase).wr .SFX_IDENT [] f.ident

/-- The Understory with 54 V gone or just arrived: only its pins, its clocks and time go on. -/
def Und.bare (u : Und) (vin : Bool) : Und :=
  { st := if vin then .understory else .off, vin := vin, pwrEn := u.pwrEn, rstN := u.rstN, refclk := u.refclk, sdclk := u.sdclk,
    now := u.now, stateAt := u.now, mgmt := { cprs := u.mgmt.cprs, slot := u.mgmt.slot } }

/-- 54 V enters its input range: the Understory starts and reads the fuses (R570). -/
def execVinInRange (s : State) : Out1 :=
  s.run fun m =>
    if m.und.st ≠ .off then m
    else (({ m with und := { m.und.bare true with meas := measureNone s.fuse } } : Mach).fuseRegs s.fuse).startRails

/-- 54 V leaves its input range: OFF, and nothing volatile stays (R570, R571, R654). -/
def execVinOutOfRange (s : State) : Out1 :=
  s.run fun m =>
    if m.und.st = .off then m
    else { nv := m.nv.breakFlash, und := m.und.bare false,
           dev := { host := { link := false, linkReg := 0 }, fresh := m.dev.fresh, out := m.dev.out } }

/-- PWR_EN rises. -/
def execPwrEnRise (s : State) : Out1 := s.run fun m => ({ m with und := { m.und with pwrEn := true } } : Mach).startRails

/-- PWR_EN falls: RUN drains, a DRAIN goes on to UNDERSTORY, and elsewhere the rails go down (R570, R602, R623). -/
def execPwrEnFall (s : State) : Out1 :=
  s.run fun m =>
    let m : Mach := { m with und := { m.und with pwrEn := false } }
    match m.und.st with
    | .off => m
    | .run => m.startDrain .pwrEn
    | .drain => { m with und := { m.und with drainTo := some .pwrEn } }
    | _ => m.toUnderstory

/-- RST_N low resets every unit but the Understory, in any state but OFF (R570). -/
def execRstNLow (s : State) : Out1 :=
  s.run fun m =>
    let m : Mach := { m with und := { m.und with rstN := false } }
    if m.und.st = .off then m else m.toUnderstory

/-- RST_N rises. -/
def execRstNHigh (s : State) : Out1 := s.run fun m => ({ m with und := { m.und with rstN := true } } : Mach).startRails

/-- The coolant at the inlet is at or above its warning limit, which holds back the transition to BOOT (R662, R663). -/
def Und.inletHot (u : Und) : Bool := 41 ≤ (SMap.get {} u.sensors 15).temp

/-- The last rail is good: BOOT, unless the coolant is too warm. -/
def Mach.railsDone (m : Mach) : Mach :=
  if m.und.inletHot then { m with und := { m.und with rails := 6 } } else m.enterBoot

/-- The rail awaited reports power-good (R572). -/
def execRailPowerGood (s : State) : Out1 :=
  s.run fun m =>
    if m.und.st ≠ .understory ∨ m.und.rails = 0 ∨ 6 ≤ m.und.rails then m
    else if m.und.rails = 5 then m.railsDone
    else { m with und := { m.und with rails := m.und.rails + 1, railAt := m.und.now } }

/-- A rail misses power-good within 5 ms (R570, R572). -/
def execRailPgTimeout (s : State) : Out1 :=
  s.run fun m =>
    if m.und.st ≠ .understory ∨ m.und.rails = 0 ∨ 6 ≤ m.und.rails then m
    else (m.atTime (m.und.railAt + 5 * msT)).faultHold 4

/-- A rail loses power-good after sequencing (R570). -/
def execRailFault (s : State) : Out1 :=
  s.run fun m =>
    match m.und.st with
    | .boot | .memtrain | .linkup | .run | .drain | .recovery => m.faultHold 4
    | _ => m

/-! ### BOOT and MEMTRAIN -/

/-- The running image. -/
def Mach.image (m : Mach) : Img := if m.und.source = 1 then m.und.rcv.img else m.nv.img

/-- A verified image taken into use, and MEMTRAIN entered: the map-out record is cleared when that was asked for, and else lists what
it had still to list (R582, R585, R600, R620). -/
def Mach.adoptImage (m : Mach) (f : Fuse) (source : Nat) : Mach :=
  let ms := (m.und.now - m.und.stateAt) / msT
  let boot := m.und.st == .boot
  let m := m.toState .memtrain
  let m : Mach := { m with und := { m.und with source := source } }
  let i := m.image
  let clear := m.und.mrecClear
  { nv := { m.nv with mapOut := if clear then {} else m.nv.mapOut.or m.und.newOut }
    und := { m.und with
      bootMs := if boot then ms else 0
      rcvCause := 0
      mrecClear := false
      newOut := {}
      imgHdr := imgBytes i 0 256
      meas := measure i f source }
    dev :=
      let d := m.dev.wr .SEC_FUSE [] (f.svn % 256 + f.keyRev % 16 * 2 ^ 8 + imgKey i % 4 * 2 ^ 12 + imgSvn i % 256 * 2 ^ 14)
      let d := d.wr .CAP_PART [] (setBits (d.rd .CAP_PART) 48 16 (imgNum i 6 2))
      d.wr .SEC_BUILD [] (imgNum i 16 8) }

/-- The image has been read, or the flash did not answer (R582, R588). -/
def execImageReadComplete (ok : Bool) (s : State) : Out1 :=
  s.run fun m =>
    if m.und.st ≠ .boot then m
    else
      let c := if ok then imgCause m.nv.img s.fuse s.fuse.part else 1
      if c ≠ 0 then
        let m := m.enterRecovery c
        { m with und := { m.und with meas := measureNone s.fuse } }
      else m.adoptImage s.fuse 0

/-- The bits of a list of numbers below a bound. -/
def bitsFrom (l : List Nat) (n : Nat) : Nat := maskOf n fun i => l.contains i

/-- A MEM_MAPOUT, SLICE_MAPOUT, CLU_MAPOUT or PORT_MAPOUT event for each unit of a mask (R596, R627). -/
def Mach.outEvents (m : Mach) (n mask code kind : Nat) (data : Nat) : Mach :=
  (bitList n mask).foldl (fun m u => m.event code 1 (evUnit kind u) data) m

/-- Units that fail a test of start-up: what leaves, of those tested (R589, R591). -/
def Mach.testFail (m : Mach) (u : Units) : Mach :=
  let p := m.dev.pres
  let gone : Units := ⟨p.cores &&& u.cores, p.clusters &&& u.clusters, p.slices &&& u.slices, p.hbms &&& u.hbms,
    p.lpds &&& u.lpds, p.ports &&& u.ports⟩
  let m := m.leaveUnits gone
  let m := m.outEvents 16 gone.clusters 0x0303 2 0
  let m := m.outEvents 64 gone.slices 0x0203 3 0
  let m := m.outEvents 8 gone.hbms 0x0103 4 24
  let m := m.outEvents 32 gone.lpds 0x0103 5 32
  m.outEvents 36 gone.ports 0x0401 7 0

/-- The sections applied: the configuration in force and its shadows, tables, programs, the ID table, pinned routes (R578). -/
def Dev.applyImage (d : Dev) (now : Nat) (i : Img) (c : Conf) : Dev :=
  let d : Dev := { d with conf := { reg := c.reg }, shad := c }
  let d := [CUnit.can, .tbl, .upd, .qfe 0, .qfe 1].foldl (fun d u => d.adoptUnit now c u 0 true) d
  let d := d.loadProgs c c.tab.prog
  let d := (imgRecs i 0x000B 16).foldl (fun (x : Dev × Nat) r => (x.1.poke (x.1.cfgF .SFX_IDTAB [] 0 32 * 4096 + 16 * x.2) r, x.2 + 1)) (d, 0)
  (imgRecs i 0x000C 40).foldl (fun d r => d.poke (d.routeAt (recNum r 0 4 % 4096)) (r.drop 8)) d.1

/-- The ID that the ID table gives an identity (R528 rule 2, R537). -/
def Dev.idListed (d : Dev) (ident : Nat) : Option Nat :=
  let a := d.cfgF .SFX_IDTAB [] 0 32 * 4096
  ((List.range (d.cfgF .SFX_IDTAB [] 32 12)).find? fun i => d.num (a + 16 * i) 8 == ident).map fun i => d.num (a + 16 * i + 8) 2 % 4096

/-- LINKUP is entered: the incarnation is drawn, ports that fail their loopback leave, the others train, auxiliary power of the
cables comes back, and an ID of the image, or a manager's own, is taken (R528, R533, R591, R653). -/
def Mach.enterLinkup (m : Mach) (portFail : Nat) : Mach :=
  let n := m.und.linkups + 1
  let m := m.toState .linkup
  let m : Mach := { m with und := { m.und with linkups := n, mgmt := { m.und.mgmt with vauxOff := 0 } } }
  let m := m.testFail { ports := portFail }
  m.onDev fun d =>
    let dom := d.cfg .SFX_DOM
    let id := if bitAt dom 18 then some (bitsOf dom 19 12)
      else if bitAt dom 16 then some ((d.idListed (d.rd .SFX_IDENT)).getD 0) else none
    let d := d.onNet fun t => { t with inc := Config.incarnation n % (2 ^ 32 - 1) + 1, id := id, helloAt := m.und.now }
    (List.range 36).foldl (fun d p => if d.portMode p = 0 then d else d.portRetrain p) d

/-- R592: every port that is not DOWN has link on all its sub-ports, or LINK_WAIT_MS has passed; an ID is assigned, or static,
or ID_WAIT_MS has passed. -/
def Mach.runReady (m : Mach) : Bool :=
  let d := m.dev
  let c := d.cfg .UND_LINKCFG
  let since := m.und.now - m.und.stateAt
  let linked := (List.range 36).all fun n => d.portMode n == 0 || (d.port n).up == 2 ^ subPorts (d.portMode n) - 1
  m.und.st == .linkup && (linked || decide (bitsOf c 0 16 * msT ≤ since)) &&
  (d.net.id.isSome || bitAt (d.cfg .SFX_DOM) 18 || decide (bitsOf c 16 16 * msT ≤ since))

/-- The entry to RUN (R583, R593): every sync object holds 0, or what the image presets (R401). -/
def State.enterRun (s : State) : State :=
  let m := s.mach
  let i := m.image
  let h := m.und.imgHdr
  let burn := m.und.source != 1
  let key := recNum h 9 1
  let f := s.fuse
  let f := if burn && bitAt (recNum h 10 1) 0 && f.svn < recNum h 8 1 then { f with svn := recNum h 8 1 } else f
  let f := if burn && bitAt (recNum h 10 1) 1 then { f with keyRev := f.keyRev ||| (2 ^ key - 1) } else f
  let ms := (m.und.now - m.und.stateAt) / msT
  let m := m.toState .run
  let m : Mach := { m with und := { m.und with linkMs := ms, meas := m.und.meas.take 6 ++ [zeros48] } }
  let m := m.fuseRegs f
  let m := m.onDev fun d =>
    let d := d.onSync fun s => { s with vals := [], broken := [] }
    let d := (imgRecs i 0x000A 16).foldl (fun d r => d.putSync (recNum r 0 4 % 131072) (BitVec.ofNat 64 (recNum r 8 8))) d
    let d := [0, 1].foldl (fun d t => d.setQfe t { d.qfe t with ctl := imgReg i (Reg.off .QFE_CTL [t]) % 8 }) d
    (d.onTabs fun x => { x with winStart := m.und.now }).examineArms m.und.now
  { s with fuse := f, mach := m }

/-- RUN is entered as soon as R592 is met. -/
def State.tryRun (s : State) : State := if s.mach.runReady then s.enterRun else s

/-- A command after which RUN may be entered. -/
def State.runThen (s : State) (f : Mach → Mach) : Out1 := .next ({ s with mach := f s.mach } : State).tryRun

/-- What the tests of MEMTRAIN leave: listed and failed units stay out (R589, R596). `built` is what the module was built with. -/
def Mach.trained (m : Mach) (built : Units) (clusterFail sliceFail : Nat) (quals : List Nat) : Mach :=
  let m : Mach := { m with und := { m.und with trainMs := (m.und.now - m.und.stateAt) / msT } }
  let b := built.minus m.nv.mapOut
  let m := m.onDev fun d => { d with pres := { b with cores := b.cores &&& coresOf b.clusters } }
  let hb := (quals.filter (· < 256)).map (· / 32)
  let lp := (quals.filter (256 ≤ ·)).map fun c => (c - 256) / 4
  let tested (c : Nat) : Bool :=
    if c < 256 then bitAt m.dev.pres.hbms (c / 32) else c < 384 && bitAt m.dev.pres.lpds ((c - 256) / 4)
  let m := m.onDev fun d => (quals.filter tested).foldl (fun d c =>
    d.onExt fun e => { e with chans := e.chans.mod {} c fun x => { x with qual := true } }) d
  let m := m.testFail { clusters := clusterFail, slices := sliceFail, hbms := bitsFrom hb 8, lpds := bitsFrom lp 32 }
  m.onDev fun d => { d with pres := { d.pres with cores := d.pres.cores &&& coresOf d.pres.clusters } }

/-- The image's sections in force, every cluster asleep and without power (R590, R591). -/
def Dev.bootImage (d : Dev) (now : Nat) (i : Img) : Dev :=
  ((bitList 16 d.pres.clusters).foldl (fun d n => d.modClu n fun x => { x with pst := 2 }) d).applyImage now i (Conf.ofImage i)

/-- The end of MEMTRAIN: the module is held without a cluster, without a stack, or with a configuration that fails its check;
memory is zero, the sections are applied, and LINKUP is entered (R590, R591). -/
def Mach.afterTrain (m : Mach) (ports portFail : Nat) : Mach :=
  if m.dev.pres.clusters = 0 then m.faultHold 1
  else if m.dev.pres.hbms = 0 then m.faultHold 2
  else match m.dev.checkBoot (Conf.ofImage m.image) ports with
    | some f => ({ m with und := { m.und with cfgFailAt := f.at_, cfgFailKind := f.kind } } : Mach).faultHold 3
    | none => (m.onDev fun d => d.bootImage m.und.now m.image).enterLinkup portFail

/-- MEMTRAIN ends: which clusters and slices failed their self-tests, which memory channels failed training, which ports their
loopback (R589 to R591, R596). -/
def execMemtrainComplete (clusterFail sliceFail : Nat) (quals : List Nat) (portFail : Nat) (s : State) : Out1 :=
  s.runThen fun m =>
    if m.und.st ≠ .memtrain then m
    else (m.trained s.fuse.built clusterFail sliceFail quals).afterTrain s.fuse.built.ports portFail

/-- LINK_WAIT_MS or ID_WAIT_MS passes in LINKUP (R592). -/
def execLinkupWaitExpire (id : Bool) (s : State) : Out1 :=
  s.runThen fun m =>
    if m.und.st ≠ .linkup then m
    else m.atTime (m.und.stateAt + m.dev.cfgF .UND_LINKCFG [] (if id then 16 else 0) 16 * msT)

/-! ### UND_CTL and DRAIN (R594, R595) -/

def execUndShutdown (s : State) : Out1 := s.run fun m => m.undCtl 1
def execUndReboot (s : State) : Out1 := s.run fun m => m.undCtl 2
def execUndRecover (s : State) : Out1 := s.run fun m => m.undCtl 4

/-- Every remaining job and long operation ends with E_CANCELLED, and a SUSPEND or CANCEL of it with it (R594, R667); a suspended one
has its final completion already. Other commands run on. -/
def Dev.cancelAll (d : Dev) (now : Nat) : Dev :=
  let d := d.jobs.foldl (fun d p => d.endJob now p.1 .cancel) d
  let ops := d.host.ops.filter fun o => longCodes.contains o.opc && (o.opc != 0x0110 || o.st == .suspended || o.st == .queued)
  let d := ops.foldl (fun d o =>
    if o.st = .suspended then d.onHost fun h => { h with ops := h.ops.filter fun q => q.handle != o.handle } else d.stopCancelled now o) d
  let gone (k : Nat) : Bool := ops.any fun o => o.slot == k
  (d.onHost fun h => { h with cacheReqs := h.cacheReqs.filter fun q => !gone q.slot }).onTabs fun x => { x with repls := [] }

/-- DRAIN_TMO_MS passes (R594). -/
def execModuleDrainTimeout (s : State) : Out1 :=
  s.run fun m =>
    if m.und.st ≠ .drain then m
    else
      let m := m.atTime (m.und.stateAt + m.dev.cfgF .UND_LINKCFG [] 32 16 * msT)
      m.onDev fun d => d.cancelAll m.und.now

/-- No job or operation remains (R594): a drain that covers its range is no operation in progress. -/
def Dev.allQuiet (d : Dev) : Bool := (d.jobs.all fun p => !p.2.live) && d.host.ops.all fun o => o.st == .covering

/-- DRAIN ends: the ports go down and the module goes where the drain leads. -/
def execModuleDrainEnd (s : State) : Out1 :=
  s.run fun m =>
    if m.und.st ≠ .drain ∨ !m.dev.allQuiet then m
    else
      let m := m.onDev fun d => (List.range 36).foldl (fun d n => d.modPort n fun _ => {}) d
      match m.und.drainTo with
      | some .reboot => m.enterBoot
      | some .recover =>
        let m := m.enterRecovery 8
        { m with und := { m.und with meas := measureNone s.fuse } }
      | some .pwrEn => m.toUnderstory.startRails
      | _ => m.toUnderstory

/-! ### The recovery mailbox (R584 to R587) -/

def Mach.onRcv (m : Mach) (f : Rcv → Rcv) : Mach := m.onUnd fun u => { u with rcv := f u.rcv }

/-- A mailbox command: nothing outside RECOVERY; E_BUSY while one runs. -/
def Mach.mailbox (m : Mach) (f : Mach → Mach) : Mach :=
  if m.und.st ≠ .recovery then m
  else if m.und.rcv.busy ≠ 0 then m.onRcv fun r => { r with status := eBusy }
  else f m

/-- A write of SEC_RCV_ARG: one with a reserved bit or a LEN_64 outside its range is dropped and counted (R19, R20, R605). -/
def Mach.rcvArg (m : Mach) (v : Word) : Mach :=
  if bitsOf v.toNat 27 5 != 0 || decide (2 ^ 48 ≤ v.toNat) || !inRange 1 32768 (bitsOf v.toNat 32 16) then
    m.onDev fun d => d.bump .TEL_REGERR
  else m.onRcv fun r => { r with arg := v }

/-- CHUNK: SEC_RCV_ARG written, then the command, which goes by what SEC_RCV_ARG holds. -/
def execRcvChunk (arg : Word) (s : State) : Out1 :=
  s.run fun m =>
    if m.und.st ≠ .recovery then m
    else (m.rcvArg arg).mailbox fun m =>
      let off := bitsOf m.und.rcv.arg.toNat 0 27
      let len := bitsOf m.und.rcv.arg.toNat 32 16
      let st := refusal [(off % 64 != 0, eAlign), (imgMax < off + 64 * len, eRange)]
      m.onRcv fun r =>
        if st ≠ sOk then { r with status := st }
        else
          { r with
            status := sOk
            verified := false
            staged := (List.range (64 * len)).foldl (fun m i => SMap.put 0 m (off + i) (SMap.get 0 r.window i)) r.staged }

/-- VERIFY. -/
def execRcvVerify (s : State) : Out1 :=
  s.run fun m => m.mailbox fun m =>
    let c := imgCause m.und.rcv.img s.fuse s.fuse.part
    if c = 0 then m.onRcv fun r => { r with verified := true, status := sOk }
    else
      let m := m.onRcv fun r => { r with verified := false, status := eArg }
      { m with und := { m.und with rcvCause := c } }

/-- BOOT of the staged image. -/
def execRcvBoot (s : State) : Out1 :=
  s.run fun m => m.mailbox fun m =>
    if !m.und.rcv.verified then m.onRcv fun r => { r with status := eState }
    else (m.onRcv fun r => { r with status := sOk }).adoptImage s.fuse 1

/-- FLASH begins: the image area is erased and written. -/
def execRcvFlash (s : State) : Out1 :=
  s.run fun m => m.mailbox fun m =>
    if !m.und.rcv.verified then m.onRcv fun r => { r with status := eState }
    else
      let m := m.onRcv fun r => { r with busy := 4 }
      { m with nv := { m.nv with flashBusy := true } }

/-- The image area of the flash as a staged image leaves it; the other areas are never written (R586). -/
def Nv.flashImage (n : Nv) (i : Img) : Nv :=
  let keep := n.flash.filter fun p => 0x7800000 ≤ p.1
  { n with flashBusy := false, flash := (List.range (min imgMax (imgNum i 24 4))).foldl (fun m o => SMap.put flashErased m o (i o)) keep }

/-- FLASH has ended: `good` when the flash reads back as it was written. An image that fails R582 leaves an invalid flash, and the
module in RECOVERY. -/
def execRcvFlashComplete (good : Bool) (s : State) : Out1 :=
  s.run fun m =>
    if m.und.st ≠ .recovery ∨ m.und.rcv.busy ≠ 4 then m
    else
      let n := if good then m.nv.flashImage m.und.rcv.img else m.nv.breakFlash
      let m : Mach := { m with nv := n }
      if good && imgCause n.img s.fuse s.fuse.part == 0 then
        (m.onRcv fun r => { r with busy := 0, status := sOk }).adoptImage s.fuse 2
      else m.onRcv fun r => { r with busy := 0, status := eFault }

/-- A host write to the data window (R584, R585). -/
def execRcvWindowWrite (off : Nat) (bs : List Byte) (s : State) : Out1 :=
  s.run fun m =>
    if m.und.st ≠ .recovery ∨ m.und.rcv.busy ≠ 0 ∨ 0x200000 < off + bs.length then m
    else m.onRcv fun r => { r with
      window := (List.range bs.length).foldl (fun w i => SMap.put 0 w (off + i) (bs.getD i 0)) r.window }

end Sys2Proof.Machine
end

