-- ==== Sys2Proof/Machine/PortOps.lean ====
section
/-! DEFINITION. Ports gaining and losing link, their announcements (spec/15 R494 to R503,
spec/18 R617, R619, spec/20 R653). -/

namespace Sys2Proof.Machine

/-! ### Link -/

/-- The announcements of a sub-port's addresses at link-up (R501). -/
def Dev.announce (d : Dev) (n s : Nat) : Dev :=
  (d.addrsOn n).foldl (fun d a =>
    d.sendFrame n s (d.dscpPrio 0)
      (if a.v6 then .frame n s allNodesMac (etIp true) none (naBytes a.addr (d.macOf n s) allNodes false)
       else .frame n s (2 ^ 48 - 1) etArp none (arpBytes 1 (d.macOf n s) a.addr 0 a.addr))) d

/-- Sub-ports of a mask lose link; the port retrains; in RUN it counts (R497). -/
def Dev.portDown (d : Dev) (run : Bool) (n mask : Nat) : Dev :=
  let p := d.port n
  let lost := p.up &&& mask
  if lost = 0 then d
  else
    let d := (d.mgRetrain n).modPort n fun p =>
      { p with
        up := p.up ^^^ lost
        training := true
        nbr := 0
        nbrMac := 0
        paused := maskOf 32 fun i => bitAt p.paused i && !bitAt lost (i / 8)
        pauseEnd := p.pauseEnd.filter fun q => !bitAt lost (q.1 / 8)
        txq := p.txq.filter fun q => !bitAt lost (q.1 / 8)
        buf := if p.up = lost then [] else p.buf
        xoff := maskOf 32 fun i => bitAt p.xoff i && !bitAt lost (i / 8) }
    let d := d.onNet fun t => { t with hopq := t.hopq.filter fun q => !q.2.2.2.onSub n lost }
    if run then d.bump .ETH_LINKDN [n] else d

/-- A port has failed the self-test of its retraining in RUN: mapped out, or only reported (R617, R619). -/
def Mach.portFails (m : Mach) (n : Nat) : Mach :=
  if m.dev.cfgF .UND_FLTCFG [] 25 1 = 1 then
    let m := m.leaveUnits { ports := 2 ^ n }
    let m := m.onDev fun d => d.modPort n fun _ => {}
    m.event 0x0401 1 (evUnit 7 n) 0
  else m.event 0x0404 1 (evUnit 7 n) 0

/-- A port may train: its clock runs, its cable is present and its supply is not cut (R653, R658). -/
def Mach.portMay (m : Mach) (n : Nat) : Bool :=
  m.und.st.serves && m.und.sdclk && bitAt m.und.mgmt.cprs (n / 4) && !bitAt m.und.mgmt.vauxOff (n / 4)

/-- The ports of a set lose link. -/
def Mach.portsDown (m : Mach) (p : Nat → Bool) : Mach :=
  m.onDev fun d => ((List.range 36).filter p).foldl (fun d n => d.portDown (m.und.st == .run) n 15) d

end Sys2Proof.Machine
end

