-- ==== Sys2Proof/Machine/Updates.lean ====
section
/-! DEFINITION. UPDATE, its parts here and at other modules, and the merge queue's descriptors (spec/11 R342 to R368). -/

namespace Sys2Proof.Machine

/-! ### UPDATE -/

/-- The checks of R364. -/
def Dev.updChecks (d : Dev) (o : HOp) : List (Bool × Nat) :=
  let k := o.f 32 1
  let fl := o.f 33 1
  let t := o.f 34 2 % 4096
  let n := o.f 56 4
  let td := d.tdesc t
  let ld := d.layerOf t
  let sh := k == 0 && tdSharded td
  [(2 ≤ k || 4 ≤ fl || 4096 ≤ o.f 34 2 || (k == 1 && 1024 ≤ t) || 16 ≤ o.f 48 1 || 8 ≤ o.f 49 1 || !o.zero 60 64 || !o.zero 72 256 ||
    n == 0 || 65536 < n || (!sh && (o.f 52 4 != 0 || n != 1)), eArg),
   ((k == 0 && !bdValid (d.bindOf t)), eArg), (d.ctxClusters o.ctx (o.f 50 2) == 0, eArg), (bitAt fl 0 && !sh, eArg),
   (if k = 0 then !tdValid td else !ldValid ld || !d.isOwn (ldHome ld), eState),
   (sh && d.cfgF .TBL_SHB [t] 20 17 < o.f 52 4 + n, eRange), (!d.memOk (o.f 64 8) (16 * n), eRange), (o.f 64 8 % 16 != 0, eAlign)]

/-- The part an UPDATE record asks for, before it is spread over shards (R363). -/
def partOf (who : Nat ⊕ (Nat × Nat)) (b : List Byte) (ctx prio mask : Nat) : Part :=
  { id := 0, who := who, layer := recNum b 0 1 == 1, target := recNum b 2 2 % 4096, shard := 0, step := recNum b 8 8,
    lr := recNum b 4 4, discard := bitAt (recNum b 1 1) 1, mask := mask, ctx := ctx, prio := prio, mem := recNum b 16 1 % 16 }

/-- A holder that cannot be reached, or is lost, gives its parts E_STATE (R365, R534): its shards, and its rows held by row entries. -/
def Dev.holderLost (d : Dev) (o : HOp) (k : Nat) : Dev :=
  let t := o.f 34 2 % 4096
  let td := d.tdesc t
  (List.range (o.f 56 4)).foldl (fun d i =>
    let s := o.f 52 4 + i
    let sh := match d.shardIx t s with | some ix => (d.entAt (d.shardEntAt ix)).module == k | none => false
    let rows := d.tabs.rent.any fun q =>
      let r := q.1 % 2 ^ 40
      q.1 / 2 ^ 40 == t && shardOf td r == s && match d.rowEnt? t r with
        | some a => (d.entAt a).module == k && (d.entAt a).state != 0
        | none => false
    let n := (if sh then 1 else 0) + if rows then 1 else 0
    if n = 0 then d else d.modOut o.handle i fun u => { u with sts := u.sts ++ [eState], parts := u.parts + n }) d

/-- The parts of an accepted UPDATE, and with DOMAIN the requests to the other holders (R365); a holder that cannot be reached
gives its shards' parts E_STATE. -/
def Dev.updStart (d : Dev) (now : Nat) (o : HOp) : Dev :=
  let b := (o.rcd.drop 32).take 40
  let n := o.f 56 4
  let first := o.f 52 4
  let t := o.f 34 2 % 4096
  let p := partOf (.inl o.handle) b o.ctx (d.ctxPrio o.ctx (o.f 49 1)) (d.ctxClusters o.ctx (o.f 50 2))
  let d := d.onTabs fun x => { x with uouts := x.uouts.put [] o.handle (List.replicate n {}) }
  let d := d.addParts p first n
  let d := if bitAt (o.f 33 1) 0 then
      (d.holders t first n).foldl (fun d k =>
        if d.routeCheck k = .send then d.request k now 0x1B 0 0 n b none (.part o.handle)
        else d.holderLost o k) d
    else d
  d.updEnd now o.handle

/-- UPDATE (R363 to R365). -/
def execUpdate (slot : Nat) (s : State) : Out1 :=
  s.run fun m => { m with dev := m.dev.takeCmd m.und.now slot 0x0125 false m.dev.updChecks fun d o => d.updStart m.und.now o }

/-- An update part starts once every move of its shard has settled (R366). -/
def execUpdatePartStart (id : Nat) (s : State) : Out1 :=
  s.run fun m =>
    match m.dev.part? id with
    | some p => { m with dev := (m.dev.startPart m.und.now p).settle m.und.now }
    | none => m

/-- A layer's update finds its reader count at zero and writes the new copy (R361); CANCEL and SUSPEND take effect before its
first write (R367). While what it reads waits, nothing happens (R426, R476). -/
def execLayerReadersZero (id : Nat) (s : State) : Out1 :=
  s.run fun m =>
    match m.dev.part? id with
    | some p =>
      if p.layer && p.started && p.readers then
        match m.dev.partStop p with
        | some st => { m with dev := m.dev.partEnd m.und.now p st }
        | none => if m.dev.spansWait p.mem (m.dev.layerSpans p) then m else { m with dev := m.dev.updLayer m.und.now p }
      else m
    | none => m

/-- UPDPART (R365, R395): parts start here, in context 0, with the PRIO and CLU_MASK the request carries. -/
def execUpdpart (src tag : Nat) (body : List Byte) (s : State) : Out1 :=
  s.runAt fun now d =>
    let d := d.took (some src) 0x1B tag body
    let t := recNum body 2 2 % 4096
    let n := recNum body 24 4
    if body.length != 40 || recNum body 0 1 != 0 || n == 0 || 65536 < n then d.badMsg now src 0x1C tag true
    else
      let p := partOf (.inr (src, tag)) body 0 (recNum body 17 1 % 8) (recNum body 18 2)
      let key := p.outKey
      let d := d.onTabs fun x => { x with uouts := x.uouts.put [] key (List.replicate n {}) }
      if !tdValid (d.tdesc t) || !tdSharded (d.tdesc t) || !bdValid (d.bindOf t) then
        (d.onTabs fun x => { x with uouts := x.uouts.put [] key (List.replicate n { sts := [eState], parts := 1 }) }).remoteEnd now src tag
      else (d.addParts p (recNum body 20 4) n).remoteEnd now src tag

/-- A module is the home that this module's copy names for a shard (R368). -/
def Dev.shardAt (d : Dev) (t shard k : Nat) : Bool :=
  match d.shardIx t shard with | some ix => (d.entAt (d.shardEntAt ix)).module == k | none => false

/-- One outcome of a holder joins that of its shard: LAST_STEP is the shard entry's, from its home (R368). -/
def UOut.join (u : UOut) (e : List Byte) (home : Bool) : UOut :=
  { sts := u.sts ++ [knownStatus (recNum e 0 1)], parts := u.parts + recNum e 1 1, rows := u.rows + recNum e 2 6,
    last := if home || (u.parts = 0 && !u.own) then recNum e 8 8 else u.last, own := u.own || home }

/-- UPDOUT (R365, R368): a holder's outcomes join those of the UPDATE; the request ends with the last of them. One that breaks its layout is
dropped and counted (R521). -/
def execUpdout (tag status : Nat) (body : List Byte) (s : State) : Out1 :=
  s.run fun m =>
    let m := m.onDev fun d => d.took none 0x1C tag body
    let d := m.dev
    if status = sOk ∧ (body.length < 8 ∨ body.length ≠ 8 + 16 * recNum body 4 4) then m.onDev fun d => d.bump .SFX_RXBAD
    else match d.net.outst.find? fun o => o.tag == tag with
    | some o =>
      match o.who with
      | .part h =>
        let n := if status = sOk then min (recNum body 4 4) ((body.length - 8) / 16) else 0
        let first := recNum body 0 4
        let d := d.onNet fun t => { t with
          outst := if status = sOk && n < o.op then t.outst.map fun x => if x.tag = tag then { x with op := x.op - n } else x
            else t.outst.filter fun x => x.tag != tag }
        let rcd := (d.handleOp h).elim (0, 0) fun x => (x.f 34 2 % 4096, x.f 52 4)
        let d := (List.range n).foldl (fun d i =>
          let e := (body.drop (8 + 16 * i)).take 16
          if recNum e 1 1 = 0 then d
          else d.modOut h (first + i) fun u => u.join e (d.shardAt rcd.1 (rcd.2 + first + i) o.dst)) d
        let d := if status = sOk then d else match d.handleOp h with | some x => d.holderLost x o.dst | none => d
        { m with dev := d.updEnd m.und.now h }
      | _ => m
    | none => m

/-- The home of a row is no longer this module. -/
def Dev.homeGone (d : Dev) (t row : Nat) : Bool :=
  tdSharded (d.tdesc t) && match d.lookupEnt (d.tdesc t) t row with
    | some x => x.ent.state == 0 || x.ent.state == 3 || !d.isOwn x.ent.module
    | none => true

/-- A waiting merge may be added: no drain holds its table, it is the first of its bank that waits, its bank's lines do not wait, and its
bank stands or there is room for one (R339, R342, R476, R564); or its row has another home by now. -/
def Dev.mergeReady (d : Dev) (r : RowReq) : Bool :=
  match r.op with
  | .merge step off xs _ =>
    let e := tdElts (d.tdesc r.table)
    !d.heldTable r.table && d.tabs.gwait.find? r.sameBank == some r &&
      (d.homeGone r.table r.row || (d.bankRoom r.table r.row (step % 2) e &&
        d.writeWait (d.byPart r.by_) (d.bankAt r.table r.row (step % 2) e + 4 * off) (4 * xs.length) none true == 0))
  | _ => true

/-- A merge that waited for gradient space, or for a drain of its table, is added; those behind it keep their order (R339, R342, R564). -/
def execGradientSpaceWaitEnd (s : State) : Out1 :=
  s.run fun m =>
    let d := m.dev
    match d.tabs.gwait.findIdx? d.mergeReady with
    | some i =>
      match d.tabs.gwait[i]? with
      | some r =>
        let d := d.onTabs fun x => { x with gwait := x.gwait.take i }
        let d := d.rowReq m.und.now r
        { m with dev := (d.onTabs fun x => { x with gwait := x.gwait ++ m.dev.tabs.gwait.drop (i + 1) }).settle m.und.now }
      | none => m
    | none => m

/-! ### GMERGE (R343 to R346) -/

/-- A range of bytes lies in a core's CLM. -/
def inClmAt (c a n : Nat) : Bool := decide (clmAt c 0 ≤ a ∧ a + n ≤ clmAt c clmSize)

/-- BYTES of the tiles that a GMERGE TILES names (R343): 0 for a header that lies outside the CLM. -/
def Dev.gmBytes (d : Dev) (c : Nat) (x : QEnt) : List Nat :=
  if x.g 0 1 ≠ 2 ∨ 1024 < x.g 4 4 then []
  else (List.range (x.g 4 4)).map fun i =>
    let a := x.g 24 8 + i * x.g 32 4
    if inClmAt c a 32 then (TileHdr.parse (d.bytes a 32)).bytes else 0

/-- The refusals of R344. -/
def Dev.gmStatus (d : Dev) (c : Nat) (x : QEnt) : Nat :=
  let op := x.g 0 1
  let n := x.g 4 4
  let t := x.g 2 2 % 4096
  let src := if op = 1 then tdElts (d.tdesc t) * 4 else denseSize .fp32 64 64
  if x.bad ≠ 0 then x.bad
  else refusal
    [((op != 1 && op != 2) || 4 ≤ x.g 1 1 || (op == 2 && bitAt (x.g 1 1) 1) || 4096 ≤ x.g 2 2 || (op == 2 && 1024 ≤ t) || n == 0 ||
      (if op = 1 then 65536 else 1024) < n || x.g 36 4 != 0 || recNum x.rcd 48 16 != 0 || (!bitAt (x.g 1 1) 0 && x.g 40 8 != 0) ||
      (op == 1 && x.g 32 4 < tdElts (d.tdesc t) * 4) || (d.gmBytes c x).any fun n => x.g 32 4 < n, eArg),
     (if op = 1 then !tdValid (d.tdesc t) else !ldValid (d.layerOf t), eState),
     (x.g 16 8 % 8 != 0 || x.g 24 8 % 64 != 0 || x.g 32 4 % 64 != 0, eAlign),
     (!inClmAt c (x.g 16 8) (n * x.gIdx) || !inClmAt c (x.g 24 8) ((n - 1) * x.g 32 4 + (if op = 1 then src else 32)) ||
      (bitAt (x.g 1 1) 0 && !inClmAt c (x.g 40 8) n) ||
      ((d.gmBytes c x).zip (List.range n)).any fun p => !inClmAt c (x.g 24 8 + p.2 * x.g 32 4) p.1, eRange)]

/-- The descriptor's entries from the next on, in list order, until one waits for the header of a layer's tile at another module, or the
job ends (R345, R346). -/
def Dev.gmPump (d : Dev) (c : Nat) (entry : Dev → QEnt → Nat → Dev) : Nat → Dev
  | 0 => d
  | n + 1 =>
    let k := (d.core c).mq
    match k.q with
    | x :: _ =>
      if k.hdr || x.dead || !x.started || x.g 4 4 ≤ k.next then d
      else
        let d := entry d x k.next
        if (d.core c).mq.hdr then d
        else (d.modCore c fun k => { k with mq := { k.mq with next := k.mq.next + 1 } }).gmPump c entry n
    | [] => d

def Dev.gmOut (d : Dev) (c i st : Nat) : Dev :=
  d.modCore c fun k => { k with mq := { k.mq with outs := k.mq.outs.put none i (some st) } }

/-- A poisoned source vector counted for the descriptor (R77, R80, R346). -/
def Dev.gmPoison (d : Dev) (c : Nat) (x : QEnt) (p : Bool) : Dev :=
  if p then (d.poisonIn c x.job).modCore c fun k => { k with mq := { k.mq with poison := true } } else d

/-- The head of the merge queue started: refused, or its index list read, in which an error that marks ends the job (R440), and its entries
sent in list order (R344, R345). -/
def Dev.gmStart (d : Dev) (now c op : Nat) (entry : Dev → QEnt → Nat → Dev) : Dev :=
  match (d.core c).mq.q with
  | [] => d
  | x :: rest =>
    if x.started || (x.bad == 0 && x.g 0 1 != op && (x.g 0 1 == 1 || x.g 0 1 == 2)) then d
    else
      let st := d.gmStatus c x
      if st != sOk then
        ((d.modCore c fun k => { k with mq := { k.mq with q := rest } }).complete now x (BitVec.ofNat 64 (st * 2 ^ 56))).reap (cluOfCore c)
      else
        let n := x.g 4 4
        let d := d.modCore c fun k => { k with mq := { q := { x with started := true } :: rest, next := 0, outs := [] } }
        let f := d.meetAll (x.g 16 8) (n * x.gIdx)
        let d := if f.2 then f.1.endMet now (x.g 16 8) x.job else f.1
        ((d.gmPoison c x (d.poisoned (x.g 16 8) (n * x.gIdx))).gmPump c entry n).gmEnd now c

/-- The index list of a descriptor is poisoned, which every bank it merges into takes on (R77). -/
def Dev.gmList (d : Dev) (x : QEnt) : Bool := d.poisoned (x.g 16 8) (x.g 4 4 * x.gIdx)

/-- One entry of GMERGE ROWS: a row merge, the pad index merging nothing (R345); an error that marks ends the job as its vector is read
(R440). -/
def Dev.gmRow (now c : Nat) (d : Dev) (x : QEnt) (i : Nat) : Dev :=
  let t := x.g 2 2 % 4096
  let e := tdElts (d.tdesc t)
  let v := d.num (x.g 16 8 + i * x.gIdx) x.gIdx
  let a := x.g 24 8 + i * x.g 32 4
  if v = 2 ^ (8 * x.gIdx) - 1 then d.gmOut c i sOk
  else
    let f := d.meetAll a (4 * e)
    let d := f.1
    if f.2 then d.endMet now a x.job else
    let p := d.poisoned a (4 * e) || d.gmList x
    let d := d.gmPoison c x (d.poisoned a (4 * e))
    d.rowReq now { by_ := .merge c i, table := t, row := v, op := .merge (x.g 8 8) 0 ((List.range e).map fun j => d.num (a + 4 * j) 4) p }

/-- GMERGE ROWS (R345): one row merge per entry. -/
def execGmergeRows (c : Nat) (s : State) : Out1 :=
  s.run fun m => { m with dev := m.dev.gmStart m.und.now c 1 (Dev.gmRow m.und.now c) }

/-- The tile number of an entry of GMERGE TILES, and the address of its source tile. -/
def Dev.gmTileNo (d : Dev) (x : QEnt) (i : Nat) : Nat := d.num (x.g 16 8 + 2 * i) 2
def QEnt.gmSrc (x : QEnt) (i : Nat) : Nat := x.g 24 8 + i * x.g 32 4

/-- A source tile whose shape is the layer tile's merged: 64 row-merge-adds here, or 64 LMERGE messages to the layer's home, which carry
no marks (R345, R521; DESIGN CHOICE, log 85). -/
def Dev.gmMerge (d : Dev) (now c : Nat) (x : QEnt) (i : Nat) : Dev :=
  let l := x.g 2 2 % 4096
  let home := ldHome (d.layerOf l)
  let tile := d.gmTileNo x i
  let bs := d.tileBytes (x.gmSrc i)
  let p := d.tilePoisoned (x.gmSrc i) bs
  let row (r : Nat) : List Nat := (List.range 64).map fun k => tileCode bs r k
  let d := (d.gmPoison c x p).bump .CORE_BADIDX [c] (tileDropped bs)
  if d.isOwn home then
    let y := (List.range 64).foldl (fun (q : Dev × Nat) r =>
      let z := q.1.layerMerge l tile r (x.g 8 8) (row r) (p || d.gmList x) (d.jobPart x.job)
      (z.1, if q.2 = sOk then z.2 else q.2)) (d, sOk)
    y.1.gmOut c i y.2
  else
    (List.range 64).foldl (fun d r =>
      let b := leBytes 1 3 ++ leBytes 1 0 ++ leBytes 2 l ++ leBytes 4 0 ++ leBytes 8 (tile + r * 65536) ++ leBytes 8 (x.g 8 8) ++
        leBytes 8 0 ++ (row r).flatMap (leBytes 4)
      d.request home now 0x10 0 (tile % 64) 3 b (some x.job) (.merge c i)) d

/-- An entry's source tile against the header of the layer's tile (R345). -/
def Dev.gmShape (d : Dev) (now c : Nat) (x : QEnt) (i : Nat) (hdr : List Byte) : Dev :=
  let h := TileHdr.parse (d.tileBytes (x.gmSrc i))
  let tl := TileHdr.parse hdr
  if h.rows ≠ tl.rows ∨ h.cols ≠ tl.cols then d.gmOut c i eArg else d.gmMerge now c x i

/-- One entry of GMERGE TILES (R345): its source tile is checked (R68). R343 calls the sources dense fp32 tiles and neither R344 nor R345
speaks of another: a well-formed fp32 tile of any form is merged, and one of another DTYPE has outcome E_ARG (DESIGN CHOICE, log 99). The
header of the layer's tile is read here, or asked of its home (DEDUCED, log 88). -/
def Dev.gmTile (now c : Nat) (d : Dev) (x : QEnt) (i : Nat) : Dev :=
  let ld := d.layerOf (x.g 2 2 % 4096)
  let home := ldHome ld
  let bs := d.tileBytes (x.gmSrc i)
  let f := d.meetAll (x.gmSrc i) (max 32 bs.length)
  let d := f.1
  let a := recNum ld 8 8 + d.gmTileNo x i * recNum ld 24 4
  if ldNt ld ≤ d.gmTileNo x i then d.gmOut c i eRange
  else if f.2 then d.endMet now (x.gmSrc i) x.job
  else if !tileGood bs then (d.bump .CORE_TILEERR [c] 2).endJob now x.job .fault
  else if (TileHdr.parse bs).dtype ≠ 7 then d.gmOut c i eArg
  else if d.isOwn home then d.gmShape now c x i (d.bytes a 32)
  else if d.routeCheck home = .send then
    (d.request home now 0x01 0 (laneOfDla a) 0 (leBytes 8 a ++ leBytes 4 32 ++ leBytes 4 0) (some x.job) (.gmHdr c i)).modCore c fun k =>
      { k with mq := { k.mq with hdr := true } }
  else d.gmOut c i eState

/-- The header of a layer's tile comes from its home: the entry that waits for it goes on, and those after it (R345, R346). -/
def Dev.gmReply (d : Dev) (now c i status : Nat) (body : List Byte) : Dev :=
  let d := d.modCore c fun k => { k with mq := { k.mq with hdr := false } }
  match (d.core c).mq.q with
  | [] => d
  | x :: _ =>
    if x.dead then d.gmEnd now c
    else
      let d := if status = sOk then d.gmShape now c x i (body.drop 8) else d.gmOut c i (knownStatus status)
      let d := d.modCore c fun k => { k with mq := { k.mq with next := k.mq.next + 1 } }
      (d.gmPump c (Dev.gmTile now c) (x.g 4 4)).gmEnd now c

/-- GMERGE TILES (R345). -/
def execGmergeTiles (c : Nat) (s : State) : Out1 :=
  s.run fun m => { m with dev := m.dev.gmStart m.und.now c 2 (Dev.gmTile m.und.now c) }

end Sys2Proof.Machine
end

