-- ==== Sys2Proof/Machine/LongOps.lean ====
section
/-! DEFINITION. The host's long operations that go block by block, and their checks (spec/16 R555 to R558, spec/02 R67, spec/07 R252 to
R254, spec/04 R131). -/

namespace Sys2Proof.Machine

/-! ### Memory as a command names it (R462, R555) -/

/-- The range lies in the CLM of one present core. -/
def Dev.inClm (d : Dev) (a n : Nat) : Bool :=
  decide (coreWin ≤ a ∧ a < coreWin + 128 * 0x1000000) && d.coreHere ((a - coreWin) / 0x1000000) &&
  decide ((a - coreWin) % 0x1000000 + n ≤ clmSize)

/-- Every byte of a range lies in present memory: HBM3E, LPDDR5X, Clearings, or one core's CLM. -/
def Dev.areaOk (d : Dev) (a n : Nat) : Bool := d.memOk a n || d.inClm a n

/-- Bytes with their marks; the CLM of an OFF cluster reads as zero (R441). -/
def Dev.cmdRead (d : Dev) (a n : Nat) : List Byte × Nat :=
  match d.target a with
  | .core c _ => if d.winOff c then (List.replicate n 0, 0) else (d.bytes a n, d.pmOf a n)
  | _ => (d.bytes a n, d.pmOf a n)

/-- A command's read before its bytes are taken: an error found there is handled, and a core's counted (R430, R440), and the read charged,
or counted at a cluster that is OFF (R441, R474). -/
def Dev.cmdTouch (d : Dev) (o : HOp) (a n : Nat) : Dev :=
  let f := d.meetAll a n
  (if f.2 then f.1.countMet a else f.1).localTouch a n { part := o.part.getD d.maintPart }

/-- Bytes written with their marks (R79, R441). -/
def Dev.cmdWrite (d : Dev) (a : Nat) (bs : List Byte) (pm : Nat) (part : Option Nat) : Dev :=
  match d.target a with
  | .core c off => d.winWrite c off bs pm
  | _ => d.storePm a bs pm part

/-- The marks of `n` bytes at `src` as they fall on granules at `dst` (R77). -/
def pmShift (src dst n pm : Nat) : Nat :=
  ((pieces dst n).map fun p =>
    let s := src + (p.2.1 - dst)
    if (List.range ((s + p.2.2 - 1) / 64 - s / 64 + 1)).any fun i => bitAt pm (s / 64 - src / 64 + i) then 2 ^ p.1 else 0).foldl
    (· + ·) 0

/-- `n` bytes copied in ascending address with their marks (R555), in pieces that do not overlap. -/
def Dev.copyUp (d : Dev) (o : HOp) (src dst n : Nat) : Dev :=
  let k := if src < dst ∧ dst < src + 64 then dst - src else 64
  (List.range (ceilDiv n k)).foldl (fun d i =>
    let m := min k (n - i * k)
    let d := d.cmdTouch o (src + i * k) m
    let r := d.cmdRead (src + i * k) m
    d.cmdWrite (dst + i * k) r.1 (pmShift (src + i * k) (dst + i * k) m r.2) o.part) d

/-! ### Commands whose refusal carries results -/

/-- As `takeCmd`, with results that a refusal carries too. -/
def Dev.takeCmdR (d : Dev) (now slot opc : Nat) (checks : HOp → List (Bool × Nat)) (res : HOp → List (Nat × Nat × Nat))
    (go : Dev → HOp → Dev) : Dev :=
  match d.queuedOp slot opc with
  | none => d
  | some o =>
    let st := refusal (d.baseChecks o false ++ checks o)
    if st != sOk then d.finish o st (res o)
    else go (d.modOp o.handle fun q => { q with st := .running, at_ := now }) { o with st := .running, at_ := now }

/-! ### Tiles (R67, R254) -/

/-- A tile passes the checks of a tile-loading command. -/
def tileLoadable (t : List Byte) : Bool :=
  tileGood t && (!bitAt ((TileHdr.parse t).flags) 1 || meets48 (patternRow (TileHdr.parse t).dt (tileEntries t)))

/-- What checking packed tiles finds: bytes that cannot be read, a failing tile, or all good and their length. -/
inductive TileScan where
  | stop (off n : Nat) | bad (j : Nat) | done (total : Nat)
  deriving DecidableEq, Repr, Inhabited

/-- Packed tiles checked in order; `rd` reads bytes of the source. -/
def scanTiles (rd : Nat → Nat → Option (List Byte)) : Nat → Nat → Nat → TileScan
  | 0, _, off => .done off
  | n + 1, j, off =>
    match rd off 32 with
    | none => .stop off 32
    | some h =>
      let nb := recNum h 14 2
      if nb < 32 ∨ nb % 32 ≠ 0 then .bad j
      else match rd off nb with
        | none => .stop off nb
        | some t => if tileLoadable t then scanTiles rd n (j + 1) (off + nb) else .bad j

/-- The tiles of a TILE_LOAD from memory. -/
def Dev.scanHere (d : Dev) (o : HOp) : TileScan :=
  let src := o.f 40 8
  scanTiles (fun off n => if d.areaOk (src + off) n then some (d.cmdRead (src + off) n).1 else none) (o.f 32 4) 0 0

/-- The tiles of a TILE_LOAD as far as the host has answered. -/
def HOp.scanBuf (o : HOp) : TileScan :=
  scanTiles (fun off n => if off + n ≤ o.buf.length then some ((o.buf.drop off).take n) else none) (o.f 32 4) 0 0

/-! ### Source and destination of a block -/

/-- The command reads host memory, or writes it. -/
def HOp.srcHost (o : HOp) : Bool :=
  match o.opc with
  | 0x0111 => bitAt (o.f 56 1) 0
  | 0x0112 => bitAt (o.f 34 2) 0
  | 0x0113 => bitAt (o.f 36 2) 0
  | _ => false
def HOp.dstHost (o : HOp) : Bool := o.opc == 0x0111 && bitAt (o.f 56 1) 1

/-- Row bytes of the table a TBL_LOAD names. -/
def Dev.loadB (d : Dev) (o : HOp) : Nat := tdB (d.tdesc (o.f 32 2 % 4096))

/-- Rows of a block of a TBL_LOAD: as many as 4 KiB holds, at least one (DEDUCED). -/
def Dev.loadRows (d : Dev) (o : HOp) : Nat := max 1 (4096 / max 1 (d.loadB o))

/-- The areas that ERASE with ALL passes over, in order: present stacks, packages, Clearings, the CLM of present cores. -/
def Dev.eraseAreas (d : Dev) : List (Nat × Nat) :=
  ((List.range 40).filter d.unitHere).map (fun u => (unitBase u, unitSize u)) ++
  ((List.range 64).filter d.isClearing).map (fun k => (clearBase + k * sliceSize, sliceSize)) ++
  ((List.range 128).filter d.coreHere).map fun c => (clmAt c 0, clmSize)

/-- Where the bytes of an ERASE from its `done`th on lie. -/
def eraseFrom : List (Nat × Nat) → Nat → Option (Nat × Nat)
  | [], _ => none
  | p :: r, k => if k < p.2 then some (p.1 + k, p.2 - k) else eraseFrom r (k - p.2)

/-- What is left of an operation, in the unit its progress counts. -/
def Dev.opLeft (d : Dev) (o : HOp) : Nat :=
  match o.opc with
  | 0x0111 => o.f 48 8 - o.done
  | 0x0112 => o.f 48 8 - o.done
  | 0x0113 => o.total - o.done
  | 0x0114 => o.f 40 8 - o.done
  | 0x0115 =>
    if bitAt (o.f 48 1) 0 then ((d.eraseAreas.map (·.2)).foldl (· + ·) 0) - o.done else o.f 40 8 - o.done
  | _ => 0

/-- The next block of the source asked of the host, where the source is there and not yet answered. -/
def Dev.blockAsk (d : Dev) (now : Nat) (o : HOp) : Dev :=
  match o.opc with
  | 0x0111 => if o.srcHost then d.hostAsk now o.slot (o.f 32 8 + o.done) (min 4096 (d.opLeft o)) [] else d
  | 0x0112 =>
    if o.srcHost then d.hostAsk now o.slot (o.f 56 8 + o.done * d.loadB o) (min (d.loadRows o) (d.opLeft o) * d.loadB o) [] else d
  | _ => d

/-- An operation goes on after a block, stops where it was asked to, or ends; one that ends first answers a request to stop it with
E_STATE. -/
def Dev.blockNext (d : Dev) (now handle : Nat) : Dev :=
  match d.handleOp handle with
  | none => d
  | some o =>
    if d.opLeft o = 0 then
      let d := d.finish o sOk (o.results d now)
      let d := match o.cancelBy with | some b => d.finishReq b eState | none => d
      match o.st with | .suspending b => d.finishReq b eState | _ => d
    else if o.stopping then d.stopOp now o
    else d.blockAsk now o

/-- `n` more done. -/
def Dev.blockDone (d : Dev) (now : Nat) (o : HOp) (n : Nat) : Dev :=
  (d.modOp o.handle fun q => { q with
    done := q.done + n, buf := if q.opc = 0x0113 then q.buf else [], bufPm := if q.opc = 0x0113 then q.bufPm else 0 }).blockNext
    now o.handle

/-- An area of the operation has left present memory (R670). -/
def Dev.blockRange (d : Dev) (now : Nat) (o : HOp) : Dev :=
  let d := d.finish o eRange (o.results d now)
  let d := match o.cancelBy with | some b => d.finishReq b eState | none => d
  match o.st with | .suspending b => d.finishReq b eState | _ => d

/-! ### One block of each operation -/

/-- A row of a TBL_LOAD where it lies, and 0 in its version words; its shadow copy takes the row too (R127, R131). -/
def Dev.loadRow (d : Dev) (td : List Byte) (l : Loc) (bs : List Byte) (poison : Bool) (part : Option Nat) : Dev :=
  let pm (a : Nat) : Nat := if poison then 2 ^ (granules a bs.length).length - 1 else 0
  let d := d.storePm l.row bs (pm l.row) part
  let d := if tdVersioned td then d.putVer l.ver 0 part else d
  if tdShadow td then (d.storePm l.shd bs (pm l.shd) part).putVer l.sver 0 part else d

/-- Where row `i` of a table lies, when its home is this module. -/
def Dev.rowHere (d : Dev) (now t i : Nat) : Option Loc :=
  match d.resolve (now / usT) (d.tdesc t) t i with | .here l _ => some l | _ => none

/-- The block of a COPY. -/
def Dev.copyBlock (d : Dev) (now : Nat) (o : HOp) : Dev :=
  let n := min 4096 (d.opLeft o)
  let src := o.f 32 8 + o.done
  let dst := o.f 40 8 + o.done
  if (!o.srcHost && !d.areaOk src n) || (!o.dstHost && !d.areaOk dst n) then d.blockRange now o
  else if o.dstHost then
    let d := if o.srcHost then d else d.cmdTouch o src n
    let r := if o.srcHost then (o.buf, o.bufPm) else d.cmdRead src n
    d.hostAsk now o.slot dst n r.1 (pmShift src dst n r.2)
  else if o.srcHost then (d.cmdWrite dst o.buf (pmShift src dst n o.bufPm) o.part).blockDone now o n
  else (d.copyUp o src dst n).blockDone now o n

/-- The block of a TBL_LOAD. -/
def Dev.tblBlock (d : Dev) (now : Nat) (o : HOp) : Dev :=
  let t := o.f 32 2 % 4096
  let td := d.tdesc t
  let b := d.loadB o
  let n := min (d.loadRows o) (d.opLeft o)
  let src := o.f 56 8 + o.done * b
  if !o.srcHost && !d.areaOk src (n * b) then d.blockRange now o
  else
    let d := if o.srcHost then d else d.cmdTouch o src (n * b)
    let r := if o.srcHost then (o.buf, o.bufPm) else d.cmdRead src (n * b)
    ((List.range n).foldl (fun d k =>
      match d.rowHere now t (o.f 40 8 + o.done + k) with
      | some l => d.loadRow td l ((r.1.drop (k * b)).take b) (pmShift (src + k * b) 0 b (r.2 / 2 ^ ((src + k * b) / 64 - src / 64)) != 0) o.part
      | none => d) d).blockDone now o n

/-- The block of a TILE_LOAD. -/
def Dev.tileBlock (d : Dev) (now : Nat) (o : HOp) : Dev :=
  let n := min 4096 (d.opLeft o)
  let src := o.f 40 8 + o.done
  let dst := o.f 48 8 + o.done
  if (!o.srcHost && !d.areaOk src n) || !d.areaOk dst n then d.blockRange now o
  else if o.srcHost then
    (d.cmdWrite dst ((o.buf.drop o.done).take n) (pmShift src dst n (o.bufPm / 2 ^ (src / 64 - o.f 40 8 / 64))) o.part).blockDone now o n
  else (d.copyUp o src dst n).blockDone now o n

/-- The block of a SCRUB: each granule that `bad` lists, as (place in the block, what its decoding finds), is rewritten and counted;
the other granules are clean (R484). -/
def Mach.scrubBlock (m : Mach) (o : HOp) (bad : List (Nat × Nat)) : Mach :=
  let n := min 4096 (m.dev.opLeft o)
  let a := o.f 32 8 + o.done
  let m := match m.dev.target a with
    | .ext u _ => m.onDev fun d => d.memBytes u (o.part.getD d.maintPart) n
    | _ => m
  let m := bad.foldl (fun m p => if p.1 * 64 < n then m.decodeRead (a + p.1 * 64) p.2 else m) m
  let cnt (r : Nat) : Nat := (bad.filter fun p => p.2 == r && decide (p.1 * 64 < n)).length
  let isExt := match m.dev.target a with | .ext _ _ => true | _ => false
  m.onDev fun d =>
    let d := if isExt then d.modOp o.handle fun q => { q with aux := (q.aux % 2 ^ 32 + cnt 2) % 2 ^ 32 + (q.aux / 2 ^ 32 + cnt 3) % 2 ^ 32 * 2 ^ 32 }
      else d
    d.blockDone m.und.now o n

/-- The block of an ERASE: zero, with no mark. -/
def Dev.eraseBlock (d : Dev) (now : Nat) (o : HOp) : Dev :=
  if bitAt (o.f 48 1) 0 then
    match eraseFrom d.eraseAreas o.done with
    | some (a, left) =>
      let n := min 4096 left
      (d.cmdWrite a (List.replicate n 0) 0 o.part).blockDone now o n
    | none => d.blockNext now o.handle
  else
    let n := min 4096 (d.opLeft o)
    let a := o.f 32 8 + o.done
    if d.areaOk a n then (d.cmdWrite a (List.replicate n 0) 0 o.part).blockDone now o n else d.blockRange now o

/-- What the next block of an operation reads on this module: its source, as address and length. -/
def Dev.blockSrc (d : Dev) (o : HOp) : Option (Nat × Nat) :=
  if o.srcHost then none
  else match o.opc with
    | 0x0111 => some (o.f 32 8 + o.done, min 4096 (d.opLeft o))
    | 0x0112 => some (o.f 56 8 + o.done * d.loadB o, min (d.loadRows o) (d.opLeft o) * d.loadB o)
    | 0x0113 => some (o.f 40 8 + o.done, min 4096 (d.opLeft o))
    | _ => none

/-- The next block waits: its source at slice ports, controllers or a side that re-homes (R426, R476, R480), a SCRUB's granules at their
controller. Its writes wait by themselves. -/
def Dev.opWaits (d : Dev) (o : HOp) : Bool :=
  let part := o.part.getD d.maintPart
  (match d.blockSrc o with | some s => d.readWait part s.1 s.2 != 0 | none => false) ||
  (o.opc == 0x0114 && match d.target (o.f 32 8 + o.done) with | .ext u b => d.ctlWait u b part != 0 | _ => false)

/-- A copy, load, scrub or erase finishes writing one block, and stops there if it has been suspended or cancelled (R558); nothing happens
while the block waits. -/
def execLongOpBlockDone (handle : Nat) (bad : List (Nat × Nat)) (s : State) : Out1 :=
  s.run fun m =>
    let now := m.und.now
    match m.dev.handleOp handle with
    | none => m
    | some o =>
      let on := o.st == .running || (match o.st with | .suspending _ => true | _ => false)
      let asked := m.dev.host.cacheReqs.any fun q => q.slot == o.slot
      if !on || asked || (o.srcHost && o.buf.isEmpty) || m.dev.opWaits o then m
      else match o.opc with
        | 0x0111 => m.onDev fun d => d.copyBlock now o
        | 0x0112 => m.onDev fun d => d.tblBlock now o
        | 0x0113 => if o.total = 0 then m else m.onDev fun d => d.tileBlock now o
        | 0x0114 => m.scrubBlock o bad
        | 0x0115 => m.onDev fun d => d.eraseBlock now o
        | _ => m

/-! ### The commands -/

/-- The checks of COPY. -/
def Dev.copyChecks (d : Dev) (o : HOp) : List (Bool × Nat) :=
  [(2 ^ 40 < o.f 48 8 || 4 ≤ o.f 56 1 || 16 ≤ o.f 57 1 || !o.zero 58 256, eArg), (o.f 48 8 % 64 != 0, eAlign),
   ((!o.srcHost && !d.areaOk (o.f 32 8) (o.f 48 8)) || (!o.dstHost && !d.areaOk (o.f 40 8) (o.f 48 8)), eRange)]

/-- COPY (R555). -/
def execCopy (slot : Nat) (s : State) : Out1 :=
  s.runAt fun now d => d.takeCmd now slot 0x0111 false d.copyChecks fun d o => d.blockNext now o.handle

/-- The checks of TBL_LOAD. -/
def Dev.tblLoadChecks (d : Dev) (now : Nat) (o : HOp) : List (Bool × Nat) :=
  let t := o.f 32 2 % 4096
  let td := d.tdesc t
  let first := o.f 40 8
  let n := o.f 48 8
  let gone := tdRows td < first + n || (!o.srcHost && !d.areaOk (o.f 56 8) (n * tdB td)) ||
    (List.range n).any fun k => match d.rowHere now t (first + k) with
      | some l => d.rowHole td l || d.shdHole td l
      | none => true
  [(4096 ≤ o.f 32 2 || 2 ≤ o.f 34 2 || !o.zero 36 40 || 16 ≤ o.f 64 1 || !o.zero 65 256, eArg), (!tdValid td, eState),
   (tdValid td && gone, eRange), (d.tableBusy t, eNonatomic)]

/-- TBL_LOAD (R555). -/
def execTblLoad (slot : Nat) (s : State) : Out1 :=
  s.runAt fun now d => d.takeCmd now slot 0x0112 false (d.tblLoadChecks now) fun d o => d.blockNext now o.handle

/-- BAD_TILE of a TILE_LOAD: the first failing tile, or all ones (R555). -/
def badTile (j : Option Nat) : List (Nat × Nat × Nat) := [(16, 4, j.getD 0xFFFFFFFF)]

/-- The form of a TILE_LOAD's record. -/
def HOp.tileForm (o : HOp) : Bool :=
  inRange 1 65536 (o.f 32 4) && o.f 36 2 < 2 && o.zero 38 40 && o.f 56 1 < 16 && o.zero 57 256

/-- What a TILE_LOAD finds of its tiles before it starts. -/
def Dev.tileFound (d : Dev) (o : HOp) : TileScan :=
  if o.srcHost || !o.tileForm || o.f 40 8 % 32 != 0 then .done 0 else d.scanHere o

/-- The checks of TILE_LOAD; DST of one from host memory is checked when its tiles have been (R668). -/
def Dev.tileLoadChecks (d : Dev) (o : HOp) : List (Bool × Nat) :=
  [(!o.tileForm || (match d.tileFound o with | .bad _ => true | _ => false), eArg),
   (o.f 40 8 % 32 != 0 || (!o.srcHost && o.f 48 8 % 32 != 0), eAlign),
   ((match d.tileFound o with | .stop _ _ => true | .done n => !o.srcHost && !d.areaOk (o.f 48 8) n | _ => false), eRange)]

/-- TILE_LOAD: every tile is checked before anything changes (R67, R555). -/
def execTileLoad (slot : Nat) (s : State) : Out1 :=
  s.runAt fun now d0 =>
    d0.takeCmdR now slot 0x0113 d0.tileLoadChecks
      (fun o => badTile (match d0.tileFound o with | .bad j => some j | _ => none))
      fun d o =>
        if o.srcHost then d.hostAsk now slot (o.f 40 8) 32 []
        else match d0.tileFound o with
          | .done n => (d.modOp o.handle fun q => { q with total := n }).blockNext now o.handle
          | _ => d

/-- The checks of SCRUB. -/
def Dev.scrubChecks (d : Dev) (o : HOp) : List (Bool × Nat) :=
  [(16 ≤ o.f 48 1 || !o.zero 49 256, eArg), (o.f 32 8 % 64 != 0 || o.f 40 8 % 64 != 0, eAlign),
   (!d.areaOk (o.f 32 8) (o.f 40 8), eRange)]

/-- SCRUB (R555). -/
def execScrub (slot : Nat) (s : State) : Out1 :=
  s.runAt fun now d => d.takeCmd now slot 0x0114 true d.scrubChecks fun d o => d.blockNext now o.handle

/-- The checks of ERASE. -/
def Dev.eraseChecks (d : Dev) (o : HOp) : List (Bool × Nat) :=
  let all := bitAt (o.f 48 1) 0
  [(2 ≤ o.f 48 1 || 16 ≤ o.f 49 1 || !o.zero 50 256, eArg),
   (!all && (o.f 32 8 % 4096 != 0 || o.f 40 8 % 4096 != 0), eAlign), (!all && !d.areaOk (o.f 32 8) (o.f 40 8), eRange),
   (!all && !d.drained (o.f 32 8) (o.f 40 8), eNonatomic),
   (all && (bitAt d.qfe0.ctl 0 || bitAt d.qfe1.ctl 0 || d.jobs.any fun j => j.2.live), eState)]

/-- ERASE (R555). -/
def execErase (slot : Nat) (s : State) : Out1 :=
  s.runAt fun now d => d.takeCmd now slot 0x0115 true d.eraseChecks fun d o => d.blockNext now o.handle

/-- What a program image's shadow holds: the image, and the operation's handle, which tells one setting from the next. -/
def Dev.setProg (d : Dev) (o : HOp) (bs : List Byte) : Dev :=
  (d.onShad fun t => { t with prog := t.prog.put [] (o.f 32 4) (bs ++ leBytes 8 o.handle) }).finish o sOk []

/-- CLASS_SET (R555). -/
def execClassSet (slot : Nat) (s : State) : Out1 :=
  s.runAt fun now d => d.setCmd now slot 0x0116 1 256 64 64 0 fun t i b => { t with cls := t.cls.put [] i b }

/-- The checks of PROG_LOAD. -/
def Dev.progChecks (d : Dev) (o : HOp) : List (Bool × Nat) :=
  [(2 ≤ o.f 36 2 || !o.zero 38 40 || !o.zero 52 256, eArg), (!bitAt (o.f 36 2) 0 && !d.areaOk (o.f 40 8) (o.f 48 4), eRange)]

/-- PROG_LOAD (R555). -/
def execProgLoad (slot : Nat) (s : State) : Out1 :=
  s.runAt fun now d => d.takeCmd now slot 0x0117 true d.progChecks
    fun d o =>
      if bitAt (o.f 36 2) 0 ∧ o.f 48 4 ≠ 0 then d.hostAsk now slot (o.f 40 8) (o.f 48 4) []
      else
        let d := d.cmdTouch o (o.f 40 8) (o.f 48 4)
        d.setProg o (d.cmdRead (o.f 40 8) (o.f 48 4)).1

/-! ### MASK_SET (R252, R253) -/

/-- The first image that breaks R250, and its first failing block. -/
def badMask (bs : List Byte) (n : Nat) : Option (Nat × Nat) :=
  (List.range n).findSome? fun i => ((badBlocks fun r => recNum bs (512 * i + 8 * r) 8).head?).map fun b => (i, b)

/-- Masks that a running layer update names overlap a range (R253). -/
def Dev.masksInUse (d : Dev) (a n : Nat) : Bool :=
  d.tabs.parts.any fun p => p.layer && p.started &&
    let l := d.layerOf p.target
    ldMasked l && (overlap a n (recNum l 56 8) (512 * ldNt l)).2 != 0

def maskRes (b : Option (Nat × Nat)) : List (Nat × Nat × Nat) :=
  match b with | some (i, k) => [(16, 4, i), (20, 1, k)] | none => [(16, 4, 0xFFFFFFFF)]

/-- What of a MASK_SET beside its record's form and its images may be refused (R252, R253). -/
def Dev.maskLate (d : Dev) (o : HOp) : List (Bool × Nat) :=
  [(o.f 40 8 % 64 != 0 || o.f 48 8 % 64 != 0, eAlign),
   ((!bitAt (o.f 36 2) 0 && !d.areaOk (o.f 40 8) (512 * o.f 32 4)) || !d.areaOk (o.f 48 8) (512 * o.f 32 4), eRange),
   (d.masksInUse (o.f 48 8) (512 * o.f 32 4), eBusy)]

/-- The images, read whole: refused, or stored; poison among them marks what is written (R77). -/
def Dev.maskImages (d : Dev) (o : HOp) (bs : List Byte) (poison : Bool) : Dev :=
  let n := o.f 32 4
  let b := badMask bs n
  let st := refusal ((b.isSome, eArg) :: d.maskLate o)
  if st != sOk then d.finish o st (maskRes b)
  else (d.cmdWrite (o.f 48 8) bs (if poison then 2 ^ (8 * n) - 1 else 0) o.part).finish o sOk (maskRes none)

/-- The first bad image of a MASK_SET whose record has its form, when the images can be read here. -/
def Dev.maskBad (d : Dev) (o : HOp) : Option (Nat × Nat) :=
  if !o.tileForm || bitAt (o.f 36 2) 0 || !d.areaOk (o.f 40 8) (512 * o.f 32 4) then none
  else badMask (d.cmdRead (o.f 40 8) (512 * o.f 32 4)).1 (o.f 32 4)

/-- The checks of MASK_SET; its record has the form of a TILE_LOAD's. Images in host memory are read before what ranks after a bad image
is checked (R668). -/
def Dev.maskChecks (d : Dev) (o : HOp) : List (Bool × Nat) :=
  (!o.tileForm || (d.maskBad o).isSome, eArg) :: if bitAt (o.f 36 2) 0 then [] else d.maskLate o

/-- MASK_SET. -/
def execMaskSet (slot : Nat) (s : State) : Out1 :=
  s.runAt fun now d0 =>
    d0.takeCmdR now slot 0x0130 d0.maskChecks (fun o => maskRes (d0.maskBad o))
      fun d o =>
        let n := 512 * o.f 32 4
        if bitAt (o.f 36 2) 0 then d.hostAsk now slot (o.f 40 8) n []
        else
          let d := d.cmdTouch o (o.f 40 8) n
          let r := d.cmdRead (o.f 40 8) n
          d.maskImages o r.1 (r.2 != 0)

/-! ### ROUTE_SET (R531) -/

/-- The checks of ROUTE_SET. -/
def Dev.routeChecks (d : Dev) (o : HOp) : List (Bool × Nat) :=
  let a := o.f 40 8
  let b := if d.memOk a 32 then d.bytes a 32 else []
  let ports := recNum b 8 8
  [(4096 ≤ o.f 32 2 || !o.zero 34 40 || !o.zero 48 256 || 16 ≤ recNum b 0 1 || recNum b 2 2 != 0 ||
     (ports ||| d.pres.ports) != d.pres.ports, eArg), (a % 32 != 0, eAlign), (!d.memOk a 32, eRange)]

/-- ROUTE_SET: a pinned entry, or a pin deleted and the entry rebuilt; a poisoned image marks the entry (R77). -/
def execRouteSet (slot : Nat) (s : State) : Out1 :=
  s.runAt fun now d => d.takeCmd now slot 0x0140 true d.routeChecks
    fun d o =>
      let k := o.f 32 2
      let b := d.bytes (o.f 40 8) 32
      let r := d.route k
      let d := if bitAt (recNum b 0 1) 3 then d.setRoute k { r with flags := recNum b 0 1, ports := recNum b 8 8, addr := recNum b 16 16 }
        else (d.setRoute k { r with flags := setBits r.flags 3 1 0 }).rebuildRoute k
      let d := if d.poisoned (o.f 40 8) 32 then d.markRange (d.routeAt k) 32 true else d
      d.finish o sOk []

end Sys2Proof.Machine
end

