-- ==== Sys2Proof/Machine/HostCmds.lean ====
section
/-! DEFINITION. Drains, SUSPEND, RESUME and CANCEL, and JOB (spec/16 R555 to R558, R563, R564, R667). -/

namespace Sys2Proof.Machine

/-! ### DRAIN (R563, R564) -/

/-- The checks of DRAIN (R564). -/
def Dev.drainChecks (d : Dev) (o : HOp) : List (Bool × Nat) :=
  let k := o.f 32 1
  [(2 ≤ k || !inRange 1 60000 (o.f 36 4) || (k == 0 && o.f 48 8 == 0) || !o.zero 33 34 || !o.zero 56 256 ||
     (k == 0 && o.f 34 2 != 0) || (k == 1 && (4096 ≤ o.f 34 2 || o.f 40 8 != 0 || o.f 48 8 != 0)), eArg),
   (k == 0 && (o.f 40 8 % 4096 != 0 || o.f 48 8 % 4096 != 0), eAlign), (k == 0 && decide (2 ^ 44 < o.f 40 8 + o.f 48 8), eRange),
   (k == 1 && !tdValid (d.tdesc (o.f 34 2 % 4096)), eState)]

/-- DRAIN: in force from here on. -/
def execDrain (slot : Nat) (s : State) : Out1 :=
  s.runAt fun now d => d.takeCmd now slot 0x0102 true d.drainChecks fun d _ => d

/-- Something that started before is outstanding in a range: engine work in progress that writes there, table reads and row writers
past their claim. Other requests are issued as they complete, or are held where they are issued. -/
def Dev.rangeBusy (d : Dev) (b n : Nat) : Bool :=
  let hit (a m : Nat) : Bool := (overlap a m b n).2 != 0
  (d.cores.any fun p => p.2.places.any fun e => e.started && e.area.any fun x => hit x.1 x.2) ||
  (d.tabs.readers.any fun r =>
    (match r.st with | .ver1 | .flight | .ver2 => true | _ => false) &&
    r.rows.any fun q => hit q.loc.row (tdB (d.tdesc r.table)) || (q.loc.ver != 0 && hit q.loc.ver 8)) ||
  d.tabs.writers.any fun w =>
    (match w.st with | .claimed | .aux | .written => true | _ => false) &&
    (hit w.rowAt (tdB (d.tdesc w.table)) || (w.verAt != 0 && hit w.verAt 8))

/-- Something that started before is outstanding on a table: gather commands, writers, rows of a REPLACE_ROWS, update parts, moves. -/
def Dev.tableDrainBusy (d : Dev) (t : Nat) : Bool :=
  d.gathering t || (d.tabs.writers.any fun w => w.table == t && w.st != .held) ||
  (d.tabs.parts.any fun p => !p.layer && p.target == t && p.started) ||
  (d.tabs.moves.any fun m => m.table == t && m.st != .wait) ||
  d.host.ops.any fun o => o.opc == 0x0120 && o.f 32 2 % 4096 == t && o.st != .queued && o.st != .suspended &&
    (SMap.get {} d.tabs.repls o.handle).next != 0

/-- A drain in force that waits for what started before it. -/
def Dev.waitingDrain (d : Dev) (handle : Nat) : Option HOp :=
  (d.handleOp handle).bind fun o => if o.opc == 0x0102 && o.st == .running then some o else none

/-- Nothing that started before a drain is outstanding against its target: it completes OK and covers its target. -/
def execDrainComplete (handle : Nat) (s : State) : Out1 :=
  s.runAt fun now d =>
    match d.waitingDrain handle with
    | none => d
    | some o =>
      if (if o.drainKind = 0 then d.rangeBusy (o.f 40 8) (o.f 48 8) else d.tableDrainBusy (o.f 34 2 % 4096)) then d
      else d.finish o sOk (o.results d now) .covering

/-- TMO_MS passes before that: the drain is released with E_BUSY. -/
def execDrainTimeout (handle : Nat) (s : State) : Out1 :=
  s.run fun m =>
    match m.dev.waitingDrain handle with
    | none => m
    | some o =>
      let m := m.atTime (o.at_ + o.f 36 4 * msT)
      m.onDev fun d => (d.finish o eBusy (o.results d m.und.now)).settle m.und.now

/-! ### Stopping long operations (R557, R558, R667) -/

def OpSt.suspending? : OpSt → Bool
  | .suspending _ => true
  | _ => false

/-- A SUSPEND, RESUME or CANCEL may be carried out now: its slot holds it, and the operation it names has been checked and started. -/
def Dev.reqReady (d : Dev) (slot opc : Nat) : Bool :=
  match d.queuedOp slot opc with
  | none => false
  | some o => match d.handleOp (o.f 32 4) with | some q => q.st != .queued || q.slot == slot | none => true

/-- The checks of the three: `ok` says of the operation named whether the request applies to it. -/
def Dev.reqChecks (d : Dev) (ok : HOp → Bool) (o : HOp) : List (Bool × Nat) :=
  let q := d.handleOp (o.f 32 4)
  [(match q with | some q => q.ctx != o.ctx | none => false, ePriv), (!o.zero 36 256, eArg),
   (match q with | some q => !ok q | none => true, eState)]

/-- A thread that waits in a core's local slot goes back to the queue (R558: the Forester chooses no thread of the job). -/
def Dev.unplace (d : Dev) (j : Nat) : Dev :=
  (List.range 8).foldl (fun d i =>
    let c := j / 4096 * 8 + i
    match (d.core c).sq.loc with
    | some h => if (d.thr h).job = j then (d.modThr h fun t => { t with st := .ready }).modSq c fun s => { s with loc := none } else d
    | none => d) d

/-- SUSPEND applies to a running long operation that nothing is to end; to a job without a deadline (R558). -/
def HOp.maySuspend (q : HOp) : Bool :=
  longCodes.contains q.opc && q.st == .running && q.cancelBy.isNone && (q.opc != 0x0110 || q.f 72 4 == 0)

/-- RESUME applies to a suspended operation (R558). -/
def HOp.mayResume (q : HOp) : Bool := q.st == .suspended

/-- CANCEL applies to a long operation or a drain that is not to end already (R558). -/
def HOp.mayCancel (q : HOp) : Bool :=
  (longCodes.contains q.opc || q.opc == 0x0102) && q.cancelBy.isNone && q.st != .queued && q.st != .final

/-- SUSPEND: pending until the operation reaches a point where it stops. -/
def execSuspend (slot : Nat) (s : State) : Out1 :=
  s.runAt fun now d =>
    if !d.reqReady slot 0x0103 then d
    else
      d.takeCmd now slot 0x0103 false (d.reqChecks HOp.maySuspend) fun d o =>
        match d.handleOp (o.f 32 4) with
        | none => d
        | some q =>
          let d := d.modOp q.handle fun x => { x with st := .suspending slot }
          match q.opc, q.job with
          | 0x0110, some j => ((d.modJob j fun b => { b with halted := true }).unplace j).schedule now (j / 4096)
          | _, _ => d.settle now

/-- The watched waits of a suspended job are frozen: threads in WAIT and stream WAIT steps (R558). -/
def Dev.freezeJob (d : Dev) (j : Nat) : Dev :=
  let fz (e : SeEng) : SeEng := if e.ring.job = j && e.waiting then { e with waitTick := none } else e
  { d with
    threads := d.threads.map fun p => if p.2.job = j && p.2.st != .free then (p.1, { p.2 with watch := none }) else p
    cores := d.cores.map fun p =>
      if p.1 / 8 = j / 4096 then (p.1, { p.2 with se0 := fz p.2.se0, se1 := fz p.2.se1 }) else p }

/-- Each frozen wait starts again with its full WAIT_TMO. -/
def Dev.thawJob (d : Dev) (now j : Nat) : Dev :=
  let t := d.watchTick now j
  let th (e : SeEng) : SeEng := if e.ring.job = j && e.waiting && e.waitTick.isNone then { e with waitTick := some t } else e
  let d : Dev := { d with
    threads := d.threads.map fun p =>
      if p.2.job = j && p.2.st == .wait then
        (p.1, { p.2 with watch := match p.2.delay with
          | some (_, k) => if bitAt p.2.need k then none else some t
          | none => some t })
      else p
    cores := d.cores.map fun p =>
      if p.1 / 8 = j / 4096 then (p.1, { p.2 with se0 := th p.2.se0, se1 := th p.2.se1 }) else p }
  (d.modJob j fun b => { b with halted := false }).schedule now (j / 4096)

/-- A job that is to be suspended has no thread running and no engine work queued or in progress; a ring that waits at RING_FULL or
at a WAIT step does not count (R558). -/
def Dev.jobStill (d : Dev) (j : Nat) : Bool :=
  (List.range 8).all fun i =>
    let k := d.core (j / 4096 * 8 + i)
    (k.sq.cur.all fun h => (d.thr h).job != j) && !(k.works fun e => e.job == j) &&
    [k.se0, k.se1].all fun e => e.ring.mode == 0 || e.ring.job != j ||
      (e.xfers.isEmpty && !(k.ge.cmds.any fun g => (g.op == 0x10 || g.op == 0x11) && g.ent.job == j))

/-- A suspended job reaches that point: its completion is final with E_SUSPENDED, and the SUSPEND is OK. -/
def execJobSuspended (handle : Nat) (s : State) : Out1 :=
  s.runAt fun now d =>
    match d.handleOp handle with
    | some o => match o.opc, o.job with
      | 0x0110, some j => if o.st.suspending? && d.jobStill j then (d.stopSuspended now o).freezeJob j else d
      | _, _ => d
    | none => d

/-- 100 ms pass before that: the job keeps running, and its SUSPEND completes with E_BUSY. -/
def execSuspendTimeout (handle : Nat) (s : State) : Out1 :=
  s.run fun m =>
    match m.dev.handleOp handle with
    | some o => match o.opc, o.st with
      | 0x0110, .suspending by_ =>
        let since := ((m.dev.slotOp by_).map (·.at_)).getD m.und.now
        let m := m.atTime (since + 100 * msT)
        m.onDev fun d =>
          let d := (d.modOp handle fun q => { q with st := .running }).finishReq by_ eBusy
          match o.job with
          | some j => (d.modJob j fun b => { b with halted := false }).schedule m.und.now (j / 4096)
          | none => d
      | _, _ => m
    | none => m

/-- Everything kept under an operation's handle passes to another: replaced rows, moves, outcomes, parts; the parts that a
suspended UPDATE had stopped go on (R144, R174, R367). -/
def Dev.rehandle (d : Dev) (old new : Nat) : Dev :=
  let key (m : SMap Repl) : SMap Repl := if (SMap.get {} m old) = {} then m else (m.put {} new (SMap.get {} m old)).del old
  let back := d.tabs.stopped.filter fun p => p.who == .inl old
  let d := d.onTabs fun x => { x with
    repls := key x.repls
    moves := x.moves.map fun m => if m.handle = some old then { m with handle := some new } else m
    uouts := if (SMap.get [] x.uouts old) = [] then x.uouts else (x.uouts.put [] new (SMap.get [] x.uouts old)).del old
    parts := (x.parts.map fun p => if p.who = .inl old then { p with who := .inl new } else p) ++
      back.map fun p => { p with who := .inl new }
    stopped := x.stopped.filter fun p => p.who != .inl old }
  back.foldl (fun d p => d.modOut new p.outIdx fun o => { o with sts := o.sts.erase eSuspended, parts := o.parts - 1, rows := o.rows }) d

/-- RESUME: the operation goes on under the RESUME's own handle (R557, R558). -/
def execResume (slot : Nat) (s : State) : Out1 :=
  s.runAt fun now d =>
    if !d.reqReady slot 0x0104 then d
    else d.takeCmd now slot 0x0104 false (d.reqChecks HOp.mayResume) fun d o =>
      match d.handleOp (o.f 32 4) with
      | none => d
      | some q =>
        let r : HOp := { q with handle := o.handle, slot := o.slot, seq := o.seq, copc := 0x0104, irq := o.irq, st := .running,
                                cancelBy := none, buf := if q.opc = 0x0113 then q.buf else [],
                                bufPm := if q.opc = 0x0113 then q.bufPm else 0 }
        let d := d.onHost fun h => { h with ops := (h.ops.filter fun x => x.handle != q.handle).map fun x => if x.handle = o.handle then r else x }
        let d := d.rehandle q.handle o.handle
        match q.opc, q.job with
        | 0x0110, some j => (d.modJob j fun b => { b with creator := .slot o.handle }).thawJob now j
        | 0x0110, none => d
        | 0x0120, _ => (d.replAll now).settle now
        | 0x0123, _ => d.settle now
        | 0x0125, _ => d.settle now
        | _, _ => d.blockNext now o.handle

/-- A suspended operation is discarded: its final completion stays E_SUSPENDED (R566). -/
def Dev.discardOp (d : Dev) (now : Nat) (q : HOp) : Dev :=
  let d := d.onHost fun h => { h with ops := h.ops.filter fun x => x.handle != q.handle }
  let d := d.onTabs fun x => { x with
    repls := x.repls.del q.handle
    uouts := x.uouts.del q.handle
    stopped := x.stopped.filter fun p => p.who != .inl q.handle }
  match q.opc, q.job with
  | 0x0110, some j => d.endJob now j .cancel
  | _, _ => d

/-- CANCEL: the operation stops where a suspension would stop it, a job ends, a drain is released. -/
def execCancel (slot : Nat) (s : State) : Out1 :=
  s.runAt fun now d =>
    if !d.reqReady slot 0x0105 then d
    else
      d.takeCmd now slot 0x0105 false (d.reqChecks HOp.mayCancel) fun d o =>
        match d.handleOp (o.f 32 4) with
        | none => d
        | some q =>
          if q.opc = 0x0102 then
            let d := if q.st = .covering then d.onHost fun h => { h with ops := h.ops.filter fun x => x.handle != q.handle }
              else d.finish q eCancelled (q.results d now)
            (d.finishReq slot sOk).settle now
          else if q.st = .suspended then (d.discardOp now q).finishReq slot sOk
          else
            let d := d.modOp q.handle fun x => { x with cancelBy := some slot }
            match q.opc, q.job with
            | 0x0110, some j => d.endJob now j .cancel
            | _, _ => d.settle now

/-! ### JOB (R395, R396, R548, R555) -/

/-- The checks of JOB. -/
def Dev.jobChecks (d : Dev) (o : HOp) : List (Bool × Nat) :=
  [(1000000 < o.f 72 4 || 8 ≤ o.f 76 1 || !o.zero 77 78 || !o.zero 80 256 || d.ctxClusters o.ctx (o.f 78 2) == 0, eArg),
   (o.f 32 8 % 4 != 0, eAlign), (!d.areaOk (o.f 32 8) 4, eRange)]

/-- JOB creates one job in its slot's context. -/
def execJob (slot : Nat) (s : State) : Out1 :=
  s.runAt fun now d => d.takeCmd now slot 0x0110 false d.jobChecks
    fun d o =>
      match d.chooseCluster (d.ctxClusters o.ctx (o.f 78 2)) 0 with
      | none => d.finish o eArg []
      | some n =>
        let dl := o.f 72 4
        let b : Job :=
          { ctx := o.ctx, prio := d.ctxPrio o.ctx (o.f 76 1), creator := .slot o.handle,
            entry := o.f 32 8, deadTick := if dl = 0 then none else some (tickCeil (now + dl * usT)) }
        match d.createJob now n b ([o.f 40 8, o.f 48 8, o.f 56 8, o.f 64 8].map (BitVec.ofNat 64)) 4 with
        | some (d, j) => d.modOp o.handle fun q => { q with job := some j }
        | none => (d.bump .FOR_SLOTFULL [n]).finish o eBusy []

end Sys2Proof.Machine
end

