-- ==== Sys2Proof/Machine/Commit.lean ====
section
/-! DEFINITION. COMMIT and the adoption of what it carries (spec/16 R559 to R562, R566). -/

namespace Sys2Proof.Machine

/-- The results of a COMMIT (R561). -/
def commitRes (epoch : Nat) (f : Option Fail) : List (Nat × Nat × Nat) :=
  [(16, 8, epoch), (24, 8, (f.map (·.at_)).getD 0), (32, 1, (f.map (·.kind)).getD 0)]

/-- The first waiting COMMIT checked: refused, or accepted, and then its programs are placed and its units may adopt it. -/
def Mach.commitCheck (m : Mach) (c : Commit) : Mach :=
  let d := m.dev
  match d.slotOp c.slot with
  | none => m.onDev fun d => d.onHost fun h => { h with commits := h.commits.drop 1 }
  | some o =>
    match d.checkCommit c.conf c.slot with
    | some f =>
      m.onDev fun d => (d.onHost fun h => { h with commits := h.commits.drop 1 }).finish o f.status (commitRes (d.rd .CXL_EPOCH) (some f))
    | none =>
      let l := newProgs d.conf.tab c.conf.tab
      let m := m.onDev fun d =>
        ((d.bump64 .CXL_EPOCH).loadProgs c.conf l).onHost fun h => { h with commits := { c with started := true } :: h.commits.drop 1 }
      m.extend7 l

/-- COMMITs that wait are taken one at a time, in order of acceptance (R561). -/
def Mach.commitNext (m : Mach) : Nat → Mach
  | 0 => m
  | n + 1 =>
    match m.dev.host.commits with
    | c :: _ => if c.started then m else (m.commitCheck c).commitNext n
    | [] => m

/-- The checks of a COMMIT's record. -/
def commitChecks (o : HOp) : List (Bool × Nat) := [(2 ≤ o.f 32 1 || !o.zero 33 256, eArg)]

/-- COMMIT: the snapshot of every shadow is taken; it waits until the COMMITs before it have completed, and is then checked. -/
def execCommit (slot : Nat) (s : State) : Out1 :=
  s.run fun m =>
    let now := m.und.now
    let m := m.onDev fun d => d.takeCmd now slot 0x0101 true commitChecks
      fun d o => d.onHost fun h => { h with commits := h.commits ++ [⟨slot, o.ctx, bitAt (o.f 32 1) 0, d.shad, false, []⟩] }
    m.commitNext m.dev.host.commits.length

/-- The last unit has adopted: the COMMIT completes, with RELEASE the covering drains of its context are released (R562, R564). -/
def Mach.commitEnd (m : Mach) (c : Commit) : Mach :=
  let now := m.und.now
  let m := m.onDev fun d =>
    let d := d.onHost fun h => { h with commits := h.commits.drop 1 }
    let d := match d.slotOp c.slot with
      | some o => d.finish o sOk (commitRes (d.rd .CXL_EPOCH) none)
      | none => d
    if c.release then
      (d.onHost fun h => { h with ops := h.ops.filter fun o => !(o.opc == 0x0102 && o.st == .covering && o.ctx == c.ctx) }).settle now
    else d
  m.commitNext m.dev.host.commits.length

/-- A unit reaches its safe point and adopts the COMMIT in progress. -/
def execCommitAdopt (u : CUnit) (s : State) : Out1 :=
  s.run fun m =>
    match m.dev.host.commits with
    | c :: r =>
      if c.started && m.dev.adopters.contains u && !c.done.contains u then
        let now := m.und.now
        let c' : Commit := { c with done := c.done ++ [u] }
        let m := m.onDev fun d =>
          (d.adoptUnit now c.conf u (d.rd .CXL_EPOCH)).onHost fun h => { h with commits := c' :: r }
        if m.dev.adopters.all fun x => c'.done.contains x then m.commitEnd c' else m
      else m
    | [] => m

end Sys2Proof.Machine
end

