-- ==== Sys2Proof/Machine/Query.lean ====
section
/-! DEFINITION. Queries as they arrive: datagrams, reassembly, records, admission, key holds and QFE_CTL (spec/03 R81 to R101,
R118). -/

namespace Sys2Proof.Machine

/-! ### The query record (R88 to R91) -/

/-- A directory entry: input, kind, per, n, offset, and the bytes of its list. -/
structure QList where
  input : Nat
  kind : Nat
  per : Nat
  n : Nat
  off : Nat
  res : Nat
  deriving DecidableEq, Repr, Inhabited

def QList.of (r : List Byte) (i : Nat) : QList :=
  let o := 32 + 16 * i
  ⟨recNum r o 1, recNum r (o + 1) 1, recNum r (o + 2) 2, recNum r (o + 4) 4, recNum r (o + 8) 4, recNum r (o + 12) 4⟩

def QList.len (q : QList) : Nat := q.n * if q.kind = 2 then 2 else 6

/-- A directory entry is legal for a class and a record. -/
def QList.ok (q : QList) (desc : List Byte) (cands dirEnd total : Nat) : Bool :=
  q.input < clsF desc 5 1 && q.kind ≤ 2 && q.kind == bitsOf (clsF desc 32 16) (2 * q.input) 2 &&
  (if q.kind = 1 then inRange 1 256 q.per && q.n == cands * q.per else q.per == 0 && 1 ≤ q.n) &&
  q.off % 8 == 0 && q.res == 0 && dirEnd ≤ q.off && q.off + q.len ≤ total

/-- Inputs named twice, or lists that overlap. -/
def listsClash : List QList → Bool
  | [] => false
  | q :: r => (r.any fun x => x.input == q.input || (overlap q.off q.len x.off x.len).2 != 0) || listsClash r

/-- The status of a record against its class, its key and its deadline (R91): OK when it is valid. -/
def recordStatus (r desc : List Byte) (cls qid us : Nat) : Nat :=
  let nl := recNum r 2 1
  let cands := recNum r 4 2
  let ls := (List.range nl).map (QList.of r)
  let ok := 32 ≤ r.length && recNum r 0 1 == 1 && recNum r 1 1 == cls && inRange 1 64 nl && recNum r 3 1 == 0 && 1 ≤ cands &&
    recNum r 6 2 == 0 && recNum r 8 8 == qid && recNum r 16 4 == us && recNum r 24 8 == 0 && 32 + 16 * nl ≤ r.length &&
    (ls.all fun q => q.ok desc cands (32 + 16 * nl) r.length) && !listsClash ls
  refusal [(!ok, eArg), (clsF desc 6 2 < cands, eRange)]

/-! ### Admission (R92 to R94, R99) -/

/-- Pages that a record of a length reserves: its own, and one more where the answer buffer at their end would meet it. -/
def recordPages (total : Nat) : Nat :=
  let n := ceilDiv total 4096
  if n * 4096 - 1088 < total then n + 1 else n

/-- The pages a record of `n` pages reserves: the lowest free run of that length, so that the record has one DLA (R106); where there is none
the lowest free pages; none while fewer are free (R92, R93). R93 does not say how pages are placed (DESIGN CHOICE, log 26). -/
def Dev.freePages (d : Dev) (t n : Nat) : Option (List Nat) :=
  let used := ((d.qfe t).keys.filter Query.active).flatMap (·.pgs)
  let base := d.rasmBase t / 4096
  let last := base + d.rasmPages t
  let ok (a : Nat) : Bool := base ≤ a && a + n ≤ last && used.all fun p => p < a || a + n ≤ p
  match ((base :: used.map (· + 1)).filter ok).foldl (fun (b : Option Nat) a => some (match b with | some x => min x a | none => a)) none with
  | some a => some ((List.range n).map (a + ·))
  | none =>
    let free := ((List.range (d.rasmPages t)).map (base + ·)).filter fun p => !used.contains p
    if n ≤ free.length then some (free.take n) else none

/-- What refuses a query of a class: disabled, too long, too many, no room (R92). -/
def Dev.admitQuery (d : Dev) (t cls total : Nat) (udp : Bool) : Nat ⊕ List Nat :=
  let desc := SMap.get [] (d.qfe t).classes cls
  let act := ((d.qfe t).keys.filter fun x => x.active && x.cls == cls).length
  let room := d.freePages t (recordPages total)
  let st := refusal [(!clsEnable desc || !(if udp then clsUdp desc else clsSfx desc), eArg), (clsF desc 28 4 < total, eRange),
    (clsF desc 26 2 ≤ act || room.isNone, eBusy)]
  match room with
  | some p => if st = sOk then .inr p else .inl st
  | none => .inl st

/-- The deadline a class gives, and whether it was clamped (R94). -/
def deadlineUs (desc : List Byte) (us : Nat) : Nat × Bool :=
  let v := if us = 0 then clsF desc 12 4 else us
  (min v (clsF desc 16 4), clsF desc 16 4 < v)

/-- Room made for a key: the oldest held key goes when the table is full; none when every key is in use (R99). -/
def Dev.keyRoom (d : Dev) (t : Nat) : Option Dev :=
  let q := d.qfe t
  if q.keys.length < 16384 then some d
  else match q.keys.find? fun x => !x.active with
    | some x => some (d.setQfe t { q with keys := q.keys.erase x })
    | none => none

/-- A query bound to its class: its pages reserved, PUB of its answer buffer zero, its deadline set. -/
def Dev.openKey (d : Dev) (now t : Nat) (pgs : List Nat) (x : Query) : Dev × Query :=
  let desc := SMap.get [] (d.qfe t).classes x.cls
  let dl := deadlineUs desc x.usParam
  let d := if dl.2 then d.bump .QFE_CLAMP [t] else d
  let x := { x with desc := desc, pgs := pgs, deadline := now + dl.1 * usT }
  let d := d.setQfe t { d.qfe t with keys := (d.qfe t).keys ++ [x] }
  (d.poke x.abufAt (List.replicate 1088 0), x)

/-- The record of a query is complete: it becomes a job, or is refused (R96, R105). -/
def Dev.recordDone (d : Dev) (now t : Nat) (x : Query) : Dev :=
  let r := (x.spans 0 x.total).flatMap fun p => d.bytes p.2.1 p.2.2
  let st := recordStatus r x.desc x.cls x.key.qid x.usParam
  if st ≠ sOk then d.answer now t x st 0 0 []
  else
    let x := { x with valid := true, recTag := recNum r 20 4, cands := recNum r 4 2 }
    (d.setQfe t ((d.qfe t).put x)).queryJob now t x

/-- Bytes of a fragment written in the pages of an open reassembly, which may complete it (R95, R96). -/
def Dev.putFragment (d : Dev) (now t : Nat) (x : Query) (off : Nat) (bs : List Byte) : Dev :=
  let d := (x.spans off bs.length).foldl (fun d p => d.store p.2.1 ((bs.drop p.1).take p.2.2)) d
  let x := { x with got := x.got ++ [(off, bs.length)], lastAt := now }
  let d := d.setQfe t ((d.qfe t).put x)
  if ((x.got.map (·.2)).foldl (· + ·) 0) = x.total then d.recordDone now t x else d

/-! ### Query datagrams (R84 to R87, R92 to R99) -/

/-- A datagram whose IP and UDP headers are not as R85 asks, or whose query header is not as R86 and R87 ask. -/
def dgramBad (g : Dgram) : Bool :=
  let p := g.payload
  let fl := recNum p 24 2
  g.ipFrag || g.opts || g.sum == .bad || (g.v6 && g.sum == .zero) ||
  decide (p.length < 32) || recNum p 0 1 != 1 || recNum p 1 1 != 1 || recNum p 3 1 != 0 || recNum p 26 2 != 0 ||
  !(1 ≤ fl && fl ≤ 9000) || p.length != 32 + fl || decide (recNum p 16 4 < recNum p 20 4 + fl)

/-- CHK of a query datagram. -/
def dgramChk (g : Dgram) : Bool := crc32c (g.payload.take 28 ++ g.payload.drop 32) == recNum g.payload 28 4

/-- A fragment whose key the front end does not hold: it opens a reassembly, or is refused. -/
def Dev.firstFragment (d : Dev) (now t : Nat) (g : Dgram) (key : QKey) : Dev :=
  match d.keyRoom t with
  | none => d.bump .QFE_DROP_OFF [t]
  | some d =>
    let p := g.payload
    let d := d.bump .QFE_RXDG [t]
    let x : Query :=
      { key := key, cls := recNum p 2 1, total := recNum p 16 4, usParam := recNum p 12 4, lastAt := now, rxPort := g.port, rxSub := g.sub,
        dstAddr := g.dst, dscp := g.dscp }
    match d.admitQuery t x.cls x.total true with
    | .inl st => d.answer now t x st 0 0 []
    | .inr page =>
      let r := d.openKey now t page x
      r.1.putFragment now t r.2 (recNum p 20 4) (p.drop 32)

/-- A fragment of an open reassembly (R95). -/
def Dev.nextFragment (d : Dev) (now t : Nat) (g : Dgram) (x : Query) : Dev :=
  let p := g.payload
  let off := recNum p 20 4
  let n := recNum p 24 2
  if x.st ≠ .open_ ∨ recNum p 2 1 ≠ x.cls ∨ recNum p 12 4 ≠ x.usParam ∨ recNum p 16 4 ≠ x.total ∨
      (x.got.any fun q => (overlap off n q.1 q.2).2 != 0) then d.bump .QFE_DROP_DUP [t]
  else (d.bump .QFE_RXDG [t]).putFragment now t { x with rxPort := g.port, rxSub := g.sub } off (p.drop 32)

/-- A port carries Ethernet frames on a sub-port. -/
def Dev.ethUp (d : Dev) (n s : Nat) : Bool := bitAt (d.port n).up s && d.portMode n != 0 && d.portMode n != 4

/-- Bytes of a datagram's frame. -/
def dgramLen (g : Dgram) : Nat := frameLen g.tag (g.payload.length + if g.v6 then 48 else 28)

/-- A UDP datagram arrives for the query port (R81, R82). -/
def execQueryFragment (g : Dgram) (s : State) : Out1 :=
  s.runAt fun now d =>
    let t := g.port / 18
    if 36 ≤ g.port || !d.ethUp g.port g.sub then d
    else
      let r := (d.bump .ETH_RXFRM [g.port]).admitFrame g.port g.sub g.mac g.tag g.dscp g.occ (dgramLen g) (d.ownAddr g.port g.v6 g.dst)
      let d := r.1
      if !r.2 then d
      else if g.dport ≠ d.cfgF .QFE_UDP [t] 0 16 then d
      else if !bitAt (d.qfe t).ctl 0 || !bitAt (d.qfe t).ctl 1 then d.bump .QFE_DROP_OFF [t]
      else if dgramBad g then d.bump .QFE_DROP_FMT [t]
      else if !dgramChk g then d.bump .QFE_DROP_CRC [t]
      else
        let key : QKey := ⟨true, g.v6, g.src, g.sport, recNum g.payload 4 8⟩
        match (d.qfe t).find key with
        | some x => match x.st with
          | .held _ => d.bump .QFE_DROP_STALE [t]
          | _ => d.nextFragment now t g x
        | none => d.firstFragment now t g key

/-! ### Query messages (R101) -/

/-- A whole Salrex query message reaches the front end of Treeline `t`: the checks of R92 and R91 together. -/
def execQueryMessage (t src tag : Nat) (body : List Byte) (s : State) : Out1 :=
  s.runAt fun now d =>
    let d := d.took (some src) 0x14 tag body
    if 2 ≤ t then d
    else if !bitAt (d.qfe t).ctl 0 || !bitAt (d.qfe t).ctl 2 then d.bump .QFE_DROP_OFF [t]
    else
      let key : QKey := ⟨false, false, src, 0, recNum body 8 8⟩
      match (d.qfe t).find key with
      | some x => if x.active then d.bump .QFE_DROP_DUP [t] else d.bump .QFE_DROP_STALE [t]
      | none =>
        match d.keyRoom t with
        | none => d.bump .QFE_DROP_OFF [t]
        | some d =>
          let d := d.bump .QFE_RXDG [t]
          let x : Query :=
            { key := key, cls := recNum body 1 1, total := body.length, usParam := recNum body 16 4, lastAt := now, sfxTag := tag }
          let desc := SMap.get [] (d.qfe t).classes x.cls
          let bad := recordStatus body desc x.cls key.qid x.usParam
          match d.admitQuery t x.cls x.total false, bad with
          | .inl st, _ => d.answer now t x (refusal [(true, st), (bad != sOk, bad)]) 0 0 []
          | .inr page, 0 =>
            let r := d.openKey now t page x
            r.1.putFragment now t r.2 0 body
          | .inr _, bad => d.answer now t x bad 0 0 []

/-! ### Ends of waiting, and the enables (R97, R98, R118) -/

/-- An incomplete reassembly reaches its deadline instant. -/
def execReassemblyExpire (t : Nat) (key : QKey) (s : State) : Out1 :=
  s.run fun m =>
    match (m.dev.qfe t).find key with
    | some x => match x.st with
      | .open_ =>
        let m := m.atTime x.deadline
        m.onDev fun d => (d.bump .QFE_RASM_EXP [t]).answer m.und.now t x eDeadline 0 0 []
      | _ => m
    | none => m

/-- A key's hold ends. -/
def execKeyHoldExpire (t : Nat) (key : QKey) (s : State) : Out1 :=
  s.run fun m =>
    match (m.dev.qfe t).find key with
    | some x => match x.st with
      | .held u =>
        (m.atTime u).onDev fun d => d.setQfe t { d.qfe t with keys := (d.qfe t).keys.filter fun y => y.key != key }
      | _ => m
    | none => m

/-- A privileged write of QFE_CTL. -/
def execQfeCtlWrite (t : Nat) (v : Word) (s : State) : Out1 :=
  s.run fun m => if t < 2 then m.qfeCtl t v.toNat else m

end Sys2Proof.Machine
end

