-- ==== Sys2Proof/Machine/Frames.lean ====
section
/-! DEFINITION. Ports that gain and lose link, Ethernet frames, priority flow control, and the neighbour caches (spec/15 R494 to
R503, spec/19 R642). -/

namespace Sys2Proof.Machine

/-! ### Link (R497, R501) -/

/-- A sub-port of a training port gains link: it announces the module's addresses (R501); the last one ends the port's training. -/
def execPortLinkUp (n sub : Nat) (s : State) : Out1 :=
  s.runThen fun m =>
    let mode := m.dev.portMode n
    if 36 ≤ n || !m.portMay n || subPorts mode ≤ sub || bitAt (m.dev.port n).up sub || !(m.dev.port n).training then m
    else m.onDev fun d =>
      let d := d.modPort n fun p =>
        let up := p.up ||| 2 ^ sub
        { p with up := up, training := up != 2 ^ subPorts mode - 1 }
      if mode = 4 then d else d.announce n sub

/-- A sub-port loses link; its port retrains, and fails the self-test of its retraining when `fail` holds (R497, R619). -/
def execPortLinkDown (n sub : Nat) (fail : Bool) (s : State) : Out1 :=
  s.run fun m =>
    if 36 ≤ n || !bitAt (m.dev.port n).up sub then m
    else
      let run := m.und.st == .run
      let m := m.onDev fun d => d.portDown run n (2 ^ sub)
      if fail && run then m.portFails n else m

/-! ### Frames received (R497 to R499, R502, R503) -/

/-- The destination address of a datagram is not the module's on this port (R499), or is nobody's here and would need forwarding
(R501). -/
def Dev.ipDrop (d : Dev) (f : Frame) : Bool :=
  match f.ip with
  | none => false
  | some (v6, a) => !d.ownAddr f.port v6 a && (d.anyAddr v6 a || f.dst == d.macOf f.port f.sub)

/-- The priority of a received frame (R502). -/
def Dev.rxPrio (d : Dev) (f : Frame) : Nat := match f.tag with | some (_, pcp) => pcp % 8 | none => d.dscpPrio f.dscp

/-- A test frame counted by the checker of its port (R642): good or bad, and the frames of its sequence that are missing. -/
def Dev.testFrame (d : Dev) (n : Nat) (f : Frame) : Dev :=
  let d := if f.good then d.bump .TEL_PTG_RES [n, 1] else d.bumpHi .TEL_PTG_RES [n, 1]
  let seq := f.seq % 2 ^ 32
  let lost := match SMap.get none d.tel.rxSeq n with
    | some e => let g := (seq + 2 ^ 32 - e) % 2 ^ 32; if g < 2 ^ 31 then g else 0
    | none => 0
  let d := if lost = 0 then d else d.bump .TEL_PTG_RES [n, 2] lost
  d.onTel fun t => { t with rxSeq := t.rxSeq.put none n (some ((seq + 1) % 2 ^ 32)) }

/-- A frame stands in the receive buffer, above `occ` bytes of its priority that are there already. -/
def Dev.buffer (d : Dev) (f : Frame) : Dev :=
  let p := d.rxPrio f
  d.bufferIn f.port f.sub p (f.occ + f.len)

/-- A frame arrives (R497 to R503): counted; dropped for a bad FCS, for its length, for its EtherType, for its tag, for an address
that is not the module's, or for want of room; else it stands in the buffer. A frame of what another command brings is given by
that command. -/
def execEthFrameRx (f : Frame) (s : State) : Out1 :=
  s.runDev fun d =>
    let n := f.port
    let native := d.nativeUp n && f.sub == 0
    if 36 ≤ n || !(native || d.ethUp n f.sub) then d
    else
      let d := d.bump .ETH_RXFRM [n]
      let drop (d : Dev) : Dev := d.bump .ETH_RXDROP [n]
      let waiting := (d.port n).waiting - SMap.get 0 (d.port n).buf (d.rxPrio f) + f.occ
      if !f.fcs then d.bump .ETH_FCSERR [n]
      else if f.len < 64 ∨ 9216 < f.len then drop d
      else if f.etype = 0x8808 then drop d
      else if (if native then f.tag.isSome else !d.tagOk n f.tag) then drop d
      else if !d.macMine n f.sub f.dst then drop d
      else if d.ipDrop f then drop d
      else if 2 ^ 20 < waiting + f.len then drop d
      else
        let d := d.buffer f
        if f.etype = 0x88B6 then d.testFrame n f else d

/-- A pause time names a priority of a sub-port: paused for that many times 512 bit times at the sub-port's rate (R495; the unit PRESUMED:
IEEE 802.1Qbb), or with time 0 resumed. -/
def Dev.pausePrio (d : Dev) (now n b time : Nat) : Dev :=
  if !d.pfcOn n (b % 8) then d
  else if time = 0 then d.resumePrio n b
  else d.modPort n fun q =>
    { q with paused := setBits q.paused b 1 1, pauseEnd := q.pauseEnd.put 0 b (now + time * 512 * 12 / (1600 / subPorts (d.portMode n))) }

/-- A priority flow control frame arrives (R503): each enabled priority it names is paused, or with time 0 resumed and what waits on
it sent. -/
def execPfcFrameRx (n sub : Nat) (times : List (Nat × Nat)) (s : State) : Out1 :=
  s.runAt fun now d =>
    if 36 ≤ n || !(d.ethUp n sub || (d.nativeUp n && sub == 0)) then d
    else
      let d := (d.bump .ETH_RXFRM [n]).bump .ETH_PFCRX [n]
      times.foldl (fun d x => d.pausePrio now n (8 * sub + x.1 % 8) x.2) d

/-! ### ARP, Neighbor Discovery and echo (R501) -/

/-- An ARP request for an address of the module on this port is answered (PRESUMED: the packet of RFC 826). -/
def execArpRequest (n sub mac src target : Nat) (s : State) : Out1 :=
  s.runDev fun d =>
    if 36 ≤ n || !d.ethUp n sub then d
    else
      let d := d.bump .ETH_RXFRM [n]
      if d.ownAddr n false target then
        d.sendFrame n sub (d.dscpPrio 0) (.frame n sub mac etArp none (arpBytes 2 (d.macOf n sub) target mac src))
      else d

/-- A Neighbor Solicitation for an address of the module on this port is answered; to every node when its source is unspecified
(PRESUMED: RFC 4861). -/
def execNeighborSolicitation (n sub mac src target : Nat) (s : State) : Out1 :=
  s.runDev fun d =>
    if 36 ≤ n || !d.ethUp n sub then d
    else
      let d := d.bump .ETH_RXFRM [n]
      if d.ownAddr n true target then
        let dst := if src = 0 then allNodes else src
        d.sendFrame n sub (d.dscpPrio 0)
          (.frame n sub (if src = 0 then allNodesMac else mac) (etIp true) none (naBytes target (d.macOf n sub) dst (src != 0)))
      else d

/-- An echo request to an address of the module on this port is answered with the bytes it carried, its identifier and sequence
number among them (PRESUMED: RFC 792, RFC 4443). -/
def execIcmpEchoRequest (n sub : Nat) (v6 : Bool) (mac src dst : Nat) (body : List Byte) (s : State) : Out1 :=
  s.runDev fun d =>
    if 36 ≤ n || !d.ethUp n sub then d
    else
      let d := d.bump .ETH_RXFRM [n]
      if d.ownAddr n v6 dst then
        let v4 (sum : Nat) : List Byte := [0, 0] ++ beBytes 2 sum ++ body
        d.sendFrame n sub (d.dscpPrio 0)
          (.frame n sub mac (etIp v6) none (if v6 then icmp6Bytes 129 dst src body else v4 (inetSum (v4 0))))
      else d.bump .ETH_RXDROP [n]

/-- A datagram with the MAC address of its next hop. -/
def Out.toHop (mac : Nat) : Out → Out
  | .dgram n s _ t v6 a b sp dp dscp ecn ttl df sum p => .dgram n s mac t v6 a b sp dp dscp ecn ttl df sum p
  | o => o

/-- The port and sub-port of a datagram. -/
def Out.sub : Out → Nat × Nat
  | .dgram n s _ _ _ _ _ _ _ _ _ _ _ _ _ => (n, s)
  | _ => (0, 0)

/-- A neighbour's MAC address learned: its entry is the newest of the Treeline's 1,024; the oldest leaves when the cache is full; the
answers that waited for it leave. -/
def Dev.learn (d : Dev) (now n key mac : Nat) : Dev :=
  let l := (d.nbrs (n / 18)).filter fun x => x.addr != key
  let l := if 1024 ≤ l.length then l.drop 1 else l
  let d := d.setNbrs (n / 18) (l ++ [{ addr := key, mac := mac, at_ := now }])
  let mine (q : Nat × Nat × Nat × Out) : Bool := q.1 == n / 18 && q.2.1 == key
  let go := d.net.hopq.filter mine
  go.foldl (fun d q => d.sendFrame q.2.2.2.sub.1 q.2.2.2.sub.2 q.2.2.1 (q.2.2.2.toHop mac))
    (d.onNet fun t => { t with hopq := t.hopq.filter fun q => !mine q })

/-- A port has link on some sub-port in an Ethernet mode. -/
def Dev.ethAny (d : Dev) (n : Nat) : Bool := decide (n < 36) && [0, 1, 2, 3].any fun s => d.ethUp n s

/-- An ARP reply gives the MAC address of an IPv4 neighbour. -/
def execArpReply (n src mac : Nat) (s : State) : Out1 :=
  s.runAt fun now d => if d.ethAny n then (d.bump .ETH_RXFRM [n]).learn now n (addrKey false src) mac else d

/-- A Neighbor Advertisement gives the MAC address of an IPv6 neighbour. -/
def execNeighborAdvertisement (n target mac : Nat) (s : State) : Out1 :=
  s.runAt fun now d => if d.ethAny n then (d.bump .ETH_RXFRM [n]).learn now n (addrKey true target) mac else d

/-- The sub-port of a Treeline, and the address, that a neighbour is asked from. -/
def Dev.askFrom (d : Dev) (t : Nat) (v6 : Bool) : Option (Nat × Nat × Addr) :=
  (List.range 18).findSome? fun i =>
    let n := t * 18 + i
    match (List.range 4).find? fun s => d.ethUp n s, (d.addrsOn n).find? fun a => a.v6 == v6 with
    | some s, some a => some (n, s, a)
    | _, _ => none

/-- An entry of a neighbour cache reaches 30 s (R501): the neighbour is asked again; an entry that has been asked for and not
answered goes (DESIGN CHOICE: after 30 s more). -/
def execNeighborRevalidate (t i : Nat) (s : State) : Out1 :=
  s.run fun m =>
    match (m.dev.nbrs t)[i]? with
    | none => m
    | some x =>
      let m := m.atTime (x.at_ + 30000 * msT)
      m.onDev fun d =>
        let l := d.nbrs t
        if x.asked then d.setNbrs t (l.take i ++ l.drop (i + 1))
        else
          let d := d.setNbrs t (l.take i ++ [{ x with asked := true, at_ := m.und.now }] ++ l.drop (i + 1))
          match d.askFrom t (decide (2 ^ 128 ≤ x.addr)) with
          | some (n, s, a) => d.askNbr n s a (x.addr % 2 ^ 128)
          | none => d

end Sys2Proof.Machine
end

