-- ==== Sys2Proof/Machine/Seq.lean ====
section
/-! DEFINITION. The sequencers' commands but for loads and stores: engine issue, threads, tokens, sync operations, the delay
list, ends of threads and jobs, and cluster power states (spec/12). -/

namespace Sys2Proof.Machine

/-! ### Engine issue (R378 to R380) -/

/-- NX.ISSUE.ME: the token is asked for by SIG of word 0. -/
def execNxIssueMe (q : Sq) (w : BitVec 32) (rs1 rs2 : Word) (s : State) : Out1 :=
  s.runAt fun now d => d.nx now q w 0x0B 0 (nxOk w 0x30 false false true) fun d =>
    d.issue now q.core .me 0 { w0 := rs1, w1 := rs2, tok := bitAt rs1.toNat 31, k := nxK w }

/-- NX.ISSUE.VE: the token is asked for by SIG of word 0. -/
def execNxIssueVe (q : Sq) (w : BitVec 32) (rs1 rs2 : Word) (s : State) : Out1 :=
  s.runAt fun now d => d.nx now q w 0x0B 1 (nxOk w 0x30 false false true) fun d =>
    d.issue now q.core .ve 0 { w0 := rs1, w1 := rs2, tok := bitAt rs1.toNat 31, k := nxK w }

/-- NX.ISSUE.GE: a 64-byte gather descriptor is copied. -/
def execNxIssueGe (q : Sq) (w : BitVec 32) (rs1 : Word) (s : State) : Out1 :=
  s.runAt fun now d => d.nx now q w 0x0B 2 (nxOk w 0x70 false true true) fun d =>
    d.issue now q.core .ge 1 { off := rs1.toNat, tok := bitAt w.toNat 31, k := nxK w }

/-- NX.ISSUE.MQ: a 64-byte GMERGE descriptor is copied. -/
def execNxIssueMq (q : Sq) (w : BitVec 32) (rs1 : Word) (s : State) : Out1 :=
  s.runAt fun now d => d.nx now q w 0x0B 5 (nxOk w 0x70 false true true) fun d =>
    d.issue now q.core .mq 1 { off := rs1.toNat, tok := bitAt w.toNat 31, k := nxK w }

/-- 64-byte units of the record of a stream command (R282). -/
def seRecord (cmd : Nat) : Nat := if cmd = 3 then 0 else if cmd = 4 then 2 else 1

/-- NX.ISSUE.SE0 and NX.ISSUE.SE1: CMD is 1 to 4, and DISARM names x0. -/
def execNxIssueSe (q : Sq) (w : BitVec 32) (rs1 : Word) (s : State) : Out1 :=
  s.runAt fun now d =>
    let e := if nxIs w 0x0B 3 then 0 else 1
    let cmd := nxF w 25 4
    d.nx now q w 0x0B (3 + e) (nxOk w 0x7F (cmd == 3) true true && 1 ≤ cmd && cmd ≤ 4) fun d =>
      d.issue now q.core (.se e) (seRecord cmd)
        { cmd := cmd, off := rs1.toNat, tok := bitAt w.toNat 31, k := nxK w }

/-- A place frees in a full queue, and the waiting issue completes (R379). -/
def execEngineQueueSpace (c : Nat) (s : State) : Out1 :=
  s.runAt fun now d =>
    match (d.core c).sq.stall with
    | none => d
    | some (n, x) =>
      let e := Eng.ofNum (n % 8)
      if d.hasPlace c e then
        let f := (d.modSq c fun s => { s with stall := none }).meetRecord c (64 * (n / 8)) x
        if f.2 then f.1.endMet now (clmAt c x.off) x.job
        else
          let x := if n / 8 = 0 then x else f.1.copyRecord c (64 * (n / 8)) x
          ((f.1.bump .CORE_SQ_ISSUE [c]).place c e x).coreAfter now c
      else d

/-! ### Threads and tokens (R382 to R389) -/

/-- NX.PARK: the thread goes on, or enters WAIT and its core traps with mcause 24. -/
def execNxPark (q : Sq) (w : BitVec 32) (rs1 : Word) (s : State) : Out1 :=
  s.runAt fun now d => d.nx now q w 0x2B 0 (nxOk w 0 false true true) fun d =>
    match (d.core q.core).sq.cur with
    | none => d
    | some h =>
      let t := { d.thr h with need := bitsOf rs1.toNat 0 4 }
      if t.met then d.modThr h fun _ => t
      else
        d.afterStores now q.core fun d =>
          let watch := if t.watched then some (d.watchTick now t.job) else none
          (d.modThr h fun _ => { t with st := .wait, watch := watch }).trapCore now q.core 24

/-- NX.TGET with POLL 0: the operand is read and cleared; after a WAIT or SEND token the L1 is invalidated (R386). -/
def execNxTget (q : Sq) (w : BitVec 32) (s : State) : Out1 :=
  s.runAt fun now d =>
    if bitAt w.toNat 27 then d
    else d.nx now q w 0x2B 1 (nxOk w 7 true true false) fun d =>
      match (d.core q.core).sq.cur with
      | none => d
      | some h =>
        let t := d.thr h
        let k := nxF w 25 2
        if bitAt t.arr k then
          let d := if bitAt t.tokSrc k then d.l1Clear q.core else d
          (d.modThr h fun t => { t with arr := setBits t.arr k 1 0, tokSrc := setBits t.tokSrc k 1 0 }).setX q.core (nxRd w) (t.op k)
        else d.setX q.core (nxRd w) 0

/-- NX.TGET with POLL 1: the ARRIVED bits (R386). -/
def execNxTgetPoll (q : Sq) (w : BitVec 32) (s : State) : Out1 :=
  s.runAt fun now d =>
    if !bitAt w.toNat 27 then d
    else d.nx now q w 0x2B 1 (nxOk w 7 true true false) fun d =>
      match (d.core q.core).sq.cur with
      | none => d
      | some h => d.setX q.core (nxRd w) (BitVec.ofNat 64 (d.thr h).arr)

/-- NX.SPAWN: a thread of the running thread's job, or bit 63 when no slot is free; in U, and with a reserved or contradictory
spawn word, an illegal instruction (R382). -/
def execNxSpawn (q : Sq) (w : BitVec 32) (rs1 rs2 : Word) (s : State) : Out1 :=
  s.runAt fun now d => d.nx now q w 0x2B 2 (nxOk w 0 false false false && !q.user) fun d =>
    let v := rs2.toNat
    let n := cluOfCore q.core
    match (d.core q.core).sq.cur with
    | none => d
    | some cur =>
      let j := (d.thr cur).job
      if (bitAt v 7 && !bitAt v 11) || v / 2 ^ 12 != 0 then (d.exc now q excIllegal eArg).refuseJob now j eArg
      else
        match d.freeSlot n with
        | none => (d.bump .FOR_SLOTFULL [n]).setX q.core (nxRd w) (BitVec.ofNat 64 (2 ^ 63))
        | some h =>
          let need := bitsOf v 0 4
          let core := n * 8 + bitsOf v 8 3
          let t : Thread :=
            { st := if need = 0 then .ready else .wait, job := j, need := need, prio := bitsOf v 4 3,
              pin := if bitAt v 7 then some core else none, last := if bitAt v 11 then some core else none, ctx := rs1,
              readyAt := now, watch := if need = 0 then none else some (d.watchTick now j) }
          ((d.modThr h fun _ => t).setX q.core (nxRd w) (BitVec.ofNat 64 h)).schedule now n

/-- NX.SEND: a token to a thread of the same job; with a reserved bit of rs1 set an illegal instruction that ends the job, in M as
well (R384). -/
def execNxSend (q : Sq) (w : BitVec 32) (rs1 rs2 : Word) (s : State) : Out1 :=
  s.runAt fun now d => d.nx now q w 0x2B 3 (nxOk w 0 false false true) fun d =>
    if rs1.toNat / 2 ^ 18 ≠ 0 then
      let d := d.exc now q excIllegal eArg
      if q.user then d else d.refuseCur now q.core eArg
    else match d.curJob q.core with
    | none => d
    | some j =>
      d.afterStores now q.core fun d =>
        let h := bitsOf rs1.toNat 0 16
        if d.ofJob h j && cluOf h == cluOfCore q.core then d.token now h (bitsOf rs1.toNat 16 2) rs2 true
        else (d.bump .FOR_TOKERR [cluOfCore q.core]).refuseJob now j eState

/-- NX.FNEXT: the thread of the local slot runs, or the core clock-gates until one is placed there (R389). An error detected in
the slot's code ends its job (R606). -/
def execNxFnext (q : Sq) (w : BitVec 32) (det : Det) (s : State) : Out1 :=
  s.run fun m =>
    let now := m.und.now
    let hit := match det with | .once .threadSlot => true | .twice .threadSlot => true | _ => false
    let loc := (m.dev.core q.core).sq.loc
    let legal := nxOk w 0 true true false && !q.user
    let m := match loc with
      | some h => if hit && legal && nxIs w 0x2B 6 && m.dev.seqReady q then m.coreFault q.core (m.dev.thr h).job 9 else m
      | none => m
    m.onDev fun d => d.nx now q w 0x2B 6 legal fun d =>
      let d := (d.leaveCore now q.core).modSq q.core fun s => { s with mAt := now }
      if (d.core q.core).sq.loc.isSome then (d.fnextTake now q.core (nxRd w)).schedule now (cluOfCore q.core)
      else (d.modSq q.core fun s => s.gate now (nxRd w)).schedule now (cluOfCore q.core)

/-- A thread is urgent from now on and may replace the occupant of a local slot (R392). -/
def execThreadBecomesUrgent (h : Nat) (s : State) : Out1 :=
  s.run fun m =>
    match m.dev.deadOf h with
    | none => m
    | some D =>
      let st := (m.dev.thr h).st
      if st != .ready && st != .local_ then m
      else
        let m := m.atTime ((D - m.dev.cfgF .FOR_CFG [cluOf h] 0 32) * usT)
        m.onDev fun d => d.schedule m.und.now (cluOf h)

/-- A write of nxpin by Copse: PIN of the running thread (R377). -/
def execNxpinWrite (q : Sq) (v : Word) (s : State) : Out1 :=
  s.runAt fun now d =>
    if !d.seqReady q then d
    else
      let d := d.enter now q
      if q.user then d.exc now q excIllegal eArg
      else
        match (d.core q.core).sq.cur with
        | none => d
        | some h => d.modThr h fun t => { t with pin := if bitAt v.toNat 0 then some q.core else none }

/-! ### Sync operations (R400 to R408) -/

/-- The requester of an operation that reached a broken object: its job ends, or its module is told (R609). -/
def Dev.brokenTo (d : Dev) (now : Nat) (dst : MonTo) : Dev :=
  match dst with
  | .thread h _ => d.endJob now (d.thr h).job .fault
  | .stream c se => d.endJob now (d.ring c se).job .fault
  | .layer l _ =>
    match d.tabs.parts.find? fun p => p.layer && p.target == l with
    | some p => match p.job with | some j => d.endJob now j .fault | none => d
    | none => d
  | .remote p t => d.respond p now 0x13 eFault t []

/-- An object's detection code fails: it is broken, counted, and the event recorded (R609). -/
def Mach.breakSync (m : Mach) (n : Nat) : Mach :=
  let m := m.onDev fun d => (d.onSync fun s => { s with broken := s.broken.put false n true }).bump .SYN_ERR [syncHome n]
  m.event 0x0305 2 (evUnit 2 (syncHome n)) n

/-- The object an NX.SYNC address names: the status that refuses it, or the module and the object number (R402, R406). -/
def Dev.syncAddr (d : Dev) (a : Nat) : Nat ⊕ (Option Nat × Nat) :=
  if a % 64 ≠ 0 then .inl eAlign
  else if 2 ^ 56 ≤ a ∨ dlaOf a < syncBase ∨ syncBase + 0x800000 ≤ dlaOf a then .inl eRange
  else .inr (d.remoteOf a, (dlaOf a - syncBase) / 64)

/-- The body of a SYNC message (R521). -/
def syncBody (op n : Nat) (v : Word) (handle k : Nat) : List Byte :=
  leBytes 1 op ++ leBytes 3 0 ++ leBytes 4 n ++ leBytes 8 v.toNat ++ leBytes 2 handle ++ leBytes 1 k ++ leBytes 5 0

/-- A request left outstanding at a lost module (R534). -/
def Dev.leftOut (d : Dev) (k mtype op : Nat) (job : Option Nat) (who : Who) : Dev :=
  d.onNet fun n => { n with nextTag := n.nextTag + 1, outst := n.outst ++ [⟨n.nextTag, k, mtype, op, job, who⟩] }

/-- An NX.SYNC operation to another module (R408, R522, R534): posted, waited for by the sequencer, or a WAIT. -/
def Dev.syncFar (d : Dev) (now c k op n : Nat) (v : Word) (h kop : Nat) (who : Who) : Dev :=
  let job := d.curJob c
  let posted := who == .posted
  let stall (d : Dev) : Dev :=
    match who with
    | .sync _ _ =>
      d.modSq c fun s => { s with remote := some (d.watchTick now ((d.curJob c).getD 0)) }
    | _ => d
  match d.routeCheck k with
  | .refuse e => d.refuseCur now c e
  | .lost => if posted then d.bump .SFX_LOSTPOST else stall (d.leftOut k 0x12 op job who)
  | .send => stall (d.request k now 0x12 (if posted then 2 else 0) (n % 64) op (syncBody op n v h kop) job who)

/-- The frame of every NX.SYNC: the row's OP, its encoding, the running thread, the address; `bad` when the object's detection
code fails as the operation reaches it. -/
def Mach.nxSync (m : Mach) (q : Sq) (w : BitVec 32) (rs1 : Word) (op : Nat) (bad : Bool)
    (f : Dev → Nat → Nat → Option Nat → Nat → Dev) : Mach :=
  let now := m.und.now
  if nxF w 25 3 ≠ op then m
  else
    let hit := match m.dev.syncAddr rs1.toNat with
      | .inr (none, n) => if bad && m.dev.seqReady q && nxIs w 0x2B 4 && nxOk w 0x37 false false false && !m.dev.syncBroken n
          then some n else none
      | _ => none
    let m := match hit with | some n => m.breakSync n | none => m
    m.onDev fun d => d.nx now q w 0x2B 4 (nxOk w 0x37 false false false) fun d =>
      match (d.core q.core).sq.cur with
      | none => d
      | some h =>
        match d.syncAddr rs1.toNat with
        | .inl e => d.refuseJob now (d.thr h).job e
        | .inr (far, n) => f d h (d.thr h).job far n

/-- ADD and SET: after the thread's earlier stores, at the object's home; rd takes the value before (R402, R404). -/
def Mach.nxSyncWrite (m : Mach) (q : Sq) (w : BitVec 32) (rs1 v : Word) (op : Nat) (bad : Bool) : Mach :=
  m.nxSync q w rs1 op bad fun d _ j far n =>
    let now := m.und.now
    d.afterStores now q.core fun d =>
      match far with
      | some k => d.syncFar now q.core k op n v 0 0 (if nxRd w = 0 then .posted else .sync q.core (nxRd w))
      | none =>
        let old := d.syncVal n
        if op = 0 && d.syncBroken n then d.endJob now j .fault
        else (if op = 0 then d.syncAdd now n v else d.syncSet now n v).setX q.core (nxRd w) old

/-- WAIT_GE and WAIT_EQ (R403): rd takes 0. -/
def Mach.nxSyncWait (m : Mach) (q : Sq) (w : BitVec 32) (rs1 v : Word) (op : Nat) (bad : Bool) : Mach :=
  m.nxSync q w rs1 op bad fun d h j far n =>
    let now := m.und.now
    let d := d.setX q.core (nxRd w) 0
    match far with
    | some k => d.syncFar now q.core k op n v h (nxK w) (.wait h (nxK w))
    | none =>
      if d.syncBroken n then d.endJob now j .fault else d.syncWait now ⟨n, op == 3, v, .thread h (nxK w), now⟩

def execNxSyncAdd (q : Sq) (w : BitVec 32) (rs1 rs2 : Word) (bad : Bool) (s : State) : Out1 :=
  s.run fun m => m.nxSyncWrite q w rs1 rs2 0 bad

/-- SET repairs a broken object (R609). -/
def execNxSyncSet (q : Sq) (w : BitVec 32) (rs1 rs2 : Word) (bad : Bool) (s : State) : Out1 :=
  s.run fun m => m.nxSyncWrite q w rs1 rs2 1 bad

def execNxSyncWaitGe (q : Sq) (w : BitVec 32) (rs1 rs2 : Word) (bad : Bool) (s : State) : Out1 :=
  s.run fun m => m.nxSyncWait q w rs1 rs2 2 bad

def execNxSyncWaitEq (q : Sq) (w : BitVec 32) (rs1 rs2 : Word) (bad : Bool) (s : State) : Out1 :=
  s.run fun m => m.nxSyncWait q w rs1 rs2 3 bad

/-- DECL: the object's value, recorded for the job's end check (R400). -/
def execNxSyncDecl (q : Sq) (w : BitVec 32) (rs1 : Word) (bad : Bool) (s : State) : Out1 :=
  s.run fun m => m.nxSync q w rs1 4 bad fun d _ j far n =>
    let now := m.und.now
    let v := d.syncVal n
    let b := d.job j
    if far.isSome then d.refuseJob now j eArg
    else if d.syncBroken n then d.endJob now j .fault
    else
      let kept := b.decl.filter fun p => p.1 != n
      if kept.length = b.decl.length && 16 ≤ b.decl.length then d.refuseJob now j eRange
      else ((d.modJob j fun b => { b with decl := kept ++ [(n, v)] }).bump .SYN_OPS [syncHome n]).setX q.core (nxRd w) v

/-- A WAIT without a monitor is tried again at the tick after its last try (R407). -/
def execMonitorRetry (i : Nat) (s : State) : Out1 :=
  s.run fun m =>
    match m.dev.sync.retry[i]? with
    | none => m
    | some o =>
      let m := m.atTime ((o.at_ / usT + 1) * usT)
      m.onDev fun d =>
        let d := d.onSync fun s => { s with retry := dropAtM i s.retry }
        if d.syncBroken o.obj then d.brokenTo m.und.now o.dst else d.syncWait m.und.now o
where dropAtM (i : Nat) (l : List Mon) : List Mon := l.take i ++ l.drop (i + 1)

/-! ### The delay list and watchdogs (R399, R409, R410) -/

/-- NX.DELAY: the running thread's delay entry; a tick already past fires at the next one. -/
def execNxDelay (q : Sq) (w : BitVec 32) (rs1 : Word) (s : State) : Out1 :=
  s.runAt fun now d => d.nx now q w 0x2B 5 (nxOk w 0x30 false true true) fun d =>
    match (d.core q.core).sq.cur with
    | none => d
    | some h => d.modThr h fun t => { t with delay := some (max rs1.toNat (now / usT + 1), nxK w) }

/-- A thread's wait that is watched from now on: its delay entry has fired and other operands are still missing (R409). A suspended job's
stays frozen (R558). -/
def Dev.watchWait (d : Dev) (now h : Nat) : Dev :=
  let t := d.thr h
  if t.st == .wait && t.watch.isNone && !(d.job t.job).halted then
    d.modThr h fun t => { t with watch := some (d.watchTick now t.job) }
  else d

/-- A delay entry fires: a token whose value is the tick (R399). -/
def execDelayFire (h : Nat) (s : State) : Out1 :=
  s.run fun m =>
    match (m.dev.thr h).delay with
    | none => m
    | some (t, k) =>
      let m := m.atTime (t * usT)
      m.onDev fun d =>
        let d := (d.modThr h fun t => { t with delay := none }).token m.und.now h k (BitVec.ofNat 64 m.tick) false
        (d.watchWait m.und.now h).wakeWire (cluOf h) 2 false

/-- A job's deadline entry fires: the job ends with E_DEADLINE, and a serving job's query is answered at once, from the buffer
when the class allows it and a publication stands (R110, R399). -/
def execDeadlineFire (j : Nat) (s : State) : Out1 :=
  s.run fun m =>
    match (m.dev.job j).deadTick with
    | none => m
    | some t =>
      let m := m.atTime (t * usT)
      let now := m.und.now
      m.onDev fun d =>
        if !(d.job j).live || (d.job j).ending.isSome then d
        else
          let d := d.endJob now j .deadline
          match d.queryOf j with
          | some (tl, x) => if clsPartial x.desc then d.answerPub now tl x eDeadline else d.answer now tl x eDeadline 0 0 []
          | none => d

/-- The job of a watched wait and the tick at which the wait expires (R409, R410). -/
def Dev.waitOf (d : Dev) : Wait → Option (Nat × Nat)
  | .thread h => if (d.thr h).st = .wait then (d.thr h).watch.map fun t => ((d.thr h).job, t) else none
  | .seq c =>
    match (d.core c).sq.remote, d.curJob c with
    | some t, some j => some (j, t)
    | _, _ => none
  | .stream c s =>
    let e := d.se c s
    if e.waiting && !e.waitDone then e.waitTick.map fun t => (e.ring.job, t) else none
  | .ring c eng =>
    match (d.core c).stalls.find? fun p => p.1 == eng, nextPlace (d.queue c (if eng = 1 then .ve else .me)) with
    | some p, some x => if p.2.1 % 16 = 8 then some (x.job, p.2.1 / 16) else none
    | _, _ => none
  | .merge i =>
    match d.tabs.gwait[i]? with
    | some r =>
      match r.watch, d.reqJob r with
      | some t, some j => some (j, t)
      | _, _ => none
    | none => none
  | .sent tag =>
    match d.tabs.sent.find? fun p => p.1 == tag with
    | some p =>
      match p.2.watch, d.reqJob p.2 with
      | some t, some j => some (j, t)
      | _, _ => none
    | none => none
  | .part id =>
    match d.tabs.parts.find? fun p => p.id == id with
    | some p => if p.readers then none else match p.watch, p.job with | some t, some j => some (j, t) | _, _ => none
    | none => none

/-- A watched wait expires: its job ends with E_WATCHDOG (R410). A merge that waited takes that outcome. -/
def execWatchdogExpire (w : Wait) (s : State) : Out1 :=
  s.run fun m =>
    match m.dev.waitOf w with
    | none => m
    | some (j, t) =>
      let m := m.atTime (t * usT)
      let now := m.und.now
      m.onDev fun d =>
        let d := match w with
          | .merge i =>
            match d.tabs.gwait[i]? with
            | some r => (d.onTabs fun x => { x with gwait := x.gwait.take i ++ x.gwait.drop (i + 1) }).rowAnswer now r eWatchdog
            | none => d
          | .sent tag =>
            let r : RowReq := SMap.get {} d.tabs.sent tag
            ((d.onTabs fun x => { x with sent := x.sent.del tag }).onNet fun t => { t with
              outst := t.outst.filter fun o => o.tag != tag }).rowAnswer now r eWatchdog
          | _ => d
        let d := if (d.job j).live && (d.job j).ending.isNone then d.bump .FOR_WDOG [j / 4096] else d
        (d.endJob now j .watchdog).settle now

/-! ### Ends of threads and jobs (R387, R397, R398) -/

/-- NX.END with JOB 0: the thread exits; the exit of a job's last thread ends the job. -/
def execNxEndThread (q : Sq) (w : BitVec 32) (s : State) : Out1 :=
  s.runAt fun now d =>
    if bitAt w.toNat 25 then d
    else d.nx now q w 0x2B 7 (nxOk w 0 true true true) fun d =>
      match (d.core q.core).sq.cur with
      | none => d
      | some h =>
        let j := (d.thr h).job
        let mine (o : Mon) : Bool := match o.dst with | .thread g _ => g == h | _ => false
        let d := d.trapCore now q.core 25
        let d := d.modThr h fun t => { t with st := .drain, watch := none, delay := none }
        let d := d.onSync fun s => { s with mons := s.mons.filter fun o => !mine o, retry := s.retry.filter fun o => !mine o }
        let d := d.onNet fun t => { t with
          outst := t.outst.filter fun o => !(match o.who with | .wait g _ => g == h | _ => false) }
        ((d.lastExit now j).reap (cluOf h)).schedule now (cluOf h)

/-- A status a program may end its job with (R22, R398, R611): OK, a code of R22 from 0x10 to 0x2F, a code from 0x40 to
0x5F. -/
def jobStatusOk (v : Nat) : Bool :=
  v == sOk || [eArg, eRange, eAlign, ePriv, eBusy, eStep, eNonatomic, eState, eFault, eWatchdog, ePoison, eDeadline].contains v ||
  (0x40 ≤ v && v ≤ 0x5F)

/-- NX.END with JOB 1: the job ends with a status. -/
def execNxEndJob (q : Sq) (w : BitVec 32) (rs1 : Word) (s : State) : Out1 :=
  s.runAt fun now d =>
    if !bitAt w.toNat 25 then d
    else d.nx now q w 0x2B 7 (nxOk w 1 false true true) fun d =>
      match d.curJob q.core with
      | none => d
      | some j =>
        let v := bitsOf rs1.toNat 0 8
        (d.trapCore now q.core 25).endJob now j (if jobStatusOk v then .program v else .refusal eArg)

/-- No work of an ending job remains outstanding (R397 steps 4 to 6). -/
def execJobEndDrained (j : Nat) (s : State) : Out1 := s.runAt fun now d => (d.jobDone now j).settle now

/-! ### Service requests and exceptions (R376) -/

/-- An ecall: a service request to Copse from U, handled by Copse itself in M. The codes are RISC-V's (PRESUMED). -/
def execEcall (q : Sq) (s : State) : Out1 :=
  s.runAt fun now d => if d.seqReady q then (d.enter now q).toCopse now q.core (if q.user then 8 else 11) else d

def execEbreak (q : Sq) (s : State) : Out1 :=
  s.runAt fun now d => if d.seqReady q then (d.enter now q).exc now q excBreak eArg else d

def execIllegalInstruction (q : Sq) (s : State) : Out1 :=
  s.runAt fun now d => if d.seqReady q then (d.enter now q).exc now q excIllegal eArg else d

/-! ### Fences and the merging buffer (R444 to R448, spec/15 R518) -/

/-- FENCE: with W before it the merging buffer drains and remote stores have been acknowledged; with I before R the L1 and the
side buffer are invalidated. The sets hold I, O, R, W in bits 3 to 0. -/
def execFence (q : Sq) (pred succ : Nat) (s : State) : Out1 :=
  s.runAt fun now d =>
    if !d.seqReady q then d
    else
      let d := d.enter now q
      let inv (d : Dev) : Dev := if bitAt pred 3 && bitAt succ 1 then d.l1Clear q.core else d
      if bitAt pred 0 then d.afterStores now q.core inv else inv d

/-- FENCE.I discards the instruction buffer. -/
def execFenceI (q : Sq) (s : State) : Out1 :=
  s.runAt fun now d => if d.seqReady q then (d.enter now q).modSq q.core fun s => { s with ibuf := false } else d

/-- An entry of the merging buffer whose parity fails is discarded; the job of the thread that wrote it ends (R450, R612). -/
def Mach.mbError (m : Mach) (c : Nat) (e : MbEnt) : Mach :=
  (m.onDev fun d => (d.bump .CORE_MB_PERR [c]).modSq c fun s => { s with mb := s.mb.filter fun x => x.block != e.block }).coreFault c e.job 8

/-- The oldest merging-buffer entry has been open 32 clk and drains (R444, R450). -/
def execMbDrainTimeout (c : Nat) (det : Det) (s : State) : Out1 :=
  s.run fun m =>
    match (m.dev.core c).sq.mb with
    | [] => m
    | e :: _ =>
      let m := m.atTime (e.openAt + 32 * clkT)
      if detIs .mergeBuf det then m.mbError c e
      else
        m.onDev fun d =>
          let a := e.block % farBlock * 128
          if e.block < farBlock && d.heldRange a 128 then d.holdRange a 128 (2 ^ 43 + c)
          else d.drainEntry m.und.now c e

/-- A stride prefetch's line enters the side buffer once its read need not wait; one of an absent range is dropped (R448, R476). -/
def execPrefetchFill (c line : Nat) (s : State) : Out1 :=
  s.runDev fun d =>
    if (d.core c).sq.pfOut.contains line && d.readWait (d.corePart c) (line * 128) 128 == 0 then
      let d := d.modSq c fun s => { s with pfOut := s.pfOut.filter (· != line) }
      if d.l1Caches (line * 128) then (d.touch (line * 128) 128 { part := d.corePart c }).sideFill c (d.lineNow line 0) else d
    else d

/-! ### Cluster power states (R411 to R413) -/

/-- An entry of a cluster's delay list falls due within `us` microseconds. -/
def Dev.dueWithin (d : Dev) (tick n us : Nat) : Bool :=
  (d.threads.any fun p => cluOf p.1 == n && (match p.2.delay with | some (t, _) => decide (t ≤ tick + us) | none => false)) ||
  d.jobs.any fun p => p.1 / 4096 == n && (match p.2.deadTick with | some t => decide (t ≤ tick + us) | none => false)

/-- A cluster's delay list is empty. -/
def Dev.noDelays (d : Dev) (n : Nat) : Bool :=
  (d.threads.all fun p => cluOf p.1 != n || p.2.delay.isNone) && d.jobs.all fun p => p.1 / 4096 != n || p.2.deadTick.isNone

/-- The sleep condition (R411). -/
def Dev.maySleep (d : Dev) (tick n : Nat) : Bool :=
  (d.slotsOf n).all (fun h => (d.thr h).st == .free || (d.thr h).st == .wait || (d.thr h).st == .drain) &&
  (List.range 8).all (fun i => (d.core (n * 8 + i)).idle && d.trackers (n * 8 + i) == 0 && (d.core (n * 8 + i)).sq.cur.isNone) &&
  !d.dueWithin tick n (d.cfgF .CLU_PWR [n] 0 16)

/-- The sleep condition has held for 64 clk: RUN to SLEEP. -/
def execClusterSleep (n : Nat) (s : State) : Out1 :=
  s.run fun m => m.onDev fun d =>
    if d.cluHere n && (d.clu n).pst == 0 && d.maySleep m.tick n then
      (d.modClu n fun c => { c with pst := 1, sleptAt := m.und.now, waking := false }).bump .CLU_SLEEPS [n]
    else d

/-- The wake wire of the delay list: its head entry comes within HORIZON_US. The other wires fire as part of what fires them. -/
def execClusterWake (n : Nat) (s : State) : Out1 :=
  s.run fun m => m.onDev fun d =>
    if d.dueWithin m.tick n (d.cfgF .CLU_PWR [n] 0 16) then d.wakeWire n 2 false else d

/-- A range of memory cells as power-up leaves it: zero, no granule marked. -/
def Dev.blank (d : Dev) (a n : Nat) : Dev :=
  let keep (k : Nat) : Bool := k < a || a + n ≤ k
  { d with mem := ⟨d.mem.bytes.filter fun p => keep p.1, d.mem.poison.filter fun p => keep (p.1 * 64)⟩ }

/-- A core after its cluster left OFF (R412, R441, R456): the clk that it was clock-gated are counted (R419). -/
def Dev.coreReset (d : Dev) (now c : Nat) : Dev :=
  let s := (d.core c).sq
  let d := if s.gated.isSome then d.bump .CORE_SQ_IDLE [c] ((now - s.runAt) / clkT) else d
  ((d.setCore c { Core.fresh with sq := { cycAt := now } }).blank (winAt c) 0x1000000).wr .CORE_L1CFG [c] 0

/-- A waking cluster runs again, from OFF with its state reset (R412, R413). -/
def execClusterWakeComplete (n : Nat) (s : State) : Out1 :=
  s.run fun m => m.onDev fun d =>
    let c := d.clu n
    if c.waking && (c.pst == 1 || c.pst == 2) then
      let d := if c.pst = 2 then (List.range 8).foldl (fun d i => d.coreReset m.und.now (n * 8 + i)) d else d
      (d.modClu n fun c => { c with pst := 0, waking := false }).schedule m.und.now n
    else d

/-- A sleeping cluster without work passes OFF_AFTER_US with OFF enabled: SLEEP to OFF. -/
def execClusterOff (n : Nat) (s : State) : Out1 :=
  s.run fun m =>
    let d := m.dev
    let c := d.clu n
    if c.pst == 1 && !c.waking && d.cfgF .CLU_PWR [n] 16 1 == 1 && (d.slotsOf n).isEmpty && d.noDelays n then
      let m := m.atTime (c.sleptAt + d.cfgF .CLU_PWR [n] 20 24 * usT)
      m.onDev fun d => (d.modClu n fun c => { c with pst := 2 }).bump .CLU_OFFS [n]
    else m

/-! ### Atomics of the sequencer (spec/13 R431 to R438) -/

/-- What an AMO, LR or SC is refused with: the cases of R376 and R432. -/
def Dev.amoRefusal (d : Dev) (a size : Nat) : Nat :=
  let o : AtomOp := ⟨0x0D, size, 0, dlaOf a, 0, 0, [], false, 0⟩
  refusal [(decide (2 ^ 56 ≤ a), eRange), (a % max size 1 != 0, eAlign),
    ((d.remoteOf a).isNone && a < 2 ^ 56 && d.atomRefusal o != sOk, d.atomRefusal o)]

/-- The frame of AMO, LR and SC: sizes 4 and 8; the merging buffer drains; an exception where the operation is refused; a target
on another module is reached by an AT message whose answer the sequencer waits for; an error that marks ends the job (R430, R436, R437,
R454, R522). -/
def Dev.amo (d : Dev) (now : Nat) (q : Sq) (rd size a code : Nat) (v : Word) (here : Dev → AtomOut) : Dev :=
  if !d.seqReady q || (size != 4 && size != 8) then d
  else
    let d := (d.enter now q).drainMb now q.core
    let st := d.amoRefusal a size
    let load := code == 0x11
    let w := 8 * size
    let ext (x : Nat) : Word := BitVec.ofInt 64 (sext w x)
    if st = eAlign then d.exc now q (if load then excLoadAlign else excStoreAlign) st
    else if st ≠ sOk then d.exc now q (if load then excLoad else excStore) st
    else
      match d.remoteOf a with
      | some k =>
        match d.routeCheck k with
        | .refuse e => d.exc now q (if load then excLoad else excStore) e
        | .lost => match d.curJob q.core with | some j => d.endJob now j .fault | none => d
        | .send =>
          let o : AtomOp := ⟨code, size, 0, dlaOf a, v.toNat % 2 ^ w, q.core, [], false, 0⟩
          let who := if code = 0x12 then Who.sc q.core rd else .amo q.core rd size
          (d.request k now 0x05 0 (laneOfDla (dlaOf a)) code (atBody o) (d.curJob q.core) who).modSq q.core fun s =>
            { s with remote := some (d.watchTick now ((d.curJob q.core).getD 0)) }
      | none =>
        let at_ := dlaOf a
        if (if load then d.readWait (d.corePart q.core) at_ size else d.atomWait at_ size (some q.core)) != 0 then d
        else if d.heldRange at_ size then d.holdRange at_ size (2 ^ 43 + q.core)
        else
          let f := d.meetAll at_ size
          let r := here f.1
          let d := if r.poison then (match d.curJob q.core with | some j => r.d.poisonIn q.core j | none => r.d) else r.d
          let d := d.setX q.core rd (if code = 0x12 then BitVec.ofNat 64 r.old else ext r.old)
          if f.2 then d.faultJob now (d.curJob q.core) else d

/-- An AMO of the A extension as the Canopy atomic of a code; the target line leaves the core's L1 first (R436). -/
def Dev.amoOp (d : Dev) (now : Nat) (q : Sq) (rd size a code : Nat) (v : Word) : Dev :=
  d.amo now q rd size a code v fun d =>
    let o : AtomOp := ⟨code, size, 0, dlaOf a, v.toNat % 2 ^ (8 * size), 0, [], false, 0⟩
    (d.l1Drop q.core (dlaOf a / 128)).atomAt o (some q.core)

def execAmoadd (q : Sq) (rd size a : Nat) (v : Word) (s : State) : Out1 := s.runAt fun now d => d.amoOp now q rd size a 0x01 v
def execAmoand (q : Sq) (rd size a : Nat) (v : Word) (s : State) : Out1 := s.runAt fun now d => d.amoOp now q rd size a 0x0A v
def execAmoor (q : Sq) (rd size a : Nat) (v : Word) (s : State) : Out1 := s.runAt fun now d => d.amoOp now q rd size a 0x0B v
def execAmoxor (q : Sq) (rd size a : Nat) (v : Word) (s : State) : Out1 := s.runAt fun now d => d.amoOp now q rd size a 0x0C v
def execAmomin (q : Sq) (rd size a : Nat) (v : Word) (s : State) : Out1 := s.runAt fun now d => d.amoOp now q rd size a 0x04 v
def execAmomax (q : Sq) (rd size a : Nat) (v : Word) (s : State) : Out1 := s.runAt fun now d => d.amoOp now q rd size a 0x05 v
def execAmominu (q : Sq) (rd size a : Nat) (v : Word) (s : State) : Out1 := s.runAt fun now d => d.amoOp now q rd size a 0x06 v
def execAmomaxu (q : Sq) (rd size a : Nat) (v : Word) (s : State) : Out1 := s.runAt fun now d => d.amoOp now q rd size a 0x07 v
def execAmoswap (q : Sq) (rd size a : Nat) (v : Word) (s : State) : Out1 := s.runAt fun now d => d.amoOp now q rd size a 0x0D v

/-- LR: the value at the slice, and the core's reservation on its line; a new LR frees what the old one held back (R437). -/
def execLr (q : Sq) (rd size a : Nat) (s : State) : Out1 :=
  s.runAt fun now d => (d.amo now q rd size a 0x11 0 fun d => d.lrAt now q.core (dlaOf a) size).releaseHeld now

/-- SC: written, and rd 0, only with the reservation intact; what was held back follows (R437). The line leaves the core's L1, so
that its loads see the store (R445, DEDUCED). -/
def execSc (q : Sq) (rd size a : Nat) (v : Word) (s : State) : Out1 :=
  s.runAt fun now d =>
    (d.amo now q rd size a 0x12 v fun d => (d.l1Drop q.core (dlaOf a / 128)).scAt q.core (dlaOf a) size v.toNat).releaseHeld now

/-- 64 ns after an LR of a requester: what its slice held back is applied, and breaks the reservation (R437). -/
def execLrHoldExpire (who : Nat) (s : State) : Out1 :=
  s.run fun m =>
    match m.dev.resvOf who with
    | some (l, t, true) =>
      let m := m.atTime (t + 64 * nsT)
      m.onDev fun d =>
        let r := (l, t, false)
        let d : Dev := if who < 128 then d.modSq who fun s => { s with resv := some r }
          else { d with far := d.far.map fun p => if p.1 = who then (who, r) else p }
        d.releaseHeld m.und.now
    | _ => m

def execAtomAdd (c : Nat) (s : State) : Out1 := s.runAt fun now d => d.runAtom now c 0x01
def execAtomFadd32 (c : Nat) (s : State) : Out1 := s.runAt fun now d => d.runAtom now c 0x02
def execAtomFadd16 (c : Nat) (s : State) : Out1 := s.runAt fun now d => d.runAtom now c 0x03
def execAtomMin (c : Nat) (s : State) : Out1 := s.runAt fun now d => d.runAtom now c 0x04
def execAtomMax (c : Nat) (s : State) : Out1 := s.runAt fun now d => d.runAtom now c 0x05
def execAtomMinu (c : Nat) (s : State) : Out1 := s.runAt fun now d => d.runAtom now c 0x06
def execAtomMaxu (c : Nat) (s : State) : Out1 := s.runAt fun now d => d.runAtom now c 0x07
def execAtomFmin32 (c : Nat) (s : State) : Out1 := s.runAt fun now d => d.runAtom now c 0x08
def execAtomFmax32 (c : Nat) (s : State) : Out1 := s.runAt fun now d => d.runAtom now c 0x09
def execAtomAnd (c : Nat) (s : State) : Out1 := s.runAt fun now d => d.runAtom now c 0x0A
def execAtomOr (c : Nat) (s : State) : Out1 := s.runAt fun now d => d.runAtom now c 0x0B
def execAtomXor (c : Nat) (s : State) : Out1 := s.runAt fun now d => d.runAtom now c 0x0C
def execAtomSwap (c : Nat) (s : State) : Out1 := s.runAt fun now d => d.runAtom now c 0x0D
def execAtomCas (c : Nat) (s : State) : Out1 := s.runAt fun now d => d.runAtom now c 0x0E
def execAtomRma (c : Nat) (s : State) : Out1 := s.runAt fun now d => d.runAtom now c 0x10

end Sys2Proof.Machine
end

