-- ==== Sys2Proof/Machine/SeqMem.lean ====
section
/-! DEFINITION. Loads and stores of the sequencers: the merging buffer, the L1 data cache, the stride prefetcher, windows,
views, the sync region and other modules; reads of CORE_ATOM_RES (spec/12 R374, R376, R405, spec/13 R438 to R451). -/

namespace Sys2Proof.Machine

/-! ### The merging buffer (R444, R445) -/

/-- The key of the merging-buffer block of a global address. -/
def Dev.mbKey (d : Dev) (ga : Nat) : Nat := if (d.remoteOf ga).isSome then farBlock + ga / 128 else dlaOf ga / 128

/-- What the merging buffer holds of a load: all its bytes, or some of them. -/
inductive MbHit where
  | none | some_ | all (v : Nat)
  deriving DecidableEq, Repr, Inhabited

def Dev.mbHit (d : Dev) (c ga size : Nat) : MbHit :=
  match (d.core c).sq.mb.find? fun e => e.block == d.mbKey ga with
  | none => .none
  | some e =>
    let o := ga % 128
    let m := bitsOf e.mask o size
    if m = 0 then .none else if m = 2 ^ size - 1 then .all (recNum e.data o size) else .some_

/-- An entry of another module that a store would join, while a younger one of its 4 KiB page is open: the entries of the page drain
first, so that its stores leave in program order (R518). -/
def Dev.mbPage (d : Dev) (now c key : Nat) : Dev :=
  let page (e : MbEnt) : Bool := decide (farBlock ≤ e.block) && e.block / 32 == key / 32
  match ((d.core c).sq.mb.filter page).getLast? with
  | some e => if e.block != key && (d.core c).sq.mb.any (fun x => x.block == key) then d.drainInOrder now c e else d
  | none => d

/-- A store into the merging buffer: merged, or in a new entry, the oldest draining first when none is free; a full block drains
(R444, R518). -/
def Dev.mbStore (d : Dev) (now c ga job : Nat) (bs : List Byte) : Dev :=
  let key := d.mbKey ga
  let o := ga % 128
  let d := d.mbPage now c key
  let d :=
    if (d.core c).sq.mb.any fun e => e.block == key then d
    else
      let d := match (d.core c).sq.mb with
        | e :: _ =>
          if 8 ≤ (d.core c).sq.mb.length then
            ((d.bump .CORE_MB_FULL [c] (Config.freeNat d.fresh)).useFree 1).drainEntry now c e
          else d
        | [] => d
      d.modSq c fun s => { s with mb := s.mb ++ [⟨key, 0, List.replicate 128 0, now, job⟩] }
  let d := d.modSq c fun s => { s with mb := s.mb.map fun e =>
    if e.block = key then
      { e with
        mask := e.mask ||| (2 ^ bs.length - 1) * 2 ^ o
        data := putAt e.data o bs }
    else e }
  let d := d.modSq c fun s => { s with l1 := s.l1.map fun p =>
    if p.2.line = key then (p.1, { p.2 with data := putAt p.2.data o bs }) else p }
  match (d.core c).sq.mb.find? fun e => e.block == key with
  | some e => if e.mask = 2 ^ 128 - 1 then d.drainInOrder now c e else d
  | none => d

/-! ### The stride prefetcher (R448) -/

/-- The distance of an address from the last miss of a stream is a stride the prefetcher follows. -/
def PfStream.near (p : PfStream) (a : Nat) : Bool :=
  let s : Int := (a : Int) - p.last
  s != 0 && decide (-2048 ≤ s ∧ s ≤ 2048)

/-- A load miss noted; after two misses of a stream with one stride the line PF_DIST strides ahead is asked for, within its
4 KiB page and only where the L1 data cache caches it. A miss joins the first stream it is near, else it starts one in place of
the oldest (DESIGN CHOICE). -/
def Dev.pfMiss (d : Dev) (c a : Nat) : Dev :=
  let cfg := d.rd .CORE_L1CFG [c] ^^^ 5
  if !bitAt cfg 0 then d
  else
    let ps := (d.core c).sq.pf
    match ps.find? fun p => p.near a with
    | none =>
      let ps := if 4 ≤ ps.length then ps.drop 1 else ps
      d.modSq c fun s => { s with pf := ps ++ [⟨a, 0, 0⟩] }
    | some p =>
      let stride : Int := (a : Int) - p.last
      let hits := if stride = p.stride then p.hits + 1 else 1
      let q : PfStream := ⟨a, stride, hits⟩
      let d := d.modSq c fun s => { s with pf := (ps.filter fun x => x != p) ++ [q] }
      let t : Int := (a : Int) + stride * (bitsOf cfg 1 3 : Nat)
      let ta := t.toNat
      let line := ta / 128
      let s := (d.core c).sq
      if 2 ≤ hits && decide (0 ≤ t) && ta / 4096 == a / 4096 && d.l1Caches ta && !d.heldRange (line * 128) 128 &&
          (s.l1Find line).isNone && !(s.side.any fun l => l.line == line) && !s.pfOut.contains line then
        (d.bump .CORE_L1_PF [c]).modSq c fun s => { s with pfOut := s.pfOut ++ [line] }
      else d

/-! ### Loads (R451) -/

/-- A load's value in rd, extended from its size; a marked operand is counted and marks the job (R80). -/
def Dev.loadDone (d : Dev) (c rd size : Nat) (sgn : Bool) (v : Nat) (poison : Bool) : Dev :=
  let d := if poison then (match d.curJob c with | some j => d.poisonIn c j | none => d) else d
  d.setX c rd (if sgn then BitVec.ofInt 64 (sext (8 * size) v) else BitVec.ofNat 64 v)

/-- A load of a core from memory must wait: at its slice or controller, or for a write of its own that is held back (R445, R476). -/
def Dev.loadWaits (d : Dev) (c a n : Nat) : Bool := d.readWait (d.corePart c) a n != 0 || d.ownHeld c a n

/-- A load of a line that the L1 data cache may hold. -/
def Mach.loadCached (m : Mach) (c rd size : Nat) (sgn : Bool) (a : Nat) (det : Det) : Mach :=
  let line := a / 128
  let held := (m.dev.core c).sq.holds line
  let m := if held && detIs .l1 det then m.onDev fun d => d.l1Error c line else m
  let hit := held && !detIs .l1 det
  if !hit && m.dev.loadWaits c (line * 128) 128 then m
  else if !hit && m.dev.heldRange a size then m.onDev fun d => d.holdRange a size (2 ^ 43 + c)
  else
    let r := if !hit && detIs .canopy det then m.canopyDetect a else (m, false)
    let m := r.1.onDev fun d =>
      let x := d.l1Line c line 0
      let d := if x.2.2 then x.1 else x.1.pfMiss c a
      d.loadDone c rd size sgn (recNum x.2.1.data (a % 128) size) (bitAt x.2.1.poison (a % 128 / 64))
    if r.2 then m.onDev fun d => d.faultJob m.und.now (d.curJob c) else m

/-- A load through a core's window: 0 while its cluster is OFF (R203, R224, R440, R441). -/
def Mach.loadWin (m : Mach) (q : Sq) (rd size : Nat) (sgn : Bool) (k off : Nat) (det : Det) : Mach :=
  let now := m.und.now
  if winOf off == .none then m.onDev fun d => d.exc now q excLoad eRange
  else if m.dev.winOff k then
    m.onDev fun d => (d.bump .CLU_OFFACC [cluOfCore k]).loadDone q.core rd size sgn 0 false
  else if m.dev.winBusy k off then m.onDev fun d => d.stallOn now k (seqStall q.core) 2
  else
    let m := m.onDev fun d => d.stallEnd now k (seqStall q.core)
    let r := m.dev.winDetect k off det
    let m := m.onDev fun _ => r.1
    if r.2 then
      match m.dev.curJob q.core with
      | some j => m.coreFault k j (if winOf off == .clm then 1 else 2)
      | none => m
    else m.onDev fun d =>
      match d.winRead k off size with
      | some (bs, pm) => d.loadDone q.core rd size sgn (leNat bs) (pm != 0)
      | none => d

/-- A load from a register view: in U only from the user view; CORE_ATOM_RES waits for the atomic in progress (R376, R438). -/
def Mach.loadReg (m : Mach) (q : Sq) (rd size : Nat) (sgn : Bool) (vw : View) (off : Nat) : Mach :=
  let now := m.und.now
  if q.user && vw != .user then m.onDev fun d => d.exc now q excLoad ePriv
  else
    let own := match regAt (off / 8 * 8) with
      | some (.CORE_ATOM_RES, ix) => ix.head? == some q.core
      | _ => false
    match (m.dev.core q.core).sq.atom with
    | some o =>
      if own then
        if 0x100 ≤ o.code then m.onDev fun d =>
          d.modSq q.core fun s => { s with remote := some (d.watchTick now ((d.curJob q.core).getD 0)) }
        else m
      else
        let r := m.readReg vw (some q.core) off size
        r.1.onDev fun d => d.loadDone q.core rd size sgn r.2 false
    | none =>
      let r := m.readReg vw (some q.core) off size
      r.1.onDev fun d => d.loadDone q.core rd size sgn r.2 false

/-- The value that a sync object's line shows to a load (R405). -/
def Dev.syncBytes (d : Dev) (n : Nat) : List Byte := leBytes 8 (d.syncVal n).toNat ++ List.replicate 56 0

/-- A load from this module; an uncorrected error of a sync unit's logic is met at a load of its object (R622). -/
def Mach.loadHere (m : Mach) (q : Sq) (rd size : Nat) (sgn : Bool) (a : Nat) (det : Det) : Mach :=
  let now := m.und.now
  let c := q.core
  let plain (m : Mach) : Mach := m.onDev fun d =>
    (d.touch a size { part := d.corePart c, alloc := false }).loadDone c rd size sgn (d.num a size) (d.poisoned a size)
  match m.dev.target a with
  | .ext _ _ | .clearing _ =>
    if m.dev.l1Caches a then m.loadCached c rd size sgn a det
    else if m.dev.loadWaits c a size then m
    else if m.dev.heldRange a size then m.onDev fun d => d.holdRange a size (2 ^ 43 + c)
    else plain m
  | .syncObj n o =>
    if det == .twice .syncUnit && m.und.st.serves then m.faultHold 6
    else m.onDev fun d =>
      if d.syncBroken n then d.faultJob now (d.curJob c)
      else d.loadDone c rd size sgn (recNum (d.syncBytes n) o size) false
  | .core k off => m.loadWin q rd size sgn k off det
  | .view p off => m.loadReg q rd size sgn (if p then .priv else .user) off
  | .mirror off => m.loadReg q rd size sgn .mirror off
  | .status _ => plain m
  | .hole | .noClear | .syncHole => m.onDev fun d => d.exc now q excLoad eRange

/-- A load from another module: a RD of the 8 bytes that hold it, which the sequencer waits for (R374, R521, R522). -/
def Dev.loadFar (d : Dev) (now : Nat) (q : Sq) (rd size : Nat) (sgn : Bool) (k ga : Nat) : Dev :=
  let a := dlaOf ga
  match d.routeCheck k with
  | .refuse e => d.exc now q excLoad e
  | .lost => d.faultJob now (d.curJob q.core)
  | .send =>
    (d.request k now 0x01 0 (laneOfDla a) (a % 8) (leBytes 8 (a / 8 * 8) ++ leBytes 4 8 ++ leBytes 4 0) (d.curJob q.core)
      (.load q.core rd size sgn)).modSq q.core fun s => { s with remote := some (d.watchTick now ((d.curJob q.core).getD 0)) }

/-- An error detected in the register file or a CSR ends the running thread's job (R606). -/
def Mach.regFileHit (m : Mach) (c : Nat) (det : Det) : Option Nat :=
  match det with
  | .once .regFile | .twice .regFile => m.dev.curJob c
  | _ => none

/-- An access in U to the privileged register view or its mirror (R376). -/
def Dev.privAccess (d : Dev) (q : Sq) (a : Nat) : Bool :=
  q.user && decide (a < 2 ^ 56) && (d.remoteOf a).isNone &&
    match d.target (dlaOf a) with | .view p _ => p | .mirror _ => true | _ => false

/-- A sequencer load of 1, 2, 4 or 8 bytes at address `a` (R374, R376, R445, R451). -/
def execSeqLoad (q : Sq) (rd size : Nat) (sgn : Bool) (a : Nat) (det : Det) (s : State) : Out1 :=
  s.run fun m =>
    let now := m.und.now
    let c := q.core
    if !m.dev.seqReady q || !([1, 2, 4, 8].contains size) then m
    else
      let m := m.onDev fun d => d.enter now q
      match m.regFileHit c det with
      | some j => m.coreFault c j 7
      | none =>
        if m.dev.privAccess q a then m.onDev fun d => d.exc now q excLoad ePriv
        else if a % size ≠ 0 then m.onDev fun d => d.exc now q excLoadAlign eAlign
        else if 2 ^ 56 ≤ a then m.onDev fun d => d.exc now q excLoad eRange
        else
          match m.dev.mbHit c a size with
          | .all v =>
            match (m.dev.core c).sq.mb.find? fun e => e.block == m.dev.mbKey a with
            | some e => if detIs .mergeBuf det then m.mbError c e else m.onDev fun d => d.loadDone c rd size sgn v false
            | none => m
          | h =>
            let m := if h = .some_ then m.onDev fun d =>
                match (d.core c).sq.mb.find? fun e => e.block == d.mbKey a with
                | some e => d.drainInOrder now c e
                | none => d
              else m
            match m.dev.remoteOf a with
            | some k =>
              if h = .some_ && m.dev.storesOut c then m
              else m.onDev fun d => d.loadFar now q rd size sgn k a
            | none => m.loadHere q rd size sgn (dlaOf a) det

/-! ### Stores (R444) -/

/-- A store reaches its core's CORE_ATOM_CTL while an atomic of the core is in progress, which it waits for (R438, log 101). -/
def Dev.ctlWaits (d : Dev) (c : Nat) (priv : Bool) (off : Nat) : Bool :=
  !priv && (d.core c).sq.atom.isSome && match regAt (off / 8 * 8) with
    | some (.CORE_ATOM_CTL, ix) => ix.head? == some c
    | _ => false

/-- A store that bypasses the merging buffer, once every entry has drained and every store has completed: to a register
view or the sync region (R405, R444). -/
def Mach.storeDirect (m : Mach) (q : Sq) (size : Nat) (a v : Nat) : Mach :=
  let now := m.und.now
  let c := q.core
  let m := m.onDev fun d => d.drainMb now c
  if m.dev.storesOut c then m
  else match m.dev.target a with
    | .view p off => if m.dev.ctlWaits c p off then m else m.writeReg (if p then .priv else .user) (some c) off size v
    | .mirror off => m.writeReg .mirror (some c) off size v
    | .syncObj n o =>
      m.onDev fun d => if o = 0 && size = 8 then d.syncSet now n (BitVec.ofNat 64 v) else d.bump .SYN_ERR [syncHome n]
    | _ => m

/-- A store to this module. -/
def Mach.storeHere (m : Mach) (q : Sq) (size : Nat) (ga v : Nat) : Mach :=
  let now := m.und.now
  let c := q.core
  let a := dlaOf ga
  let buf (m : Mach) : Mach := m.onDev fun d => d.mbStore now c ga ((d.curJob c).getD 0) (leBytes size v)
  match m.dev.target a with
  | .ext _ _ | .clearing _ =>
    if m.dev.heldRange a size then m.onDev fun d => d.holdRange a size (2 ^ 43 + c) else buf m
  | .core k off =>
    match winOf off with
    | .clm => buf m
    | .raw _ =>
      if m.dev.winBusy k off then m.onDev fun d => d.stallOn now k (seqStall c) 2
      else buf (m.onDev fun d => d.stallEnd now k (seqStall c))
    | .tile _ _ => m.onDev fun d => d.bump .CORE_ME_ERR [k]
    | .none => m.onDev fun d => d.exc now q excStore eRange
  | .view p _ => if q.user && p then m.onDev fun d => d.exc now q excStore ePriv else m.storeDirect q size a v
  | .mirror _ => if q.user then m.onDev fun d => d.exc now q excStore ePriv else m.storeDirect q size a v
  | .syncObj _ _ => m.storeDirect q size a v
  | .hole | .noClear | .syncHole | .status _ => m.onDev fun d => d.exc now q excStore eRange

/-- A sequencer store of 1, 2, 4 or 8 bytes at address `a` (R374, R376, R444, R451). -/
def execSeqStore (q : Sq) (size a : Nat) (v : Word) (det : Det) (s : State) : Out1 :=
  s.run fun m =>
    let now := m.und.now
    let c := q.core
    let x := v.toNat % 2 ^ (8 * size)
    if !m.dev.seqReady q || !([1, 2, 4, 8].contains size) then m
    else
      let m := m.onDev fun d => d.enter now q
      match m.regFileHit c det with
      | some j => m.coreFault c j 7
      | none =>
        if m.dev.privAccess q a then m.onDev fun d => d.exc now q excStore ePriv
        else if a % size ≠ 0 then m.onDev fun d => d.exc now q excStoreAlign eAlign
        else if 2 ^ 56 ≤ a then m.onDev fun d => d.exc now q excStore eRange
        else
          match m.dev.remoteOf a with
          | none => m.storeHere q size a x
          | some k => m.onDev fun d =>
            match d.routeCheck k with
            | .refuse e => d.exc now q excStore e
            | .lost => d.faultJob now (d.curJob c)
            | .send => d.mbStore now c a ((d.curJob c).getD 0) (leBytes size x)

/-! ### CORE_ATOM_RES (R438) -/

/-- A read of CORE_ATOM_RES by the core's own sequencer: it waits while an atomic is in progress, a remote one watched. -/
def execCoreAtomResRead (c rd : Nat) (s : State) : Out1 :=
  s.run fun m =>
    let q : Sq := ⟨c, true⟩
    if !m.dev.seqReady q then m
    else m.loadReg q rd 8 false .user (Reg.CORE_ATOM_RES.off [c])

end Sys2Proof.Machine
end

