-- ==== Sys2Proof/Machine/LossOps.lean ====
section
/-! DEFINITION. What the loss of a peer does to everything that waits for it or that it asked for (spec/15 R532 to R534). -/

namespace Sys2Proof.Machine

/-! ### A remote operation that ends badly (R523, R534) -/

/-- The job a request belongs to ends as it would under the same refusal on this module (R523): E_FAULT as a fault. -/
def Dev.badReply (d : Dev) (now : Nat) (job : Option Nat) (status : Nat) : Dev :=
  match job with
  | some j => if knownStatus status = eFault then d.endJob now j .fault else d.refuseJob now j status
  | none => d

/-- A row of an update part whose remote bytes could not be had: the part goes on without it and ends E_FAULT; its bank is freed (R366). -/
def Dev.partFault (d : Dev) (id row : Nat) : Dev :=
  (d.onTabs fun x => { x with auxIn := x.auxIn.filter fun a => !(a.1 == id && a.2.1 == row) }).leaveRow id row true

/-- The sequencer of a core waits for another module no longer. -/
def Dev.unstall (d : Dev) (c : Nat) : Dev := d.modSq c fun s => { s with remote := none }

/-- The remote atomic of a core's atomic registers is over; a sequencer that waits for nothing else goes on (R438). -/
def Dev.atomOver (d : Dev) (c : Nat) : Dev :=
  let other := d.net.outst.any fun o => match o.who with
    | .load k _ _ _ | .amo k _ _ | .sc k _ | .sync k _ => k == c
    | _ => false
  let d := d.modSq c fun s => { s with atom := none }
  if other then d else d.unstall c

/-- A remote row write or merge that is lost: whether it was applied is unknown (R534). -/
def Dev.lostRow (d : Dev) (now : Nat) (r : RowReq) : Dev :=
  match r.op with
  | .read => d.lostRead now r
  | _ =>
    let j := d.reqJob r
    (d.rowAnswer now r eFault).faultJob now j

/-- One request outstanding at a lost peer (R534). -/
def Dev.lostReq (d : Dev) (now : Nat) (o : Outst) : Dev :=
  match o.who with
  | .load c _ _ _ | .amo c _ _ | .sc c _ => (d.unstall c).faultJob now o.job
  | .store _ => d.faultJob now o.job
  | .atom c => (d.atomOver c).faultJob now o.job
  | .sync _ _ | .wait _ _ | .streamWait _ _ => d
  | .posted => d.bump .SFX_LOSTPOST
  | .streamLoad c s _ id | .streamStore c s id => (d.dropXfer c s id).faultJob now o.job
  | .lookup _ _ => d.faultJob now o.job
  | .gmHdr c _ => (d.modCore c fun k => { k with mq := { k.mq with hdr := false } }).faultJob now o.job
  | .moveWr _ => d
  | .row w =>
    match d.tabs.sent.find? fun p => p.1 == w with
    | some p => (d.onTabs fun x => { x with sent := x.sent.del w }).lostRow now p.2
    | none => d
  | .merge c i =>
    (d.modCore c fun k => { k with mq := { k.mq with outs := k.mq.outs.put none i (some eFault) } }).faultJob now o.job
  | .part h => match d.handleOp h with | some x => (d.holderLost x o.dst).updEnd now h | none => d
  | .partRd id row _ => d.partFault id row
  | .partWr id => d.modPart id fun q => { q with outWr := q.outWr - 1, fault := true }
  | .query _ => d

/-- A request that stays outstanding after its peer is lost: a sync operation, ended by the wait watchdog (R410, R534). -/
def Outst.stays (o : Outst) : Bool :=
  match o.who with | .sync _ _ | .wait _ _ | .streamWait _ _ => true | _ => false

/-- Stands for a peer that was lost since it asked: nothing is sent to it. -/
def lostPeer : Nat := 4096

/-- Who asked, when that was the lost peer. -/
def RBy.forget (k : Nat) : RBy → RBy
  | .msg p t => .msg (if p = k then lostPeer else p) t
  | b => b

def RowReq.forget (k : Nat) (r : RowReq) : RowReq := { r with by_ := r.by_.forget k }

/-- What the lost peer asked for is completed, and its responses are dropped (R534). -/
def Dev.forgetPeer (d : Dev) (k : Nat) : Dev :=
  let rq (l : List RowReq) : List RowReq := l.map (RowReq.forget k)
  let d := d.onTabs fun x => { x with
    writers := x.writers.map fun w => { w with by_ := w.by_.forget k }
    readers := x.readers.map fun r => { r with rows := r.rows.map fun q => { q with lks := q.lks.map (RBy.forget k) } }
    moves := x.moves.map fun m => { m with before := rq m.before, after := rq m.after, full := rq m.full }
    incoming := x.incoming.map fun i => { i with held := rq i.held }
    gwait := rq x.gwait
    fwdQ := x.fwdQ.map fun p => (p.1, p.2.forget k)
    sent := x.sent.map fun p => (p.1, p.2.forget k)
    parts := x.parts.map fun p => match p.who with
      | .inr (q, t) => if q = k then { p with who := .inr (lostPeer, 2 ^ 64 + t) } else p
      | .inl _ => p
    uouts := x.uouts.filter fun p => !(2 ^ 32 ≤ p.1 && (p.1 - 2 ^ 32) % 4096 == k) }
  let gone (x : Query) : Query :=
    if !x.key.udp && x.key.addr == k && x.active && decide (x.sfxTag < 2 ^ 64) then { x with sfxTag := x.sfxTag + 2 ^ 64 } else x
  let d := d.setQfe 0 { d.qfe0 with keys := d.qfe0.keys.map gone }
  let d := d.setQfe 1 { d.qfe1 with keys := d.qfe1.keys.map gone }
  { d with
    held := d.held.map fun h => match h with
      | .atom src t b => .atom (if src = k then lostPeer else src) t b
      | x => x }

/-- The Treeline of the query that an ANSWER of a flow is for. -/
def Dev.answerTl (d : Dev) (k tag : Nat) : Nat :=
  if d.qfe1.keys.any fun x => !x.key.udp && x.key.addr == k && x.sfxTag % 2 ^ 64 == tag then 1 else 0

/-- The loss actions of a peer (R534): the flows are left empty. -/
def Dev.lossActions (d : Dev) (now k : Nat) : Dev :=
  let p := d.peer k
  let ans := (p.rsp.unacked.flatMap (·.msgs) ++ p.rsp.wait).filter fun g => g.mtype == 0x15
  let d := ans.foldl (fun d g => d.bump .QFE_TXFAIL [d.answerTl k g.tag]) d
  let gone := d.net.outst.filter fun o => o.dst == k && !o.stays
  let d := d.onNet fun n => { n with
    outst := n.outst.filter fun o => o.dst != k || o.stays
    inbox := n.inbox.filter fun q => q.1 != k }
  let d := d.setPeer k { p with req := d.newTx, rsp := d.newTx, rreq := {}, rrsp := {}, st := .lost }
  let d := d.forgetPeer k
  let d := gone.foldl (fun d o => d.lostReq now o) d
  let ins := d.tabs.incoming.filter fun i => i.src == k
  let d := ins.foldl (fun d i => d.discard now i) d
  let mine (o : Mon) : Bool := match o.dst with | .remote q _ => q == k | _ => false
  let n := (d.sync.mons.filter mine).length + (d.sync.retry.filter mine).length
  let d := d.onSync fun s => { s with mons := s.mons.filter fun o => !mine o, retry := s.retry.filter fun o => !mine o }
  let d := if n = 0 then d else d.bump .SFX_MONFREE [] n
  (d.settle now).coresAfter now

end Sys2Proof.Machine
end

