-- ==== Sys2Proof/Machine/Transport.lean ====
section
/-! DEFINITION. Salrex packets as they arrive, acknowledgement, retransmission, congestion, delivery in order, and the states of
peers (spec/15 R506 to R516, R519 to R521, R532, R533). -/

namespace Sys2Proof.Machine

/-! ### Headers (R506, R507) -/

/-- A packet header. -/
structure Hdr where
  ver : Nat
  ptype : Nat
  src : Nat
  dst : Nat
  chan : Nat
  flags : Nat
  sinc : Nat
  dinc : Nat
  psn : Nat
  len : Nat
  dom : Nat
  res : Nat
  chk : Nat
  deriving DecidableEq, Repr, Inhabited

def Hdr.of (b : List Byte) : Hdr :=
  let f := recNum b
  ⟨f 0 1, f 1 1, f 2 2, f 4 2, f 6 1, f 7 1, f 8 4, f 12 4, f 16 4, f 20 2, f 22 2, f 24 4, f 28 4⟩

/-- A packet of type `ptype` is dropped by R507: a wrong VER, PTYPE or reserved field, LEN, DOMAIN, DST or CHK. -/
def Dev.pktBad (d : Dev) (ptype : Nat) (b : List Byte) : Bool :=
  let h := Hdr.of b
  let flow := ptype = 1 || ptype = 2
  decide (b.length < 32) || h.ver != 1 || h.ptype != ptype || decide (4096 ≤ h.src) || decide (4096 ≤ h.dst) || decide (1 < h.chan) ||
  (!flow && h.chan != 0) || decide (1 < h.flags) || (ptype != 1 && h.psn != 0) || (ptype == 3 && h.dinc != 0) || h.res != 0 ||
  h.len != b.length - 32 || decide (8192 < h.len) || h.dom != d.cfgF .SFX_DOM [] 0 16 ||
  (ptype != 3 && (d.net.id.isNone || h.dst != d.ownId)) || crc32c (b.take 28 ++ b.drop 32) != h.chk

/-- A packet reaches a port that is up and carries it (R495, R504, R505). -/
def Dev.rxHere (d : Dev) (x : Rx) : Bool :=
  decide (x.port < 36) && if x.native then d.nativeUp x.port && x.sub == 0 else d.ethUp x.port x.sub

/-- Bytes of a packet's frame, its FCS among them. -/
def rxLen (x : Rx) : Nat := frameLen x.tag (x.bytes.length + if x.native then 0 else if x.v6 then 48 else 28)

/-- The frame of a packet meets its port (R498, R499, R502 to R504): it stands in the buffer and brings a Salrex packet, or it is dropped,
for its UDP checksum too (R85, whose counter is that of queries), or as a fragment (R501); a datagram for another UDP port brings none. -/
def Dev.rxFrame (d : Dev) (x : Rx) : Dev × Bool :=
  let n := x.port
  let r := (d.bump .ETH_RXFRM [n]).admitFrame n x.sub x.mac x.tag x.dscp x.occ (rxLen x) (x.native || d.ownAddr n x.v6 x.dst)
  if !r.2 || x.native then r
  else if x.dport ≠ d.cfgF .SFX_CFG [] 0 16 || x.frag then (r.1, false)
  else if x.sum == .bad || (x.v6 && x.sum == .zero) then (r.1.bump .QFE_DROP_FMT [n / 18], false)
  else r

/-! ### Peers (R532, R533) -/

/-- A RESET naming an incarnation that was not recognised; it is counted (R533). -/
def Dev.sendReset (d : Dev) (now k named : Nat) : Dev :=
  match d.choosePath k (d.txFlow k 0) now with
  | some (n, e) => (d.sendRaw k n e 4 0 0 (d.peer k).inc 0 (leBytes 4 named ++ leBytes 4 0)).bump .SFX_RESET
  | none => d

/-- Any packet from a peer moves its STATE (R532): the first one brings it UP; one with a new incarnation applies the loss actions of
the old one, unless none was known (DEDUCED: nothing had been accepted); from a lost peer the flows restart, and one that bears the
lost incarnation is answered with a RESET and dropped. -/
def Dev.meetPeer (d : Dev) (now k sinc : Nat) : Dev × Bool :=
  let p := d.peer k
  match p.st with
  | .unknown => (d.startPeer k sinc, false)
  | .up =>
    if p.inc = sinc then (d, false)
    else if p.inc = 0 then (d.peerState k .up sinc, false)
    else ((d.lossActions now k).startPeer k sinc, false)
  | .lost =>
    let d := d.startPeer k sinc
    if p.inc = sinc then (d.sendReset now k sinc, true) else (d, false)

/-! ### Acknowledgement (R509, R510) -/

/-- A PSN comes before another, modulo 2^32. -/
def psnLt (a b : Nat) : Bool :=
  let g := (b % 2 ^ 32 + 2 ^ 32 - a % 2 ^ 32) % 2 ^ 32
  decide (0 < g) && decide (g < 2 ^ 31)

/-- A PSN has been received. -/
def RxFlow.has (f : RxFlow) (p : Nat) : Bool := psnLt p f.cum || f.got.contains p

/-- CUM moved past what has been received. -/
def RxFlow.advance (f : RxFlow) : Nat → RxFlow
  | 0 => f
  | n + 1 => if f.got.contains f.cum then
      ({ f with got := f.got.filter (· != f.cum), cum := (f.cum + 1) % 2 ^ 32 } : RxFlow).advance n else f

/-- The payload of an ACK (R510). -/
def RxFlow.ackBytes (f : RxFlow) : List Byte :=
  let sack := ((List.range 128).map fun i => if f.got.contains ((f.cum + 1 + i) % 2 ^ 32) then 2 ^ i else 0).foldl (· + ·) 0
  leBytes 4 f.cum ++ leBytes 2 f.ce ++ leBytes 2 0 ++ leBytes 16 sack

/-- A flow is acknowledged (R510). -/
def Dev.sendAck (d : Dev) (now k chan : Nat) : Dev :=
  let f := d.rxFlow k chan
  let d := d.setRx k chan { f with ce := 0, since := 0, firstAt := none }
  match d.choosePath k (d.txFlow k chan) now with
  | some (n, e) => d.sendRaw k n e 2 chan 0 (d.peer k).inc 0 f.ackBytes
  | none => d

/-! ### Messages of a packet (R519 to R521) -/

def Msg.fence (g : Msg) : Bool := bitAt g.flags 0
def Msg.noResp (g : Msg) : Bool := bitAt g.flags 1
def Msg.first (g : Msg) : Bool := bitAt g.flags 2
def Msg.last (g : Msg) : Bool := bitAt g.flags 3

/-- QUERY and MOVE take consecutive packets, each a message of its own, from FIRST to LAST (R520). -/
def Msg.big (g : Msg) : Bool := g.mtype == 0x14 || g.mtype == 0x19

/-- The message types of a channel (R521). -/
def msgTypes (chan : Nat) : List Nat :=
  if chan = 0 then [0x01, 0x03, 0x05, 0x10, 0x12, 0x14, 0x18, 0x19, 0x1A, 0x1B, 0x22] else [0x02, 0x04, 0x06, 0x11, 0x13, 0x15, 0x1C]

/-- A message whose type or header fields are reserved (R519, R521). -/
def Msg.bad (chan : Nat) (g : Msg) : Bool :=
  !(msgTypes chan).contains g.mtype || decide (16 ≤ g.flags) || decide (64 ≤ g.olane) || (chan == 0 && g.status != 0)

/-- The messages of a payload, and whether one runs over its end. -/
def parseMsgs : Nat → List Byte → List Msg × Bool
  | 0, b => ([], !b.isEmpty)
  | n + 1, b =>
    if b.isEmpty then ([], false)
    else if b.length < 16 ∨ b.length < 16 + recNum b 6 2 then ([], true)
    else
      let k := recNum b 6 2
      let g : Msg :=
        { mtype := recNum b 0 1, flags := recNum b 1 1, olane := recNum b 2 1, status := recNum b 3 1, lseq := recNum b 4 2,
          tag := recNum b 8 8, body := (b.drop 16).take k }
      let r := parseMsgs n (b.drop (16 + roundUp k 8))
      (g :: r.1, r.2)

/-! ### Delivery (R515, R516) -/

/-- What becomes of a message at its turn: delivered, refused as bad, or dropped as part of no message. -/
inductive Dlv where
  | deliver (g : Msg) | bad (g : Msg) | orphan
  deriving DecidableEq, Repr, Inhabited

/-- The body that packets of one message from the first on join to, and how many there are; none when one is missing. -/
def joinBig : List (Nat × Msg) → Option (List Byte × Nat)
  | [] => none
  | (p, g) :: r =>
    if g.last then some (g.body, 1)
    else match r with
      | [] => none
      | (q, h) :: _ =>
        if q % 2 ^ 32 = (p + 1) % 2 ^ 32 && h.mtype == g.mtype && !h.first then
          (joinBig r).map fun x => (g.body ++ x.1, x.2 + 1)
        else none

/-- The packets of one message that stand one after another from the first on. -/
def runBig : List (Nat × Msg) → Nat
  | [] => 0
  | (p, g) :: r =>
    if g.last then 1
    else match r with
      | [] => 1
      | (q, h) :: _ => if q % 2 ^ 32 = (p + 1) % 2 ^ 32 && h.mtype == g.mtype && !h.first then 1 + runBig r else 1

/-- Every earlier message of the lane has been delivered. -/
def RxFlow.turn (f : RxFlow) (g : Msg) : Bool := SMap.get 0 f.laneDone g.olane % 65536 == g.lseq

/-- What can be done with the message at place `i` of those that wait, and the flow after it. -/
def RxFlow.tryAt (f : RxFlow) (chan i : Nat) : Option (Dlv × RxFlow) :=
  match f.wait.drop i with
  | [] => none
  | (p, g) :: r =>
    let cut (n : Nat) : List (Nat × Msg) := f.wait.take i ++ (f.wait.drop i).drop n
    let lane (n : Nat) : RxFlow := { f with wait := cut n, laneDone := f.laneDone.mod 0 g.olane (· + 1) }
    let psn := p % 2 ^ 32
    if chan = 1 then some (if g.bad 1 then .bad g else .deliver g, { f with wait := cut 1 })
    else if g.bad 0 then (if f.turn g then some (.bad g, lane 1) else none)
    else if g.fence && (i != 0 || !psnLt psn f.cum) then none
    else if !g.big then (if f.turn g then some (.deliver g, lane 1) else none)
    else if !g.first then
      let prev := (f.wait.take i).any fun q => q.1 % 2 ^ 32 == (psn + 2 ^ 32 - 1) % 2 ^ 32 && q.2.big && !q.2.last
      if f.has ((psn + 2 ^ 32 - 1) % 2 ^ 32) && !prev then some (.orphan, { f with wait := cut 1 }) else none
    else if !f.turn g then none
    else match joinBig ((p, g) :: r) with
      | some (b, n) => some (.deliver { g with body := b }, lane n)
      | none =>
        let n := runBig ((p, g) :: r)
        if f.has ((psn + n) % 2 ^ 32) then some (.bad g, lane n) else none

/-- The next message that can be delivered. -/
def RxFlow.next (f : RxFlow) (chan : Nat) : Option (Dlv × RxFlow) := (List.range f.wait.length).findSome? (f.tryAt chan)

/-- Messages of a flow delivered as far as their order allows (R516); a bad one is counted, and answered E_ARG when it expects a
response (R521). -/
def Dev.deliver (d : Dev) (now k chan : Nat) : Nat → Dev
  | 0 => d
  | n + 1 =>
    match (d.rxFlow k chan).next chan with
    | none => d
    | some (x, f) =>
      let d := d.setRx k chan f
      let d := match x with
        | .deliver g => d.onNet fun t => { t with inbox := t.inbox ++ [(k, g)] }
        | .bad g =>
          let d := d.bump .SFX_RXBAD
          if chan = 0 && !g.noResp then d.respond k now (g.mtype + 1) eArg g.tag [] else d
        | .orphan => d.bump .SFX_RXBAD
      d.deliver now k chan n

/-- Packets in the reorder store of a Treeline (R516). -/
def Dev.stored (d : Dev) (t : Nat) : Nat :=
  let n (f : RxFlow) : Nat := ((f.wait.filter fun q => q.1 / 2 ^ 32 == t).map (·.1)).dedup.length
  (d.net.peers.map fun p => n p.2.rreq + n p.2.rrsp).foldl (· + ·) 0

/-- A packet's messages put among those that wait, in PSN order. -/
def insertMsgs (t psn : Nat) (gs : List Msg) (l : List (Nat × Msg)) : List (Nat × Msg) :=
  let i := l.findIdx fun q => psnLt psn (q.1 % 2 ^ 32)
  l.take i ++ (gs.map fun g => (psn + t * 2 ^ 32, g)) ++ l.drop i

/-! ### DATA (R509, R513, R516) -/

/-- A packet counts as CE at the receiver (R513): the buffer held more than ECN_KIB before it came. -/
def Dev.countsCe (d : Dev) (x : Rx) : Bool := x.ce || d.cfgF .SFX_CC [] 32 16 * 1024 < (d.port x.port).waiting - rxLen x

/-- A DATA packet of a flow, its header checked. -/
def Dev.data (d : Dev) (now k : Nat) (x : Rx) (h : Hdr) : Dev :=
  let f := d.rxFlow k h.chan
  let t := x.port / 18
  let ahead := (h.psn + 2 ^ 32 - f.cum) % 2 ^ 32
  if 2 ^ 31 ≤ ahead ∨ f.got.contains h.psn then (d.bump .SFX_DUP).sendAck now k h.chan
  else if 4096 ≤ ahead then d
  else
    let gs := parseMsgs 513 (x.bytes.drop 32)
    let ce := d.countsCe x
    let f := { f with got := f.got ++ [h.psn], ce := f.ce + if ce then 1 else 0, since := f.since + 1,
                      firstAt := match f.firstAt with | some a => some a | none => some now,
                      wait := insertMsgs t h.psn gs.1 f.wait }
    let f := f.advance (f.got.length + 1)
    let full := 2048 ≤ d.stored t
    let d1 := d.setRx k h.chan f
    let d1 := d1.bump .SFX_RXPKT
    let d1 := if ce then d1.bump .SFX_CE else d1
    let d1 := if gs.2 then d1.bump .SFX_RXBAD else d1
    let d1 := d1.deliver now k h.chan (f.wait.length + 1)
    if full && (d1.rxFlow k h.chan).wait.any (fun q => q.1 == h.psn + t * 2 ^ 32) then d.bump .SFX_ORDDROP
    else if 16 ≤ f.since then d1.sendAck now k h.chan else d1

/-- A packet of type `ptype` arrives: counted as a frame, checked as a frame and as a packet (R507), its sender met (R532); what the type
does follows. -/
def Dev.packetRx (d : Dev) (ptype : Nat) (x : Rx) (f : Dev → Hdr → Dev) : Dev :=
  if !d.rxHere x then d
  else
    let r := d.rxFrame x
    let d := r.1
    if !r.2 then d
    else if d.pktBad ptype x.bytes then d.bump .SFX_RXBAD
    else f d (Hdr.of x.bytes)

/-- A DATA or ACK: one for another incarnation of this module is dropped and answered with a RESET (R507, R533). -/
def Dev.flowRx (d : Dev) (now ptype : Nat) (x : Rx) (f : Dev → Hdr → Dev) : Dev :=
  d.packetRx ptype x fun d h =>
    let r := d.meetPeer now h.src h.sinc
    if r.2 then r.1
    else if h.dinc ≠ d.net.inc then r.1.sendReset now h.src h.dinc
    else f r.1 h

/-- SALREX_DATA (R509). -/
def execSalrexData (x : Rx) (s : State) : Out1 :=
  s.runAt fun now d => d.flowRx now 1 x fun d h => d.data now h.src x h

/-! ### ACK, loss and retransmission (R511 to R514) -/

/-- The key of a path's penalty. -/
def penKey (k : Nat) (p : Pkt) : Nat := k * 16384 + p.port * 64 + p.entropy

/-- A packet is declared lost: its path is penalised, and it is sent again with RETX on another (R511, R512). -/
def Dev.resend (d : Dev) (now k chan psn : Nat) : Dev :=
  match (d.txFlow k chan).unacked.find? fun p => p.psn == psn with
  | none => d
  | some p =>
    let d :=
      if p.port = 0xFFFF then d
      else d.onNet fun n => { n with
        penal := (n.penal.filter fun q => q.1 != penKey k p) ++ [(penKey k p, now + d.cfgF .SFX_CC [] 48 16 * usT)] }
    let f := d.txFlow k chan
    let path := d.choosePath k f now (some (p.port, p.entropy))
    let q := match path with | some (n, e) => { p with port := n, entropy := e } | none => p
    let q := { q with lastAt := now, tries := p.tries + 1, sentTo := f.next }
    let d := d.setTx k chan { f with unacked := f.unacked.map (fun y => if y.psn = psn then q else y), turn := f.after path }
    (d.bump .SFX_RETX).sendPkt k chan q true path

/-- The window and the congestion estimate after a window of acknowledged data (R514). -/
def TxFlow.window (f : TxFlow) (p maxW : Nat) : TxFlow :=
  let fr : Rat := if f.winPkts = 0 then 0 else min 1 ((f.winCe : Rat) / (f.winPkts : Rat))
  let a := f.alpha + (fr - f.alpha) / 16
  let w := if f.winCe = 0 then min (maxW : Rat) (f.w + p) else max (p : Rat) (f.w * (1 - a / 2))
  { f with alpha := a, w := w, winEnd := f.next, winPkts := 0, winCe := 0 }

/-- An ACK of a flow of this module (R510, R511, R514). Of a packet that has been sent again it shows the loss by what has been received
of the packets first sent after that (DEDUCED from the example of chapter 15, log 37). -/
def Dev.ack (d : Dev) (now k chan : Nat) (b : List Byte) : Dev :=
  let cum := recNum b 0 4
  let ece := recNum b 4 2
  let sack := recNum b 8 16
  let f := d.txFlow k chan
  let got (p : Nat) : Bool :=
    psnLt p cum || (psnLt cum p && decide ((p + 2 ^ 32 - cum - 1) % 2 ^ 32 < 128) && bitAt sack ((p + 2 ^ 32 - cum - 1) % 2 ^ 32))
  let done := f.unacked.filter fun p => got p.psn
  let tags := (done.flatMap (·.msgs)).filterMap fun g => if g.mtype = 0x12 && g.noResp then some g.tag else none
  let d := d.onNet fun n => { n with outst := n.outst.filter fun o => !(o.who == .posted && o.dst == k && tags.contains o.tag) }
  let f := { f with unacked := f.unacked.filter (fun p => !got p.psn), winPkts := f.winPkts + done.length, winCe := f.winCe + ece }
  let f := if !done.isEmpty && psnLt f.winEnd cum then f.window d.payloadMax (d.cfgF .SFX_CC [] 16 16 * 1024) else f
  let above (p : Pkt) : Nat := ((List.range 128).filter fun i =>
    let q := (cum + 1 + i) % 2 ^ 32
    bitAt sack i && psnLt p.psn q && (p.tries == 0 || !psnLt q p.sentTo)).length
  let lost := f.unacked.filter fun p => decide (d.cfgF .SFX_TMO [] 40 8 ≤ above p) && decide (above p ≠ 0)
  let d := d.setTx k chan f
  let d := lost.foldl (fun d p => d.resend now k chan p.psn) d
  d.pump k chan now f.wait.length

/-- SALREX_ACK (R510, R511). -/
def execSalrexAck (x : Rx) (s : State) : Out1 :=
  s.runAt fun now d => d.flowRx now 2 x fun d h =>
    let b := x.bytes.drop 32
    if b.length ≠ 24 ∨ recNum b 6 2 ≠ 0 then d.bump .SFX_RXBAD else d.ack now h.src h.chan b

/-- SALREX_RESET (R532, R533): loss actions and fresh flows when it names this module's incarnation, or the one held for the peer;
naming none, while none was known of the peer, it only announces the peer's own. -/
def execSalrexReset (x : Rx) (s : State) : Out1 :=
  s.runAt fun now d => d.packetRx 4 x fun d h =>
    let b := x.bytes.drop 32
    let named := recNum b 0 4
    let old := d.peer h.src
    if b.length ≠ 8 ∨ recNum b 4 4 ≠ 0 then d.bump .SFX_RXBAD
    else
      let r := d.meetPeer now h.src h.sinc
      if r.2 || old.st != .up || old.inc != h.sinc then r.1
      else if named = d.net.inc ∨ (named = old.inc ∧ named ≠ 0) then (d.lossActions now h.src).startPeer h.src h.sinc
      else d

/-! ### Timers (R510 to R512, R532) -/

/-- ACK_US after the first packet that no ACK has followed (R510). -/
def execAckTimer (k chan : Nat) (s : State) : Out1 :=
  s.run fun m =>
    match (m.dev.rxFlow k (chan % 2)).firstAt with
    | some t =>
      let m := m.atTime (t + m.dev.cfgF .SFX_TMO [] 32 8 * usT)
      m.onDev fun d => d.sendAck m.und.now k (chan % 2)
    | none => m

/-- RTO of a packet (R511): doubled with each retransmission, up to eight times. -/
def Dev.rto (d : Dev) (p : Pkt) : Nat := d.cfgF .SFX_TMO [] 0 16 * usT * min 8 (2 ^ p.tries)

/-- A packet's RTO passes: it is lost, and the window falls to one packet (R511, R514). -/
def execRtoExpire (k chan psn : Nat) (s : State) : Out1 :=
  s.run fun m =>
    let c := chan % 2
    match (m.dev.txFlow k c).unacked.find? fun p => p.psn == psn with
    | some p =>
      let m := m.atTime (p.lastAt + m.dev.rto p)
      m.onDev fun d =>
        let d := d.bump .SFX_RTO
        let d := d.setTx k c { d.txFlow k c with w := ((d.payloadMax : Nat) : Rat) }
        d.resend m.und.now k c psn
    | none => m

/-- When the oldest unacknowledged packet of a peer was first sent. -/
def Peer.oldest (p : Peer) : Option Nat :=
  ((p.req.unacked ++ p.rsp.unacked).map (·.firstAt)).foldl
    (fun (b : Option Nat) t => some (match b with | some x => min x t | none => t)) none

/-- A packet stays unacknowledged for LOST_MS: the peer is lost (R511, R532, R534). -/
def execPeerLost (k : Nat) (s : State) : Out1 :=
  s.run fun m =>
    match (m.dev.peer k).st, (m.dev.peer k).oldest with
    | .up, some t =>
      let m := m.atTime (t + m.dev.cfgF .SFX_TMO [] 16 16 * msT)
      let inc := (m.dev.peer k).inc
      let m := m.onDev fun d => ((d.bump .SFX_LOST).lossActions m.und.now k).peerState k .lost inc
      m.event 0x0402 1 (evUnit 8 k) inc
    | _, _ => m

/-- A path's penalty ends (R512). -/
def execPathPenaltyEnd (i : Nat) (s : State) : Out1 :=
  s.run fun m =>
    match m.dev.net.penal[i]? with
    | some q => (m.atTime q.2).onDev fun d => d.onNet fun n => { n with penal := n.penal.take i ++ n.penal.drop (i + 1) }
    | none => m

end Sys2Proof.Machine
end

