-- ==== Sys2Proof/Machine/Remote.lean ====
section
/-! DEFINITION. Remote operations: RD, WR, AT and SYNC at the target, and their responses at the requester (spec/12 R408, spec/15 R517
to R525). -/

namespace Sys2Proof.Machine

/-! ### RD and WR at the target (R520, R521, R523) -/

/-- An access keeps within a 4 KiB page and the limit of a message (R520). -/
def Dev.dataFits (d : Dev) (a n : Nat) : Bool := decide (1 ≤ n) && n ≤ min 4096 (d.payloadMax - 64) && a % 4096 + n ≤ 4096

/-- A RD breaks its layout. -/
def Dev.rdBad (d : Dev) (b : List Byte) : Bool :=
  decide (b.length < 12) || (b.drop 12).any (· != 0) || recNum b 0 8 % 8 != 0 || recNum b 8 4 % 8 != 0 ||
  !d.dataFits (recNum b 0 8) (recNum b 8 4)

/-- A WR breaks its layout. -/
def Dev.wrBad (d : Dev) (b : List Byte) : Bool :=
  decide (b.length < 24) || recNum b 12 4 != 0 || b.length != 24 + recNum b 8 4 || !d.dataFits (recNum b 0 8) (recNum b 8 4)

/-- How a held remote request is known to a drain. -/
def remoteId (src tag : Nat) : Nat := 2 ^ 46 + src + 4096 * tag

/-- A RD of a range waits at its target: a drain holds it (R564), or the read waits at its lines (R427, R471 to R480). -/
def Dev.rdWaits (d : Dev) (a n : Nat) : Bool := d.heldRange a n || d.readWait d.fabPart a n != 0

/-- The same of a WR. -/
def Dev.wrWaits (d : Dev) (a n : Nat) : Bool := d.heldRange a n || d.writeWait d.fabPart a n != 0

/-- The request counted where a drain holds it. -/
def Dev.noteHeld (d : Dev) (src tag a n : Nat) : Dev := if d.heldRange a n then d.holdRange a n (remoteId src tag) else d

/-- A RD answered with data and marks. -/
def Dev.rdr (d : Dev) (now src tag : Nat) (bs : List Byte) (pm : Nat) : Dev :=
  d.respond src now 0x02 sOk tag (leBytes 8 pm ++ bs)

/-- What a RD's waits for an accumulator are kept under among the stalls of its core (R224); those of the host. -/
def rdStall : Nat := 7

/-- RD through a core's window (R203, R224, R440, R441): true where the read failed twice, which is answered as poisoned and ends no job
(R207, R610). -/
def Dev.rdWin (d : Dev) (now src tag c off n : Nat) (det : Det) : Dev × Bool :=
  if d.winOff c then ((d.bump .CLU_OFFACC [cluOfCore c]).rdr now src tag (List.replicate n 0) 0, false)
  else
    let r := (d.stallEnd now c rdStall).winDetect c off det
    match r.1.winRead c off n with
    | some (bs, pm) => (r.1.rdr now src tag bs (if r.2 then pm ||| 1 else pm), r.2)
    | none => (r.1.respond src now 0x02 eRange tag [], r.2)

/-- RD (R517, R523): the data is read in order of arrival; a request that a drain, a re-home or a busy accumulator holds back stays
delivered and unperformed. -/
def execRd (src tag : Nat) (body : List Byte) (det : Det) (bad : Bool) (s : State) : Out1 :=
  s.run fun m =>
    let now := m.und.now
    let a := recNum body 0 8
    let n := recNum body 8 4
    let no (st : Nat) : Mach := m.onDev fun d => (d.took (some src) 0x01 tag body).respond src now 0x02 st tag []
    if m.dev.rdBad body then m.onDev fun d => (d.took (some src) 0x01 tag body).badMsg now src 0x02 tag true
    else match m.dev.target a with
      | .ext _ _ | .clearing _ =>
        if m.dev.rdWaits a n then m.onDev fun d => d.noteHeld src tag a n
        else
          let hit := match det with | .once .canopy => true | .twice .canopy => true | _ => false
          let m := if hit then (m.canopyDetect a).1 else m
          m.onDev fun d => ((d.took (some src) 0x01 tag body).touch a n { part := m.dev.fabPart }).rdr now src tag (d.bytes a n) (d.pmOf a n)
      | .syncObj i o =>
        if n ≠ 8 then no eArg
        else if det == .twice .syncUnit && m.und.st.serves then m.faultHold 6
        else if m.dev.heldRange a n then m.onDev fun d => d.noteHeld src tag a n
        else
          let m := if bad && !m.dev.syncBroken i then m.breakSync i else m
          m.onDev fun d =>
            let d := d.took (some src) 0x01 tag body
            if d.syncBroken i then d.respond src now 0x02 eFault tag [] else d.rdr now src tag (((d.syncBytes i).drop o).take 8) 0
      | .core c off =>
        if m.dev.winBusy c off then m.onDev fun d => d.stallOn now c rdStall 2
        else if m.dev.heldRange a n then m.onDev fun d => d.noteHeld src tag a n
        else
          let r := (m.dev.took (some src) 0x01 tag body).rdWin now src tag c off n det
          let m : Mach := { m with dev := r.1 }
          if r.2 then m.countFault c else m
      | .view _ _ | .mirror _ | .status _ => no ePriv
      | .hole | .noClear | .syncHole => no eRange

/-- WR (R405, R517, R523): answered once the write has been performed. -/
def execWr (src tag : Nat) (body : List Byte) (s : State) : Out1 :=
  s.run fun m =>
    let now := m.und.now
    let a := recNum body 0 8
    let n := recNum body 8 4
    let bs := body.drop 24
    let pm := recNum body 16 8
    let done (f : Dev → Dev) (st : Nat) : Mach := m.onDev fun d => (f (d.took (some src) 0x03 tag body)).respond src now 0x04 st tag []
    if m.dev.wrBad body then m.onDev fun d => (d.took (some src) 0x03 tag body).badMsg now src 0x04 tag true
    else match m.dev.target a with
      | .ext _ _ | .clearing _ =>
        if m.dev.wrWaits a n then m.onDev fun d => d.noteHeld src tag a n
        else done (fun d => d.storePmNow a bs pm (some d.fabPart)) sOk
      | .syncObj i o =>
        if m.dev.heldRange a n then m.onDev fun d => d.noteHeld src tag a n
        else if o = 0 ∧ n = 8 then done (fun d => d.syncSet now i (BitVec.ofNat 64 (leNat bs))) sOk
        else done (fun d => d.bump .SYN_ERR [syncHome i]) sOk
      | .core c off =>
        if m.dev.winBusy c off then m
        else if m.dev.heldRange a n then m.onDev fun d => d.noteHeld src tag a n
        else if winOf off == .none then done id eRange
        else done (fun d => d.winWrite c off bs pm) sOk
      | .view _ _ | .mirror _ | .status _ => done id ePriv
      | .hole | .noClear | .syncHole => done id eRange

/-! ### AT at the target (R431, R437, R523) -/

/-- An AT breaks its layout: an RMA carries its source, no other code anything after B. -/
def atBad (b : List Byte) : Bool :=
  decide (b.length < 32) || recNum b 12 4 != 0 || b.length != 32 + (if recNum b 8 1 = 0x10 then 4 * recNum b 10 2 else 0)

/-- AT: executed at the target slice; while it waits there, behind another requester's reservation among the rest, it is held and
applied after (R426, R437, R476). -/
def execAt (src tag : Nat) (body : List Byte) (s : State) : Out1 :=
  s.runAt fun now d =>
    let o := atOp body
    let n := max o.len 1
    if atBad body then (d.took (some src) 0x05 tag body).badMsg now src 0x06 tag true
    else if d.heldRange o.addr n then d.noteHeld src tag o.addr n
    else
      let d := d.took (some src) 0x05 tag body
      if d.atWait src body != 0 then { d with held := d.held ++ [.atom src tag body] }
      else (d.serveAt now src tag body).releaseHeld now

/-! ### SYNC at the home (R402, R408) -/

/-- The fields of a SYNC message: its layout is right for an operation. -/
def syncMsgBad (op : Nat) (b : List Byte) : Bool :=
  decide (b.length < 16) || recNum b 0 1 != op || recNum b 1 3 != 0 || decide (131072 ≤ recNum b 4 4) || decide (24 < b.length) ||
  (if op < 2 then (b.drop 16).any (· != 0) else (b.drop 19).any (· != 0) || b.length < 19)

/-- The frame of the four: a held or broken message, the object's code failing as it is reached. -/
def Mach.syncMsg (m : Mach) (src tag : Nat) (body : List Byte) (op : Nat) (noresp bad : Bool) (f : Dev → Nat → Word → Dev) : Mach :=
  let now := m.und.now
  let i := recNum body 4 4
  let a := syncBase + 64 * i
  if syncMsgBad op body then m.onDev fun d => (d.took (some src) 0x12 tag body).badMsg now src 0x13 tag (!noresp)
  else if m.dev.heldRange a 64 then m.onDev fun d => d.noteHeld src tag a 64
  else
    let m := if bad && !m.dev.syncBroken i then m.breakSync i else m
    m.onDev fun d =>
      let d := d.took (some src) 0x12 tag body
      if d.syncBroken i && op != 1 then (if noresp then d else d.respond src now 0x13 eFault tag [])
      else f d i (BitVec.ofNat 64 (recNum body 8 8))

/-- ADD for another module; v before is answered unless it was posted. -/
def execSyncMsgAdd (src tag : Nat) (body : List Byte) (noresp bad : Bool) (s : State) : Out1 :=
  s.run fun m => m.syncMsg src tag body 0 noresp bad fun d i v =>
    let d1 := d.syncAdd m.und.now i v
    if noresp then d1 else d1.respond src m.und.now 0x13 sOk tag (leBytes 8 (d.syncVal i).toNat)

/-- SET for another module; it repairs a broken object (R609). -/
def execSyncMsgSet (src tag : Nat) (body : List Byte) (noresp bad : Bool) (s : State) : Out1 :=
  s.run fun m => m.syncMsg src tag body 1 noresp bad fun d i v =>
    let d1 := d.syncSet m.und.now i v
    if noresp then d1 else d1.respond src m.und.now 0x13 sOk tag (leBytes 8 (d.syncVal i).toNat)

/-- WAIT_GE for another module: its monitor is held here, and its firing is the response. -/
def execSyncMsgWaitGe (src tag : Nat) (body : List Byte) (bad : Bool) (s : State) : Out1 :=
  s.run fun m => m.syncMsg src tag body 2 false bad fun d i v => d.syncWait m.und.now ⟨i, false, v, .remote src tag, m.und.now⟩

/-- WAIT_EQ for another module. -/
def execSyncMsgWaitEq (src tag : Nat) (body : List Byte) (bad : Bool) (s : State) : Out1 :=
  s.run fun m => m.syncMsg src tag body 3 false bad fun d i v => d.syncWait m.und.now ⟨i, true, v, .remote src tag, m.und.now⟩

/-! ### Responses at the requester (R522, R523) -/

/-- A response with STATUS OK that breaks its layout (R521), by the type of its request. -/
def rspBad (mtype status : Nat) (body : List Byte) : Bool :=
  status == sOk && match mtype with
    | 0x01 => decide (body.length < 16) || body.length % 8 != 0 || decide (4104 < body.length)
    | 0x05 => body.length != 16
    | 0x12 => body.length != 8
    | _ => false

/-- The request a response answers: its tag, its message type; it is outstanding no more, and the response leaves the inbox. One that
breaks its layout is dropped and counted, and answers nothing (R521). -/
def Dev.answered (d : Dev) (mtype tag status : Nat) (body : List Byte) : Dev × Option Outst :=
  let d := d.took none (mtype + 1) tag body
  if rspBad mtype status body then (d.bump .SFX_RXBAD, none)
  else match d.net.outst.find? fun o => o.tag == tag && o.mtype == mtype with
    | some o => (d.onNet fun n => { n with outst := n.outst.filter fun x => x.tag != tag }, some o)
    | none => (d, none)

/-- The sequencer of a core still waits for a request of its running thread's job. -/
def Dev.stillWaits (d : Dev) (c : Nat) (o : Outst) : Bool := (d.core c).sq.remote.isSome && d.curJob c == o.job

/-- What is due after a response: engines go on, update parts go on. -/
def Dev.afterReply (d : Dev) (now : Nat) : Dev :=
  (d.settle now).coresAfter now

/-- The data of a remote load arrives, or its refusal (R374, R376). -/
def Dev.loadReply (d : Dev) (now c rd size : Nat) (sgn : Bool) (o : Outst) (status : Nat) (body : List Byte) : Dev :=
  if !d.stillWaits c o then d
  else
    let d := d.unstall c
    if status = sOk then d.loadDone c rd size sgn (recNum body (8 + o.op) size) (recNum body 0 8 != 0)
    else if knownStatus status = eFault then d.faultJob now o.job
    else d.exc now ⟨c, (d.core c).sq.user⟩ excLoad status

/-- A piece of a row's auxiliary state arrives; with the last one the row's update begins (R356). -/
def Dev.auxReply (d : Dev) (now id row piece status : Nat) (body : List Byte) : Dev :=
  match d.part? id with
  | none => d
  | some p =>
    if !p.inProg.contains row then d
    else if status ≠ sOk then d.partFault id row
    else
      let mark := if recNum body 0 8 = 0 then [] else [(id, row, auxMark, [])]
      let d := d.onTabs fun x => { x with auxIn := x.auxIn ++ [(id, row, piece, body.drop 8)] ++ mark }
      let have_ := (d.tabs.auxIn.filter fun a => a.1 == id && a.2.1 == row && a.2.2.1 != auxMark).length
      if have_ = (d.auxPieces p.target row).length then d.partRow now p row else d

/-- RDR (R523). -/
def execRdr (tag status : Nat) (body : List Byte) (s : State) : Out1 :=
  s.runAt fun now d =>
    let r := d.answered 0x01 tag status body
    match r.2 with
    | none => r.1
    | some o =>
      (match o.who with
      | .load c rd size sgn => r.1.loadReply now c rd size sgn o status body
      | .streamLoad c se _ id =>
        match r.1.xfer? c se id with
        | none => r.1
        | some x =>
          if status ≠ sOk then (r.1.dropXfer c se id).badReply now o.job status
          else if (r.1.ring c se).mode = 0 || x.slot = 16 then r.1.dropXfer c se id
          else r.1.remoteArrives now c se x (body.drop 8) (recNum body 0 8 != 0)
      | .partRd id row piece => r.1.auxReply now id row piece status body
      | .gmHdr c i => r.1.gmReply now c i status body
      | _ => r.1).afterReply now

/-- WRA (R296, R444, R517). -/
def execWra (tag status : Nat) (s : State) : Out1 :=
  s.runAt fun now d =>
    let r := d.answered 0x03 tag status []
    match r.2 with
    | none => r.1
    | some o =>
      (match o.who with
      | .store _ => if status = sOk then r.1 else r.1.badReply now o.job status
      | .streamStore c se id =>
        match r.1.xfer? c se id with
        | none => r.1
        | some x =>
          if status ≠ sOk then (r.1.dropXfer c se id).badReply now o.job status
          else if r.1.net.outst.any fun q => q.who == o.who then r.1
          else r.1.storeDone c se x
      | .partWr id => r.1.modPart id fun q => { q with outWr := q.outWr - 1, fault := q.fault || status != sOk }
      | .moveWr id =>
        match r.1.move? id with
        | some v => if status = sOk then r.1 else r.1.abortMove now v
        | none => r.1
      | _ => r.1).afterReply now

/-- ATR (R436 to R438, R517). -/
def execAtr (tag status : Nat) (body : List Byte) (s : State) : Out1 :=
  s.runAt fun now d =>
    let r := d.answered 0x05 tag status body
    let old := recNum body 0 8
    let poison := recNum body 8 8 != 0
    match r.2 with
    | none => r.1
    | some o =>
      let met (d : Dev) (c : Nat) : Dev := if poison then (match o.job with | some j => d.poisonIn c j | none => d) else d
      let stop (d : Dev) (c cause : Nat) : Dev :=
        if knownStatus status = eFault then d.faultJob now o.job else d.exc now ⟨c, (d.core c).sq.user⟩ cause status
      (match o.who with
      | .amo c rd size =>
        if !r.1.stillWaits c o then r.1
        else
          let d := r.1.unstall c
          if status ≠ sOk then stop d c (if o.op = 0x11 then excLoad else excStore)
          else (met d c).setX c rd (BitVec.ofInt 64 (sext (8 * size) old))
      | .sc c rd =>
        if !r.1.stillWaits c o then r.1
        else
          let d := r.1.unstall c
          if status ≠ sOk then stop d c excStore else d.setX c rd (BitVec.ofNat 64 old)
      | .atom c =>
        let d := r.1.atomOver c
        let live := match o.job with | some j => (d.job j).live && (d.job j).ending.isNone | none => false
        if !live then d
        else if status ≠ sOk then d.badReply now o.job status
        else (met d c).modSq c fun s => { s with atomRes := BitVec.ofNat 64 old }
      | _ => r.1).afterReply now

/-- SYNCR (R408): a value for the sequencer, or the token of a WAIT. -/
def execSyncr (tag status : Nat) (body : List Byte) (s : State) : Out1 :=
  s.runAt fun now d =>
    let r := d.answered 0x12 tag status body
    let v : Word := BitVec.ofNat 64 (recNum body 0 8)
    match r.2 with
    | none => r.1
    | some o =>
      (match o.who with
      | .sync c rd =>
        if !r.1.stillWaits c o then r.1
        else if status = sOk then (r.1.unstall c).setX c rd v
        else (r.1.unstall c).badReply now o.job status
      | .wait h k =>
        if status = sOk then (r.1.token now h k v true).wakeWire (cluOf h) 1 false else r.1.badReply now o.job status
      | .streamWait c se =>
        if (r.1.ring c se).mode = 0 then r.1
        else if status = sOk then r.1.modCore c fun k => k.streamToken se
        else r.1.badReply now o.job status
      | _ => r.1).afterReply now

/-- ANSWER (R114, R521): the spec gives this module no unit that asks queries, so a well-formed answer ends its journey here. -/
def execAnswer (src tag : Nat) (body : List Byte) (s : State) : Out1 :=
  s.runDev fun d =>
    let d := d.took (some src) 0x15 tag body
    if body.length < 32 ∨ body.length ≠ 32 + 8 * recNum body 12 1 then d.bump .SFX_RXBAD
    else d.onNet fun n => { n with
      outst := n.outst.filter fun o => !(o.tag == tag && o.dst == src && match o.who with | .query _ => true | _ => false) }

end Sys2Proof.Machine
end

