-- ==== Sys2Proof/Machine/Discovery.lean ====
section
/-! DEFINITION. Hellos, module IDs, the directory and the routes it makes (spec/15 R527 to R530). -/

namespace Sys2Proof.Machine

/-- The payload of a HELLO or ASSIGN (R527). -/
structure Hello where
  kind : Nat
  flags : Nat
  module : Nat
  port : Nat
  sub : Nat
  ident : Nat
  mac : Nat
  deriving DecidableEq, Repr, Inhabited

/-- A MAC address is carried first byte first. -/
def Hello.bytes (h : Hello) : List Byte :=
  leBytes 1 h.kind ++ leBytes 1 h.flags ++ leBytes 2 h.module ++ leBytes 1 h.port ++ leBytes 1 h.sub ++ leBytes 2 0 ++
  leBytes 8 h.ident ++ beBytes 6 h.mac ++ leBytes 10 0

def Hello.of (b : List Byte) : Hello :=
  ⟨recNum b 0 1, recNum b 1 1, recNum b 2 2, recNum b 4 1, recNum b 5 1, recNum b 8 8, beNat ((b.drop 16).take 6)⟩

/-- A HELLO or ASSIGN breaks its layout. -/
def helloBad (kind : Nat) (b : List Byte) : Bool :=
  let h := Hello.of b
  b.length != 32 || h.kind != kind || decide (4 ≤ h.flags) || decide (4096 ≤ h.module) || decide (36 ≤ h.port) || decide (4 ≤ h.sub) ||
  recNum b 6 2 != 0 || recNum b 22 10 != 0

def Dev.isMgr (d : Dev) : Bool := d.cfgF .SFX_DOM [] 16 1 == 1
def Dev.ident (d : Dev) : Nat := d.rd .SFX_IDENT

/-- A packet of type HELLO that carries a payload (R506, R527). -/
def Dev.helloPkt (d : Dev) (h : Hello) : List Byte :=
  packetBytes 3 d.ownId 0xFFF 0 0 d.net.inc 0 0 (d.cfgF .SFX_DOM [] 0 16) h.bytes

/-- A Salrex datagram to an address that has no route entry yet: sent when its next hop is known, which is asked for otherwise
(R500, R501, R504). -/
def Dev.sendTo (d : Dev) (n s : Nat) (v6 : Bool) (dst e : Nat) (bytes : List Byte) : Dev :=
  match d.nextHop n v6 dst with
  | none => d
  | some (a, hop) =>
    if d.resolved n v6 hop then d.sendFrame n s (d.dscpPrio (d.cfgF .SFX_CFG [] 16 6)) (d.salrexDgram n s a hop dst e bytes)
    else d.askNbr n s a hop

/-! ### The directory (R529, R530) -/

/-- The 32 bytes of a directory entry. -/
def DirEnt.bytes (e : DirEnt) : List Byte :=
  leBytes 2 e.module ++ leBytes 1 (if e.v6 then 1 else 0) ++ leBytes 5 0 ++ leBytes 8 e.ident ++ leBytes 16 e.addr

/-- An entry in place of the one its module has, and the module's route rebuilt. -/
def Dev.setDir (d : Dev) (e : DirEnt) : Dev :=
  let d := d.onNet fun n => { n with dir := (n.dir.filter fun x => x.module != e.module) ++ [e] }
  if d.isOwn e.module then d else d.rebuildRoute e.module

/-- An entry gone. -/
def Dev.delDir (d : Dev) (k : Nat) : Dev :=
  let d := d.onNet fun n => { n with dir := n.dir.filter fun x => x.module != k }
  if d.isOwn k then d else d.rebuildRoute k

/-- DIRECT messages that carry entries to a module. -/
def Dev.sendDir (d : Dev) (now k : Nat) (es : List DirEnt) : Dev :=
  let n := min 255 ((d.payloadMax - 24) / 32)
  match d.routeCheck k with
  | .send =>
    (List.range (ceilDiv es.length (max 1 n))).foldl (fun d i =>
      let c := (es.drop (i * n)).take n
      d.post k now 0x22 0 (leBytes 2 c.length ++ leBytes 6 0 ++ c.flatMap DirEnt.bytes)) d
  | _ => d

/-- DIRECT (R529): entries of its list replace or delete those of their modules. -/
def execDirect (src : Nat) (body : List Byte) (s : State) : Out1 :=
  s.runDev fun d =>
    let d := d.took (some src) 0x22 0 body
    let n := recNum body 0 2
    let ent (i : Nat) : List Byte := (body.drop (8 + 32 * i)).take 32
    let bad (b : List Byte) : Bool := decide (4096 ≤ recNum b 0 2) || decide (4 ≤ recNum b 2 1) || recNum b 3 5 != 0
    if n = 0 ∨ 255 < n ∨ body.length ≠ 8 + 32 * n ∨ recNum body 2 6 ≠ 0 ∨ (List.range n).any (fun i => bad (ent i)) then d.bump .SFX_RXBAD
    else (List.range n).foldl (fun d i =>
      let b := ent i
      let k := recNum b 0 2
      if bitAt (recNum b 2 1) 1 then d.delDir k else d.setDir ⟨k, bitAt (recNum b 2 1) 0, recNum b 8 8, recNum b 16 16⟩) d

/-! ### The manager (R528) -/

/-- The IDs the manager has given, its own among them. -/
def Dev.idsGiven (d : Dev) : List (Nat × Nat) :=
  d.net.given ++ match d.net.id with | some k => [(d.ident, k)] | none => []

/-- The IDs that the ID table reserves. -/
def Dev.idsListed (d : Dev) : List Nat :=
  let a := d.cfgF .SFX_IDTAB [] 0 32 * 4096
  (List.range (d.cfgF .SFX_IDTAB [] 32 12)).map fun i => d.num (a + 16 * i + 8) 2 % 4096

/-- The ID of an identity that reports `rep`, 0xFFF for none: by the rules of R528, or a conflict; none when no ID is left. -/
inductive IdRes where
  | id (k : Nat) | conflict | full
  deriving DecidableEq, Repr, Inhabited

def Dev.idFor (d : Dev) (ident rep : Nat) : IdRes :=
  let g := d.idsGiven
  if rep ≠ 0xFFF then (if g.any fun p => p.2 == rep && p.1 != ident then .conflict else .id rep)
  else match d.idListed ident with
    | some k => .id k
    | none => match g.find? fun p => p.1 == ident with
      | some p => .id p.2
      | none => match (List.range 0xFFF).find? fun k => !(g.any fun p => p.2 == k) && !(d.idsListed.contains k) with
        | some k => .id k
        | none => .full

/-- An ASSIGN sent back where a HELLO came from (R528). -/
def Dev.sendAssign (d : Dev) (x : Rx) (ident k : Nat) : Dev :=
  let b := d.helloPkt ⟨1, 1, k, x.port, x.sub, ident, d.macOf x.port x.sub⟩
  if x.native then d.sendFrame x.port 0 0 (.frame x.port 0 (d.port x.port).nbrMac etSalrex none b)
  else d.sendTo x.port x.sub x.v6 x.src 0 b

/-- The manager's own entry: its ID, its identity, the address it is known under (DESIGN CHOICE). -/
def Dev.ownEnt (d : Dev) : List DirEnt :=
  match d.net.id with
  | some k => [⟨k, d.cfgF .SFX_DOM [] 17 1 == 1, d.ident, d.cfg .SFX_MGRL + d.cfg .SFX_MGRH * 2 ^ 64⟩]
  | none => []

/-- What the manager does with a HELLO (R528, R529). -/
def Dev.manage (d : Dev) (now : Nat) (x : Rx) (h : Hello) (sender : Nat) : Dev :=
  match d.idFor h.ident h.module with
  | .full => d
  | .conflict =>
    let d := delIdent (d.bump .SFX_IDCONF) h.ident
    if sender = 0xFFF then d.sendAssign x h.ident 0xFFF else d
  | .id k =>
    let d := d.onNet fun n => { n with given := (n.given.filter fun p => p.1 != h.ident) ++ [(h.ident, k)] }
    let old := d.net.dir.find? fun e => e.module == k && e.ident == h.ident
    let new : DirEnt := match x.native, old with
      | true, some e => e
      | true, none => ⟨k, false, h.ident, 0⟩
      | false, _ => ⟨k, x.v6, h.ident, x.src⟩
    let fresh := old != some new
    let d := if sender = 0xFFF then d.sendAssign x h.ident k else d
    let d := if x.native then d.modPort x.port (fun p => { p with nbr := k }) else d
    if !fresh && sender ≠ 0xFFF then d
    else
      let d := d.setDir new
      let others := (d.net.dir.map (·.module)).filter fun j => j != k && !d.isOwn j
      let d := others.foldl (fun d j => d.sendDir now j [new]) d
      d.sendDir now k (d.ownEnt ++ d.net.dir)
where
  /-- A claimant in conflict is left out of the directory. -/
  delIdent (d : Dev) (ident : Nat) : Dev := d.onNet fun n => { n with dir := n.dir.filter fun e => e.ident != ident }

/-! ### HELLO and ASSIGN received -/

/-- The incarnation that a HELLO or ASSIGN announces for a module (R532). -/
def Dev.announced (d : Dev) (now k sinc : Nat) : Dev :=
  if k = 0xFFF ∨ d.isOwn k then d
  else match (d.peer k).st with
    | .unknown => d.setRoute k { d.route k with inc := sinc }
    | _ => (d.meetPeer now k sinc).1

/-- The neighbour of a native port is the sender of its latest HELLO (R530). -/
def Dev.neighbour (d : Dev) (x : Rx) (h : Hello) : Dev :=
  if x.native then
    let old := (d.port x.port).nbr
    let d := d.modPort x.port fun q => { q with nbr := h.module, nbrMac := h.mac }
    let d := if old = h.module ∨ d.isOwn old then d else d.rebuildRoute old
    if h.module = 0xFFF ∨ d.isOwn h.module then d else d.rebuildRoute h.module
  else d

/-- A HELLO claims an ID that this manager holds for another identity (R528). -/
def Dev.idClash (d : Dev) (h : Hello) : Bool :=
  d.isMgr && h.ident != d.ident && h.module != 0xFFF && d.idsGiven.any fun p => p.2 == h.module && p.1 != h.ident

/-- HELLO: a native neighbour's entry follows (R530); at the manager, the sender gets an ID (R528), and a conflict is recorded (R627). -/
def execHello (x : Rx) (s : State) : Out1 :=
  s.run fun m =>
    let now := m.und.now
    let b := x.bytes.drop 32
    let h := Hello.of b
    let n := m.onDev fun d => d.packetRx 3 x fun d p =>
      if helloBad 0 b then d.bump .SFX_RXBAD
      else
        let d := (d.neighbour x h).announced now h.module p.sinc
        if d.isMgr && h.ident != d.ident then d.manage now x h p.src else d
    if m.dev.rxHere x && (m.dev.rxFrame x).2 && !(m.dev.rxFrame x).1.pktBad 3 x.bytes && !helloBad 0 b && m.dev.idClash h then
      n.event 0x0403 1 (evUnit 8 h.module) h.ident
    else n

/-- ASSIGN from the manager gives the identity it addresses its ID, until the next reset; 0xFFF refuses one (R528). -/
def execAssign (x : Rx) (s : State) : Out1 :=
  s.runThen fun m =>
    let now := m.und.now
    m.onDev fun d => d.packetRx 3 x fun d p =>
      let b := x.bytes.drop 32
      let h := Hello.of b
      if helloBad 1 b then d.bump .SFX_RXBAD
      else
        let d := d.announced now p.src p.sinc
        if bitAt h.flags 0 && h.ident == d.ident && d.net.id.isNone && h.module != 0xFFF then
          d.onNet fun n => { n with id := some h.module, helloN := 0 }
        else d

/-! ### Hellos sent (R527) -/

/-- MGR and STATIC of this module's HELLOs (R527). -/
def Dev.helloFlags (d : Dev) : Nat := (if d.isMgr then 1 else 0) + if d.cfgF .SFX_DOM [] 18 1 = 1 then 2 else 0

/-- This module's HELLO on a sub-port. -/
def Dev.helloOn (d : Dev) (fl n s : Nat) : List Byte := d.helloPkt ⟨0, fl, d.ownId, n, s, d.ident, d.macOf n s⟩

/-- A HELLO on every native port with link. -/
def Dev.hellosNative (d : Dev) (fl : Nat) : Dev :=
  (List.range 36).foldl (fun d n =>
    if d.nativeUp n then d.sendFrame n 0 0 (.frame n 0 (2 ^ 48 - 1) etSalrex none (d.helloOn fl n 0)) else d) d

/-- A HELLO to the manager on every Ethernet-mode path. -/
def Dev.hellosMgr (d : Dev) (fl : Nat) : Dev :=
  let dst := d.cfg .SFX_MGRL + d.cfg .SFX_MGRH * 2 ^ 64
  let v6 := d.cfgF .SFX_DOM [] 17 1 == 1
  (List.range 36).foldl (fun d n =>
    (List.range 4).foldl (fun d s =>
      if d.ethUp n s then
        (List.range (d.cfgF .SFX_CFG [] 24 6 + 1)).foldl (fun d e => d.sendTo n s v6 dst e (d.helloOn fl n s)) d
      else d) d) d

/-- HELLO_MS passes: a HELLO on every native port with link; to the manager on every Ethernet-mode path while the module has no ID,
and at every hundredth hello after; a manager sends none there. -/
def execHelloTimer (s : State) : Out1 :=
  s.run fun m =>
    if !m.und.st.serves then m
    else
      let m := m.atTime (m.dev.net.helloAt + m.dev.cfgF .SFX_TMO [] 48 16 * msT)
      m.onDev fun d =>
        let fl := d.helloFlags
        let d := d.onNet fun n => { n with helloAt := m.und.now, helloN := n.helloN + 1 }
        let e := d.hellosNative fl
        if d.isMgr || (d.net.id.isSome && d.net.helloN % 100 != 0) then e else e.hellosMgr fl

end Sys2Proof.Machine
end

