-- ==== Sys2Proof/Machine/ExtMem.lean ====
section
/-! DEFINITION. The re-home of a Canopy side, and the memory controllers: reads issued, regulated and decoded, temperatures, error
windows, units leaving (spec/13 R426, spec/14 R472 to R488, spec/18 R617 to R622). -/

namespace Sys2Proof.Machine

/-- What was held back or waited goes on as far as it may: writes and atomics at their slices, then the table units (R426, R437, R476);
parity errors found on the way are reported (R430, R450). -/
def Mach.goOn (m : Mach) : Mach := (m.onDev fun d => ((d.releaseHeld m.und.now).settle m.und.now).coresAfter m.und.now)

/-- A side's re-home finishes: counted, the longest one in CAN_REHOME (R426). The requests that it held go on as the
10 ns in progress end (DESIGN CHOICE, log 9). -/
def execRehomeComplete (side : Nat) (s : State) : Out1 :=
  s.run fun m =>
    match (if side = 0 then m.dev.canopy.rehome0 else if side = 1 then m.dev.canopy.rehome1 else none) with
    | none => m
    | some t =>
      let us := (m.und.now - t) / usT
      (m.onDev fun d =>
        let d := d.bump .CAN_REHOME []
        let d := if bitsOf (d.rd .CAN_REHOME) 32 32 < us then d.wr .CAN_REHOME [] (setBits (d.rd .CAN_REHOME) 32 32 us) else d
        { d with canopy := if side = 0 then { d.canopy with rehome0 := none } else { d.canopy with rehome1 := none } })

/-! ### Reads at the controllers (R471 to R473, R476, R480, R484) -/

/-- The data of the reads issued at a unit that only their decoding concerns returns: each is decoded, and its miss register is free. -/
def Mach.returnReads (m : Mach) (u : Nat) : Mach :=
  ((m.dev.memPlace u).miss.filter (·.by_ == .plain)).foldl (fun m q =>
    let m := m.onDev fun d =>
      let x := d.memPlace u
      d.setPlace u { x with miss := x.miss.filter fun r => r.id != q.id }
    m.decodeAt u q.cell q.dla q.res) m

/-- A unit issues what waits, as far as it may, and reads return, until nothing more can issue. -/
def Mach.pumpReads (m : Mach) (u : Nat) : Nat → Mach
  | 0 => m
  | n + 1 => ((m.onDev fun d => d.pumpUnit u).returnReads u).pumpReads u n

def Mach.unitIssues (m : Mach) (u : Nat) : Mach := m.pumpReads u ((m.dev.memPlace u).reqs.length + 1)

/-- A read of a granule at its controller: it returns, decoded, or waits for its partition's cap, a miss register, its bank's quota or its
stack's temperature. `res` is what the decoding finds (`Decoded`). The read returns in the
step in which it issues, or where a gather's return lets it issue, at the next command that looks at its unit (DESIGN CHOICE, log 90). -/
def execMemReadDecode (dla res part : Nat) (s : State) : Out1 :=
  s.run fun m =>
    if !m.und.st.serves || 16 ≤ part then m
    else match m.dev.target dla with
      | .ext u b =>
        (m.onDev fun d => d.queueReq m.und.now u { dla := dla, cell := b, res := res, part := part, bytes := 64 }).unitIssues u
      | _ => m

/-- Every 10 ns the buckets of every partition gain their shares, up to the burst (R476); what waited may then issue. -/
def Dev.refillPlace (d : Dev) (p : Nat) : Dev :=
  let x := d.memPlace p
  let f (lo : Nat) (b : SMap Int) : SMap Int := (List.range 16).foldl (fun b i =>
    SMap.mod 0 b i fun v => min (v + ((d.cfgF .MEM_PART [i] lo 9 * placeRate p : Nat) : Int)) ((65536 * d.cfgF .MEM_PART [i] 18 8 : Nat) : Int)) b
  d.setPlace p { x with guar := f 0 x.guar, cap := f 9 x.cap }

/-- The places with regulators: present stacks, packages and slices (R475). -/
def Dev.places (d : Dev) : List Nat :=
  (List.range 40).filter d.unitHere ++ (bitList 64 d.pres.slices).map (64 + ·)

/-- A stream transfer or a version word's read of a partition waits for its cap. -/
def Dev.engineCapWaits (d : Dev) (part : Nat) : Bool :=
  (d.cores.any fun p => [0, 1].any fun s => (d.se p.1 s).xfers.any fun x => (x.ph == 0 || x.ph == 2) && (d.remoteOf x.addr).isNone &&
    d.jobPart (d.ring p.1 s).job == part && [1, 2].contains (d.xferWait p.1 s x)) ||
  d.tabs.readers.any fun r => d.readerPart r == part && (r.st == .ver1 || r.st == .ver2) &&
    r.rows.any fun q => [1, 2].contains (d.readWait part q.verAt 8)

/-- What the 10 ns that end here add to the wait counters: one for each partition of which a request waits at a cap (R477), and for a
unit at which one waits for its bank the controller's clock cycles, a free number, since no rule gives that clock (R472, log 90). -/
def Dev.countWaits (d : Dev) : Dev :=
  let d := ((List.range 16).filter fun p => (List.range 40).any (fun u => d.capWaits u p) || d.engineCapWaits p).foldl
    (fun d p => d.bump .MEM_PCAPW [p]) d
  ((List.range 40).filter d.bankWaits).foldl (fun d u =>
    (if u < 8 then d.bump .HBM_BANKQ [u] (Config.freeNat d.fresh) else d.bump .LPD_BANKQ [u - 8] (Config.freeNat d.fresh)).useFree 1) d

/-- 10 ns pass: the waits are counted, every bucket gains its share (R476), and what waited goes on. -/
def execRegulatorRefill (s : State) : Out1 :=
  s.run fun m =>
    if !m.und.st.serves then m
    else
      let m := m.atTime (roundUp m.und.now (10 * nsT))
      let m := m.onDev fun d => (d.places.foldl Dev.refillPlace d.countWaits).onExt fun e => { e with clock := m.und.now }
      (((List.range 40).filter m.dev.unitHere).foldl Mach.unitIssues m).goOn.flushReports

/-- A request has waited 4 µs at a unit (R473). -/
def execRequestAgeLimit (u id : Nat) (s : State) : Out1 :=
  s.run fun m =>
    match (m.dev.memPlace u).reqs.find? fun q => q.id == id with
    | none => m
    | some q =>
      let m := m.atTime (q.at_ + 4 * usT)
      (m.onDev fun d =>
        let x := d.memPlace u
        d.setPlace u { x with reqs := x.reqs.map fun r => if r.id = id then { r with aged := true } else r }).unitIssues u

/-! ### Temperatures (R479 to R481) -/

/-- The temperature at which a level is entered, and the one below which it is left (R479). -/
def levelIn (thr l : Nat) : Nat := if l = 4 then 105 else thr + 2 * (l - 1)
def levelOut (thr l : Nat) : Nat := if l = 4 then 103 else thr + 2 * (l - 1) - 1

/-- The level after a reading. -/
def levelDown (thr t : Nat) : Nat → Nat
  | 0 => 0
  | l + 1 => if t < levelOut thr (l + 1) then levelDown thr t l else l + 1
def nextLevel (thr t l : Nat) : Nat :=
  let up := ([1, 2, 3, 4].filter fun k => levelIn thr k ≤ t).foldl max 0
  if l < up then up else levelDown thr t l

/-- A stack controller reads its stack's temperature every 32 µs. -/
def execHbmTempRead (k temp : Nat) (s : State) : Out1 :=
  s.run fun m =>
    if !m.und.st.serves || 8 ≤ k || !bitAt m.dev.pres.hbms k then m
    else
      let m := m.atTime (roundUp m.und.now (32 * usT))
      let x : MUnit := SMap.get {} m.dev.ext.units k
      let l := nextLevel (m.dev.cfgF .HBM_THR [k] 0 8) temp x.level
      let m := m.onDev fun d => d.onExt fun e => { e with units := e.units.put {} k { x with temp := temp, level := l } }
      let m := if l = x.level then m
        else (m.onDev fun d => d.bump .HBM_TSTEP [k]).event 0x0104 1 (evUnit 4 k) (l + x.level * 2 ^ 8 + temp % 256 * 2 ^ 16)
      m.unitIssues k

/-- A package controller reads its package's temperature every 32 µs; the refresh rate follows it. -/
def execLpdTempRead (p temp : Nat) (s : State) : Out1 :=
  s.run fun m =>
    if !m.und.st.serves || 32 ≤ p || !bitAt m.dev.pres.lpds p then m
    else (m.atTime (roundUp m.und.now (32 * usT))).onDev fun d =>
      d.onExt fun e => { e with units := e.units.mod {} (8 + p) fun x => { x with temp := temp } }

/-! ### Error windows and units that leave (R485 to R487, R620, R622) -/

/-- A channel's window of WIN_MS ends: its counts start afresh; one that has qualified stays so. -/
def execErrorWindowEnd (c : Nat) (s : State) : Out1 :=
  s.run fun m =>
    if !m.und.st.serves || 384 ≤ c then m
    else
      let x : Chan := SMap.get {} m.dev.ext.chans c
      let m := m.atTime (x.at_ + m.dev.cfgF .MEM_ERRCFG [] 20 12 * msT)
      m.onDev fun d => d.onExt fun e => { e with chans := e.chans.put {} c { x with ce := 0, ue := 0, at_ := m.und.now } }

/-- The areas that R590 checks strictly, with the register that names each. -/
def Dev.strictAreas (d : Dev) : List (Nat × Nat × Nat) :=
  let k : Chk := Chk.mk d.conf d d false none 0
  let gar := d.cfgF .UPD_GAREA [] 32 10 * 2 ^ 20
  [(Reg.off .CXL_CMDBASE [], d.cfgF .CXL_CMDBASE [] 0 24 * 2 ^ 20, 2 ^ 20), (Reg.off .SFX_RT [], d.cfgF .SFX_RT [] 0 32 * 4096, 0x20000),
   (Reg.off .TBL_RHT [], d.rhtBase, (d.shardCap + d.rowCap) * 64 + d.shardCap * 32), (Reg.off .TBL_HOT [], d.hotBase, d.hotLen),
   (Reg.off .UPD_GAREA [], d.cfgF .UPD_GAREA [] 0 32 * 4096, gar), (Reg.off .QFE_RASM [0], (k.rasm 0).1, (k.rasm 0).2),
   (Reg.off .QFE_RASM [1], (k.rasm 1).1, (k.rasm 1).2),
   (Reg.off .UND_PROGSTORE [], d.cfgF .UND_PROGSTORE [] 0 24 * 2 ^ 20, d.cfgF .UND_PROGSTORE [] 24 16 * 2 ^ 20)]

/-- The first of them that a leaving unit leaves without some part of its memory. -/
def Dev.lostArea (d : Dev) : Option Nat := (d.strictAreas.find? fun a => a.2.2 != 0 && !d.rangeOk a.2.1 a.2.2).map (·.1)

/-- What a leaving unit's loss means for the module (R622). -/
def Mach.lossHold (m : Mach) (area : Option Nat) : Mach :=
  if !m.und.st.serves then m
  else if m.dev.pres.hbms = 0 then m.faultHold 9
  else match area with
    | some o => (({ m with und := { m.und with cfgFailAt := o, cfgFailKind := 1 } } : Mach)).faultHold 8
    | none => m

/-- What was asked of a leaving unit before completes as it would (R487 step 2): reads that only their decoding concerns are decoded, rows
and version words in flight return. -/
def Mach.lastReads (m : Mach) (u : Nat) : Mach :=
  let x := m.dev.memPlace u
  let m := ((x.miss ++ x.reqs).filter (·.by_ == .plain)).foldl (fun m q => m.decodeAt u q.cell q.dla q.res) m
  let at_ (a : Nat) : Bool := unitOf (m.dev.cell a) == some u
  m.onDev fun d => (d.tabs.readers.filter fun r => r.st == .flight && r.rows.any fun q => at_ q.rowAt).foldl
    (fun d r => d.dataReturn m.und.now r) d

/-- A leaving unit's issued requests have completed: its lines are discarded, its presence ends, the map-out is recorded. -/
def execUnitMapoutComplete (u : Nat) (s : State) : Out1 :=
  s.run fun m =>
    if 40 ≤ u || !(SMap.get {} m.dev.ext.units u).leaving then m
    else
      let area := m.dev.lostArea
      let m := m.lastReads u
      let m := m.onDev fun d =>
        let d := d.discardLines fun b => unitOf b == some u
        let d := d.setPlace u {}
        d.onExt fun e => { e with units := e.units.del u }
      let m := m.leaveUnits (if u < 8 then { hbms := 2 ^ u } else { lpds := 2 ^ (u - 8) })
      let m := m.event 0x0103 1 (if u < 8 then evUnit 4 u else evUnit 5 (u - 8)) (if u < 8 then 24 else 32)
      m.lossHold area

end Sys2Proof.Machine
end

