-- ==== Sys2Proof/Machine/Faults.lean ====
section
/-! DEFINITION. The patrol scrubber, the kernel watchdog, the age of remote monitors, fault windows and the map-out record
(spec/18 R613 to R620). -/

namespace Sys2Proof.Machine

/-! ### The patrol scrubber (R613) -/

/-- The ranges the scrubber passes over, in address order: present stacks, packages and Clearings, as (first DLA, length). -/
def Dev.scrubAreas (d : Dev) : List (Nat × Nat) :=
  ((List.range 40).filter d.unitHere).map (fun u => (unitBase u, unitSize u)) ++
  ((List.range 64).filter d.isClearing).map fun k => (clearBase + k * sliceSize, sliceSize)

/-- The granule that a pass reads next: the first present one at or after a place, else the first of all. -/
def Dev.scrubNext (d : Dev) (a : Nat) : Option Nat :=
  match d.scrubAreas.find? fun p => a < p.1 + p.2 with
  | some p => some (max a p.1)
  | none => (d.scrubAreas.head?).map (·.1)

/-- A Canopy line passed by the scrubber: its parity by R430, and a dirty line is written back and left valid and clean. -/
def Mach.scrubLine (m : Mach) (det : Det) (a b : Nat) : Mach :=
  let m := match det with
    | .once .canopy | .twice .canopy => (m.canopyDetect a).1
    | _ => m
  let l := SMap.get {} m.dev.canopy.lines (b / 128)
  if l.here && l.dirty then
    m.onDev fun d =>
      let d := d.wbLine b .none
      { d with canopy := { d.canopy with lines := d.canopy.lines.put {} (b / 128) ⟨true, false, 0⟩ } }
  else m

/-- The scrubber's read of a granule waits: for its side, the slice port of a Clearing, or its controller (R426, R476, R480). -/
def Dev.scrubWaits (d : Dev) (a : Nat) : Bool :=
  d.sideHeld a || match d.target a with
    | .clearing _ => d.readWait d.maintPart a 1 != 0
    | .ext u b => d.ctlWait u b d.maintPart != 0
    | _ => false

/-- The scrubber reads the next granule once that does not wait, and with the first granule of a line the Canopy line over it; `res` is
what the memory's decoding finds. An uncorrectable error of the Understory's SRAM or fuses is met here, from BOOT on (R622, R623). -/
def execPatrolScrubRead (res : Nat) (det : Det) (s : State) : Out1 :=
  s.run fun m =>
    if det == .twice .understory && m.und.st != .off && m.und.st != .understory && m.und.st != .faultHold then m.faultHold 7
    else if !m.und.st.serves || m.dev.cfgF .UND_SCRUB [] 0 8 == 0 then m
    else match m.dev.scrubNext m.dev.tel.scrubAt with
      | none => m
      | some a => if m.dev.scrubWaits a then m else
        let m := m.onDev fun d => d.onTel fun t => { t with scrubAt := a + 64 }
        match m.dev.target a with
        | .clearing _ =>
          match det with
          | .once .canopy | .twice .canopy => (m.canopyDetect a).1
          | _ => m
        | .ext u b =>
          let m := if a % 128 = 0 then m.scrubLine det a b else m
          (m.onDev fun d => d.memBytes u d.maintPart 64).decodeAt u b a res
        | _ => m

/-! ### Watchdogs (R615, R616) -/

/-- The job that a core's kernel watchdog ends: of the thread it runs, or ran last. -/
def Dev.lastJob (d : Dev) (c : Nat) : Option Nat :=
  match d.curJob c with | some j => some j | none => (d.core c).sq.ran

/-- A sequencer started again at Copse's entry point, with its NX.FNEXT under way; the CTX goes to x0 (DESIGN CHOICE). -/
def Dev.restartSeq (d : Dev) (now c : Nat) : Dev :=
  let d := (d.leaveCore now c).modSq c fun s =>
    { s.gate now 0 with user := false, mcause := 0, stall := none, remote := none, resv := none, ibuf := false, mAt := now }
  if (d.core c).sq.loc.isSome then (d.fnextTake now c 0).schedule now (cluOfCore c) else d.schedule now (cluOfCore c)

/-- A sequencer has stayed in M for KWDOG_MS without NX.FNEXT: it is reset, and what its core counts (R612, R615). -/
def execKernelWatchdogExpire (c : Nat) (s : State) : Out1 :=
  s.run fun m =>
    let q := (m.dev.core c).sq
    if !m.dev.coreHere c || (m.dev.clu (cluOfCore c)).pst != 0 || q.user || q.gated.isSome then m
    else
      let m := m.atTime (q.mAt + m.dev.cfgF .UND_FLTCFG [] 40 8 * msT)
      let now := m.und.now
      let j := m.dev.lastJob c
      let m := m.onDev fun d =>
        let d := (d.modSq c fun s => { s with mb := [] }).l1Clear c
        let d := match j with | some j => d.endJob now j .watchdog | none => d
        d.bump .CORE_KWDOG [c]
      let m := (m.event 0x0304 2 (evUnit 1 c) (j.getD 0 % 4096)).onDev fun d => d.restartSeq now c
      m.countFault c

/-- A monitor that sync unit `n` holds for another module. -/
def Mon.farAt (n : Nat) (o : Mon) : Bool := syncHome o.obj == n && match o.dst with | .remote _ _ => true | _ => false

/-- The oldest monitor that a sync unit holds for another module has been armed for RMON_S seconds: it is freed without a token;
WAITs that found no free monitor get it at their next try. -/
def execRemoteMonitorAge (n : Nat) (s : State) : Out1 :=
  s.run fun m =>
    match m.dev.sync.mons.findIdx? (Mon.farAt n) with
    | none => m
    | some i =>
      let at_ := ((m.dev.sync.mons[i]?).map (·.at_)).getD 0
      let m := m.atTime (at_ + m.dev.cfgF .UND_FLTCFG [] 48 16 * 1000 * msT)
      m.onDev fun d => (d.onSync fun s => { s with mons := s.mons.eraseIdx i }).bump .SFX_MONFREE

/-! ### Windows and the map-out record (R617, R620) -/

/-- A window of WIN_S seconds ends: the faults of a core, or of slice k as 256 + k, are counted afresh. -/
def execFaultWindowEnd (u : Nat) (s : State) : Out1 :=
  s.run fun m =>
    match (SMap.get [] m.dev.fltWin.seen u).head? with
    | none => m
    | some t =>
      let m := m.atTime (t + m.dev.cfgF .UND_FLTCFG [] 8 16 * 1000 * msT)
      m.onDev fun d => { d with fltWin := ⟨d.fltWin.seen.put [] u []⟩ }

/-- The units mapped out since the last write are added to the non-volatile record. -/
def execMapoutRecordWrite (s : State) : Out1 :=
  s.run fun m =>
    if m.und.st = .off ∨ m.und.newOut = {} then m
    else { m with nv := { m.nv with mapOut := m.nv.mapOut.or m.und.newOut }, und := { m.und with newOut := {} } }

/-- UND_MRECCTL.CLEAR written: the record is cleared at the next entry to MEMTRAIN. -/
def execMrecClear (s : State) : Out1 := s.run fun m => if m.und.st = .off then m else m.mrecClear

end Sys2Proof.Machine
end

