-- ==== Sys2Proof/Machine/HostPort.lean ====
section
/-! DEFINITION. The host's side of the module: CXL.mem reads and writes of a line, register writes and arm words, the link, its
mailboxes, and the answers of CXL.cache (spec/16 R540 to R552, R565, R670, spec/17 R574, R599). -/

namespace Sys2Proof.Machine

/-! ### Registers in a line (R13, R14, R670) -/

/-- A write to a register that has no row of its own, through the privileged view or the unprivileged one. -/
def execRegisterWrite (user : Bool) (off size : Nat) (v : Word) (s : State) : Out1 :=
  s.run fun m => if m.und.st.serves then m.writeReg (if user then .user else .priv) none off size v.toNat else m

/-- A line of a view holds a register. -/
def lineHasReg (off : Nat) : Bool := (List.range 8).any fun i => (regAt (off + 8 * i)).isSome

/-- The registers of a line of a view read, each by 64 bits; reserved places read as zero. -/
def Mach.readLine (m : Mach) (vw : View) (off : Nat) : Mach × List Byte :=
  (List.range 8).foldl (fun (p : Mach × List Byte) i =>
    if (regAt (off + 8 * i)).isSome then
      let r := p.1.readReg vw none (off + 8 * i) 8
      (r.1, p.2 ++ leBytes 8 r.2)
    else (p.1, p.2 ++ leBytes 8 0)) (m, [])

/-- One register of a line written by its enabled bytes: all eight, or one half; another pattern is dropped and counted. -/
def Mach.writeLaneReg (m : Mach) (vw : View) (off en : Nat) (bs : List Byte) : Mach :=
  if (regAt off).isNone || en == 0 then m
  else if en = 0xFF then m.writeReg vw none off 8 (leNat bs)
  else if en = 0x0F then m.writeReg vw none off 4 (leNat (bs.take 4))
  else if en = 0xF0 then m.writeReg vw none (off + 4) 4 (leNat ((bs.drop 4).take 4))
  else m.regErr

def Mach.writeLine (m : Mach) (vw : View) (off mask : Nat) (bs : List Byte) : Mach :=
  (List.range 8).foldl (fun (m : Mach) i => m.writeLaneReg vw (off + 8 * i) (bitsOf mask (8 * i) 8) ((bs.drop (8 * i)).take 8)) m

/-! ### HDM windows (R542, R543) -/

/-- The DLA that a host address reaches through an enabled decoder. -/
def Dev.hdm (d : Dev) (h : Nat) : Option Nat :=
  (List.range 8).findSome? fun n =>
    let x := SMap.get {} d.host.decs n
    if x.on && x.base ≤ h && h < x.base + x.size then some (d.cfgF .CXL_HDMMAP [n] 0 16 * 2 ^ 28 + (h - x.base)) else none

def zeros64 : List Byte := List.replicate 64 0

/-- The answer to a host read: the data and the poison indication. -/
def Mach.hostData (m : Mach) (bs : List Byte) (poison flag : Bool) : Mach :=
  (if flag then m.onDev fun d => d.cxlFlag 2 else m).emit (.hostData bs poison)

/-- A read of what is not there: zeros with the poison indication. -/
def Mach.hostHole (m : Mach) : Mach := (m.onDev fun d => d.cxlFlag 3).hostData zeros64 true false

/-- A host read of memory behind a slice or controller, where it need not wait (R426, R471 to R480); a parity error of Canopy is met on
the way (R430). -/
def Mach.hostMemRead (m : Mach) (a : Nat) (det : Det) : Mach :=
  if m.dev.readWait m.dev.hostPart a 64 != 0 then m
  else
    let err := match det with | .once .canopy | .twice .canopy => true | _ => false
    let m := if err then (m.canopyDetect a).1 else m
    let m := m.onDev fun d => d.touch a 64 { part := d.hostPart }
    m.hostData (m.dev.bytes a 64) (m.dev.poisoned a 64) (m.dev.poisoned a 64)

/-- What a host access's waits for an accumulator are kept under among the stalls of its core (R224). -/
def hostStall : Nat := 6

/-- A host read of a line of a core's window (R203, R207, R224, R440, R441); one that fails twice ends no job (R610). -/
def Mach.hostWinRead (m : Mach) (c off : Nat) (det : Det) : Mach :=
  if winOf off == .none then m.hostHole
  else if m.dev.winOff c then (m.onDev fun d => d.bump .CLU_OFFACC [cluOfCore c]).hostData zeros64 false false
  else if m.dev.winBusy c off then m.onDev fun d => d.stallOn m.und.now c hostStall 2
  else
    let r := (m.dev.stallEnd m.und.now c hostStall).winDetect c off det
    let m : Mach := { m with dev := r.1 }
    let m := if r.2 then m.countFault c else m
    match m.dev.winRead c off 64 with
    | some (bs, pm) => m.hostData bs (pm != 0 || r.2) (pm != 0 || r.2)
    | none => m

/-- A host read of one line (R543, R574, R670). `det` is what the detection codes of Canopy, CLM, ACM or a sync unit's logic (R622)
find on the way, `bad` whether a sync object's code fails. -/
def execHostMemRead (h : Nat) (det : Det) (bad : Bool) (s : State) : Out1 :=
  s.run fun m =>
    if !m.dev.host.link then m
    else if !m.und.st.serves then m.hostHole
    else match m.dev.hdm (h / 64 * 64) with
      | none => m
      | some a =>
        match m.dev.target a with
        | .ext _ _ | .clearing _ => m.hostMemRead a det
        | .hole | .noClear | .syncHole => m.hostHole
        | .syncObj n _ =>
          if det == .twice .syncUnit then m.faultHold 6 else
          let m := if bad && !m.dev.syncBroken n then m.breakSync n else m
          if m.dev.syncBroken n then m.hostData zeros64 true true
          else m.hostData (leBytes 64 (m.dev.syncVal n).toNat) false false
        | .core c off => m.hostWinRead c off det
        | .view priv off =>
          if !lineHasReg off then m.hostHole
          else
            let r := m.readLine (if priv then .priv else .user) off
            r.1.hostData r.2 false false
        | .mirror off =>
          if !lineHasReg off then m.hostHole
          else
            let r := m.readLine .mirror off
            r.1.hostData r.2 false false
        | .status _ => m.hostData (m.dev.bytes a 64) false false

/-- A host write of a line of memory: each enabled byte, and the poison it carries (R79, R543). -/
def Dev.hostMemWrite (d : Dev) (a mask : Nat) (bs : List Byte) (poison : Bool) : Dev :=
  let now_ := d.writeWait d.hostPart a 64 == 0
  let d := (maskRuns mask 0 64).foldl (fun d r =>
    if now_ then d.storeNow (a + r.1) ((bs.drop r.1).take r.2) poison (some d.hostPart)
    else d.store (a + r.1) ((bs.drop r.1).take r.2) poison none (some d.hostPart)) d
  if mask = 0 && poison then d.markRange a 64 true else d

/-- The slot whose arm word lies at the start of a line (R549). -/
def Dev.armSlot (d : Dev) (a : Nat) : Option Nat :=
  if d.cmdBase ≤ a ∧ a < d.cmdBase + 2 ^ 20 ∧ (a - d.cmdBase) % 256 = 0 then some ((a - d.cmdBase) / 256) else none

/-- What the command monitor does with a write that reaches a slot's arm word, in RUN and in DRAIN (R551, R594). -/
def Mach.monitor (m : Mach) (slot v : Nat) (whole : Bool) : Mach :=
  if m.und.st != .run && m.und.st != .drain then m
  else if whole then m.onDev fun d => d.armWord m.und.now slot v (m.und.st == .drain)
  else m.onDev fun d => d.cxlFlag 4

/-- A host write of one line by its enabled bytes (R543, R574, R670). -/
def execHostMemWrite (h : Nat) (data : List Byte) (mask : Nat) (poison : Bool) (s : State) : Out1 :=
  s.run fun m =>
    let bs := (data ++ zeros64).take 64
    let hole (m : Mach) : Mach := (m.onDev fun d => d.cxlFlag 3).emit .hostCmp
    if !m.dev.host.link then m
    else if !m.und.st.serves then hole m
    else match m.dev.hdm (h / 64 * 64) with
      | none => m
      | some a =>
        match m.dev.target a with
        | .ext _ _ | .clearing _ =>
          if m.dev.writeWait m.dev.hostPart a 64 != 0 then m
          else
            let m := m.onDev fun d => d.hostMemWrite a mask bs poison
            let m := match m.dev.armSlot a with
              | some slot => if mask % 256 = 0 then m else m.monitor slot (leNat (bs.take 8)) (mask % 256 == 255)
              | none => m
            m.emit .hostCmp
        | .hole | .noClear | .syncHole | .status _ => hole m
        | .syncObj n _ =>
          (if mask % 256 = 255 then m.onDev fun d => d.syncSet m.und.now n (BitVec.ofNat 64 (leNat (bs.take 8)))
            else m.onDev fun d => d.bump .SYN_ERR [syncHome n]).emit .hostCmp
        | .core c off =>
          if winOf off == .none then hole m
          else if !m.dev.winOff c && m.dev.winBusy c off then m.onDev fun d => d.stallOn m.und.now c hostStall 2
          else
            let m := m.onDev fun d => d.stallEnd m.und.now c hostStall
            let pm := if poison then 1 else 0
            (m.onDev fun d => match winOf off with
              | .tile _ _ => d.winWrite c off bs pm
              | _ => (maskRuns mask 0 64).foldl (fun d r => d.winWrite c (off + r.1) ((bs.drop r.1).take r.2) pm) d).emit .hostCmp
        | .view priv off =>
          if !lineHasReg off then hole m else (m.writeLine (if priv then .priv else .user) off mask bs).emit .hostCmp
        | .mirror off =>
          if !lineHasReg off then hole m else (m.writeLine .mirror off mask bs).emit .hostCmp

/-- A host write of 8 bytes to a slot's arm word (R551). -/
def execArmWordWrite (slot : Nat) (v : Word) (s : State) : Out1 :=
  s.run fun m =>
    if !m.und.st.serves || 4096 ≤ slot then m
    else
      let m := m.onDev fun d => d.hostMemWrite (d.cmdBase + 256 * slot) 255 (leBytes 64 v.toNat) false
      m.monitor slot v.toNat true

/-! ### The link (R565, R574, R658) -/

/-- The CXL port may train: from BOOT onward, RST_N high, the reference clock running. -/
def Mach.cxlMay (m : Mach) : Bool :=
  m.und.st != .off && m.und.st != .understory && m.und.rstN && m.und.refclk

/-- The link trains, at a width and rate. -/
def execCxlLinkUp (width : Nat) (fast lopt ide : Bool) (s : State) : Out1 :=
  s.run fun m =>
    if !m.cxlMay || m.dev.host.link || !(width == 4 || width == 8 || width == 16) then m
    else m.onDev fun d => d.onHost fun h =>
      { h with link := true, linkReg := width + (if fast then 2 ^ 5 else 0) + (if lopt then 2 ^ 6 else 0) + if ide then 2 ^ 7 else 0 }

/-- The link leaves the active state: commands that use CXL.cache end with E_FAULT (R554, R565). -/
def Mach.cxlDown (m : Mach) : Mach :=
  if !m.dev.host.link then m
  else m.onDev fun d =>
    let slots := d.host.cacheReqs.map (·.slot)
    let d := (d.onHost fun h => { h with link := false, linkReg := 0 }).cxlFlag 0
    slots.foldl (fun (d : Dev) k => if d.host.cacheReqs.any fun q => q.slot == k then d.cacheFail m.und.now k else d) d

def execCxlLinkDown (s : State) : Out1 := s.run Mach.cxlDown

/-- An IDE integrity check fails (R565). -/
def execIdeCheckFail (s : State) : Out1 := s.runDev fun d => if d.host.link then d.cxlFlag 1 else d

/-- The host sets a decoder: 256 MiB to 1 TiB in multiples of 256 MiB (R542). -/
def execHdmDecoderEnable (n : Nat) (on : Bool) (base size : Nat) (s : State) : Out1 :=
  s.runDev fun d =>
    if !d.host.link || 8 ≤ n || (on && !(size % 2 ^ 28 == 0 && inRange (2 ^ 28) (2 ^ 40) size && base % 2 ^ 28 == 0)) then d
    else d.onHost fun h => { h with decs := h.decs.put {} n (if on then ⟨true, base, size⟩ else {}) }

/-- Every snoop is a miss (R540). -/
def execHostSnoop (s : State) : Out1 := s.runDev fun d => if d.host.link then d.emit .snoopMiss else d

/-- A request on the SPDM mailbox; at most four sessions are open (R599). -/
def execSpdmRequest (req : List Byte) (s : State) : Out1 :=
  s.run fun m =>
    if !m.dev.host.link then m
    else
      let ans := Config.spdmAnswer m.und.spdm m.und.meas req
      ({ m with und := { m.und with spdm := min 4 (Config.spdmSessions m.und.spdm req) } } : Mach).emit (.doe ans)

/-- A request on the CDAT mailbox (R540). -/
def execCdatRequest (req : List Byte) (s : State) : Out1 :=
  s.runDev fun d => if d.host.link then d.emit (.doe (Config.cdatAnswer (d.pres.hbms + d.pres.lpds * 2 ^ 8) req)) else d

/-! ### Answers of CXL.cache (R540, R565) -/

/-- What the host has answered of a TILE_LOAD's tiles: more is asked for, a bad tile ends it, or all have been checked. -/
def Dev.tileAnswer (d : Dev) (now : Nat) (o : HOp) : Dev :=
  match o.scanBuf with
  | .bad j => d.finish o eArg (badTile (some j))
  | .stop off n => d.hostAsk now o.slot (o.f 40 8 + o.buf.length) (off + n - o.buf.length) []
  | .done n =>
    let st := refusal [(o.f 48 8 % 32 != 0, eAlign), (!d.areaOk (o.f 48 8) n, eRange)]
    if st != sOk then d.finish o st (badTile none)
    else (d.modOp o.handle fun q => { q with total := n }).blockNext now o.handle

/-- A CXL.cache request of a command is answered. -/
def Dev.cacheAnswer (d : Dev) (now : Nat) (o : HOp) (req : CacheReq) (data : List Byte) (pm : Nat) : Dev :=
  match o.opc with
  | 0x0120 => d.replHost now o data pm
  | 0x0111 => if req.write then d.blockDone now o req.len else d.modOp o.handle fun q => { q with buf := data, bufPm := pm }
  | 0x0112 => d.modOp o.handle fun q => { q with buf := data, bufPm := pm }
  | 0x0113 =>
    let o' : HOp := { o with buf := o.buf ++ data, bufPm := o.bufPm ||| pm * 2 ^ (req.addr / 64 - o.f 40 8 / 64) }
    (d.modOp o.handle fun _ => o').tileAnswer now o'
  | 0x0117 => d.setProg o data
  | 0x0130 => d.maskImages o data (pm != 0)
  | _ => d

/-- The host answers the oldest CXL.cache request of a slot's command, with its data and marks, or with a failure. -/
def execCxlCacheResponse (slot : Nat) (ok : Bool) (data : List Byte) (pm : Nat) (s : State) : Out1 :=
  s.runAt fun now d =>
    match d.host.cacheReqs.find? fun q => q.slot == slot with
    | none => d
    | some req =>
      if !ok then d.cacheFail now slot
      else
        let d := d.onHost fun h => { h with cacheReqs := h.cacheReqs.erase req }
        match d.slotOp slot with
        | none => d
        | some o => d.cacheAnswer now o req ((data ++ List.replicate req.len 0).take req.len) pm

end Sys2Proof.Machine
end

