-- ==== Sys2Proof/Machine/EngRun.lean ====
section
/-! DEFINITION. How the matrix and vector engines take the next instruction of their queue: it waits, is refused, meets a
fault, or starts with its whole effect, and retires later (spec/06 R197, R198, R224; spec/08 R259, R279; spec/18 R608). -/

namespace Sys2Proof.Machine

/-- What the next instruction of a queue comes to: it waits; it is refused; the retry of a read failed; its job ends without
a refusal being counted; or it starts, with what it writes and the clk it occupies the engine. -/
inductive EngOut where
  | wait (d : Dev)
  | refuse (status : Nat)
  | fault (d : Dev) (m : Sram)
  | stop (d : Dev) (status : Nat)
  | done (d : Dev) (area : List (Nat × Nat)) (occ : Nat)
  deriving DecidableEq, Repr, Inhabited

/-- CLM offset of the operand in whose first granule a detection is taken to be: the first operand that CLM supplies, for the
vector engine the descriptor of A (R440, log 74). -/
def QEnt.clmSrc (x : QEnt) (ve : Bool) : Nat :=
  if ve then x.f1 16 16 * 64
  else if x.opc = 1 ∧ x.f0 32 2 ≠ 0 then x.f1 32 17 * 32
  else x.f1 0 17 * 32

/-- The engine's busy counter. -/
def busyReg (ve : Bool) : Reg := if ve then .CORE_VE_BUSY else .CORE_ME_BUSY

/-- A recomputed instruction holds the engine for a second occupancy (R608). -/
def recomputes (det : Det) : Bool :=
  match det with
  | .once .laneQ => true
  | .once .residue => true
  | _ => false

/-- A chunk that the vector engine reads once more adds its clk (R278, R279). -/
def readsAgain (det : Det) : Bool :=
  match det with
  | .once .clm => true
  | .once .acm => true
  | .once .slot => true
  | _ => false

/-- clk of each cap window that an engine may be occupied at the level in force (R637). -/
def Dev.capLimit (d : Dev) : Nat := (8 - d.rd .TEL_PCAPST) * 300

/-- The power cap makes an instruction wait for the next window (R637). One that is longer than the whole allowance starts
when nothing of the window has been used (DESIGN CHOICE: R637 gives it no other place). -/
def Dev.capHolds (d : Dev) (c : Nat) (ve : Bool) (occ : Nat) : Bool :=
  let u := SMap.get 0 d.tel.capUsed (2 * c + if ve then 1 else 0)
  d.rd .TEL_PCAPST != 0 && u != 0 && decide (d.capLimit < u + occ)

/-- What a started instruction was writing holds unspecified values (R225, R280). -/
def Dev.scrambleAll (d : Dev) (area : List (Nat × Nat)) : Dev := area.foldl (fun d a => d.scramble a.1 a.2) d

/-- The next instruction of a queue worked: `mine` says whether the command is about this instruction. One whose retry fails has started:
what its start did stays, its outputs are unspecified (R217, R225, R268, R280). -/
def Mach.runInsn (m : Mach) (c : Nat) (ve : Bool) (det : Det) (mine : QEnt → Bool) (f : Dev → QEnt → EngOut) : Mach :=
  let d := m.dev
  let now := m.und.now
  let e : Eng := if ve then .ve else .me
  match nextPlace (d.queue c e) with
  | none => m
  | some x =>
    let n := if ve then 1 else 0
    if !mine x || (ve && (d.queue c e).any (·.started)) then m
    else if d.chainWaits c ve x then { m with dev := d.stallOn now c n (d.chainCause c ve x) }
    else
      let go (m : Mach) : Mach := { m with dev := m.dev.stallEnd now c n }
      match f d x with
      | .wait d' =>
        let cause := (SMap.get (0, 0) (d'.core c).stalls 9).1
        let cause := if cause = 8 then 8 + 16 * d.watchTick now x.job else cause
        { m with dev := (d'.modCore c fun k => { k with stalls := k.stalls.del 9 }).stallOn now c n cause }
      | .refuse st => go { m with dev := d.refuseInsn now c e x st }
      | .stop d' st => go { m with dev := d'.stopInsn now c e x st }
      | .fault d' s => go (({ m with dev := d' }).faultInsn c e x (sramCode s ve))
      | .done d' area occ =>
        let r := d.detect c ve det
        if d.capHolds c ve occ then { m with dev := { d with tel := { d.tel with capWait := true } } }
        else if r.2 then
          match det with
          | .twice s =>
            let d1 := (d'.detect c ve det).1.scrambleAll area
            let d1 := if s = .clm then d1.markRange (clmAt c (x.clmSrc ve)) 1 true else d1
            go (({ m with dev := d1 }).faultInsn c e x (sramCode s ve))
          | _ => m
        else
          let d' := (d'.detect c ve det).1
          let d' := d'.setQueue c e (modNext (fun y => { y with started := true, area := area }) (d'.queue c e))
          let occ := if recomputes det then 2 * occ else if ve && readsAgain det then occ + 1 else occ
          let d' := d'.bump (busyReg ve) [c] occ
          let d' : Dev := { d' with tel := { d'.tel with capUsed := d'.tel.capUsed.mod 0 (2 * c + n) (· + occ) } }
          go { m with dev := d'.feedChains c }

/-- A poisoned operand: the job is marked and the core counts it once for each poisoned operand (R80). -/
def Dev.consumed (d : Dev) (c j : Nat) (ps : List Bool) : Dev :=
  (ps.filter id).foldl (fun d _ => d.poisonIn c j) d

end Sys2Proof.Machine
end

