-- ==== Sys2Proof/Machine/MatrixOps.lean ====
section
/-! DEFINITION. The arithmetic of the matrix engine: operand pairs, dense and sparse sums, the choice of a sparse operand and
its occupancy, the fused exit and the predictor (spec/06 R189 to R223, spec/07 R227 to R249). -/

namespace Sys2Proof.Machine

/-! ### Pairs and occupancy -/

/-- Twice the clk an instruction of K = 1 holds the array, and whether the accumulator is fp32; none where the pair is
refused (R189, R190). -/
def pairOf (x w : DType) : Option (Nat × Bool) :=
  match x, w with
  | .int8, .int8 => some (2, false)
  | .int8, .int4 => some (1, false)
  | .bf16, .bf16 => some (4, true)
  | _, _ => if (x = .e4m3 ∨ x = .e5m2) ∧ (w = .e4m3 ∨ w = .e5m2) then some (2, true) else none

/-- The fields of an MMA that its arithmetic needs. -/
structure MmaArgs where
  xt : DType
  wt : DType
  fp : Bool
  half : Nat
  add : Bool
  sr : Bool
  lo : Nat
  k : Nat
  s : Nat
  deriving DecidableEq, Repr, Inhabited

/-- Element (r, c) of a tile read as dense (R51, R43). -/
def denseVal (bs : List Byte) (r c : Nat) : FV :=
  let h := TileHdr.parse bs
  decodeElt h.dt (flushDenormal h.dt (((tileAt bs r c).head?).getD 0))

/-- The edge of K (R211). -/
def edgeK (xs ws : List Byte) : Nat := min (TileHdr.parse xs).cols (TileHdr.parse ws).rows

/-- Element (m, n) lies beyond X's rows or W's columns, where every product is +0 (R201, R211). -/
def beyond (xs ws : List Byte) (m n : Nat) : Bool :=
  decide ((TileHdr.parse xs).rows ≤ m) || decide ((TileHdr.parse ws).cols ≤ n)

/-- The product groups of element (m, n), both operands dense (R209, R211): the groups with some k below the edge. -/
def denseGroups (g : MmaArgs) (xs ws : List Byte) (m n : Nat) : List (List FV) :=
  let e := if beyond xs ws m n then 0 else edgeK xs ws
  let e0 := edgeK xs ws
  ((List.range (g.k / 8)).filter fun i => g.lo + 8 * i < e0).map fun i =>
    (List.range 8).map fun j =>
      let k := g.lo + 8 * i + j
      if k < e then (denseVal xs m k).mul (denseVal ws k n) else .zero

/-- The entries a tile supplies as the sparse operand: those it stores, or the non-zero elements of a dense one (R231). -/
def sparseEntries (bs : List Byte) : List Entry :=
  let h := TileHdr.parse bs
  if h.fm = .dense then (tileEntries bs).filter fun e => !isZeroElt h.dt e.code else tileEntries bs

/-- The entries of line `i` of the sparse operand within the K range (R232). -/
def lineOf (g : MmaArgs) (xSparse : Bool) (bs : List Byte) (i : Nat) : List Entry :=
  (sparseEntries bs).filter fun e =>
    let k := if xSparse then e.col else e.row
    (if xSparse then e.row else e.col) == i && g.lo ≤ k && k < g.lo + g.k

/-- The product groups of element (m, n) with one operand sparse (R212, R232). -/
def sparseGroups (g : MmaArgs) (xSparse : Bool) (xs ws : List Byte) (m n : Nat) : List (List FV) :=
  let e := if beyond xs ws m n then 0 else edgeK xs ws
  groups8 .zero <|
    if xSparse then
      (lineOf g true xs m).map fun y =>
        if y.col < e then (decodeElt g.xt (flushDenormal g.xt y.code)).mul (denseVal ws y.col n) else .zero
    else
      (lineOf g false ws n).map fun y =>
        if y.row < e then (denseVal xs m y.row).mul (decodeElt g.wt (flushDenormal g.wt y.code)) else .zero

/-- fp32 addition under RNE of two exact values (R209). -/
def addF (a b : FV) : FV := decodeElt .fp32 (encodeFloat .fp32 .rne 0 (a.add b))

/-- The groups entering a running sum `r` of element (m, n), from group number `i` (R210, R213, R214, R217): the new bits
and whether an int32 addition saturated. -/
def enter (g : MmaArgs) (m n : Nat) : Nat → Nat × Bool → List (List FV) → Nat × Bool
  | _, r, [] => r
  | i, r, p :: ps =>
    let r' :=
      if g.fp then
        let gs := tree8 addF .zero p
        let rnd : Rnd := if g.sr then .sr else .rne
        (encodeFloat .fp32 rnd (drawH g.s (i * 4096 + m * 64 + n)) ((decodeElt .fp32 r.1).add gs), r.2)
      else
        let x := sext 32 r.1 + tree8 (· + ·) 0 (p.map FV.int)
        (toBits 32 (satInt .int32 x), r.2 || satInt .int32 x != x)
    enter g m n (i + 1) r' ps

/-- The new bits of an element from its old bits (R210, R235). -/
def mmaElt (g : MmaArgs) (old m n : Nat) (gs : List (List FV)) : Nat × Bool :=
  if g.add then enter g m n 0 (old, false) gs
  else match gs with
    | [] => (0, false)
    | p :: ps =>
      let first :=
        if g.fp then encodeFloat .fp32 .rne 0 (tree8 addF .zero p)
        else toBits 32 (satInt .int32 (tree8 (· + ·) 0 (p.map FV.int)))
      enter g m n 1 (first, false) ps

/-! ### The choice of the sparse operand (R227 to R229) -/

/-- The threshold of CORE_SPCFG for a format (R227). -/
def spThr (cfg : Nat) : DType → Nat
  | .int4 => bitsOf cfg 16 8
  | .bf16 => bitsOf cfg 8 8
  | _ => bitsOf cfg 0 8

/-- SEG of CORE_SPCFG (R256): 256 halved SEG times; the reserved codes cannot be held. -/
def spSeg (cfg : Nat) : Nat := 256 / 2 ^ min 5 (bitsOf cfg 24 3)

/-- A tile is a candidate for sparse operation (R227). -/
def candidate (cfg : Nat) (bs : List Byte) : Bool :=
  let h := TileHdr.parse bs
  multiEntry bs || ((h.fm != .dense || h.nnz != 0xFFFF) && h.nnz * 256 < spThr cfg h.dt * (h.rows * h.cols))

/-- How an MMA takes its operands: both dense, X sparse, W sparse, or refused (R228, R229). -/
inductive Take where
  | dense | x | w | refuse
  deriving DecidableEq, Repr, Inhabited

def takeOf (auto : Bool) (cfg : Nat) (xs ws : List Byte) : Take :=
  let mx := multiEntry xs
  let mw := multiEntry ws
  if !auto then (if mx || mw then .refuse else .dense)
  else if mx && mw then .refuse
  else
    let cx := candidate cfg xs
    let cw := candidate cfg ws
    if cx && cw then
      if mx then .x else if mw then .w
      else
        let hx := TileHdr.parse xs
        let hw := TileHdr.parse ws
        if hx.nnz * hw.rows * hw.cols < hw.nnz * hx.rows * hx.cols then .x else .w
    else if cx then .x else if cw then .w else .dense

/-- A count of entries cut into segment lengths (R233). -/
def segments (seg n : Nat) : List Nat :=
  (List.range (ceilDiv n seg)).map fun i => min seg (n - i * seg)

/-- A segment of padded length `p` dealt to the lane with the least dealt to it (R234). -/
def deal (lanes : List Nat) (p : Nat) : List Nat :=
  let low := lanes.foldl min (2 ^ 32)
  let i := lanes.findIdx (· == low)
  lanes.set i (low + p)

/-- Lmax and the segments that are not the first of their line (R233 to R235). -/
def dealing (seg : Nat) (lines : List Nat) : Nat × Nat :=
  let ss := lines.map (segments seg)
  let lanes := (ss.flatMap id).foldl (fun l n => deal l (roundUp n 8)) (List.replicate 64 0)
  (lanes.foldl max 0, (ss.map fun s => s.length - 1).foldl (· + ·) 0)

/-- Occupancy of an MMA and its segments that are not first (R189, R235). -/
def occupancy (g : MmaArgs) (t : Take) (cfg : Nat) (xs ws : List Byte) : Nat × Nat :=
  match t with
  | .x | .w =>
    let r := dealing (spSeg cfg) ((List.range 64).map fun i => (lineOf g (t == .x) (if t == .x then xs else ws) i).length)
    (6 + r.1 * g.half / 2 + ceilDiv r.2 8, r.2)
  | _ => (g.k * g.half / 2, 0)

/-- The new bits of element (m, n) of an MMA. -/
def mmaAt (g : MmaArgs) (t : Take) (xs ws : List Byte) (old m n : Nat) : Nat × Bool :=
  match t with
  | .x => mmaElt g old m n (sparseGroups g true xs ws m n)
  | .w => mmaElt g old m n (sparseGroups g false xs ws m n)
  | _ => mmaElt g old m n (denseGroups g xs ws m n)

/-! ### The fused exit (R219 to R222) -/

/-- A row of an accumulator after its bias: each column's bits and whether the addition saturated (R220 step 1). -/
def biased (fp : Bool) (r bias : Nat) : Nat × Bool :=
  if fp then (addRne r bias, false)
  else
    let x := sext 32 r + sext 32 bias
    (toBits 32 (satInt .int32 x), satInt .int32 x != x)

/-- The greatest of a row and its sum, as 32 bits each (R220 step 2). A row of −0 alone whose COLS is a multiple of 8 has no column that
enters as +0: the tree gives −0 for it, which is kept (DESIGN CHOICE: the rule's last words speak of every such row, log 93). -/
def rowMax (fp : Bool) (l : List Nat) : Nat :=
  if fp then encodeFloat .fp32 .rne 0 (maxFV (l.map (decodeElt .fp32))) else toBits 32 (maxI32 (l.map (sext 32)))
def rowAdd (fp : Bool) (l : List Nat) : Nat :=
  if fp then sumF32 l else toBits 32 (sumI32 (l.map (sext 32)))

/-! ### The predictor (R241 to R247) -/

/-- Element (r, c) of a Vᵀ tile: entries repeated for one place contribute their exact sum (R70, log 72). -/
def sumVal (bs : List Byte) (r c : Nat) : FV :=
  let h := TileHdr.parse bs
  match (tileAt bs r c).map fun v => decodeElt h.dt (flushDenormal h.dt v) with
  | [] => .zero
  | v :: vs => vs.foldl FV.add v

/-- s[j, b] of R243 as an fp32 code: Vᵀ in one or two tiles, h in one or two accumulators. -/
def predSum (rank : Nat) (v1 v2 : List Byte) (h : Nat → Nat → Nat) (j b : Nat) : Nat :=
  let term (q : Nat) : FV :=
    let v := if q < 64 then sumVal v1 j q else sumVal v2 j (q - 64)
    v.mul (decodeElt .bf16 (flushDenormal .bf16 (h q b)))
  let gs := (groups8 .zero ((List.range rank).map term)).map fun p => encodeFloat .fp32 .rne 0 (tree8 addF .zero p)
  match gs with
  | [] => 0
  | g :: r => r.foldl addRne g

/-- The bitmap P of R243 from the sums. -/
def predBits (rows cols thr : Nat) (s : Nat → Nat → Nat) : Nat :=
  (((List.range rows).filter fun j => (List.range cols).any fun b =>
    let v := decodeElt .fp32 (s j b)
    v.isNan || (decodeElt .fp32 thr).lt v).map (2 ^ ·)).foldl (· + ·) 0

end Sys2Proof.Machine
end

