-- ==== Sys2Proof/Machine/Matrix.lean ====
section
/-! DEFINITION. The matrix engine's instructions: MMA, MPRED, MOUT, MLOAD, MSEED, and retirement (spec/06, spec/07). -/

namespace Sys2Proof.Machine

/-- A reserved field, format pair, rounding or K range that MMA refuses (R194, R197). -/
def mmaBad (x : QEnt) : Bool :=
  let k := 8 * 2 ^ x.f0 24 2
  let p := do pairOf (← DType.ofCode (x.f0 16 4)) (← DType.ofCode (x.f0 20 4))
  x.f0 30 1 != 0 || x.f0 38 26 != 0 || x.f1 17 15 != 0 || x.f1 49 15 != 0 || x.opc != 1 ||
  x.f0 32 2 == 3 || x.f0 34 2 == 3 || p.isNone ||
  !(x.f0 14 2 == 0 || (x.f0 14 2 == 2 && (p.map (·.2)).getD false)) ||
  x.f0 26 3 * 8 % k != 0 || x.f0 26 3 * 8 + k > 64

/-- The arguments of an MMA's arithmetic; `s` is the LFSR state its draws use (R217). -/
def mmaArgs (x : QEnt) (s : Nat) : MmaArgs :=
  let xt := (DType.ofCode (x.f0 16 4)).getD .int8
  let wt := (DType.ofCode (x.f0 20 4)).getD .int8
  let p := (pairOf xt wt).getD (2, false)
  { xt := xt, wt := wt, fp := p.2, half := p.1, add := bitAt x.w0.toNat 13, sr := x.f0 14 2 == 2,
    lo := x.f0 26 3 * 8, k := 8 * 2 ^ x.f0 24 2, s := s }

/-- The slots of an MMA's ring sources released once both operands have been read (R196): a ring that both sources name gives both
the same head slot, which goes when either KEEP is 0 (DEDUCED, log 73). -/
def Dev.releaseBoth (d : Dev) (c : Nat) (x : QEnt) : Dev :=
  let kx := bitAt x.w0.toNat 36
  let kw := bitAt x.w0.toNat 37
  if x.f0 32 2 = x.f0 34 2 then d.releaseSrc c (x.f0 32 2) (kx && kw)
  else (d.releaseSrc c (x.f0 32 2) kx).releaseSrc c (x.f0 34 2) kw

/-- The effect of an MMA whose operands have been read (R194 to R217, R227 to R236). The operands it counts as poisoned are X and W; a
poisoned accumulator that ADD adds into is not counted as one: R78 and R80 do not say (DESIGN CHOICE, log 70); the job has produced
poisoned data all the same (R80). A FORM 3 operand read as dense counts in CORE_SP_EXP as a compressed tile expanded: R256 does not say
(DESIGN CHOICE, log 107). -/
def mmaRun (d : Dev) (c : Nat) (x : QEnt) (t : Take) (xs ws : List Byte) (xp wp : Bool) (lq : Nat) : EngOut :=
  let a := x.f0 8 5
  let d := if x.f0 14 2 = 2 then d.advance c else d
  let g := mmaArgs x (d.lfsr c)
  let o := occupancy g t x.cfg xs ws
  let old := d.acc c a
  let elt (m n : Nat) := mmaAt g t xs ws (d.accElt c a m n) m n
  let sat := (List.range 64).any fun m => (List.range 64).any fun n => (elt m n).2
  let hx := TileHdr.parse xs
  let hw := TileHdr.parse ws
  let st : AccSt :=
    if g.add then { old with rows := max old.rows hx.rows, cols := max old.cols hw.cols, sat := old.sat || sat }
    else { fp := g.fp, rows := hx.rows, cols := hw.cols, sat := sat }
  let mark := if xp || wp then some true else if g.add then none else some false
  let sparse := t == .x || t == .w
  let exp (h : TileHdr) (mine : Bool) : Nat := if h.fm != .dense && !mine then 1 else 0
  let d' := (d.writeAcc c a (fun m n => (elt m n).1) mark).setAcc c a st
  let d' := if sat then d'.bump .CORE_ME_SAT [c] else d'
  let d' := if sparse then ((d'.bump .CORE_SP_INSN [c]).bump .CORE_SP_SEGS [c] o.2).bump .CORE_SP_LQSTALL [c] lq else d'
  let d' := d'.bump .CORE_SP_EXP [c] (exp hx (t == .x) + exp hw (t == .w))
  let d' := d'.bump .CORE_BADIDX [c] (tileDropped xs + tileDropped ws)
  let d' := d'.releaseBoth c x
  let d' := if g.add && d.accPoisoned c a then d'.poisonOut x.job else d'
  .done (d'.consumed c x.job [xp, wp]) [(accAt c a, 0x4000)] (o.1 + (if sparse then lq else 0))

/-- The status an MMA's operands refuse it with (R197, R229). -/
def mmaRefusal (d : Dev) (c : Nat) (x : QEnt) (fx fw : Fetch) : Nat :=
  let bad (f : Fetch) (code : Nat) : Bool :=
    match f with | .tile bs _ => (TileHdr.parse bs).dtype != code | _ => false
  let st (f : Fetch) : Nat := match f with | .refuse s => s | _ => sOk
  let p := do pairOf (← DType.ofCode (x.f0 16 4)) (← DType.ofCode (x.f0 20 4))
  let auto := bitAt x.w0.toNat 29
  let both := match fx, fw with
    | .tile a _, .tile b _ => takeOf auto x.cfg a b == .refuse
    | .tile a _, _ => !auto && multiEntry a
    | _, .tile b _ => !auto && multiEntry b
    | _, _ => false
  refusal [(mmaBad x, eArg), (bitAt x.w0.toNat 13 && p.map (·.2) != some (d.acc c (x.f0 8 5)).fp, eArg),
    (bad fx (x.f0 16 4), eArg), (bad fw (x.f0 20 4), eArg), (both, eArg), (st fx != sOk, st fx), (st fw != sOk, st fw)]

/-- MMA starts (R194). -/
def mmaStart (det : Det) (c now lq : Nat) (d : Dev) (x : QEnt) : EngOut :=
  if mmaBad x then .refuse eArg
  else if d.accBusy c (x.f0 8 5) then .wait (d.why c 2)
  else
    let rx := d.operand now c (x.f0 32 2) (x.f1 0 17 * 32) det
    let rw := rx.1.operand now c (x.f0 34 2) (x.f1 32 17 * 32) (if x.f0 32 2 = 0 then det else .none)
    let s := mmaRefusal d c x rx.2 rw.2
    if s ≠ sOk then .refuse s
    else match rx.2, rw.2 with
      | .tile xs xp, .tile ws wp => mmaRun rw.1 c x (takeOf (bitAt x.w0.toNat 29) x.cfg xs ws) xs ws xp wp lq
      | .fault, _ => .fault rx.1 (if x.f0 32 2 = 0 then .clm else .slot)
      | _, .fault => .fault rw.1 (if x.f0 34 2 = 0 then .clm else .slot)
      | _, _ => .wait rw.1

/-- MMA (R194 to R217, R227 to R236). Its command also meets an instruction with a reserved OPC, which it refuses (R193). -/
def execMma (c : Nat) (det : Det) (lq : Nat) (s : State) : Out1 :=
  s.run fun m => m.runInsn c false det (fun x => x.opc = 1 ∨ x.opc = 0 ∨ 5 < x.opc) (mmaStart det c m.und.now lq)

/-- MSEED starts (R216). -/
def mseedStart (_now c : Nat) (_det : Det) (d : Dev) (x : QEnt) : EngOut :=
  if x.f0 8 23 != 0 || x.w1 != 0 then .refuse eArg
  else .done (d.modCore c fun k => { k with me := { k.me with lfsr := max 1 (x.f0 32 32) } }) [] 0

/-- MSEED (R216). -/
def execMseed (c : Nat) (det : Det) (s : State) : Out1 :=
  s.run fun m => m.runInsn c false det (fun x => x.opc = 5) (mseedStart m.und.now c det)

/-- MLOAD's fields that must be zero (R206). -/
def mloadBad (x : QEnt) : Bool :=
  x.f0 13 18 != 0 || x.f0 34 2 != 0 || x.f0 37 27 != 0 || x.f1 17 47 != 0 || x.f0 32 2 == 3

/-- Whether MLOAD takes a tile: int32 dense or all-zero; fp32 dense, CSR without repeats, or all-zero (R206). -/
def mloadTakes (bs : List Byte) : Bool :=
  let h := TileHdr.parse bs
  match h.dt, h.fm with
  | .int32, .dense => true
  | .int32, .zero => true
  | .fp32, .bmp => false
  | .fp32, _ => !multiEntry bs
  | _, _ => false

/-- MLOAD starts (R206). -/
def mloadStart (now c : Nat) (det : Det) (d : Dev) (x : QEnt) : EngOut :=
  let a := x.f0 8 5
  if mloadBad x then .refuse eArg
  else if d.accBusy c a then .wait (d.why c 2)
  else
    let r := d.operand now c (x.f0 32 2) (x.f1 0 17 * 32) det
    match r.2 with
    | .wait => .wait r.1
    | .refuse st => .refuse st
    | .fault => .fault r.1 (if x.f0 32 2 = 0 then .clm else .slot)
    | .tile bs p =>
      if !mloadTakes bs then .refuse eArg
      else
        let h := TileHdr.parse bs
        let d' := (r.1.writeAcc c a (fun m n => ((tileAt bs m n).head?).getD 0) (some p)).setAcc c a
          { fp := h.dt == .fp32, rows := h.rows, cols := h.cols, sat := false }
        let d' := (d'.bump .CORE_BADIDX [c] (tileDropped bs)).releaseSrc c (x.f0 32 2) (bitAt x.w0.toNat 36)
        .done (d'.consumed c x.job [p]) [(accAt c a, 0x4000)] 0

/-- MLOAD (R206). -/
def execMload (c : Nat) (det : Det) (s : State) : Out1 :=
  s.run fun m => m.runInsn c false det (fun x => x.opc = 4) (mloadStart m.und.now c det)

/-- MOUT's fields that are refused with E_ARG (R219). -/
def moutBad (x : QEnt) : Bool :=
  let bias := bitAt x.w0.toNat 20
  let stats := bitAt x.w0.toNat 21 || bitAt x.w0.toNat 22
  x.f0 13 1 != 0 || x.f0 14 2 == 3 || x.f0 24 2 == 3 || x.f0 26 5 != 0 || x.f0 32 32 != 0 || x.f1 51 13 != 0 ||
  (DType.ofCode (x.f0 16 4)).isNone || (bitAt x.w0.toNat 23 && x.f0 16 4 == 2) ||
  (x.f0 24 2 != 0 && x.f1 0 17 != 0) || (!bias && x.f1 17 17 != 0) || (!stats && x.f1 34 17 != 0)

/-- What MOUT computes (R220): the output code of each element, the rows' maxima and sums, and how many elements saturated
or overflowed. -/
structure MoutR where
  code : Nat → Nat → Nat
  vmax : Nat → Nat
  vsum : Nat → Nat
  sats : Nat

def moutOf (d : Dev) (c : Nat) (x : QEnt) (s : Nat) : MoutR :=
  let a := x.f0 8 5
  let st := d.acc c a
  let t := (DType.ofCode (x.f0 16 4)).getD .int8
  let rnd := (Rnd.ofCode (x.f0 14 2)).getD .rne
  let b (n : Nat) := d.num (clmAt c (x.f1 17 17 * 32) + 4 * n) 4
  let v (m n : Nat) : Nat × Bool :=
    if bitAt x.w0.toNat 20 then biased st.fp (d.accElt c a m n) (b n) else (d.accElt c a m n, false)
  let src : DType := if st.fp then .fp32 else .int32
  let val (m n : Nat) := decodeElt src (v m n).1
  let u (m n : Nat) := drawH s (m * 64 + n)
  let row (m : Nat) := (List.range st.cols).map fun n => (v m n).1
  { code := fun m n => if t = src then (v m n).1 else encodeElt t rnd (u m n) (val m n)
    vmax := fun m => if m < st.rows then rowMax st.fp (row m) else 0
    vsum := fun m => if m < st.rows then rowAdd st.fp (row m) else 0
    sats := (((List.range st.rows).flatMap fun m => (List.range st.cols).map fun n =>
      (if (v m n).2 then 1 else 0) + (if t != src && encodeSat t rnd (u m n) (val m n) then 1 else 0))).foldl (· + ·) 0 }

/-- The row-statistics area written (R221): the halves its bits select, which alone a poisoned input marks: R222 has every granule of the
area marked, R221 and R77 what is written (DESIGN CHOICE, log 106). -/
def Dev.writeStats (d : Dev) (c : Nat) (x : QEnt) (r : MoutR) (p : Bool) : Dev :=
  let a := clmAt c (x.f1 34 17 * 32)
  let half (f : Nat → Nat) := (List.range 64).flatMap fun m => leBytes 4 (f m)
  let d := if bitAt x.w0.toNat 21 then d.store a (half r.vmax) p else d
  if bitAt x.w0.toNat 22 then d.store (a + 256) (half r.vsum) p else d

/-- MOUT starts (R219 to R223). -/
def moutStart (_now c : Nat) (_det : Det) (d : Dev) (x : QEnt) : EngOut :=
  let a := x.f0 8 5
  let dst := x.f0 24 2
  let ring := d.ring c (dst - 1)
  let bias := bitAt x.w0.toNat 20
  let stats := bitAt x.w0.toNat 21 || bitAt x.w0.toNat 22
  if moutBad x then .refuse eArg
  else if d.accBusy c a then .wait (d.why c 2)
  else
    let st := d.acc c a
    let t := (DType.ofCode (x.f0 16 4)).getD .int8
    let d1 := if x.f0 14 2 = 2 then d.advance c else d
    let r := moutOf d c x (d1.lfsr c)
    let pb := bias && d.poisoned (clmAt c (x.f1 17 17 * 32)) 256
    let pa := d.accPoisoned c a
    let o := d1.outTile c (bitAt x.w0.toNat 23) t (pa || pb) false st.rows st.cols r.code
    let at_ := if dst = 0 then clmAt c (x.f1 0 17 * 32) else ring.at c ring.tail
    let rs := refusal [(dst = 0 ∧ clmSize < x.f1 0 17 * 32 + o.2.length, eRange),
      (bias ∧ clmSize < x.f1 17 17 * 32 + 256, eRange), (stats ∧ clmSize < x.f1 34 17 * 32 + 512, eRange),
      (dst ≠ 0 ∧ ring.mode ≠ 2 ∧ ring.mode ≠ 3, eState)]
    if rs ≠ sOk then .refuse rs
    else if dst ≠ 0 ∧ !ring.fits o.2 then .stop d eRange
    else if dst ≠ 0 ∧ !ring.room then .wait (d.why c 1)
    else
      let d2 := if dst = 0 then o.1.writeTile at_ o.2 (pa || pb) else o.1.publish c (dst - 1) o.2 (pa || pb) 3 []
      let d2 := if stats then d2.writeStats c x r (pa || pb) else d2
      let d2 := d2.bump .CORE_ME_CVTSAT [c] r.sats
      .done (d2.consumed c x.job [pa, pb]) ([(at_, o.2.length)] ++
        (if stats then [(clmAt c (x.f1 34 17 * 32), 512)] else [])) 0

/-- MOUT (R219 to R223). -/
def execMout (c : Nat) (det : Det) (s : State) : Out1 :=
  s.run fun m => m.runInsn c false det (fun x => x.opc = 3) (moutStart m.und.now c det)

/-- MPRED's fields that are refused with E_ARG (R242). -/
def mpredBad (x : QEnt) : Bool :=
  let rank := x.f0 16 7 + 1
  x.f0 14 2 != 0 || x.f1 53 11 != 0 ||
  if bitAt x.w0.toNat 13 then
    x.f0 8 5 != 0 || x.f0 16 7 != 0 || x.f0 32 32 != 0 || x.f1 17 17 != 0 || x.f1 34 19 != 0
  else (64 < rank && (x.f0 8 5 == 31 || x.f1 17 17 == 0)) || (rank ≤ 64 && x.f1 17 17 != 0)

/-- Audit store entry `i` (R244). -/
def Dev.audit (d : Dev) (c i : Nat) : Option Nat := SMap.get none (d.core c).me.audit i
def Dev.setAudit (d : Dev) (c i : Nat) (v : Option Nat) : Dev :=
  d.modCore c fun k => { k with me := { k.me with audit := k.me.audit.put none i v } }

/-- MPRED with MODE PREDICT whose tiles have been read (R243, R244, R248). -/
def predict (d : Dev) (c : Nat) (x : QEnt) (v1 v2 : List Byte) (p1 p2 : Bool) : EngOut :=
  let a := x.f0 8 5
  let rank := x.f0 16 7 + 1
  let st := d.acc c a
  let h (q b : Nat) : Nat :=
    let i := if q < 64 then a else a + 1
    encodeElt .bf16 .rne 0 (decodeElt (if (d.acc c i).fp then .fp32 else .int32) (d.accElt c i (q % 64) b))
  let rows := (TileHdr.parse v1).rows
  let p := predBits rows st.cols (x.f0 32 32) (predSum rank v1 v2 h)
  let ps := [p1, p2, d.accPoisoned c a, decide (64 < rank) && d.accPoisoned c (a + 1)]
  let word := if (d.job x.job).obs then 2 ^ rows - 1 else p
  let at_ := clmAt c (x.f1 34 19 * 8)
  let d' := (d.setAudit c (x.f0 23 8) (some p)).store at_ (leBytes 8 word) (ps.any id)
  let d' := (d'.bump .CORE_MQ_PRED [c]).bump .CORE_MQ_ACTIVE [c] (popCount 64 p)
  let d' := d'.bump .CORE_BADIDX [c] (tileDropped v1 + if 64 < rank then tileDropped v2 else 0)
  .done (d'.consumed c x.job ps) [(at_, 8)] (8 + 16 * ceilDiv rank 8)

/-- MPRED with MODE PREDICT starts (R242 to R244). -/
def predictStart (_now c : Nat) (_det : Det) (d : Dev) (x : QEnt) : EngOut :=
  let two := decide (64 < x.f0 16 7 + 1)
  if mpredBad x then .refuse eArg
  else if d.accBusy c (x.f0 8 5) || (two && d.accBusy c (x.f0 8 5 + 1)) then .wait (d.why c 2)
  else
    let r1 := d.clmTile c (x.f1 0 17 * 32)
    let r2 := if two then r1.1.clmTile c (x.f1 17 17 * 32) else r1
    let notBf (f : Fetch) : Bool := match f with | .tile bs _ => (TileHdr.parse bs).dt != .bf16 | _ => false
    let st (f : Fetch) : Nat := match f with | .refuse s => s | _ => sOk
    let rs := refusal [(notBf r1.2, eArg), (notBf r2.2, eArg), (st r1.2 != sOk, st r1.2), (st r2.2 != sOk, st r2.2)]
    if rs ≠ sOk then .refuse rs
    else match r1.2, r2.2 with
      | .tile a pa, .tile b pb => predict r2.1 c x a b pa (two && pb)
      | _, _ => .fault r2.1 .clm

/-- MPRED with MODE PREDICT (R242 to R244). -/
def execMpredPredict (c : Nat) (det : Det) (s : State) : Out1 :=
  s.run fun m => m.runInsn c false det (fun x => x.opc = 2 ∧ !bitAt x.w0.toNat 13) (predictStart m.und.now c det)

/-- MPRED with MODE OBSERVE starts (R247). -/
def observeStart (_now c : Nat) (_det : Det) (d : Dev) (x : QEnt) : EngOut :=
  if mpredBad x then .refuse eArg
  else
    let r := d.clmTile c (x.f1 0 17 * 32)
    match r.2 with
    | .wait => .wait r.1
    | .refuse st => .refuse st
    | .fault => .fault r.1 .clm
    | .tile bs pz =>
      let h := TileHdr.parse bs
      let es := (tileEntries bs).filter fun e => !isZeroElt h.dt e.code
      let o := (((List.range h.rows).filter fun j => es.any fun e => e.row == j).map (2 ^ ·)).foldl (· + ·) 0
      let cnt (v : Nat) := popCount 64 v
      let d1 := (r.1.bump .CORE_BADIDX [c] (tileDropped bs)).consumed c x.job [pz]
      match d.audit c (x.f0 23 8) with
      | none => .done d1 [] 0
      | some p =>
        let d2 := d1.setAudit c (x.f0 23 8) none
        if (d.job x.job).obs then
          .done (((d2.bump .CORE_MQ_TP [c] (cnt (p &&& o))).bump .CORE_MQ_FN [c] (cnt o - cnt (p &&& o))).bump
            .CORE_MQ_FP [c] (cnt p - cnt (p &&& o))) [] 0
        else .done ((d2.bump .CORE_MQ_LTP [c] (cnt (p &&& o))).bump .CORE_MQ_LFP [c] (cnt p - cnt (p &&& o))) [] 0

/-- MPRED with MODE OBSERVE (R247). -/
def execMpredObserve (c : Nat) (det : Det) (s : State) : Out1 :=
  s.run fun m => m.runInsn c false det (fun x => x.opc = 2 ∧ bitAt x.w0.toNat 13) (observeStart m.und.now c det)

/-- A matrix instruction in progress retires: its place frees and a SIG completion is signalled (R192, R194, R380). -/
def execMeRetire (c i : Nat) (s : State) : Out1 := s.run fun m => m.onDev fun d => (d.retireAt m.und.now c .me i).seAfter m.und.now c

end Sys2Proof.Machine
end

