-- ==== Sys2Proof/Machine/Module.lean ====
section
/-! DEFINITION. I3C management, the sideband of the fabric connectors, and the reference clocks (spec/20 R651 to R660). -/

namespace Sys2Proof.Machine

/-! ### I3C management (R659, R660) -/

/-- The target's static address: SLOT on its pins. -/
def Mgmt.static (g : Mgmt) : Nat := 0x50 + g.slot % 8

/-- An address that the target answers a transfer at: its dynamic one, or before it has one its static one; not in OFF. -/
def Mach.i3cMine (m : Mach) (a : Nat) : Bool :=
  m.und.st != .off && (if m.und.mgmt.i3cAddr = 0 then a == m.und.mgmt.static else a == m.und.mgmt.i3cAddr)

def Mach.onMgmt (m : Mach) (f : Mgmt → Mgmt) : Mach := m.onUnd fun u => { u with mgmt := f u.mgmt }

/-- What a management offset names: bit 15 selects the block, UND_ or TEL_. -/
def i3cOff (p : Nat) : Nat := (if bitAt p 15 then 0x30000 else 0x10000) + p % 2 ^ 15

/-- The offset after a register has been read: it stays in its block. -/
def i3cStep (p : Nat) : Nat := p / 2 ^ 15 * 2 ^ 15 + (p + 8) % 2 ^ 15

/-- A write by I3C management: three registers take it, others are dropped and counted. -/
def Mach.i3cWrite (m : Mach) (o v : Nat) : Mach :=
  match regAt o with
  | some (.UND_CTL, _) | some (.UND_EVFLAG, _) | some (.UND_MRECCTL, _) => m.writeReg .priv none o 8 v
  | _ => m.regErr

/-- A private write: two bytes of offset, low byte first, and eight bytes of data or none. -/
def execI3cPrivateWrite (addr : Nat) (bs : List Byte) (s : State) : Out1 :=
  s.run fun m =>
    if !m.i3cMine addr || bs.length < 2 then m
    else
      let p := recNum bs 0 2
      let m := m.onMgmt fun g => { g with i3cPtr := p }
      if bs.length = 10 then m.i3cWrite (i3cOff p) (recNum bs 2 8) else m

/-- Eight bytes from the offset on: the register there, or zeros (R660), which count as any read of a reserved offset or of another
alignment does (R12, R633). -/
def Mach.i3cReg (m : Mach) : Mach × List Byte :=
  let p := m.und.mgmt.i3cPtr
  let r := m.readReg .priv none (i3cOff p) 8
  (r.1.onMgmt fun g => { g with i3cPtr := i3cStep p }, leBytes 8 r.2)

def Mach.i3cRegs (m : Mach) : Nat → Mach × List Byte
  | 0 => (m, [])
  | n + 1 =>
    let r := m.i3cReg
    let q := r.1.i3cRegs n
    (q.1, r.2 ++ q.2)

/-- A private read of `n` bytes. -/
def execI3cPrivateRead (addr n : Nat) (s : State) : Out1 :=
  s.run fun m =>
    if !m.i3cMine addr then m
    else
      let r := m.i3cRegs (ceilDiv n 8)
      r.1.emit (.i3c (r.2.take n))

/-- ENTDAA: a target without a dynamic address takes the one it is given. -/
def execEntdaa (addr : Nat) (s : State) : Out1 :=
  s.run fun m =>
    if m.und.st = .off ∨ m.und.mgmt.i3cAddr ≠ 0 ∨ addr = 0 ∨ 128 ≤ addr then m else m.onMgmt fun g => { g with i3cAddr := addr }

/-- SETDASA: the target with this static address takes a dynamic one. -/
def execSetdasa (static addr : Nat) (s : State) : Out1 :=
  s.run fun m =>
    if m.und.st = .off ∨ m.und.mgmt.i3cAddr ≠ 0 ∨ static ≠ m.und.mgmt.static ∨ addr = 0 ∨ 128 ≤ addr then m
    else m.onMgmt fun g => { g with i3cAddr := addr }

/-- RSTDAA: the dynamic address is given up. -/
def execRstdaa (s : State) : Out1 := s.run fun m => if m.und.st = .off then m else m.onMgmt fun g => { g with i3cAddr := 0 }

/-- A read of `n` bytes that the I3C standard gives the target, from its `k`th on. -/
def Mach.i3cStd (m : Mach) (addr k n : Nat) : Mach :=
  if m.i3cMine addr then m.emit (.i3c ((List.range n).map fun i => Config.i3cStdByte (k + i))) else m

def execGetpid (addr : Nat) (s : State) : Out1 := s.run fun m => m.i3cStd addr 0 6
def execGetbcr (addr : Nat) (s : State) : Out1 := s.run fun m => m.i3cStd addr 6 1
def execGetdcr (addr : Nat) (s : State) : Out1 := s.run fun m => m.i3cStd addr 7 1

/-- GETSTATUS: two bytes that the standard defines. -/
def execGetstatus (addr : Nat) (s : State) : Out1 :=
  s.run fun m =>
    if !m.i3cMine addr then m
    else m.onDev fun d => (d.emit (.i3c [Config.freeByte d.fresh, Config.freeByte (d.fresh + 1)])).useFree 2

/-! ### Fabric connectors (R653) -/

/-- A cable is inserted or removed: VAUX_3V3 follows CPRS_N, and without a cable the connector's ports lose link. A connector that the
part leaves unconnected does nothing (R31). -/
def execCprsNChange (k : Nat) (present : Bool) (s : State) : Out1 :=
  s.run fun m =>
    if !s.fuse.conn k then m
    else
      let m := m.onMgmt fun g => { g with cprs := setBits g.cprs k 1 (if present then 1 else 0) }
      if present then m else m.portsDown fun n => n / 4 == k

/-- A connector's VAUX_3V3 is on: from entry to LINKUP, with a cable, until an overcurrent cuts it. -/
def Mach.vauxOn (m : Mach) (k : Nat) : Bool := m.und.st.serves && bitAt m.und.mgmt.cprs k && !bitAt m.und.mgmt.vauxOff k

/-- A load above 2.0 A cuts a connector's supply until the next entry to LINKUP, and its ports lose link. -/
def execVauxOvercurrent (k : Nat) (s : State) : Out1 :=
  s.run fun m =>
    if !s.fuse.conn k || !m.vauxOn k then m
    else (m.onMgmt fun g => { g with vauxOff := setBits g.vauxOff k 1 1 }).portsDown fun n => n / 4 == k

/-- A cable assembly asserts C_INT_N: the module services the attached module per CMIS, over the connector's two-wire bus. -/
def execCIntN (k : Nat) (s : State) : Out1 :=
  s.run fun m =>
    if s.fuse.conn k && m.vauxOn k && (List.range 4).any (fun j => m.dev.portMode (4 * k + j) != 0 && m.dev.cfgF .ETH_PORT [4 * k + j] 3 1 == 1) then
      m.emit (.test 0xC315 (leBytes 1 k))
    else m

/-! ### Reference clocks (R658) -/

/-- SDCLK is lost: every port loses link. -/
def execSdclkLoss (s : State) : Out1 :=
  s.run fun m => ({ m with und := { m.und with sdclk := false } } : Mach).portsDown fun _ => true

/-- SDCLK returns: every port that is not DOWN starts retraining. -/
def execSdclkReturn (s : State) : Out1 :=
  s.run fun m =>
    let m : Mach := { m with und := { m.und with sdclk := true } }
    if m.und.st.serves then
      m.onDev fun d => (List.range 36).foldl (fun d n =>
        if d.portMode n != 0 && (d.port n).up == 0 then d.modPort n fun p => { p with training := true } else d) d
    else m

/-- REFCLK is lost: the CXL link goes down. -/
def execRefclkLoss (s : State) : Out1 :=
  s.run fun m => ({ m with und := { m.und with refclk := false } } : Mach).cxlDown

/-- REFCLK returns: the CXL port may train again. -/
def execRefclkReturn (s : State) : Out1 := s.run fun m => { m with und := { m.und with refclk := true } }

end Sys2Proof.Machine
end

