-- ==== Sys2Proof/Machine/Streams.lean ====
section
/-! DEFINITION. Stream engine commands, Armature steps, transfers and producers (spec/09). -/

namespace Sys2Proof.Machine

/-- The command at the front of a stream queue, when its code is `k` and no DISARM is in progress. -/
def Dev.seHead (d : Dev) (c s : Nat) (k : Nat → Bool) : Option QEnt :=
  match d.queue c (.se s) with
  | x :: _ => if k x.cmd && !(d.se c s).closing then some x else none
  | [] => none

/-- ARM (R284, R288): also where a code outside R282, or a CHAIN given to SE1, is refused with E_ARG. -/
def execArm (c s : Nat) (st : State) : Out1 :=
  st.run fun m => m.onDev fun d =>
    let now := m.und.now
    match d.seHead c s (fun k => k != 2 && k != 3 && (k != 4 || s != 0)) with
    | none => d
    | some x =>
      if x.cmd ≠ 1 then (d.seRefuse now c s x eArg).seAfter now c
      else
        let bad := if x.bad ≠ 0 then x.bad else d.armBad c x.rcd
        let bad := if bad ≠ sOk then bad else if (d.ring c s).mode ≠ 0 then eState else sOk
        if bad ≠ sOk then (d.seRefuse now c s x bad).seAfter now c
        else ((d.modRing c s fun _ => d.armRing c x.job 0 x.rcd).seOk now c s x).seAfter now c

/-- REARM (R300): bytes of the record that must be zero; a third pending one waits in the queue; a program already at its
end starts again at once. -/
def execRearm (c s : Nat) (st : State) : Out1 :=
  st.run fun m => m.onDev fun d =>
    let now := m.und.now
    match d.seHead c s (· == 2) with
    | none => d
    | some x =>
      let r := d.ring c s
      let f := recNum x.rcd
      let bad := if x.bad ≠ 0 then x.bad
        else if 16 ≤ f 32 1 ∨ f 33 31 ≠ 0 ∨ f 7 1 ≠ 0 ∨ f 15 1 ≠ 0 ∨ f 23 1 ≠ 0 ∨ f 31 1 ≠ 0 then eArg
        else if r.mode ≠ 1 ∧ r.mode ≠ 3 then eState
        else sOk
      if bad ≠ sOk then d.seRefuse now c s x bad
      else if 2 ≤ r.rearms.length then d
      else
        let d := (d.modRing c s fun r => { r with rearms := r.rearms ++ [x.rcd] }).seOk now c s x
        if r.ended then d.rearmNow c s else d

/-- DISARM (R301). A ring that is not armed is disarmed already. -/
def execDisarm (c s : Nat) (st : State) : Out1 :=
  st.run fun m => m.onDev fun d =>
    let now := m.und.now
    match d.seHead c s (· == 3) with
    | none => d
    | some _ =>
      let h := (d.ring c s).chain
      let d := (d.disarm now c s).modSe c s fun e => { e with closing := true }
      let d := d.modChain c h (·.setOff s)
      (d.geAll now c).seAfter now c

/-- CHAIN (R302, R303): a third one waits while two are in flight (R304). -/
def execChain (c : Nat) (st : State) : Out1 :=
  st.run fun m => m.onDev fun d =>
    let now := m.und.now
    match d.seHead c 0 (· == 4) with
    | none => d
    | some x =>
      if 2 ≤ (d.se c 0).chains.length then d
      else
        let bad := d.chainStatus c x
        if bad ≠ sOk then d.seRefuse now c 0 x bad
        else
          let d := d.setQueue c (.se 0) (dropAt 0 (d.queue c (.se 0)))
          let d := d.modSe c 0 fun e => { e with
            chains := e.chains ++ [{ id := e.nextChain, rcd := x.rcd, ent := x }]
            nextChain := e.nextChain + 1 }
          d.seAfter now c

/-- LOOP opens a level (R291). -/
def execStreamLoop (c s : Nat) (st : State) : Out1 :=
  st.run fun m => m.onDev fun d =>
    match d.armNow c s 1 with
    | none => d
    | some w =>
      d.modRing c s fun r => { r with
        loops := ⟨armF w 4 3, r.pc, 0, armF w 8 24, sext 32 (armF w 32 32)⟩ :: r.loops
        pc := r.pc + 1 }

/-- NEXT returns to its LOOP until the count is spent (R291). -/
def execStreamNext (c s : Nat) (st : State) : Out1 :=
  st.run fun m => m.onDev fun d =>
    match d.armNow c s 2 with
    | none => d
    | some _ =>
      d.modRing c s fun r =>
        match r.loops with
        | [] => { r with pc := r.pc + 1 }
        | l :: rest =>
          if l.i + 1 < l.count then { r with loops := { l with i := l.i + 1 } :: rest, pc := l.pc + 1 }
          else { r with loops := rest, pc := r.pc + 1 }

/-- A FETCH producer may begin the tail slot, or begin it again before its ADV (R287, R292). -/
def Ring.mayLoad (r : Ring) : Bool := r.room || ((r.slot r.tail).st != 0 && !(r.slot r.tail).adv)

/-- The engine number of a stream for stalls. -/
def seNum (s : Nat) : Nat := 2 + s

/-- LOAD begins to read a tile into the tail slot (R292, R299). -/
def execStreamLoad (c s : Nat) (st : State) : Out1 :=
  st.run fun m => m.onDev fun d =>
    let now := m.und.now
    match d.armNow c s 3 with
    | none => d
    | some w =>
      let r := d.ring c s
      let a := r.addr (armF w 4 2) (armOff w)
      let ck : RouteCheck := match d.remoteOf a with | some k => d.routeCheck k | none => .send
      if a % 32 ≠ 0 then d.armFail now c s eAlign
      else if !r.mayLoad then d.stallOn now c (seNum s) 1
      else if !d.mayFetch c s then d
      else match ck with
        | .refuse st => d.armFail now c s st
        | .lost => d.endJob now r.job .fault
        | .send =>
          let i := r.tail
          let d := (d.stallEnd now c (seNum s)).modSe c s fun e => { e with
            xfers := e.xfers.map fun x => if !x.store && x.slot == i then { x with slot := 16 } else x }
          let d := d.modRing c s fun r => r.setSlot i { st := 1, kind := 0, src := [a, armF w 6 1] }
          (d.startLoad now c s i a).armNext c s

/-- GATH hands lookups to the gather engine; the program goes on once their tiles are published (R293). A table held by a
drain holds the step (R564). -/
def execStreamGath (c s : Nat) (st : State) : Out1 :=
  st.run fun m => m.onDev fun d =>
    let now := m.und.now
    match d.armNow c s 4 with
    | none => d
    | some w =>
      let r := d.ring c s
      let a := r.addr (armF w 4 2) (armOff w)
      let t := armF w 8 12
      let n := armF w 20 7
      let idx4 := armF w 6 1
      if a % 8 ≠ 0 then d.armFail now c s eAlign
      else if !d.listOk a (n * (if idx4 = 1 then 4 else 6)) then d.armFail now c s eRange
      else if !tdValid (d.tdesc t) then d.armFail now c s eState
      else if d.heldTable t then d.holdTable t (2 ^ 44 + c * 2 + s)
      else
        let d := d.addCmd c (gathCmd d { job := r.job } s a idx4 t n)
        (d.armNext c s).coreAfter now c

/-- GBMP gathers the neuron rows that a bitmap selects (R245, R295); the bitmap is read when the step starts. -/
def execStreamGbmp (c s : Nat) (st : State) : Out1 :=
  st.run fun m => m.onDev fun d =>
    let now := m.und.now
    match d.armNow c s 5 with
    | none => d
    | some w =>
      let r := d.ring c s
      let a := r.addr (armF w 4 2) 0
      let dt := (if armF w 6 2 = 0 then 1 else 2 + armF w 6 2)
      let kt := r.index (armF w 8 3)
      let words := armF w 12 12
      let inw := armF w 24 16
      let bm := armF w 40 19 * 8
      if a % 256 ≠ 0 then d.armFail now c s eAlign
      else if inw ≤ 64 * kt ∨ clmSize < bm + 8 * words ∨ (d.remoteOf a).isSome then d.armFail now c s eRange
      else
        let ns := (List.range words).flatMap fun t => (bitList 64 (d.num (clmAt c (bm + 8 * t)) 8)).map (64 * t + ·)
        let bad := d.poisoned (clmAt c bm) (8 * words)
        let d := if bad then d.poisonIn c r.job else d
        let g := gbmpCmd { job := r.job } s a dt (min 64 (inw - 64 * kt)) ns
        let d := if ns.isEmpty then d else d.addCmd c { g with mark := bad, poison := bad }
        (d.armNext c s).coreAfter now c

/-- The head slot as a STORE takes it: a slot with a detected error, or whose tile is malformed, has no source to read again: it is
poisoned and counted (R306). The second part says whether the tile may still be Chiselled. -/
def Dev.headSlot (d : Dev) (c s : Nat) (det : Det) : Dev × Bool :=
  let r := d.ring c s
  let a := r.at c r.head
  let bs := d.tileBytes a
  let hit := det == .once .slot || det == .twice .slot
  let good := tileGood bs && r.fits bs
  let marked := d.poisoned a (r.slot64 * 64) && tileFlagsPoison bs
  let d := if good || marked then d else d.bump .CORE_TILEERR [c]
  (if (!good && !marked) || hit then
    ((d.poke a (poisonTile (d.bytes a 32))).markSlot c s r.head).bump .CORE_SE_BADSLOT [c]
   else d, good && !hit)

/-- The tile of the head slot as it goes out: its bytes, after Chisel where the step asks for it, and whether it is poisoned. A place that a
CSR tile lists more than once is stored compressed as `tileCode` reads it: no rule speaks of it (DESIGN CHOICE, log 72). -/
def Dev.headTile (d : Dev) (c s : Nat) (chisel : Bool) : Dev × List Byte × Bool :=
  let r := d.ring c s
  let a := r.at c r.head
  let bs := (d.tileBytes a).take (r.slot64 * 64)
  let pois := d.poisoned a (r.slot64 * 64) && tileFlagsPoison (d.tileBytes a) || d.tilePoisoned a bs
  let h := TileHdr.parse bs
  let out : Dev × List Byte :=
    if chisel then d.chiselOut c h.dt pois (bitAt h.flags 2) h.rows h.cols fun i j => tileCode bs i j
    else (d, if pois then poisonTile bs else bs)
  (out.1, out.2, pois)

/-- A remote STORE of a ring is outstanding; of the head slot alone where asked. -/
def Dev.storeAway (d : Dev) (c s : Nat) (head : Bool) : Bool :=
  (d.se c s).xfers.any fun x => x.store && (d.remoteOf x.addr).isSome && (!head || x.slot == (d.ring c s).head)

/-- A step of a DRAIN program waits: for its head slot (R308), or, with remote STOREs outstanding, on Salrex. -/
def Dev.drainWait (d : Dev) (now c s : Nat) (head : Bool) : Dev :=
  if !(d.ring c s).headReady then (d.useFree 1).stallOn now c (seNum s) (d.dataCause c s)
  else if d.storeAway c s head then d.stallOn now c (seNum s) 5
  else d

/-- What a STORE does once it may begin (R296, R306). -/
def Dev.storeStep (d : Dev) (now c s a : Nat) (chisel : Bool) (det : Det) : Dev :=
  let h := d.headSlot c s det
  let x := h.1.headTile c s (chisel && h.2)
  let d := if x.2.2 then x.1.poisonIn c (d.ring c s).job else x.1
  let ck : RouteCheck := match d.remoteOf a with | some k => d.routeCheck k | none => .send
  match ck with
  | .refuse st => d.armFail now c s st
  | .lost => d.endJob now (d.ring c s).job .fault
  | .send =>
    if (d.remoteOf a).isNone && !d.rangeOk (dlaOf a) x.2.1.length then d.armFail now c s eRange
    else (d.startStore now c s a x.2.1 x.2.2).armNext c s

/-- STORE begins to write the head slot's tile to its address (R296). -/
def execStreamStore (c s : Nat) (det : Det) (st : State) : Out1 :=
  st.run fun m => m.onDev fun d =>
    match d.armNow c s 6 with
    | none => d
    | some w =>
      let r := d.ring c s
      let a := r.addr (armF w 4 2) (armOff w)
      if a % 32 ≠ 0 then d.armFail m.und.now c s eAlign
      else if !r.headReady || !(d.se c s).room then d.drainWait m.und.now c s false
      else (d.stallEnd m.und.now c (seNum s)).storeStep m.und.now c s a (bitAt w.toNat 6) det

/-- ADV publishes the tail slot after a LOAD, or releases the head slot once its STOREs have completed (R297). -/
def execStreamAdv (c s : Nat) (st : State) : Out1 :=
  st.run fun m => m.onDev fun d =>
    let now := m.und.now
    match d.armNow c s 7 with
    | none => d
    | some _ =>
      let r := d.ring c s
      if r.mode = 1 then
        let x := r.slot r.tail
        if x.st = 0 ∨ x.adv then d.armFail now c s eState
        else
          let d := if x.st = 2 then d.bump .CORE_SE_TILES [c] else d
          (d.modRing c s fun r => { r.setSlot r.tail { x with adv := true } with tail := r.nextSlot r.tail }).armNext c s
      else if !r.headReady || (d.se c s).xfers.any (fun x => x.store && x.slot == r.head) then d.drainWait now c s true
      else (((d.stallEnd now c (seNum s)).modRing c s Ring.release).armNext c s).coreAfter now c

/-- WAIT holds the program until a sync object of this module reaches its value: its monitor is armed when the step begins, and
the program goes on once the token has come (R298, R403, R409). -/
def execStreamWait (c s : Nat) (st : State) : Out1 :=
  st.run fun m => m.onDev fun d =>
    let now := m.und.now
    match d.armNow c s 8 with
    | none => d
    | some w =>
      let e := d.se c s
      let d :=
        if e.waiting then d
        else if d.syncBroken (armF w 4 17) then d.endJob now e.ring.job .fault
        else
          let d := d.modSe c s fun e => { e with waiting := true, waitDone := false, waitTick := some (d.watchTick now e.ring.job) }
          (d.syncWait now ⟨armF w 4 17, bitAt w.toNat 21, BitVec.ofNat 64 (armF w 32 32), .stream c s, now⟩).stallOn now c (seNum s) 6
      if (d.se c s).waitDone then
        ((d.modSe c s fun e => { e with waiting := false, waitDone := false, waitTick := none }).armNext c s).stallEnd now c (seNum s)
      else d

/-- SIGNAL adds to a sync object once the earlier fills are published, or the earlier stores complete (R298); with a remote one outstanding
it waits on Salrex (R308). -/
def execStreamSignal (c s : Nat) (st : State) : Out1 :=
  st.run fun m => m.onDev fun d =>
    let now := m.und.now
    match d.armNow c s 9 with
    | none => d
    | some w =>
      let e := d.se c s
      let open_ := (List.range e.ring.nslots).any fun i => (e.ring.slot i).st != 0 && ((e.ring.slot i).st == 1 || !(e.ring.slot i).adv)
      if e.xfers.isEmpty && (e.ring.mode == 3 || !open_) then
        if d.syncBroken (armF w 4 17) then d.endJob now e.ring.job .fault
        else (((d.stallEnd now c (seNum s)).armNext c s).syncAdd now (armF w 4 17) (BitVec.ofInt 64 (sext 32 (armF w 32 32))))
      else if d.storeAway c s false then d.stallOn now c (seNum s) 5
      else d

/-- END: the program stays at its end, or runs again with a pending REARM (R300). -/
def execStreamEnd (c s : Nat) (st : State) : Out1 :=
  st.run fun m => m.onDev fun d =>
    match d.armNow c s 0 with
    | none => d
    | some _ => (d.rearmNow c s).seAfter m.und.now c

/-- A detection that a local LOAD's read meets: of a core's window (R207, R440), whose second failure ends the job, or of the Canopy line or
Clearing granule, which ends it where it is marked (R430). True when the job has ended. -/
def Mach.loadDetect (m : Mach) (c s a : Nat) (det : Det) : Mach × Bool :=
  match m.dev.target a with
  | .core k off =>
    if m.dev.winOff k then (m, false)
    else
      let r := m.dev.winDetect k off det
      if r.2 then (({ m with dev := r.1 }).coreFault k (m.dev.ring c s).job (if winOf off == Win.clm then 1 else 2), true)
      else ({ m with dev := r.1 }, false)
  | _ => match det with
    | .once .canopy | .twice .canopy =>
      let r := m.canopyDetect a
      (if r.2 then r.1.onDev fun d => d.endJob m.und.now (m.dev.ring c s).job .fault else r.1, r.2)
    | _ => (m, false)

/-- What a transfer's reading finds, by its code (R606, R607): 0 nothing, 1 to 12 a structure's error that the retry corrects, 13 to 24 one
that it meets again (DESIGN CHOICE, log 9). -/
def Sram.ofCode (n : Nat) : Sram :=
  [Sram.clm, .acm, .slot, .laneQ, .residue, .regFile, .mergeBuf, .threadSlot, .l1, .canopy, .syncUnit, .understory].getD n .clm
def Det.ofCode (n : Nat) : Det :=
  if n = 0 ∨ 24 < n then .none else if n ≤ 12 then .once (Sram.ofCode (n - 1)) else .twice (Sram.ofCode (n - 13))

/-- A stream transfer's data arrives, or its local store completes (R299); one of an accumulator in use waits (R224), and so does one that
a regulator or a controller makes wait (R472, R476). -/
def execStreamTransferComplete (c s ref : Nat) (st : State) : Out1 :=
  st.run fun m =>
    let id := ref / 32
    let now := m.und.now
    let d := m.dev
    match d.xfer? c s id with
    | none => m
    | some x =>
      let a := x.span.1
      let n := x.span.2
      if (d.remoteOf x.addr).isSome || (x.ph != 0 && x.ph != 2) then m
      else if d.heldRange a n then m.onDev fun d => d.holdRange a n (2 ^ 45 + c * 2 ^ 24 + s * 2 ^ 23 + id)
      else if d.xferWait c s x != 0 then m
      else if d.spanBusy a n then m.onDev fun d => d.stallOn now c (seNum s) 2
      else
        let m := m.onDev fun d => if d.stalled c (seNum s) 2 then d.stallEnd now c (seNum s) else d
        if x.store then m.onDev fun d => (d.storeDone c s x).seAfter now c
        else if (d.ring c s).mode = 0 || x.slot = 16 then m.onDev fun d => (d.dropXfer c s id).seAfter now c
        else
          let r := m.loadDetect c s a (Det.ofCode (ref % 32))
          if r.2 then r.1.onDev fun d => (d.dropXfer c s id).seAfter now c
          else r.1.onDev fun d => (d.loadArrives now c s x).seAfter now c

/-- A producer that waited at the AHEAD limit or a full ring goes on once a slot is released (R287): the gather engine
publishes what it holds; instructions and program steps are tried again by their own commands. -/
def execRingProducerResume (c s : Nat) (st : State) : Out1 :=
  st.run fun m => m.onDev fun d =>
    let d := if (d.ring c s).room then d.stallEnd m.und.now c (seNum s) else d
    d.coreAfter m.und.now c

end Sys2Proof.Machine
end

