-- ==== Sys2Proof/Machine/Telemetry.lean ====
section
/-! DEFINITION. Sensors, power and its cap, the histogram latch, margining, traffic generators and test access (spec/19 R631 to
R647, spec/20 R662, R663). -/

namespace Sys2Proof.Machine

/-! ### Temperature (R635, R662, R663) -/

/-- Warning limit and shutdown limit of a sensor. -/
def sensorWarn (i : Nat) : Nat :=
  if i < 13 then 100 else if i = 13 then 95 else if i = 14 then 115 else if i = 15 then 41 else 55
def sensorShut (i : Nat) : Nat :=
  if i < 5 then 115 else if i < 13 then 110 else if i = 13 then 105 else if i = 14 then 125 else if i = 15 then 46 else 65

/-- What sensor `i` reads: HBM3E sensors repeat their stack controller, sensor 13 the hottest package; with the rails down only the
Plinth, the regulators and the coolant are read (R663; FAULT_HOLD too: DEDUCED, log 95). -/
def Mach.sensorNow (m : Mach) (temps : List Nat) (i : Nat) : Nat :=
  let low := m.und.st == .understory || m.und.st == .faultHold
  let unit (u : Nat) : Nat := (SMap.get {} m.dev.ext.units u).temp
  if low && i != 2 && i != 14 && i != 15 && i != 16 then 0
  else if 5 ≤ i ∧ i ≤ 12 then unit (i - 5)
  else if i = 13 then ((List.range 32).map fun p => unit (8 + p)).foldl max 0
  else temps.getD i 0 % 256

/-- One sensor's reading `t` taken in: its highest, its warning, and whether it reached its shutdown limit twice running. -/
def Mach.takeSensor (m : Mach) (t i : Nat) : Mach :=
  let x : Sensor := SMap.get {} m.und.sensors i
  let hot := decide (sensorShut i ≤ t)
  let raise := decide (sensorWarn i ≤ t) && !x.warned
  let warned := raise || (x.warned && decide (sensorWarn i ≤ t + 3))
  let y : Sensor := ⟨t, max x.max t, hot, warned⟩
  let m := m.onUnd fun u => { u with sensors := u.sensors.put {} i y }
  let m := if raise then m.event 0x0501 1 (evUnit 9 0) (i + t * 256) else m
  let live := match m.und.st with | .off | .understory | .faultHold => false | _ => true
  if hot && x.hot && live then m.faultHold 5 else m

/-- The Understory reads the sensors; a BOOT that waits for the coolant goes on at the first reading below its limit. -/
def execSensorRead (temps : List Nat) (s : State) : Out1 :=
  s.run fun m =>
    if m.und.st = .off then m
    else
      let m := m.atTime (roundUp m.und.now (100 * usT))
      let now := m.sensorNow temps
      let m := (List.range 17).foldl (fun m i => m.takeSensor (now i) i) m
      if m.und.st = .understory ∧ m.und.rails = 6 ∧ !m.und.inletHot then m.enterBoot else m

/-! ### Power and its cap (R636 to R638) -/

/-- The Understory samples the power of each rail group, in 0.1 W. -/
def execPowerSample (watts : List Nat) (s : State) : Out1 :=
  s.run fun m =>
    if m.und.st = .off then m
    else
      let m := m.atTime (roundUp m.und.now (10 * usT))
      m.onUnd fun u => { u with
        power := (List.range 6).foldl (fun p i =>
          let w := watts.getD i 0 % 65536
          p.mod {} i fun x => ⟨(w :: x.samples).take 100, max x.peak w⟩) u.power }

/-- The next cap level: `mean` is the mean input power over the last WINDOW_MS in 0.1 W, `warm` when a sensor is above its warning
limit. A level of 0 that would fall stays unchanged, and so rises when warm (DEDUCED, log 95). -/
def capNext (v mean l : Nat) (warm : Bool) : Nat :=
  let cap := bitsOf v 1 11 * 10
  if !bitAt v 0 then 0
  else if cap < mean then min 7 (l + 1)
  else if decide (mean * 16 < cap * 15) && l != 0 then (if warm then l else l - 1)
  else if warm then min 7 (l + 1) else l

/-- The cap level moves against CAP_W. -/
def execPowerCapStep (mean : Nat) (s : State) : Out1 :=
  s.run fun m =>
    if m.und.st = .off then m
    else
      let m := m.atTime (roundUp m.und.now (100 * usT))
      let warm := (List.range 17).any fun i => decide (sensorWarn i < (SMap.get {} m.und.sensors i).temp)
      m.onDev fun d =>
        let l := d.rd .TEL_PCAPST
        let l' := capNext (d.cfg .TEL_PCAP) mean l warm
        if l' = l then d else (d.wr .TEL_PCAPST [] l').bump .TEL_PCAPSTEP

/-- A window of 2,400 clk ends: the engines' occupancy allowances start again. -/
def execCapWindow (s : State) : Out1 :=
  s.run fun m =>
    let m := m.atTime (roundUp m.und.now (2400 * clkT))
    m.onDev fun d =>
      let d := if d.tel.capWait then d.bump .TEL_PCAPWIN else d
      d.onTel fun t => { t with capUsed := [], capWait := false }

/-! ### Registers as commands -/

/-- A write that starts something of this chapter, through the privileged view, where registers are served. -/
def Mach.telWrite (m : Mach) (r : Reg) (ix : List Nat) (v : Nat) : Mach :=
  if m.und.st.serves || m.und.st == .recovery then m.writeReg .priv none (r.off ix) 8 v else m

/-- GO written to TEL_HLATCH for a class. -/
def execHlatchGo (cls : Nat) (s : State) : Out1 := s.run fun m => m.telWrite .TEL_HLATCH [] (cls % 256 + 256)

/-- The snapshot is complete. -/
def execHlatchDone (s : State) : Out1 :=
  s.run fun m =>
    if m.dev.tel.latchAt = 0 then m
    else
      (m.atTime m.dev.tel.latchAt).onDev fun d =>
        (d.wr .TEL_HLATCH [] (setBits (d.rd .TEL_HLATCH) 9 1 1)).onTel fun t => { t with latchAt := 0 }

/-! ### Margining (R639, R640) -/

/-- GO written to TEL_MGCTL with its settings. -/
def execMarginGo (v : Word) (s : State) : Out1 := s.run fun m => m.telWrite .TEL_MGCTL [] (setBits v.toNat 36 1 1)

/-- DWELL_US passes: errors and bits compared ÷ 1,000 stand, the trained setting is back, and a memory's channel holds unspecified
values. -/
def execMarginDwellEnd (errors bitsK : Nat) (s : State) : Out1 :=
  s.run fun m =>
    let v := m.dev.rd .TEL_MGCTL
    if !bitAt v 37 then m
    else
      let kind := bitsOf v 0 2
      let num := bitsOf v 2 11
      (m.atTime (m.dev.tel.mgAt + bitsOf v 20 16 * usT)).onDev fun d =>
        if d.mgHere kind num then (d.mgScramble kind num).mgEnd sOk errors bitsK else d.mgEnd eState errors bitsK

/-! ### Traffic generators (R641, R642) -/

/-- GO written to TEL_MTG_CTL_g with MODE READ_BW. -/
def execMtgReadBw (g : Nat) (v : Word) (s : State) : Out1 :=
  s.run fun m => if g < 40 then m.telWrite .TEL_MTG_CTL [g] (setBits (setBits v.toNat 0 2 1) 5 1 1) else m

/-- GO written to TEL_MTG_CTL_g with MODE WRITE_CHECK. -/
def execMtgWriteCheck (g : Nat) (v : Word) (s : State) : Out1 :=
  s.run fun m => if g < 40 then m.telWrite .TEL_MTG_CTL [g] (setBits (setBits v.toNat 0 2 2) 5 1 1) else m

/-- DUR_US passes: 64-byte units transferred, granules that failed and the first of them stand; a run whose unit has left ends with
E_STATE. -/
def execMtgRunEnd (g units errors addr : Nat) (s : State) : Out1 :=
  s.run fun m =>
    let v := m.dev.rd .TEL_MTG_CTL [g]
    if 40 ≤ g ∨ !bitAt v 6 then m
    else
      (m.atTime (SMap.get 0 m.dev.tel.mtgAt g + bitsOf v 7 25 * usT)).onDev fun d =>
        let check := bitsOf v 0 2 == 2
        let e := if check then min errors (2 ^ 32 - 1) else 0
        let r := d.mtgRange g
        let d := if check then d.scrambleChans g r.1 r.2 (d.rd .TEL_MTG_CH [g]) else d
        let d := d.memBytes g d.maintPart (units * 64)
        let d := (d.wr .TEL_MTG_RES [g] units).wr .TEL_MTG_ERR [g] (e + (if d.unitHere g then sOk else eState) * 2 ^ 32)
        let d := d.wr .TEL_MTG_ERRADDR [g] (if e = 0 then 0 else addr % 2 ^ 44)
        d.wr .TEL_MTG_CTL [g] (setBits v 6 1 0)

/-- GO written to TEL_PTG_CTL_n with MODE LANE_PRBS. -/
def execPtgLanePrbs (n : Nat) (v : Word) (s : State) : Out1 :=
  s.run fun m => if n < 36 then m.telWrite .TEL_PTG_CTL [n] (setBits (setBits v.toNat 0 2 1) 5 1 1) else m

/-- GO written to TEL_PTG_CTL_n with MODE FRAMES. -/
def execPtgFrames (n : Nat) (v : Word) (s : State) : Out1 :=
  s.run fun m => if n < 36 then m.telWrite .TEL_PTG_CTL [n] (setBits (setBits v.toNat 0 2 2) 5 1 1) else m

/-- DUR_US passes: bits compared per lane ÷ 1,000 and the bit errors of each lane stand; or the frames sent, which count as frames of
the port. -/
def execPtgRunEnd (n count : Nat) (errs : List Nat) (s : State) : Out1 :=
  s.run fun m =>
    let v := m.dev.rd .TEL_PTG_CTL [n]
    if 36 ≤ n ∨ !bitAt v 6 then m
    else
      (m.atTime (SMap.get 0 m.dev.tel.ptgAt n + bitsOf v 16 32 * usT)).onDev fun d =>
        let d := (d.wr .TEL_PTG_CTL [n] (setBits v 6 1 0)).wr .TEL_PTG_RES [n, 0] count
        if bitsOf v 0 2 = 1 then
          let e (l : Nat) : Nat := if bitAt v (8 + l) then errs.getD l 0 % 2 ^ 32 else 0
          d.onTel fun t => { t with
            laneErr := (List.range 4).foldl (fun l i => l.put 0 (n * 4 + i) (e (2 * i) + e (2 * i + 1) * 2 ^ 32)) t.laneErr }
        else (d.bump .ETH_TXFRM [n] count).emit (.test 0x88B6 (leBytes 4 n ++ leBytes 4 count))

/-! ### Test access (R643) -/

/-- The code of a TAP instruction in the state: 0 is Test-Logic-Reset. -/
def tapCode : Tap → Nat
  | .bypass => 1 | .idcode => 2 | .sample => 3 | .sensors => 4 | .extest => 5 | .scan => 6 | .wrappers => 7 | .margin => 8
  | .traffic => 9 | .other => 10

/-- A TAP instruction: granted in RECOVERY; elsewhere only those that read. -/
def execTapInstruction (t : Tap) (s : State) : Out1 :=
  s.run fun m =>
    let open_ := match t with | .bypass | .idcode | .sample | .sensors => true | _ => false
    if m.und.st = .off then m
    else if m.und.st == .recovery || open_ then m.onUnd fun u => { u with mgmt := { u.mgmt with tap := tapCode t } }
    else (m.onUnd fun u => { u with mgmt := { u.mgmt with tap := tapCode .bypass } }).onDev fun d => d.bump .TEL_JTAGDENY

end Sys2Proof.Machine
end

