-- ==== Sys2Proof/Machine/VectorOps.lean ====
section
/-! DEFINITION. The vector engine's tensors: descriptors, sources, masks, destinations, checks and occupancy (spec/08 R258 to
R279). -/

namespace Sys2Proof.Machine

/-! ### Instruction fields (R260) -/

def QEnt.oty (x : QEnt) : Nat := x.f0 8 2
def QEnt.rnd (x : QEnt) : Nat := x.f0 10 2
def QEnt.msrc (x : QEnt) : Nat := x.f0 12 2
def QEnt.mreg (x : QEnt) : Nat := x.f0 14 4
def QEnt.zm (x : QEnt) : Bool := bitAt x.w0.toNat 18
def QEnt.bimm (x : QEnt) : Bool := bitAt x.w0.toNat 19
def QEnt.gran (x : QEnt) : Bool := bitAt x.w0.toNat 20
def QEnt.tkmrg (x : QEnt) : Bool := bitAt x.w0.toNat 21
def QEnt.imm (x : QEnt) : Nat := x.f0 32 32
def QEnt.dst (x : QEnt) : Nat := x.f1 0 16 * 64
def QEnt.aOff (x : QEnt) : Nat := x.f1 16 16 * 64
def QEnt.bOff (x : QEnt) : Nat := x.f1 32 16 * 64
def QEnt.cOff (x : QEnt) : Nat := x.f1 48 16 * 64

/-- The shapes an operation has (R261): which operands, which types, how it treats masks. -/
inductive VClass where
  | ew2 | ew3 | ew1 | sel | cvt | cmp | red | smxs | topk | compress | expand | mask
  deriving DecidableEq, Repr, Inhabited

/-- The class of an operation code; none for a reserved one (R261). -/
def vclass : Nat → Option VClass
  | 0x10 | 0x11 | 0x12 | 0x14 | 0x15 | 0x16 | 0x17 | 0x18 | 0x19 | 0x1A | 0x1B => some .ew2
  | 0x13 => some .ew3 | 0x1C => some .sel | 0x1D => some .cvt | 0x1E | 0x1F => some .ew1
  | 0x20 | 0x21 | 0x22 | 0x23 => some .cmp
  | 0x30 | 0x31 => some .red | 0x32 => some .smxs | 0x38 => some .topk | 0x40 => some .compress | 0x41 => some .expand
  | 0x50 | 0x51 | 0x52 => some .mask
  | _ => none

/-- The operation types an operation takes (R261). -/
def otyOk (opc oty : Nat) : Bool :=
  match opc with
  | 0x13 | 0x1E | 0x1F | 0x32 => oty == 1 || oty == 2
  | 0x16 | 0x17 | 0x18 | 0x19 | 0x1A | 0x1B => oty == 0
  | 0x1D | 0x40 | 0x41 | 0x50 | 0x51 | 0x52 => oty == 0
  | _ => oty ≤ 2

/-- The roundings an operation takes (R268): SR is for floats and CVT; approximations, compares, reductions, TOPK and the
operations that round nothing take 0. -/
def rndOk (x : QEnt) (k : VClass) : Bool :=
  match k with
  | .ew2 | .ew3 | .sel => if x.oty = 0 then x.rnd ≤ 1 else x.rnd ≤ 2
  | .cvt => x.rnd ≤ 2
  | _ => x.rnd == 0

/-- Fields an operation does not use are zero, and the mask rules of R270 and R272 (R260, R273). An elementwise operation uses ZM with
MSRC 0 too, where no place is inactive: R260 does not say (DESIGN CHOICE, log 112). -/
def fieldsOk (x : QEnt) (k : VClass) : Bool :=
  let mask := x.msrc != 3 && (x.msrc == 1 || k == .mask || x.mreg == 0)
  let noC := x.f1 48 16 == 0
  let noB := x.f1 32 16 == 0
  let plain := !x.gran && !x.tkmrg
  let immOk := if x.bimm then (if x.oty = 2 then x.imm < 65536 else true) && noB else x.imm == 0
  x.f0 22 9 == 0 && mask &&
  match k with
  | .ew2 | .cmp => plain && immOk && (x.msrc == 2 || noC) && (k != .cmp || !x.zm)
  | .sel => plain && immOk && (x.msrc == 2 || noC) && x.msrc != 0 && !x.zm
  | .ew3 => plain && immOk && x.msrc != 2
  | .ew1 | .cvt => plain && !x.bimm && x.imm == 0 && noB && (x.msrc == 2 || noC)
  | .red => plain && !x.bimm && x.imm == 0 && noB && (x.msrc == 2 || noC) && !x.zm
  | .smxs => plain && !x.bimm && noB && (x.msrc == 2 || noC) && !x.zm
  | .topk => !x.gran && !x.bimm && (x.tkmrg || noB) && (x.msrc == 2 || noC) && !x.zm && !bitAt x.imm 7 &&
      1 ≤ x.imm % 128 && x.imm % 128 ≤ 64
  | .compress => !x.tkmrg && !x.bimm && noB && x.msrc == 0 && !x.zm
  | .expand => !x.tkmrg && !x.bimm && noB && x.msrc == 0
  | .mask => plain && !x.bimm && !x.zm && x.msrc == 0 && x.w1 == 0 && (x.opc != 0x52 || x.imm ≤ 64)

/-! ### Tensor descriptors (R262) -/

structure Tens where
  kind : Nat
  dtype : Nat
  flags : Nat
  acc : Nat
  len : Nat
  rows : Nat
  stride : Nat
  base : Nat
  res : Nat
  deriving DecidableEq, Repr, Inhabited

def Dev.tens (d : Dev) (c off : Nat) : Tens :=
  let n (o k : Nat) := d.num (clmAt c (off + o)) k
  ⟨n 0 1, n 1 1, n 2 1, n 3 1, n 4 4, n 8 4, n 12 4, n 16 4, n 20 12⟩

def Tens.dt (t : Tens) : DType := (DType.ofCode t.dtype).getD .int4
def Tens.size (t : Tens) : Nat := t.dt.bits / 8
def Tens.pitch (t : Tens) : Nat := if t.stride = 0 then t.len * t.size else t.stride
def Tens.ringNo (t : Tens) : Nat := t.flags % 2
def Tens.chisel (t : Tens) : Bool := bitAt t.flags 2
def Tens.keep (t : Tens) : Bool := bitAt t.flags 1

/-- Reserved fields and codes of a descriptor (R262, R263); `dst` for a destination. -/
def Tens.bad (t : Tens) (dst : Bool) : Bool :=
  3 < t.kind || t.res != 0 || 8 ≤ t.flags || (DType.ofCode t.dtype).isNone || t.dt == .int4 ||
  (t.kind != 3 && t.acc != 0) || 31 < t.acc ||
  (t.kind != 0 && (t.len != 0 || t.rows != 0 || t.stride != 0)) || (1 < t.kind && t.base != 0) ||
  (t.kind == 0 && (t.len == 0 || 16777216 < t.len || t.rows == 0 || 1048576 < t.rows ||
    (t.stride != 0 && t.stride < t.len * t.size))) ||
  (t.kind != 2 && bitAt t.flags 0) || (!(t.kind == 2 && !dst) && bitAt t.flags 1) ||
  (!((t.kind == 1 || t.kind == 2) && dst) && bitAt t.flags 2) || (t.chisel && t.dt == .int32)

/-- Alignment of a descriptor's BASE and RSTRIDE (R53, R263). -/
def Tens.misaligned (t : Tens) : Bool :=
  (t.kind == 0 && (t.base % max 1 t.size != 0 || t.stride % max 1 t.size != 0)) || (t.kind == 1 && t.base % 32 != 0)

/-- The byte ranges of a plain tensor's rows in CLM, and whether it reaches past the end (R279). -/
def Tens.plainRows (t : Tens) (c : Nat) : List (Nat × Nat) :=
  (List.range t.rows).map fun r => (clmAt c (t.base + r * t.pitch), t.len * t.size)
def Tens.past (t : Tens) : Bool :=
  t.kind == 0 && clmSize < t.base + (t.rows - 1) * t.pitch + t.len * t.size

/-! ### Sources -/

/-- A source as the engine reads it: shape, format, each element's code, whether a chunk of a row is poisoned, the byte
ranges it occupies in CLM. -/
structure VSrc where
  rows : Nat
  len : Nat
  t : DType
  elt : Nat → Nat → Nat
  poison : Nat → Nat → Bool
  area : List (Nat × Nat)
  drops : Nat

/-- What fetching a source gives. -/
inductive VFetch where
  | wait | refuse (status : Nat) | fault (m : Sram) | ok (s : VSrc)

/-- A tile as a source (R263): its DTYPE must be the header's, and it stores no column twice in a row (R279). It is consumed, and
poisoned, as a whole (R75) as soon as one chunk of it is read, whichever chunk holds the marked granule: R271 speaks of granules (DESIGN
CHOICE, log 110). -/
def tileSrc (t : Tens) (bs : List Byte) (p : Bool) (area : List (Nat × Nat)) : VFetch :=
  let h := TileHdr.parse bs
  if h.dtype ≠ t.dtype || multiEntry bs then .refuse eArg
  else .ok { rows := h.rows, len := h.cols, t := h.dt, elt := fun r c => ((tileAt bs r c).head?).getD 0,
             poison := fun _ _ => p, area := area, drops := tileDropped bs }

/-- A source known by its descriptor alone, of which nothing can be read: its shape and format. -/
def Dev.shapeOnly (d : Dev) (c : Nat) (t : Tens) : Option VSrc :=
  let s (r n : Nat) : VSrc := { rows := r, len := n, t := t.dt, elt := fun _ _ => 0, poison := fun _ _ => false, area := [], drops := 0 }
  if t.kind = 0 then some (s t.rows t.len)
  else if t.kind = 3 then some (s (d.acc c t.acc).rows (d.acc c t.acc).cols)
  else none

/-- A detection in the slot of a ring operand is counted, the one of a second read too (R279). -/
def Dev.slotErr (d : Dev) (c : Nat) (ready : Bool) (det : Det) : Dev :=
  match ready, det with
  | true, .once .slot => d.bump .CORE_VE_RDERR [c]
  | true, .twice .slot => d.bump .CORE_VE_RDERR [c] 2
  | _, _ => d

/-- A source tensor (R263). -/
def Dev.source (d : Dev) (now c : Nat) (t : Tens) (det : Det) : Dev × VFetch :=
  if t.bad false then (d, .refuse eArg)
  else if t.misaligned then (d, .refuse eAlign)
  else if t.past then (d, .refuse eRange)
  else if t.kind = 0 then
    (d, .ok { rows := t.rows, len := t.len, t := t.dt,
              elt := fun r k => d.num (clmAt c (t.base + r * t.pitch + k * t.size)) t.size,
              poison := fun r ch => d.poisoned (clmAt c (t.base + r * t.pitch + ch * 64 * t.size))
                (min 64 (t.len - ch * 64) * t.size),
              area := t.plainRows c, drops := 0 })
  else if t.kind = 3 then
    if d.accBusy c t.acc then (d.why c 2, .wait)
    else
      let a := d.acc c t.acc
      if (t.dt == .fp32) != a.fp || (t.dt != .fp32 && t.dt != .int32) then (d, .refuse eArg)
      else (d, .ok { rows := a.rows, len := a.cols, t := t.dt, elt := fun r k => d.accElt c t.acc r k,
                     poison := fun r _ => d.poisoned (accAt c t.acc + r * 256) (a.cols * 4),
                     area := (List.range a.rows).map (fun r => (accAt c t.acc + r * 256, a.cols * 4)), drops := 0 })
  else
    let f := if t.kind = 1 then d.clmTile c t.base else d.ringTile now c t.ringNo det
    match f.2 with
    | .wait => (f.1.slotErr c (t.kind == 2 && (d.ring c t.ringNo).headReady) det, .wait)
    | .refuse s => (d, .refuse s)
    | .fault => (f.1.slotErr c (t.kind == 2) det, .fault (if t.kind = 1 then .clm else .slot))
    | .tile bs p => (f.1.slotErr c (t.kind == 2) det, tileSrc t bs p
        [(if t.kind = 1 then clmAt c t.base else (d.ring c t.ringNo).at c (d.ring c t.ringNo).head, bs.length)])

/-- The immediate as a one-element source (R260). -/
def immSrc (o : OTy) (imm : Nat) : VSrc :=
  { rows := 1, len := 1, t := o.fmt, elt := fun _ _ => imm % 2 ^ o.fmt.bits, poison := fun _ _ => false, area := [], drops := 0 }

/-- An operand B or C fits A's shape (R264). -/
def shapeOk (a b : VSrc) : Bool :=
  (b.rows == a.rows || b.rows == 1) && (b.len == a.len || b.len == 1)

/-- Element of an operand under broadcast (R264). -/
def VSrc.bc (b : VSrc) (r k : Nat) : Nat := b.elt (if b.rows = 1 then 0 else r) (if b.len = 1 then 0 else k)

def VSrc.val (b : VSrc) (r k : Nat) : FV := decodeElt b.t (b.bc r k)

/-- Chunks of a row (R258). -/
def chunks (len : Nat) : Nat := ceilDiv len 64

/-- A source's format suits the operation type (R265). -/
def fmtOk (o : OTy) (s : VSrc) : Bool := s.t.isInt == (o == .i32)

/-! ### Masks -/

/-- A bit of a bitmap of 64-bit words in CLM. -/
def Dev.bitmapBit (d : Dev) (c off word bit : Nat) : Bool := bitAt (d.num (clmAt c (off + 8 * word)) 8) bit

/-- Lane of (r, k) is active (R270). -/
def Dev.active (d : Dev) (c : Nat) (x : QEnt) (len r k : Nat) : Bool :=
  if x.msrc = 1 then bitAt (SMap.get 0 (d.core c).ve.vm x.mreg) (k % 64)
  else if x.msrc = 2 then d.bitmapBit c x.cOff (r * chunks len + k / 64) (k % 64)
  else true

/-- A chunk bitmap's bytes for a shape. -/
def bitmapLen (rows len : Nat) : Nat := rows * chunks len * 8

/-- Some chunk that is read is poisoned (R271): chunks of `s` with an active lane of A's shape. -/
def VSrc.poisonRead (s : VSrc) (rows len : Nat) (act : Nat → Nat → Bool) : Bool :=
  (List.range rows).any fun r => (List.range (chunks len)).any fun ch =>
    ((List.range (min 64 (len - ch * 64))).any fun l => act r (ch * 64 + l)) &&
    s.poison (if s.rows = 1 then 0 else r) (if s.len = 1 then 0 else ch)

/-! ### Destinations -/

/-- Where a result goes. -/
structure VDst where
  t : Tens
  rows : Nat
  len : Nat
  deriving DecidableEq, Repr, Inhabited

/-- The checks of a destination of a given shape (R263, R264, R272): `masked` when places may keep their old value. -/
def Dev.dstRefusal (d : Dev) (c : Nat) (t : Tens) (rows len : Nat) (masked : Bool) : Nat :=
  let a := d.acc c t.acc
  let r := d.ring c t.ringNo
  let shape := match t.kind with
    | 0 => t.rows != rows || t.len != len
    | 3 => a.rows != rows || a.cols != len || (t.dt == .fp32) != a.fp || (t.dt != .fp32 && t.dt != .int32)
    | _ => 64 < rows || 64 < len || masked
  refusal [(t.bad true, eArg), (shape, eArg), (t.misaligned, eAlign), (t.past, eRange),
    (t.kind == 1 && clmSize < t.base + denseSize t.dt rows len, eRange),
    (t.kind == 2 && r.mode != 2 && r.mode != 3, eState)]

/-- Elements written one by one: bytes, and the marks of the granules touched (R77, R79). -/
def Dev.storeCells (d : Dev) (cells : List (Nat × List Byte)) (poison : Bool) : Dev :=
  let flat := cells.flatMap fun p => (p.2.zip (List.range p.2.length)).map fun q => (p.1 + q.2, q.1)
  let mem := d.mem.setBytes flat
  let gs := (flat.map fun p => p.1 / 64).dedup
  { d with mem := gs.foldl (fun m g =>
      m.remark (g * 64) (decide (((flat.filter fun p => p.1 / 64 = g).map (·.1)).dedup.length = 64)) poison) mem }

/-- The DLA of element (r, k) of a plain or accumulator destination. -/
def Tens.cellAt (t : Tens) (c r k : Nat) : Nat :=
  if t.kind = 3 then accAt c t.acc + r * 256 + k * 4 else clmAt c (t.base + r * t.pitch + k * t.size)

/-- What a destination's write comes to: the state, and the byte ranges written; none where a ring has no room, or the tile
does not fit its slots. -/
inductive VOut where
  | wait | tooBig | ok (d : Dev) (area : List (Nat × Nat))

/-- A result written (R263): `f r k` is an element's code, none where it keeps its old value; `span r` how many elements of row r are
places of the result, whose granules are marked when it is poisoned (R273, R280). -/
def Dev.dstWrite (d : Dev) (c : Nat) (t : Tens) (rows len : Nat) (f : Nat → Nat → Option Nat) (span : Nat → Nat)
    (poison pred : Bool) : VOut :=
  if t.kind = 0 ∨ t.kind = 3 then
    let cells := (List.range rows).flatMap fun r => (List.range len).filterMap fun k =>
      (f r k).map fun v => (t.cellAt c r k, leBytes t.size v)
    let area := (List.range rows).filterMap fun r => if span r = 0 then none else some (t.cellAt c r 0, span r * t.size)
    let d := d.storeCells cells poison
    .ok (if poison then area.foldl (fun d a => d.markRange a.1 a.2 true) d else d) area
  else
    let o := d.outTile c t.chisel t.dt poison pred rows len fun r k => (f r k).getD 0
    if t.kind = 1 then .ok (o.1.writeTile (clmAt c t.base) o.2 poison) [(clmAt c t.base, o.2.length)]
    else
      let r := d.ring c t.ringNo
      if !r.fits o.2 then .tooBig
      else if !r.room then .wait
      else .ok (o.1.publish c t.ringNo o.2 poison 3 []) [(r.at c r.tail, o.2.length)]

/-- Places where a destination overlaps a source otherwise than in place hold unspecified values (R280). -/
def Dev.overlapFree (d : Dev) (dst srcs : List (Nat × Nat)) : Dev :=
  (dst.flatMap fun a => (srcs.map fun b => overlap a.1 a.2 b.1 b.2).filter fun o => o.2 != 0).foldl
    (fun d o => d.scramble o.1 o.2) d

/-- A destination has a source's exact BASE, layout and format (R280): a plain tensor's row pitch, an accumulator, or a dense tile
that is written dense. -/
def Dev.inPlace (d : Dev) (c : Nat) (t a : Tens) : Bool :=
  t.kind == a.kind && t.dtype == a.dtype &&
  match t.kind with
  | 0 => t.base == a.base && t.pitch == a.pitch && t.len == a.len && t.rows == a.rows
  | 1 =>
    let h := TileHdr.parse (d.bytes (clmAt c a.base) 32)
    t.base == a.base && !t.chisel && h.fm == .dense && h.valOff == 32
  | 3 => t.acc == a.acc
  | _ => false

/-- Occupancy (R278). -/
def vOcc (k : VClass) (x : QEnt) (rows len : Nat) : Nat :=
  match k with
  | .red => 12 + rows * (chunks len + 4)
  | .smxs => 12 + rows * (2 * chunks len + 8)
  | .topk => 12 + rows * (chunks len + x.imm % 128 + 16) + (if x.tkmrg then rows * (x.imm % 128) else 0)
  | .mask => 4
  | _ => 12 + rows * chunks len

/-- The static refusals of an instruction (R279). -/
def vBad (x : QEnt) : Bool :=
  match vclass x.opc with
  | none => true
  | some k => !otyOk x.opc x.oty || !rndOk x k || !fieldsOk x k

/-- The operation type. -/
def QEnt.o (x : QEnt) : OTy := (OTy.ofCode x.oty).getD .i32
def QEnt.rndOf (x : QEnt) : Rnd := (Rnd.ofCode x.rnd).getD .rne

end Sys2Proof.Machine
end

