-- ==== Sys2Proof/Machine/Vector.lean ====
section
/-! DEFINITION. The vector engine's instructions, one meaning for each operation of spec/08 R261, and retirement. -/

namespace Sys2Proof.Machine

/-! ### Operands -/

/-- The operands of an instruction as they are fetched one after another: the state, what refuses the instruction, whether one
waits, whether one's retry failed, the descriptors, the sources. A source whose shape the descriptor gives stands among the
sources even where it is refused, so that the other conditions are tested too (R668). -/
structure VIn where
  d : Dev
  bad : List (Bool × Nat) := []
  wait : Bool := false
  fault : Option Sram := none
  ts : List Tens := []
  srcs : List VSrc := []

/-- One more operand fetched. -/
def VIn.fetch (now c : Nat) (det : Det) (v : VIn) (t : Tens) : VIn :=
  let r := v.d.source now c t det
  let v := { v with ts := v.ts ++ [t] }
  match r.2 with
  | .wait => { v with d := r.1, wait := true }
  | .refuse s => { v with bad := v.bad ++ [(true, s)], srcs := v.srcs ++ (if s = eArg then [] else (v.d.shapeOnly c t).toList) }
  | .fault m => { v with d := r.1, fault := some m }
  | .ok s => { v with d := r.1, srcs := v.srcs ++ [s] }

/-- The operands at the given descriptor offsets. -/
def Dev.fetchAll (d : Dev) (now c : Nat) (det : Det) (offs : List Nat) : VIn :=
  (offs.map (d.tens c)).foldl (VIn.fetch now c det) { d := d }

/-- The slots of the ring sources released once the operands have been read; a ring named more than once gives every source the
same head slot and goes when one of them does not keep it (R196, R263, log 73). -/
def Dev.releaseTens (d : Dev) (c : Nat) (ts : List Tens) : Dev :=
  [0, 1].foldl (fun d s =>
    let us := ts.filter fun t => t.kind == 2 && t.ringNo == s
    if us.isEmpty then d else d.releaseSrc c (s + 1) (us.all Tens.keep)) d

/-- An instruction whose operands are there goes on with `k`; the others wait, are refused or meet a fault. `pre` are the
conditions that need no operand, `chk` those that need them all; of every condition met the first in the order of R668
refuses. -/
def vWith (d : Dev) (c : Nat) (v : VIn) (pre : List (Bool × Nat)) (chk : List VSrc → List (Bool × Nat))
    (k : Dev → List VSrc → EngOut) : EngOut :=
  let st := refusal (v.bad ++ pre ++ (if v.srcs.length = v.ts.length then chk v.srcs else []))
  if st ≠ sOk then .refuse st
  else match v.fault with
    | some m => .fault v.d m
    | none => if v.wait then .wait v.d else k (v.d.releaseTens c v.ts) v.srcs

/-- What a descriptor of a source or destination refuses by itself (R263, R265): formats against the operation type where `typed`. -/
def Dev.vPre (d : Dev) (c : Nat) (x : QEnt) (offs : List Nat) (typed dst : Bool) : List (Bool × Nat) :=
  (if typed then offs.map fun o => ((d.tens c o).dt.isInt != (x.o == .i32), eArg) else []) ++
  if dst then
    let t := d.tens c x.dst
    [(t.bad true, eArg), (t.misaligned, eAlign), (t.past, eRange),
     (t.kind == 2 && (d.ring c t.ringNo).mode != 2 && (d.ring c t.ringNo).mode != 3, eState)]
  else []

/-- How often lanes saturated and raised exceptions, added to the core's counters (R266, R269). -/
def Dev.countLanes (d : Dev) (c : Nat) (l : List LaneR) : Dev :=
  (d.bump .CORE_VE_SAT [c] (l.filter (·.sat)).length).bump .CORE_VE_FEXC [c] (l.filter (·.exc)).length

/-- The end of an instruction that wrote a tensor. In place, A and every source that is the same tensor as A are read before they
are written (R280). -/
def vFinish (d0 : Dev) (c : Nat) (x : QEnt) (out : VOut) (same : Bool) (srcs : List VSrc) (ps : List Bool) (ls : List LaneR)
    (occ : Nat) : EngOut :=
  match out with
  | .wait => .wait (d0.why c 1)
  | .tooBig => .stop d0 eRange
  | .ok d area =>
    let a := (srcs.head?.map (·.area)).getD []
    let other := ((if same then srcs.filter fun s => s.area != a else srcs)).flatMap (·.area)
    let d := (d.overlapFree area other).countLanes c ls
    let d := d.bump .CORE_BADIDX [c] ((srcs.map (·.drops)).foldl (· + ·) 0)
    .done (d.consumed c x.job ps) area occ

/-! ### Elementwise operations, CVT and SEL (R264 to R272) -/

/-- One element of an elementwise result in the destination's format. -/
def vElt (x : QEnt) (t : DType) (s : Nat) (a : VSrc) (b c : Option VSrc) (sel : Nat → Nat → Bool) (r k : Nat) : LaneR :=
  let u := drawH s ((r * a.len + k) % 2 ^ 32)
  let va := a.val r k
  let v (o : Option VSrc) : FV := match o with | some y => y.val r k | none => .zero
  if x.opc = 0x1D then
    let rnd := x.rndOf
    let isNanNew := t.isInt == false && (decodeElt t (encodeElt t rnd u va)).isNan && !va.isNan
    { code := encodeElt t rnd u va
      sat := a.t != t && t.isInt && encodeSat t rnd u va
      exc := a.t != t && !t.isInt && (encodeSat t rnd u va || isNanNew) }
  else narrowDst x.o t ((laneOp x.opc x.o x.rndOf u va (v b) (v c) (sel r k)).getD { code := 0 })

/-- Operands B and C of an elementwise operation, the immediate as B where BIMM is set. -/
def vBC (x : QEnt) (rest : List VSrc) : Option VSrc × Option VSrc :=
  if x.bimm then (some (immSrc x.o x.imm), rest.head?) else (rest.head?, rest[1]?)

/-- What an elementwise operation is refused for once its operands are there (R264, R265, R270, R272). -/
def vElemChk (d0 : Dev) (c : Nat) (x : QEnt) (k : VClass) (srcs : List VSrc) : List (Bool × Nat) :=
  match srcs with
  | [] => []
  | a :: rest =>
    let bc := vBC x rest
    let fits (o : Option VSrc) : Bool := match o with | some y => shapeOk a y | none => true
    let typed (o : Option VSrc) : Bool := match o with | some y => k == .cvt || fmtOk x.o y | none => true
    let ds := d0.dstRefusal c (d0.tens c x.dst) a.rows a.len (x.msrc != 0 && k != .sel && !x.zm)
    [(!fits bc.1 || !fits bc.2 || !typed (some a) || !typed bc.1 || !typed bc.2, eArg),
      (x.msrc = 2 ∧ clmSize < x.cOff + bitmapLen a.rows a.len, eRange), (ds != sOk, ds)]

/-- An elementwise operation whose operands have been read. -/
def vElemRun (d0 d : Dev) (c : Nat) (x : QEnt) (k : VClass) (srcs : List VSrc) : EngOut :=
  match srcs with
  | [] => .wait d0
  | a :: rest =>
    let bc := vBC x rest
    let t := d0.tens c x.dst
    if t.kind = 3 ∧ d0.accBusy c t.acc then .wait (d0.why c 2)
    else
      let d := if x.rnd = 2 then d.advance c else d
      let act (r i : Nat) : Bool := k == .sel || d.active c x a.len r i
      let elt := vElt x t.dt (d.lfsr c) a bc.1 bc.2 (d.active c x a.len)
      let ps := (srcs.map fun s => s.poisonRead a.rows a.len act) ++
        [x.msrc == 2 && d.poisoned (clmAt c x.cOff) (bitmapLen a.rows a.len)]
      let poison := ps.any id
      let f (r i : Nat) : Option Nat :=
        if act r i then some (elt r i).code else if x.zm then some 0 else none
      let ls := (List.range a.rows).flatMap fun r => ((List.range a.len).filter (act r)).map (elt r)
      vFinish d0 c x (d.dstWrite c t a.rows a.len f (fun _ => a.len) poison false) (d0.inPlace c t (d0.tens c x.aOff)) srcs ps ls
        (vOcc k x a.rows a.len)

/-- Offsets of the operand descriptors an operation names. -/
def vOffs (x : QEnt) (k : VClass) : List Nat :=
  let b := if x.bimm then [] else [x.bOff]
  match k with
  | .ew2 | .cmp | .sel => x.aOff :: b
  | .ew3 => x.aOff :: b ++ [x.cOff]
  | _ => [x.aOff]

/-- An elementwise operation (R264). -/
def vElem (now c : Nat) (det : Det) (d : Dev) (x : QEnt) : EngOut :=
  match vclass x.opc with
  | none => .refuse eArg
  | some k =>
    if vBad x then .refuse eArg
    else vWith d c (d.fetchAll now c det (vOffs x k)) (d.vPre c x (vOffs x k) (k != .cvt) true) (vElemChk d c x k)
      fun d' ss => vElemRun d d' c x k ss

/-! ### Compares (R261, R270) -/

/-- What a compare is refused for once its operands are there. -/
def vCmpChk (x : QEnt) (srcs : List VSrc) : List (Bool × Nat) :=
  match srcs with
  | [] => []
  | a :: rest =>
    let ok := match (vBC x rest).1 with | some y => shapeOk a y && fmtOk x.o y | none => false
    let n := bitmapLen a.rows a.len
    [(!ok || !fmtOk x.o a, eArg), (clmSize < x.dst + n, eRange), (x.msrc = 2 ∧ clmSize < x.cOff + n, eRange)]

def vCompare (now c : Nat) (det : Det) (d : Dev) (x : QEnt) : EngOut :=
  if vBad x then .refuse eArg
  else vWith d c (d.fetchAll now c det (vOffs x .cmp)) (d.vPre c x (vOffs x .cmp) true false) (vCmpChk x) fun d' srcs =>
    match srcs with
    | [] => .wait d
    | a :: rest =>
      let b := (vBC x rest).1
      let n := bitmapLen a.rows a.len
      let act := d'.active c x a.len
      let vb (r i : Nat) : FV := match b with | some y => y.val r i | none => .zero
      let word (r ch : Nat) : Nat := (((List.range (min 64 (a.len - ch * 64))).filter fun l =>
        act r (ch * 64 + l) && laneCmp x.opc (a.val r (ch * 64 + l)) (vb r (ch * 64 + l))).map (2 ^ ·)).foldl (· + ·) 0
      let bs := (List.range a.rows).flatMap fun r => (List.range (chunks a.len)).flatMap fun ch => leBytes 8 (word r ch)
      let ps := (srcs.map fun s => s.poisonRead a.rows a.len act) ++ [x.msrc == 2 && d'.poisoned (clmAt c x.cOff) n]
      let area := [(clmAt c x.dst, n)]
      vFinish d c x (.ok (d'.store (clmAt c x.dst) bs (ps.any id)) area) false srcs ps [] (vOcc .cmp x a.rows a.len)

/-! ### Reductions (R275) -/

/-- RSUM and RMAX of one row in the operation type: the values of its active lanes; inactive ones are the identity. A saturating addition
of RSUM under I32 counts nothing in CORE_VE_SAT, which R266 gives the results: R275 does not say (DESIGN CHOICE, log 109). -/
def vReduce (x : QEnt) (vs : List (Option FV)) : LaneR :=
  let ins := vs.filterMap id
  if x.opc = 0x31 then
    if x.o = .i32 then { code := toBits 32 (maxI32 (ins.map FV.int)) }
    else narrowOp x.o .rne 0 [maxFV ins] (maxFV ins)
  else if x.o = .i32 then { code := toBits 32 (sumI32 (vs.map fun v => (v.getD .zero).int)) }
  else
    let s := sumF32 (vs.map fun v => encodeFloat .fp32 .rne 0 (v.getD .zero))
    narrowOp x.o .rne 0 ins (decodeElt .fp32 s)

/-- SMXS of one row: M and S as fp32 codes; each is narrowed to the operation type as it is stored (R275). -/
def vSoft (o : OTy) (k : Nat) (vs : List (Option FV)) : LaneR × LaneR :=
  let ins := vs.filterMap id
  let mx := encodeFloat .fp32 .rne 0 (maxFV ins)
  let e (v : FV) : Nat :=
    let s := encodeFloat .fp32 .rne 0 (v.sub (decodeElt .fp32 mx))
    exp2F32 (encodeFloat .fp32 .rne 0 ((decodeElt .fp32 s).mul (decodeElt .fp32 k)))
  let sum := decodeElt .fp32 (sumF32 (vs.map fun v => match v with | some w => e w | none => 0))
  (narrowDst o .fp32 (narrowOp o .rne 0 [decodeElt .fp32 mx] (decodeElt .fp32 mx)),
    narrowDst o .fp32 (narrowOp o .rne 0 (decodeElt .fp32 k :: ins) sum))

/-- What a reduction is refused for once its operand is there. -/
def vRedChk (d : Dev) (c : Nat) (x : QEnt) (srcs : List VSrc) : List (Bool × Nat) :=
  match srcs with
  | [] => []
  | a :: _ =>
    let ds := d.dstRefusal c (d.tens c x.dst) a.rows (if x.opc = 0x32 then 2 else 1) false
    [(!fmtOk x.o a, eArg), (ds != sOk, ds), (x.msrc = 2 ∧ clmSize < x.cOff + bitmapLen a.rows a.len, eRange)]

/-- A reduction of A's rows into a plain destination (R264, R275). -/
def vRed (now c : Nat) (det : Det) (d : Dev) (x : QEnt) : EngOut :=
  let soft := x.opc == 0x32
  let t := d.tens c x.dst
  if vBad x then .refuse eArg
  else vWith d c (d.fetchAll now c det [x.aOff]) ((t.kind != 0 || (soft && t.dt != .fp32), eArg) :: d.vPre c x [x.aOff] true true)
      (vRedChk d c x) fun d' srcs =>
    match srcs with
    | [] => .wait d
    | a :: _ =>
      let w := if soft then 2 else 1
      let act := d'.active c x a.len
      let vs (r : Nat) : List (Option FV) := (List.range a.len).map fun k => if act r k then some (a.val r k) else none
      let one (r k : Nat) : LaneR :=
        if soft then (if k = 0 then (vSoft x.o x.imm (vs r)).1 else (vSoft x.o x.imm (vs r)).2)
        else narrowDst x.o t.dt (vReduce x (vs r))
      let f (r k : Nat) : Option Nat := some (one r k).code
      let ps := [a.poisonRead a.rows a.len act, x.msrc == 2 && d'.poisoned (clmAt c x.cOff) (bitmapLen a.rows a.len)]
      let ls := (List.range a.rows).flatMap fun r => (List.range w).map (one r)
      vFinish d c x (d'.dstWrite c t a.rows w f (fun _ => w) (ps.any id) false) false srcs ps ls
        (vOcc (if soft then .smxs else .red) x a.rows a.len)

/-! ### TOPK (R276, R277) -/

/-- An entry ranks before another: descending value, +0 above −0, then ascending position. -/
def topLt (p q : FV × Nat) : Bool :=
  if (q.1).lt p.1 then true
  else if (p.1).lt q.1 then false
  else if p.1.isZero && q.1.isZero && p.1.sign != q.1.sign then q.1.sign
  else p.2 < q.2

/-- An entry put into an ordered list. -/
def topIns (p : FV × Nat) : List (FV × Nat) → List (FV × Nat)
  | [] => [p]
  | q :: r => if topLt p q then p :: q :: r else q :: topIns p r

/-- The first `k` of a list in rank order. -/
def topK (k : Nat) (l : List (FV × Nat)) : List (FV × Nat) := (l.foldl (fun a p => topIns p a) []).take k

/-- The stored entries of a row of a merge area that take part (R277). -/
def Dev.topArea (d : Dev) (c : Nat) (x : QEnt) (r : Nat) : List (FV × Nat) :=
  ((List.range 64).map fun j =>
    let a := clmAt c (x.bOff + r * 512 + 8 * j)
    (decodeElt (if x.o = .i32 then .int32 else .fp32) (d.num (a + 4) 4), d.num a 4)).filter fun p => p.2 != 0xFFFFFFFF

/-- An element in the operation type, in which TOPK forms and orders its values (R265, R276, R277). -/
def topLane (o : OTy) (v : FV) : LaneR := narrowOp o .rne 0 [v] v

/-- What TOPK is refused for once its operand is there. -/
def vTopChk (x : QEnt) (srcs : List VSrc) : List (Bool × Nat) :=
  match srcs with
  | [] => []
  | a :: _ =>
    [(!fmtOk x.o a, eArg), (clmSize < x.dst + a.rows * 512, eRange), (x.tkmrg && clmSize < x.bOff + a.rows * 512, eRange),
     (x.msrc = 2 ∧ clmSize < x.cOff + bitmapLen a.rows a.len, eRange)]

def vTop (now c : Nat) (det : Det) (d : Dev) (x : QEnt) : EngOut :=
  if vBad x then .refuse eArg
  else vWith d c (d.fetchAll now c det [x.aOff]) (d.vPre c x [x.aOff] true false) (vTopChk x) fun d' srcs =>
    match srcs with
    | [] => .wait d
    | a :: _ =>
      let k := x.imm % 128
      let off := x.imm / 256
      let act := d'.active c x a.len
      let lane (r i : Nat) : FV := decodeElt x.o.fmt (topLane x.o (a.val r i)).code
      let cand (r : Nat) := ((List.range a.len).filter (act r)).map fun i => (lane r i, (i + off) % 2 ^ 32)
      let sel (r : Nat) := topK k (((cand r).filter fun p => !p.1.isNan) ++ (if x.tkmrg then d'.topArea c x r else []))
      let t : DType := if x.o = .i32 then .int32 else .fp32
      let low : Nat := if x.o = .i32 then 2 ^ 31 else withSign .fp32 true (infCode .fp32)
      let ent (r j : Nat) : List Byte := match (sel r)[j]? with
        | some p => leBytes 4 p.2 ++ leBytes 4 (encodeElt t .rne 0 p.1)
        | none => leBytes 4 0xFFFFFFFF ++ leBytes 4 low
      let ps := [a.poisonRead a.rows a.len act, x.msrc == 2 && d'.poisoned (clmAt c x.cOff) (bitmapLen a.rows a.len),
        x.tkmrg && (List.range a.rows).any fun r => d'.poisoned (clmAt c (x.bOff + r * 512)) 512]
      let cells := (List.range a.rows).flatMap fun r => (List.range k).map fun j =>
        (clmAt c (x.dst + r * 512 + 8 * j), ent r j)
      let nans := ((List.range a.rows).map fun r => ((cand r).filter fun p => p.1.isNan).length).foldl (· + ·) 0
      let ls := (List.range a.rows).flatMap fun r =>
        ((List.range a.len).filter fun i => act r i && (sel r).contains (lane r i, (i + off) % 2 ^ 32)).map fun i => topLane x.o (a.val r i)
      let area := (List.range a.rows).map fun r => (clmAt c (x.dst + r * 512), 8 * k)
      vFinish d c x (.ok ((d'.storeCells cells (ps.any id)).bump .CORE_VE_TKNAN [c] nans) area) false srcs ps ls
        (vOcc .topk x a.rows a.len)

/-! ### COMPRESS and EXPAND (R273, R274) -/

/-- The places a bitmap selects: elements of a shape in flattened order, or rows. -/
def Dev.selected (d : Dev) (c : Nat) (x : QEnt) (rows len : Nat) : List (Nat × Nat) :=
  if x.gran then ((List.range rows).filter fun r => d.bitmapBit c x.cOff (r / 64) (r % 64)).map fun r => (r, 0)
  else (List.range rows).flatMap fun r =>
    ((List.range len).filter fun k => d.bitmapBit c x.cOff (r * chunks len + k / 64) (k % 64)).map fun k => (r, k)

/-- Bytes of the bitmap COMPRESS and EXPAND read. -/
def selLen (x : QEnt) (rows len : Nat) : Nat := if x.gran then ceilDiv rows 64 * 8 else bitmapLen rows len

/-- The shape COMPRESS writes into: rows and elements per row, with the greatest count that fits. -/
def Dev.compShape (d : Dev) (c : Nat) (x : QEnt) (a : VSrc) (n : Nat) : Nat × Nat × Nat :=
  let t := d.tens c x.dst
  let own := if t.kind = 0 then t.rows else (d.acc c t.acc).rows
  let tile := t.kind == 1 || t.kind == 2
  (if tile then max 1 (min n 64) else own, if x.gran then a.len else t.len,
    if x.gran then (if tile then 64 else own) else t.len)

/-- What COMPRESS is refused for once its operand is there. -/
def vCompChk (d : Dev) (c : Nat) (x : QEnt) (srcs : List VSrc) : List (Bool × Nat) :=
  match srcs with
  | [] => []
  | a :: _ =>
    let t := d.tens c x.dst
    let sh := d.compShape c x a (d.selected c x a.rows a.len).length
    let ds := d.dstRefusal c t sh.1 sh.2.1 false
    [(t.dt != a.t || (!x.gran && (t.kind != 0 || t.rows != 1)), eArg), (ds != sOk, ds),
      (clmSize < x.cOff + selLen x a.rows a.len, eRange)]

def vCompress (now c : Nat) (det : Det) (d : Dev) (x : QEnt) : EngOut :=
  if vBad x then .refuse eArg
  else vWith d c (d.fetchAll now c det [x.aOff])
      (d.vPre c x [] false true ++ [(x.imm % 4 != 0, eAlign), (clmSize < x.imm + 4, eRange)]) (vCompChk d c x) fun d' srcs =>
    match srcs with
    | [] => .wait d
    | a :: _ =>
      let t := d.tens c x.dst
      let sel := d'.selected c x a.rows a.len
      let n := sel.length
      let sh := d.compShape c x a n
      if t.kind = 3 ∧ d.accBusy c t.acc then .wait (d.why c 2)
      else if sh.2.2 < n then .stop d eRange
      else
        let act (r k : Nat) : Bool := sel.contains (r, if x.gran then 0 else k)
        let f (r k : Nat) : Option Nat :=
          if x.gran then (sel[r]?).map fun p => a.elt p.1 k
          else if r = 0 then (sel[k]?).map fun p => a.elt p.1 p.2 else none
        let span (r : Nat) : Nat := if x.gran then (if r < n then sh.2.1 else 0) else if r = 0 then n else 0
        let ps := [a.poisonRead a.rows a.len act, d'.poisoned (clmAt c x.cOff) (selLen x a.rows a.len)]
        let out := if (t.kind == 1 || t.kind == 2) && n == 0 then .ok d' []
          else d'.dstWrite c t sh.1 sh.2.1 f span (ps.any id) false
        match out with
        | .ok d2 area =>
          vFinish d c x (.ok (d2.store (clmAt c x.imm) (leBytes 4 n) (ps.any id)) (area ++ [(clmAt c x.imm, 4)])) false srcs
            ps [] (vOcc .compress x a.rows a.len)
        | o => vFinish d c x o false srcs ps [] 0

/-- The shape EXPAND writes into. -/
def Dev.expShape (d : Dev) (c : Nat) (x : QEnt) (a : VSrc) : Nat × Nat :=
  let t := d.tens c x.dst
  let ac := d.acc c t.acc
  (if t.kind = 0 then t.rows else if t.kind = 3 then ac.rows else 64,
   if t.kind = 0 then t.len else if t.kind = 3 then ac.cols else if x.gran then a.len else 64)

/-- What EXPAND is refused for once its operand is there. -/
def vExpChk (d : Dev) (c : Nat) (x : QEnt) (srcs : List VSrc) : List (Bool × Nat) :=
  match srcs with
  | [] => []
  | a :: _ =>
    let t := d.tens c x.dst
    let sh := d.expShape c x a
    let ds := d.dstRefusal c t sh.1 sh.2 ((t.kind == 1 || t.kind == 2) && !x.zm)
    [(t.dt != a.t || (x.gran && sh.2 != a.len), eArg), (ds != sOk, ds), (clmSize < x.cOff + selLen x sh.1 sh.2, eRange)]

def vExpand (now c : Nat) (det : Det) (d : Dev) (x : QEnt) : EngOut :=
  if vBad x then .refuse eArg
  else vWith d c (d.fetchAll now c det [x.aOff]) (d.vPre c x [] false true) (vExpChk d c x) fun d' srcs =>
    match srcs with
    | [] => .wait d
    | a :: _ =>
      let t := d.tens c x.dst
      let rows := (d.expShape c x a).1
      let len := (d.expShape c x a).2
      if t.kind = 3 ∧ d.accBusy c t.acc then .wait (d.why c 2)
      else
        let sel := d'.selected c x rows len
        let have_ := if x.gran then a.rows else a.rows * a.len
        if have_ < x.imm + sel.length then .stop d eRange
        else
          let f (r k : Nat) : Option Nat :=
            let j := sel.findIdx (· == (r, if x.gran then 0 else k))
            if j < sel.length then
              some (if x.gran then a.elt (x.imm + j) k else a.elt ((x.imm + j) / a.len) ((x.imm + j) % a.len))
            else if x.zm then some 0 else none
          let used (r k : Nat) : Bool :=
            let i := if x.gran then r else r * a.len + k
            x.imm ≤ i && i < x.imm + sel.length
          let ps := [a.poisonRead a.rows a.len used, d'.poisoned (clmAt c x.cOff) (selLen x rows len)]
          let pred := x.gran && (t.kind == 1 || t.kind == 2) && !(d.job x.job).obs
          vFinish d c x (d'.dstWrite c t rows len f (fun _ => len) (ps.any id) pred) false srcs ps [] (vOcc .expand x rows len)

/-! ### Mask registers -/

/-- A mask register is to take a value when the instruction in progress retires (R259, R281). -/
def Dev.setVm (d : Dev) (c i v : Nat) : Dev := d.modCore c fun k => { k with ve := { k.ve with vmNew := some (i, v) } }

/-- The mask register that the instruction in progress wrote takes its value (R281). -/
def Dev.landVm (d : Dev) (c : Nat) : Dev :=
  match (d.core c).ve.vmNew with
  | some (i, v) => d.modCore c fun k => { k with ve := { k.ve with vm := k.ve.vm.put 0 i v, vmNew := none } }
  | none => d

/-! ### The meanings -/

/-- The next vector instruction, when its operation is `opc`. -/
def vRun (opc c : Nat) (det : Det) (f : Nat → Nat → Det → Dev → QEnt → EngOut) (s : State) : Out1 :=
  s.run fun m => m.runInsn c true det (fun x => x.opc = opc) (f m.und.now c det)

/-- VE_ADD (R266, R267). Its command also meets an instruction with a reserved OPC, which it refuses (R279). -/
def execVeAdd (c : Nat) (det : Det) (s : State) : Out1 :=
  s.run fun m => m.runInsn c true det (fun x => x.opc = 0x10 ∨ (vclass x.opc).isNone) (vElem m.und.now c det)
def execVeSub (c : Nat) (det : Det) (s : State) : Out1 := vRun 0x11 c det vElem s
def execVeMul (c : Nat) (det : Det) (s : State) : Out1 := vRun 0x12 c det vElem s
def execVeFma (c : Nat) (det : Det) (s : State) : Out1 := vRun 0x13 c det vElem s
def execVeMin (c : Nat) (det : Det) (s : State) : Out1 := vRun 0x14 c det vElem s
def execVeMax (c : Nat) (det : Det) (s : State) : Out1 := vRun 0x15 c det vElem s
def execVeAnd (c : Nat) (det : Det) (s : State) : Out1 := vRun 0x16 c det vElem s
def execVeOr (c : Nat) (det : Det) (s : State) : Out1 := vRun 0x17 c det vElem s
def execVeXor (c : Nat) (det : Det) (s : State) : Out1 := vRun 0x18 c det vElem s
def execVeShl (c : Nat) (det : Det) (s : State) : Out1 := vRun 0x19 c det vElem s
def execVeShr (c : Nat) (det : Det) (s : State) : Out1 := vRun 0x1A c det vElem s
def execVeSra (c : Nat) (det : Det) (s : State) : Out1 := vRun 0x1B c det vElem s
def execVeSel (c : Nat) (det : Det) (s : State) : Out1 := vRun 0x1C c det vElem s
def execVeCvt (c : Nat) (det : Det) (s : State) : Out1 := vRun 0x1D c det vElem s
def execVeExp2 (c : Nat) (det : Det) (s : State) : Out1 := vRun 0x1E c det vElem s
def execVeRcp (c : Nat) (det : Det) (s : State) : Out1 := vRun 0x1F c det vElem s
def execVeCmpeq (c : Nat) (det : Det) (s : State) : Out1 := vRun 0x20 c det vCompare s
def execVeCmpne (c : Nat) (det : Det) (s : State) : Out1 := vRun 0x21 c det vCompare s
def execVeCmplt (c : Nat) (det : Det) (s : State) : Out1 := vRun 0x22 c det vCompare s
def execVeCmple (c : Nat) (det : Det) (s : State) : Out1 := vRun 0x23 c det vCompare s
def execVeRsum (c : Nat) (det : Det) (s : State) : Out1 := vRun 0x30 c det vRed s
def execVeRmax (c : Nat) (det : Det) (s : State) : Out1 := vRun 0x31 c det vRed s
def execVeSmxs (c : Nat) (det : Det) (s : State) : Out1 := vRun 0x32 c det vRed s
def execVeTopk (c : Nat) (det : Det) (s : State) : Out1 := vRun 0x38 c det vTop s
def execVeCompress (c : Nat) (det : Det) (s : State) : Out1 := vRun 0x40 c det vCompress s
def execVeExpand (c : Nat) (det : Det) (s : State) : Out1 := vRun 0x41 c det vExpand s

/-- VE_MLD: a mask register takes 8 bytes of CLM (R261). -/
def vMld (_now c : Nat) (_det : Det) (d : Dev) (x : QEnt) : EngOut :=
  let rs := refusal [(vBad x, eArg), (x.imm % 8 != 0, eAlign), (clmSize < x.imm + 8, eRange)]
  if rs ≠ sOk then .refuse rs
  else
    let p := d.poisoned (clmAt c x.imm) 8
    .done ((d.setVm c x.mreg (d.num (clmAt c x.imm) 8)).consumed c x.job [p]) [] 4

/-- VE_MST: 8 bytes of CLM take a mask register (R261). -/
def vMst (_now c : Nat) (_det : Det) (d : Dev) (x : QEnt) : EngOut :=
  let rs := refusal [(vBad x, eArg), (x.imm % 8 != 0, eAlign), (clmSize < x.imm + 8, eRange)]
  if rs ≠ sOk then .refuse rs
  else .done (d.store (clmAt c x.imm) (leBytes 8 (SMap.get 0 (d.core c).ve.vm x.mreg))) [(clmAt c x.imm, 8)] 4

/-- VE_MPFX: lanes 0 to IMM − 1 set (R261). -/
def vMpfx (_now c : Nat) (_det : Det) (d : Dev) (x : QEnt) : EngOut :=
  if vBad x then .refuse eArg else .done (d.setVm c x.mreg (2 ^ x.imm - 1)) [] 4

def execVeMld (c : Nat) (det : Det) (s : State) : Out1 := vRun 0x50 c det vMld s
def execVeMst (c : Nat) (det : Det) (s : State) : Out1 := vRun 0x51 c det vMst s
def execVeMpfx (c : Nat) (det : Det) (s : State) : Out1 := vRun 0x52 c det vMpfx s

/-- A vector instruction in progress retires; a mask register that it wrote takes its value (R259, R281, R380). -/
def execVeRetire (c : Nat) (s : State) : Out1 :=
  s.run fun m => m.onDev fun d =>
    let i := (d.queue c .ve).findIdx (·.started)
    let d := if i < (d.queue c .ve).length then d.landVm c else d
    (d.retireAt m.und.now c .ve i).seAfter m.und.now c

end Sys2Proof.Machine
end

