-- ==== Sys2Proof/Machine/Dispatch.lean ====
section
/-! DEFINITION. What each command does: one arm per constructor of Instr, each one direct call of its meaning. -/

namespace Sys2Proof.Machine

open Sys2Proof

/-- The effect of a command on everything but the queue. -/
def exec (i : Instr) (s : State) : Host.Outcome State Fault Refusal :=
  match i with
  | .registerWrite user off size v => Sys2Proof.Machine.execRegisterWrite user off size v s
  | .hostMemRead h det bad => Sys2Proof.Machine.execHostMemRead h det bad s
  | .hostMemWrite h data mask poison => Sys2Proof.Machine.execHostMemWrite h data mask poison s
  | .armWordWrite slot v => Sys2Proof.Machine.execArmWordWrite slot v s
  | .commit slot => Sys2Proof.Machine.execCommit slot s
  | .commitAdopt u => Sys2Proof.Machine.execCommitAdopt u s
  | .drain slot => Sys2Proof.Machine.execDrain slot s
  | .drainComplete handle => Sys2Proof.Machine.execDrainComplete handle s
  | .drainTimeout handle => Sys2Proof.Machine.execDrainTimeout handle s
  | .suspend slot => Sys2Proof.Machine.execSuspend slot s
  | .resume slot => Sys2Proof.Machine.execResume slot s
  | .cancel slot => Sys2Proof.Machine.execCancel slot s
  | .jobSuspended handle => Sys2Proof.Machine.execJobSuspended handle s
  | .suspendTimeout handle => Sys2Proof.Machine.execSuspendTimeout handle s
  | .longOpBlockDone handle bad => Sys2Proof.Machine.execLongOpBlockDone handle bad s
  | .job slot => Sys2Proof.Machine.execJob slot s
  | .copy slot => Sys2Proof.Machine.execCopy slot s
  | .tblLoad slot => Sys2Proof.Machine.execTblLoad slot s
  | .tileLoad slot => Sys2Proof.Machine.execTileLoad slot s
  | .scrub slot => Sys2Proof.Machine.execScrub slot s
  | .erase slot => Sys2Proof.Machine.execErase slot s
  | .classSet slot => Sys2Proof.Machine.execClassSet slot s
  | .progLoad slot => Sys2Proof.Machine.execProgLoad slot s
  | .replaceRows slot => Sys2Proof.Machine.execReplaceRows slot s
  | .tblSet slot => Sys2Proof.Machine.execTblSet slot s
  | .shardSet slot => Sys2Proof.Machine.execShardSet slot s
  | .migrate slot => Sys2Proof.Machine.execMigrate slot s
  | .graphSet slot => Sys2Proof.Machine.execGraphSet slot s
  | .update slot => Sys2Proof.Machine.execUpdate slot s
  | .updProgSet slot => Sys2Proof.Machine.execUpdProgSet slot s
  | .updBindSet slot => Sys2Proof.Machine.execUpdBindSet slot s
  | .layerSet slot => Sys2Proof.Machine.execLayerSet slot s
  | .maskSet slot => Sys2Proof.Machine.execMaskSet slot s
  | .routeSet slot => Sys2Proof.Machine.execRouteSet slot s
  | .queryFragment g => Sys2Proof.Machine.execQueryFragment g s
  | .queryMessage t src tag body => Sys2Proof.Machine.execQueryMessage t src tag body s
  | .reassemblyExpire t key => Sys2Proof.Machine.execReassemblyExpire t key s
  | .keyHoldExpire t key => Sys2Proof.Machine.execKeyHoldExpire t key s
  | .qfeCtlWrite t v => Sys2Proof.Machine.execQfeCtlWrite t v s
  | .rowClaimRetry id => Sys2Proof.Machine.execRowClaimRetry id s
  | .rowClaimComplete id fault => Sys2Proof.Machine.execRowClaimComplete id fault s
  | .rowWritesComplete id fault => Sys2Proof.Machine.execRowWritesComplete id fault s
  | .nxIssueGe q w rs1 => Sys2Proof.Machine.execNxIssueGe q w rs1 s
  | .engineQueueSpace c => Sys2Proof.Machine.execEngineQueueSpace c s
  | .gather c => Sys2Proof.Machine.execGather c s
  | .nbr1 c => Sys2Proof.Machine.execNbr1 c s
  | .nbr2 c => Sys2Proof.Machine.execNbr2 c s
  | .nseg c => Sys2Proof.Machine.execNseg c s
  | .nlist c => Sys2Proof.Machine.execNlist c s
  | .gatherAdmit c => Sys2Proof.Machine.execGatherAdmit c s
  | .gatherGroupHoldExpire id => Sys2Proof.Machine.execGatherGroupHoldExpire id s
  | .versionReadReturn id k => Sys2Proof.Machine.execVersionReadReturn id k s
  | .rowReadReturn id => Sys2Proof.Machine.execRowReadReturn id s
  | .lookupBackoffExpire id => Sys2Proof.Machine.execLookupBackoffExpire id s
  | .adjacencyReadReturn c id rd => Sys2Proof.Machine.execAdjacencyReadReturn c id rd s
  | .entry body => Sys2Proof.Machine.execEntry body s
  | .loadWindowClose => Sys2Proof.Machine.execLoadWindowClose s
  | .loadrep src body => Sys2Proof.Machine.execLoadrep src body s
  | .moveStart id => Sys2Proof.Machine.execMoveStart id s
  | .moveCopyStart id fault => Sys2Proof.Machine.execMoveCopyStart id fault s
  | .moveSnap src body pm img => Sys2Proof.Machine.execMoveSnap src body pm img s
  | .moveReady src body => Sys2Proof.Machine.execMoveReady src body s
  | .moveCommit src body => Sys2Proof.Machine.execMoveCommit src body s
  | .moveDiscard src body => Sys2Proof.Machine.execMoveDiscard src body s
  | .moveBusy src body => Sys2Proof.Machine.execMoveBusy src body s
  | .moveTimeout id => Sys2Proof.Machine.execMoveTimeout id s
  | .leaseEnd t row => Sys2Proof.Machine.execLeaseEnd t row s
  | .nxIssueMe q w rs1 rs2 => Sys2Proof.Machine.execNxIssueMe q w rs1 rs2 s
  | .mma c det lq => Sys2Proof.Machine.execMma c det lq s
  | .mpredPredict c det => Sys2Proof.Machine.execMpredPredict c det s
  | .mpredObserve c det => Sys2Proof.Machine.execMpredObserve c det s
  | .mout c det => Sys2Proof.Machine.execMout c det s
  | .mload c det => Sys2Proof.Machine.execMload c det s
  | .mseed c det => Sys2Proof.Machine.execMseed c det s
  | .meRetire c k => Sys2Proof.Machine.execMeRetire c k s
  | .nxIssueVe q w rs1 rs2 => Sys2Proof.Machine.execNxIssueVe q w rs1 rs2 s
  | .veAdd c det => Sys2Proof.Machine.execVeAdd c det s
  | .veSub c det => Sys2Proof.Machine.execVeSub c det s
  | .veMul c det => Sys2Proof.Machine.execVeMul c det s
  | .veFma c det => Sys2Proof.Machine.execVeFma c det s
  | .veMin c det => Sys2Proof.Machine.execVeMin c det s
  | .veMax c det => Sys2Proof.Machine.execVeMax c det s
  | .veAnd c det => Sys2Proof.Machine.execVeAnd c det s
  | .veOr c det => Sys2Proof.Machine.execVeOr c det s
  | .veXor c det => Sys2Proof.Machine.execVeXor c det s
  | .veShl c det => Sys2Proof.Machine.execVeShl c det s
  | .veShr c det => Sys2Proof.Machine.execVeShr c det s
  | .veSra c det => Sys2Proof.Machine.execVeSra c det s
  | .veSel c det => Sys2Proof.Machine.execVeSel c det s
  | .veCvt c det => Sys2Proof.Machine.execVeCvt c det s
  | .veExp2 c det => Sys2Proof.Machine.execVeExp2 c det s
  | .veRcp c det => Sys2Proof.Machine.execVeRcp c det s
  | .veCmpeq c det => Sys2Proof.Machine.execVeCmpeq c det s
  | .veCmpne c det => Sys2Proof.Machine.execVeCmpne c det s
  | .veCmplt c det => Sys2Proof.Machine.execVeCmplt c det s
  | .veCmple c det => Sys2Proof.Machine.execVeCmple c det s
  | .veRsum c det => Sys2Proof.Machine.execVeRsum c det s
  | .veRmax c det => Sys2Proof.Machine.execVeRmax c det s
  | .veSmxs c det => Sys2Proof.Machine.execVeSmxs c det s
  | .veTopk c det => Sys2Proof.Machine.execVeTopk c det s
  | .veCompress c det => Sys2Proof.Machine.execVeCompress c det s
  | .veExpand c det => Sys2Proof.Machine.execVeExpand c det s
  | .veMld c det => Sys2Proof.Machine.execVeMld c det s
  | .veMst c det => Sys2Proof.Machine.execVeMst c det s
  | .veMpfx c det => Sys2Proof.Machine.execVeMpfx c det s
  | .veRetire c => Sys2Proof.Machine.execVeRetire c s
  | .arm c se => Sys2Proof.Machine.execArm c se s
  | .rearm c se => Sys2Proof.Machine.execRearm c se s
  | .disarm c se => Sys2Proof.Machine.execDisarm c se s
  | .chain c => Sys2Proof.Machine.execChain c s
  | .streamLoop c se => Sys2Proof.Machine.execStreamLoop c se s
  | .streamNext c se => Sys2Proof.Machine.execStreamNext c se s
  | .streamLoad c se => Sys2Proof.Machine.execStreamLoad c se s
  | .streamGath c se => Sys2Proof.Machine.execStreamGath c se s
  | .streamGbmp c se => Sys2Proof.Machine.execStreamGbmp c se s
  | .streamStore c se det => Sys2Proof.Machine.execStreamStore c se det s
  | .streamAdv c se => Sys2Proof.Machine.execStreamAdv c se s
  | .streamWait c se => Sys2Proof.Machine.execStreamWait c se s
  | .streamSignal c se => Sys2Proof.Machine.execStreamSignal c se s
  | .streamEnd c se => Sys2Proof.Machine.execStreamEnd c se s
  | .streamTransferComplete c se id => Sys2Proof.Machine.execStreamTransferComplete c se id s
  | .ringProducerResume c se => Sys2Proof.Machine.execRingProducerResume c se s
  | .nxIssueMq q w rs1 => Sys2Proof.Machine.execNxIssueMq q w rs1 s
  | .gmergeRows c => Sys2Proof.Machine.execGmergeRows c s
  | .gmergeTiles c => Sys2Proof.Machine.execGmergeTiles c s
  | .gradientSpaceWaitEnd => Sys2Proof.Machine.execGradientSpaceWaitEnd s
  | .updatePartStart id => Sys2Proof.Machine.execUpdatePartStart id s
  | .layerReadersZero id => Sys2Proof.Machine.execLayerReadersZero id s
  | .updpart src tag body => Sys2Proof.Machine.execUpdpart src tag body s
  | .updout tag status body => Sys2Proof.Machine.execUpdout tag status body s
  | .nxPark q w rs1 => Sys2Proof.Machine.execNxPark q w rs1 s
  | .nxTget q w => Sys2Proof.Machine.execNxTget q w s
  | .nxTgetPoll q w => Sys2Proof.Machine.execNxTgetPoll q w s
  | .nxSpawn q w rs1 rs2 => Sys2Proof.Machine.execNxSpawn q w rs1 rs2 s
  | .nxSend q w rs1 rs2 => Sys2Proof.Machine.execNxSend q w rs1 rs2 s
  | .nxSyncAdd q w rs1 rs2 bad => Sys2Proof.Machine.execNxSyncAdd q w rs1 rs2 bad s
  | .nxSyncSet q w rs1 rs2 bad => Sys2Proof.Machine.execNxSyncSet q w rs1 rs2 bad s
  | .nxSyncWaitGe q w rs1 rs2 bad => Sys2Proof.Machine.execNxSyncWaitGe q w rs1 rs2 bad s
  | .nxSyncWaitEq q w rs1 rs2 bad => Sys2Proof.Machine.execNxSyncWaitEq q w rs1 rs2 bad s
  | .nxSyncDecl q w rs1 bad => Sys2Proof.Machine.execNxSyncDecl q w rs1 bad s
  | .monitorRetry k => Sys2Proof.Machine.execMonitorRetry k s
  | .nxDelay q w rs1 => Sys2Proof.Machine.execNxDelay q w rs1 s
  | .nxFnext q w det => Sys2Proof.Machine.execNxFnext q w det s
  | .nxEndThread q w => Sys2Proof.Machine.execNxEndThread q w s
  | .nxEndJob q w rs1 => Sys2Proof.Machine.execNxEndJob q w rs1 s
  | .delayFire h => Sys2Proof.Machine.execDelayFire h s
  | .deadlineFire j => Sys2Proof.Machine.execDeadlineFire j s
  | .watchdogExpire w => Sys2Proof.Machine.execWatchdogExpire w s
  | .jobEndDrained j => Sys2Proof.Machine.execJobEndDrained j s
  | .clusterSleep n => Sys2Proof.Machine.execClusterSleep n s
  | .clusterWake n => Sys2Proof.Machine.execClusterWake n s
  | .clusterWakeComplete n => Sys2Proof.Machine.execClusterWakeComplete n s
  | .clusterOff n => Sys2Proof.Machine.execClusterOff n s
  | .seqLoad q rd size sgn a det => Sys2Proof.Machine.execSeqLoad q rd size sgn a det s
  | .seqStore q size a v det => Sys2Proof.Machine.execSeqStore q size a v det s
  | .mbDrainTimeout c det => Sys2Proof.Machine.execMbDrainTimeout c det s
  | .amoadd q rd size a v => Sys2Proof.Machine.execAmoadd q rd size a v s
  | .amoand q rd size a v => Sys2Proof.Machine.execAmoand q rd size a v s
  | .amoor q rd size a v => Sys2Proof.Machine.execAmoor q rd size a v s
  | .amoxor q rd size a v => Sys2Proof.Machine.execAmoxor q rd size a v s
  | .amomin q rd size a v => Sys2Proof.Machine.execAmomin q rd size a v s
  | .amomax q rd size a v => Sys2Proof.Machine.execAmomax q rd size a v s
  | .amominu q rd size a v => Sys2Proof.Machine.execAmominu q rd size a v s
  | .amomaxu q rd size a v => Sys2Proof.Machine.execAmomaxu q rd size a v s
  | .amoswap q rd size a v => Sys2Proof.Machine.execAmoswap q rd size a v s
  | .lr q rd size a => Sys2Proof.Machine.execLr q rd size a s
  | .sc q rd size a v => Sys2Proof.Machine.execSc q rd size a v s
  | .lrHoldExpire who => Sys2Proof.Machine.execLrHoldExpire who s
  | .fence q pred succ => Sys2Proof.Machine.execFence q pred succ s
  | .fenceI q => Sys2Proof.Machine.execFenceI q s
  | .ecall q => Sys2Proof.Machine.execEcall q s
  | .ebreak q => Sys2Proof.Machine.execEbreak q s
  | .atomAdd c => Sys2Proof.Machine.execAtomAdd c s
  | .atomFadd32 c => Sys2Proof.Machine.execAtomFadd32 c s
  | .atomFadd16 c => Sys2Proof.Machine.execAtomFadd16 c s
  | .atomMin c => Sys2Proof.Machine.execAtomMin c s
  | .atomMax c => Sys2Proof.Machine.execAtomMax c s
  | .atomMinu c => Sys2Proof.Machine.execAtomMinu c s
  | .atomMaxu c => Sys2Proof.Machine.execAtomMaxu c s
  | .atomFmin32 c => Sys2Proof.Machine.execAtomFmin32 c s
  | .atomFmax32 c => Sys2Proof.Machine.execAtomFmax32 c s
  | .atomAnd c => Sys2Proof.Machine.execAtomAnd c s
  | .atomOr c => Sys2Proof.Machine.execAtomOr c s
  | .atomXor c => Sys2Proof.Machine.execAtomXor c s
  | .atomSwap c => Sys2Proof.Machine.execAtomSwap c s
  | .atomCas c => Sys2Proof.Machine.execAtomCas c s
  | .atomRma c => Sys2Proof.Machine.execAtomRma c s
  | .coreAtomResRead c rd => Sys2Proof.Machine.execCoreAtomResRead c rd s
  | .rehomeComplete side => Sys2Proof.Machine.execRehomeComplete side s
  | .memReadDecode dla res part => Sys2Proof.Machine.execMemReadDecode dla res part s
  | .unitMapoutComplete u => Sys2Proof.Machine.execUnitMapoutComplete u s
  | .errorWindowEnd c => Sys2Proof.Machine.execErrorWindowEnd c s
  | .regulatorRefill => Sys2Proof.Machine.execRegulatorRefill s
  | .requestAgeLimit u id => Sys2Proof.Machine.execRequestAgeLimit u id s
  | .hbmTempRead k temp => Sys2Proof.Machine.execHbmTempRead k temp s
  | .lpdTempRead p temp => Sys2Proof.Machine.execLpdTempRead p temp s
  | .portLinkUp n sub => Sys2Proof.Machine.execPortLinkUp n sub s
  | .portLinkDown n sub fail => Sys2Proof.Machine.execPortLinkDown n sub fail s
  | .ethFrameRx f => Sys2Proof.Machine.execEthFrameRx f s
  | .arpRequest n sub mac src target => Sys2Proof.Machine.execArpRequest n sub mac src target s
  | .neighborSolicitation n sub mac src target => Sys2Proof.Machine.execNeighborSolicitation n sub mac src target s
  | .icmpEchoRequest n sub v6 mac src dst body => Sys2Proof.Machine.execIcmpEchoRequest n sub v6 mac src dst body s
  | .pfcFrameRx n sub times => Sys2Proof.Machine.execPfcFrameRx n sub times s
  | .neighborRevalidate t k => Sys2Proof.Machine.execNeighborRevalidate t k s
  | .salrexData x => Sys2Proof.Machine.execSalrexData x s
  | .salrexAck x => Sys2Proof.Machine.execSalrexAck x s
  | .hello x => Sys2Proof.Machine.execHello x s
  | .assign x => Sys2Proof.Machine.execAssign x s
  | .salrexReset x => Sys2Proof.Machine.execSalrexReset x s
  | .ackTimer k chan => Sys2Proof.Machine.execAckTimer k chan s
  | .rtoExpire k chan psn => Sys2Proof.Machine.execRtoExpire k chan psn s
  | .peerLost k => Sys2Proof.Machine.execPeerLost k s
  | .pathPenaltyEnd k => Sys2Proof.Machine.execPathPenaltyEnd k s
  | .helloTimer => Sys2Proof.Machine.execHelloTimer s
  | .rd src tag body det bad => Sys2Proof.Machine.execRd src tag body det bad s
  | .rdr tag status body => Sys2Proof.Machine.execRdr tag status body s
  | .wr src tag body => Sys2Proof.Machine.execWr src tag body s
  | .wra tag status => Sys2Proof.Machine.execWra tag status s
  | .atomic src tag body => Sys2Proof.Machine.execAt src tag body s
  | .atr tag status body => Sys2Proof.Machine.execAtr tag status body s
  | .rowRead src tag body => Sys2Proof.Machine.execRowRead src tag body s
  | .rowWrite src tag body => Sys2Proof.Machine.execRowWrite src tag body s
  | .rowMerge src tag body => Sys2Proof.Machine.execRowMerge src tag body s
  | .rowLmerge src tag body => Sys2Proof.Machine.execRowLmerge src tag body s
  | .rowr tag status body => Sys2Proof.Machine.execRowr tag status body s
  | .syncMsgAdd src tag body noresp bad => Sys2Proof.Machine.execSyncMsgAdd src tag body noresp bad s
  | .syncMsgSet src tag body noresp bad => Sys2Proof.Machine.execSyncMsgSet src tag body noresp bad s
  | .syncMsgWaitGe src tag body bad => Sys2Proof.Machine.execSyncMsgWaitGe src tag body bad s
  | .syncMsgWaitEq src tag body bad => Sys2Proof.Machine.execSyncMsgWaitEq src tag body bad s
  | .syncr tag status body => Sys2Proof.Machine.execSyncr tag status body s
  | .answer src tag body => Sys2Proof.Machine.execAnswer src tag body s
  | .direct src body => Sys2Proof.Machine.execDirect src body s
  | .cxlLinkUp width fast lopt ide => Sys2Proof.Machine.execCxlLinkUp width fast lopt ide s
  | .cxlLinkDown => Sys2Proof.Machine.execCxlLinkDown s
  | .hostSnoop => Sys2Proof.Machine.execHostSnoop s
  | .spdmRequest req => Sys2Proof.Machine.execSpdmRequest req s
  | .cdatRequest req => Sys2Proof.Machine.execCdatRequest req s
  | .vinInRange => Sys2Proof.Machine.execVinInRange s
  | .vinOutOfRange => Sys2Proof.Machine.execVinOutOfRange s
  | .pwrEnRise => Sys2Proof.Machine.execPwrEnRise s
  | .pwrEnFall => Sys2Proof.Machine.execPwrEnFall s
  | .rstNLow => Sys2Proof.Machine.execRstNLow s
  | .rstNHigh => Sys2Proof.Machine.execRstNHigh s
  | .railPowerGood => Sys2Proof.Machine.execRailPowerGood s
  | .railPgTimeout => Sys2Proof.Machine.execRailPgTimeout s
  | .imageReadComplete ok => Sys2Proof.Machine.execImageReadComplete ok s
  | .memtrainComplete clusterFail sliceFail quals portFail => Sys2Proof.Machine.execMemtrainComplete clusterFail sliceFail quals portFail s
  | .linkupWaitExpire id => Sys2Proof.Machine.execLinkupWaitExpire id s
  | .undShutdown => Sys2Proof.Machine.execUndShutdown s
  | .undReboot => Sys2Proof.Machine.execUndReboot s
  | .undRecover => Sys2Proof.Machine.execUndRecover s
  | .moduleDrainTimeout => Sys2Proof.Machine.execModuleDrainTimeout s
  | .moduleDrainEnd => Sys2Proof.Machine.execModuleDrainEnd s
  | .rcvChunk arg => Sys2Proof.Machine.execRcvChunk arg s
  | .rcvVerify => Sys2Proof.Machine.execRcvVerify s
  | .rcvBoot => Sys2Proof.Machine.execRcvBoot s
  | .rcvFlash => Sys2Proof.Machine.execRcvFlash s
  | .rcvFlashComplete good => Sys2Proof.Machine.execRcvFlashComplete good s
  | .rcvWindowWrite off bs => Sys2Proof.Machine.execRcvWindowWrite off bs s
  | .patrolScrubRead res det => Sys2Proof.Machine.execPatrolScrubRead res det s
  | .kernelWatchdogExpire c => Sys2Proof.Machine.execKernelWatchdogExpire c s
  | .remoteMonitorAge n => Sys2Proof.Machine.execRemoteMonitorAge n s
  | .faultWindowEnd u => Sys2Proof.Machine.execFaultWindowEnd u s
  | .mapoutRecordWrite => Sys2Proof.Machine.execMapoutRecordWrite s
  | .mrecClear => Sys2Proof.Machine.execMrecClear s
  | .sensorRead temps => Sys2Proof.Machine.execSensorRead temps s
  | .powerSample watts => Sys2Proof.Machine.execPowerSample watts s
  | .powerCapStep mean => Sys2Proof.Machine.execPowerCapStep mean s
  | .capWindow => Sys2Proof.Machine.execCapWindow s
  | .hlatchGo cls => Sys2Proof.Machine.execHlatchGo cls s
  | .hlatchDone => Sys2Proof.Machine.execHlatchDone s
  | .marginGo v => Sys2Proof.Machine.execMarginGo v s
  | .marginDwellEnd errors bitsK => Sys2Proof.Machine.execMarginDwellEnd errors bitsK s
  | .mtgReadBw g v => Sys2Proof.Machine.execMtgReadBw g v s
  | .mtgWriteCheck g v => Sys2Proof.Machine.execMtgWriteCheck g v s
  | .mtgRunEnd g units errors addr => Sys2Proof.Machine.execMtgRunEnd g units errors addr s
  | .ptgLanePrbs n v => Sys2Proof.Machine.execPtgLanePrbs n v s
  | .ptgFrames n v => Sys2Proof.Machine.execPtgFrames n v s
  | .ptgRunEnd n count errs => Sys2Proof.Machine.execPtgRunEnd n count errs s
  | .tapInstruction t => Sys2Proof.Machine.execTapInstruction t s
  | .i3cPrivateWrite addr bs => Sys2Proof.Machine.execI3cPrivateWrite addr bs s
  | .i3cPrivateRead addr n => Sys2Proof.Machine.execI3cPrivateRead addr n s
  | .entdaa addr => Sys2Proof.Machine.execEntdaa addr s
  | .setdasa static addr => Sys2Proof.Machine.execSetdasa static addr s
  | .rstdaa => Sys2Proof.Machine.execRstdaa s
  | .getpid addr => Sys2Proof.Machine.execGetpid addr s
  | .getbcr addr => Sys2Proof.Machine.execGetbcr addr s
  | .getdcr addr => Sys2Proof.Machine.execGetdcr addr s
  | .getstatus addr => Sys2Proof.Machine.execGetstatus addr s
  | .cprsNChange k present => Sys2Proof.Machine.execCprsNChange k present s
  | .vauxOvercurrent k => Sys2Proof.Machine.execVauxOvercurrent k s
  | .sdclkLoss => Sys2Proof.Machine.execSdclkLoss s
  | .refclkLoss => Sys2Proof.Machine.execRefclkLoss s
  | .threadBecomesUrgent h => Sys2Proof.Machine.execThreadBecomesUrgent h s
  | .railFault => Sys2Proof.Machine.execRailFault s
  | .nxIssueSe q w rs1 => Sys2Proof.Machine.execNxIssueSe q w rs1 s
  | .illegalInstruction q => Sys2Proof.Machine.execIllegalInstruction q s
  | .nxpinWrite q v => Sys2Proof.Machine.execNxpinWrite q v s
  | .fabShareRefill => Sys2Proof.Machine.execFabShareRefill s
  | .ideCheckFail => Sys2Proof.Machine.execIdeCheckFail s
  | .cxlCacheResponse slot ok data pm => Sys2Proof.Machine.execCxlCacheResponse slot ok data pm s
  | .hdmDecoderEnable n on base size => Sys2Proof.Machine.execHdmDecoderEnable n on base size s
  | .arpReply n src mac => Sys2Proof.Machine.execArpReply n src mac s
  | .neighborAdvertisement n target mac => Sys2Proof.Machine.execNeighborAdvertisement n target mac s
  | .prefetchFill c line => Sys2Proof.Machine.execPrefetchFill c line s
  | .cIntN k => Sys2Proof.Machine.execCIntN k s
  | .sdclkReturn => Sys2Proof.Machine.execSdclkReturn s
  | .refclkReturn => Sys2Proof.Machine.execRefclkReturn s

end Sys2Proof.Machine
end

