-- ==== Sys2Proof/WellFormed.lean ====
section
/-! DEFINITION. What a well-formed command is: every operand in the range its rule gives it. `exec` is total all the same: the
statements that need a range name it. -/

namespace Sys2Proof

/-- A core of the full part (spec/01 R26). -/
def okCore (c : Nat) : Bool := c < 128
/-- A stream engine of a core (spec/09 R284). -/
def okSe (se : Nat) : Bool := se < 2
/-- A command slot (spec/16 R550). -/
def okSlot (slot : Nat) : Bool := slot < 4096
/-- A Treeline, a side of the Canopy, a channel of a flow: 0 or 1 (spec/01 R27, spec/13 R422, spec/15 R508). -/
def okTreeline (t : Nat) : Bool := t < 2
/-- A table (spec/04 R120). -/
def okTable (t : Nat) : Bool := t < 4096
/-- A cluster (spec/01 R26). -/
def okClu (n : Nat) : Bool := n < 16
/-- A module number, 0xFFF for none (spec/15 R520). -/
def okPeer (k : Nat) : Bool := k < 4096
/-- TAG of a message header (spec/15 R519). -/
def okTag (tag : Nat) : Bool := tag < 2 ^ 64
/-- STATUS of a message header (spec/00 R22). -/
def okStatus (st : Nat) : Bool := st < 256
/-- A packet sequence number (spec/15 R506). -/
def okPsn (psn : Nat) : Bool := psn < 2 ^ 32
/-- A port and a sub-port (spec/15 R494, R497). -/
def okPort (n : Nat) : Bool := n < 36
def okSub (sub : Nat) : Bool := sub < 4
/-- A MAC, an IPv4 and an IPv6 address. -/
def okMac (mac : Nat) : Bool := mac < 2 ^ 48
def okIp4 (a : Nat) : Bool := a < 2 ^ 32
def okIp6 (a : Nat) : Bool := a < 2 ^ 128
/-- An access size of a load or a store, and of an atomic (spec/13 R432, R438). -/
def okSize (size : Nat) : Bool := size == 1 || size == 2 || size == 4 || size == 8
def okAmoSize (size : Nat) : Bool := size == 4 || size == 8
/-- A register of a sequencer. -/
def okReg (rd : Nat) : Bool := rd < 32
/-- The predecessor and successor sets of FENCE. -/
def okPred (p : Nat) : Bool := p < 16
/-- A global address (spec/01 R33) and a device-local address. -/
def okAddr (a : Nat) : Bool := a < 2 ^ 64
def okDla (a : Nat) : Bool := a < 2 ^ 44
/-- The offset of a register access in a view (spec/00 R12). -/
def okOff (o : Nat) : Bool := o < 2 ^ 24
/-- The line of a host access and its 64 bytes (spec/16 R670). -/
def okLine (h : Nat) : Bool := h < 2 ^ 64 && h % 64 == 0
def okLineData (bs : List Byte) : Bool := bs.length == 64
/-- What a read's decoding finds (spec/14 R484), and a partition (spec/14 R473). -/
def okRes (r : Nat) : Bool := r < 4
def okPart (p : Nat) : Bool := p < 16
/-- A memory unit, a stack, a package, a channel, a place with regulators (spec/14). -/
def okUnit (u : Nat) : Bool := u < 40
def okStack (k : Nat) : Bool := k < 8
def okPkg (p : Nat) : Bool := p < 32
def okChan (c : Nat) : Bool := c < 384
def okPlace (u : Nat) : Bool := u < 128
/-- A fabric connector (spec/20 R653). -/
def okConn (k : Nat) : Bool := k < 9
/-- A HDM decoder (spec/16 R542), a query class (spec/03 R103), a memory traffic generator (spec/19 R641), an I3C address. -/
def okDecoder (n : Nat) : Bool := n < 8
def okClass (g : Nat) : Bool := g < 64
def okGen (g : Nat) : Bool := g < 40
def okI3c (a : Nat) : Bool := a < 128
/-- The sequencer that executes. -/
def okSq (q : Sq) : Bool := okCore q.core
/-- A datagram, a frame, a packet: where it arrives and what it is addressed to. -/
def okDgram (g : Dgram) : Bool := okPort g.port && okSub g.sub && okIp6 g.src && okIp6 g.dst && g.sport < 65536 && g.dport < 65536 && okMac g.mac
def okFrame (f : Frame) : Bool := okPort f.port && okSub f.sub && okMac f.dst && f.etype < 65536
def okRx (x : Rx) : Bool := okPort x.port && okSub x.sub && okIp6 x.src && okMac x.mac && okIp6 x.dst && x.dport < 65536 && x.dscp < 64
/-- A unit that adopts a COMMIT (spec/16 R562). -/
def okUnitName : CUnit → Bool
  | .qfe t => okTreeline t
  | .hbm k => okStack k
  | .cluster n => okClu n
  | .tbl | .upd | .can | .mem | .sfx | .eth | .cxl | .und | .tel => true

/-- Every operand of a command lies in the range its rule gives it. -/
def Instr.wellFormed : Instr → Bool
  | .registerWrite _ off size _ => okOff off && okSize size
  | .hostMemRead h _ _ => okLine h
  | .hostMemWrite h data _ _ => okLine h && okLineData data
  | .armWordWrite slot _ | .commit slot | .drain slot | .suspend slot | .resume slot | .cancel slot | .job slot
    | .copy slot | .tblLoad slot | .tileLoad slot | .scrub slot | .erase slot | .classSet slot | .progLoad slot
    | .replaceRows slot | .tblSet slot | .shardSet slot | .migrate slot | .graphSet slot | .update slot
    | .updProgSet slot | .updBindSet slot | .layerSet slot | .maskSet slot | .routeSet slot
    | .cxlCacheResponse slot _ _ _ => okSlot slot
  | .commitAdopt u => okUnitName u
  | .queryFragment g => okDgram g
  | .queryMessage t src tag _ => okTreeline t && okPeer src && okTag tag
  | .reassemblyExpire t _ | .keyHoldExpire t _ | .qfeCtlWrite t _ | .neighborRevalidate t _ => okTreeline t
  | .nxIssueGe q _ _ | .nxIssueMe q _ _ _ | .nxIssueVe q _ _ _ | .nxIssueMq q _ _ | .nxPark q _ _ | .nxTget q _
    | .nxTgetPoll q _ | .nxSpawn q _ _ _ | .nxSend q _ _ _ | .nxSyncAdd q _ _ _ _ | .nxSyncSet q _ _ _ _
    | .nxSyncWaitGe q _ _ _ _ | .nxSyncWaitEq q _ _ _ _ | .nxSyncDecl q _ _ _ | .nxDelay q _ _ | .nxFnext q _ _
    | .nxEndThread q _ | .nxEndJob q _ _ | .fenceI q | .ecall q | .ebreak q | .nxIssueSe q _ _ | .illegalInstruction q
    | .nxpinWrite q _ => okSq q
  | .engineQueueSpace c | .gather c | .nbr1 c | .nbr2 c | .nseg c | .nlist c | .gatherAdmit c
    | .adjacencyReadReturn c _ _ | .mma c _ _ | .mpredPredict c _ | .mpredObserve c _ | .mout c _ | .mload c _
    | .mseed c _ | .meRetire c _ | .veAdd c _ | .veSub c _ | .veMul c _ | .veFma c _ | .veMin c _ | .veMax c _
    | .veAnd c _ | .veOr c _ | .veXor c _ | .veShl c _ | .veShr c _ | .veSra c _ | .veSel c _ | .veCvt c _
    | .veExp2 c _ | .veRcp c _ | .veCmpeq c _ | .veCmpne c _ | .veCmplt c _ | .veCmple c _ | .veRsum c _ | .veRmax c _
    | .veSmxs c _ | .veTopk c _ | .veCompress c _ | .veExpand c _ | .veMld c _ | .veMst c _ | .veMpfx c _
    | .veRetire c | .chain c | .gmergeRows c | .gmergeTiles c | .mbDrainTimeout c _ | .atomAdd c | .atomFadd32 c
    | .atomFadd16 c | .atomMin c | .atomMax c | .atomMinu c | .atomMaxu c | .atomFmin32 c | .atomFmax32 c | .atomAnd c
    | .atomOr c | .atomXor c | .atomSwap c | .atomCas c | .atomRma c | .kernelWatchdogExpire c | .prefetchFill c _ =>
    okCore c
  | .loadrep src _ | .moveSnap src _ _ _ | .moveReady src _ | .moveCommit src _ | .moveDiscard src _ | .moveBusy src _
    | .direct src _ => okPeer src
  | .leaseEnd t _ => okTable t
  | .arm c se | .rearm c se | .disarm c se | .streamLoop c se | .streamNext c se | .streamLoad c se | .streamGath c se
    | .streamGbmp c se | .streamStore c se _ | .streamAdv c se | .streamWait c se | .streamSignal c se
    | .streamEnd c se | .streamTransferComplete c se _ | .ringProducerResume c se => okCore c && okSe se
  | .updpart src tag _ | .rd src tag _ _ _ | .wr src tag _ | .atomic src tag _ | .rowRead src tag _
    | .rowWrite src tag _ | .rowMerge src tag _ | .rowLmerge src tag _ | .syncMsgAdd src tag _ _ _
    | .syncMsgSet src tag _ _ _ | .syncMsgWaitGe src tag _ _ | .syncMsgWaitEq src tag _ _ | .answer src tag _ =>
    okPeer src && okTag tag
  | .updout tag status _ | .rdr tag status _ | .wra tag status | .atr tag status _ | .rowr tag status _
    | .syncr tag status _ => okTag tag && okStatus status
  | .clusterSleep n | .clusterWake n | .clusterWakeComplete n | .clusterOff n => okClu n
  | .seqLoad q dr size _ a _ => okSq q && okReg dr && okSize size && okAddr a
  | .seqStore q size a _ _ => okSq q && okSize size && okAddr a
  | .amoadd q dr size a _ | .amoand q dr size a _ | .amoor q dr size a _ | .amoxor q dr size a _
    | .amomin q dr size a _ | .amomax q dr size a _ | .amominu q dr size a _ | .amomaxu q dr size a _
    | .amoswap q dr size a _ | .lr q dr size a | .sc q dr size a _ =>
    okSq q && okReg dr && okAmoSize size && okAddr a
  | .fence q pred succ => okSq q && okPred pred && okPred succ
  | .coreAtomResRead c dr => okCore c && okReg dr
  | .rehomeComplete side => okTreeline side
  | .memReadDecode dla res part => okDla dla && okRes res && okPart part
  | .unitMapoutComplete u => okUnit u
  | .errorWindowEnd c => okChan c
  | .requestAgeLimit u _ => okPlace u
  | .hbmTempRead k _ => okStack k
  | .lpdTempRead p _ => okPkg p
  | .portLinkUp n sub | .portLinkDown n sub _ | .pfcFrameRx n sub _ => okPort n && okSub sub
  | .ethFrameRx f => okFrame f
  | .arpRequest n sub mac src target => okPort n && okSub sub && okMac mac && okIp4 src && okIp4 target
  | .neighborSolicitation n sub mac src target => okPort n && okSub sub && okMac mac && okIp6 src && okIp6 target
  | .icmpEchoRequest n sub _ mac src dst _ => okPort n && okSub sub && okMac mac && okIp6 src && okIp6 dst
  | .salrexData x | .salrexAck x | .hello x | .assign x | .salrexReset x => okRx x
  | .ackTimer k chan => okPeer k && okTreeline chan
  | .rtoExpire k chan psn => okPeer k && okTreeline chan && okPsn psn
  | .peerLost k => okPeer k
  | .patrolScrubRead res _ => okRes res
  | .hlatchGo cls => okClass cls
  | .mtgReadBw g _ | .mtgWriteCheck g _ | .mtgRunEnd g _ _ _ => okGen g
  | .ptgLanePrbs n _ | .ptgFrames n _ | .ptgRunEnd n _ _ => okPort n
  | .i3cPrivateWrite addr _ | .i3cPrivateRead addr _ | .entdaa addr | .getpid addr | .getbcr addr | .getdcr addr
    | .getstatus addr => okI3c addr
  | .setdasa static addr => okI3c static && okI3c addr
  | .cprsNChange k _ | .vauxOvercurrent k | .cIntN k => okConn k
  | .hdmDecoderEnable n _ _ _ => okDecoder n
  | .arpReply n src mac => okPort n && okIp4 src && okMac mac
  | .neighborAdvertisement n target mac => okPort n && okIp6 target && okMac mac
  | .drainComplete _ | .drainTimeout _ | .jobSuspended _ | .suspendTimeout _ | .longOpBlockDone _ _ | .rowClaimRetry _
    | .rowClaimComplete _ _ | .rowWritesComplete _ _ | .gatherGroupHoldExpire _ | .versionReadReturn _ _
    | .rowReadReturn _ | .lookupBackoffExpire _ | .entry _ | .loadWindowClose | .moveStart _ | .moveCopyStart _ _
    | .moveTimeout _ | .gradientSpaceWaitEnd | .updatePartStart _ | .layerReadersZero _ | .monitorRetry _
    | .delayFire _ | .deadlineFire _ | .watchdogExpire _ | .jobEndDrained _ | .lrHoldExpire _ | .regulatorRefill
    | .pathPenaltyEnd _ | .helloTimer | .cxlLinkUp _ _ _ _ | .cxlLinkDown | .hostSnoop | .spdmRequest _
    | .cdatRequest _ | .vinInRange | .vinOutOfRange | .pwrEnRise | .pwrEnFall | .rstNLow | .rstNHigh | .railPowerGood
    | .railPgTimeout | .imageReadComplete _ | .memtrainComplete _ _ _ _ | .linkupWaitExpire _ | .undShutdown
    | .undReboot | .undRecover | .moduleDrainTimeout | .moduleDrainEnd | .rcvChunk _ | .rcvVerify | .rcvBoot
    | .rcvFlash | .rcvFlashComplete _ | .rcvWindowWrite _ _ | .remoteMonitorAge _ | .faultWindowEnd _
    | .mapoutRecordWrite | .mrecClear | .sensorRead _ | .powerSample _ | .powerCapStep _ | .capWindow | .hlatchDone
    | .marginGo _ | .marginDwellEnd _ _ | .tapInstruction _ | .rstdaa | .sdclkLoss | .refclkLoss
    | .threadBecomesUrgent _ | .railFault | .fabShareRefill | .ideCheckFail | .sdclkReturn | .refclkReturn => true

end Sys2Proof
end

