-- ==== Sys2Proof/Safety.lean ====
section
/-! DEFINITION. The terms that statements about a run are made of: the parts of a state, what a step may change, what a slot's
command meets when it is taken. -/

namespace Sys2Proof.Machine

/-- The volatile part of a state, and its instant. -/
def State.dev (s : State) : Dev := s.mach.dev
def State.now (s : State) : Nat := s.mach.und.now

/-- A state with another volatile part, and with another module. -/
def State.withDev (s : State) (d : Dev) : State := { s with mach := { s.mach with dev := d } }
def State.withMach (s : State) (m : Mach) : State := { s with mach := m }

/-- A state whose clock stands at an instant, or where it stood when that is later, with another volatile part. -/
def State.later (s : State) (t : Nat) (d : Dev) : State :=
  { s with mach := { s.mach with und := { s.mach.und with now := max s.now t }, dev := d } }

/-- The fuses of a module as they may have become: SVN not lower, no key revocation taken back, nothing else changed
(spec/17 R583, R597). -/
def Fuse.Keeps (old new : Fuse) : Prop :=
  old.svn ≤ new.svn ∧ (∀ i, bitAt old.keyRev i = true → bitAt new.keyRev i = true) ∧
  new = { old with svn := new.svn, keyRev := new.keyRev }

/-- The canonical form of memory: bytes and marks. -/
def Mem.wf (m : Mem) : Bool := SMap.wf 0 m.bytes && SMap.wf false m.poison

/-- A slot holds a command of a code that passes every check (spec/16 R552, R668). -/
abbrev Dev.Accepts (d : Dev) (slot opc : Nat) (config : Bool) (checks : HOp → List (Bool × Nat)) (o : HOp) : Prop :=
  d.queuedOp slot opc = some o ∧ refusal (d.baseChecks o config ++ checks o) = sOk

/-- A slot holds a command of a code that some check refuses, with the status R668 chooses. -/
abbrev Dev.Refuses (d : Dev) (slot opc : Nat) (config : Bool) (checks : HOp → List (Bool × Nat)) (o : HOp) (st : Nat) : Prop :=
  d.queuedOp slot opc = some o ∧ refusal (d.baseChecks o config ++ checks o) = st ∧ st ≠ sOk

/-- A command as it is once taken: running, since an instant. -/
def HOp.taken (o : HOp) (now : Nat) : HOp := { o with st := .running, at_ := now }

/-- The volatile part once a slot's command has been taken. -/
def Dev.taken (d : Dev) (now : Nat) (o : HOp) : Dev := d.modOp o.handle fun q => q.taken now

/-- The AMOs of the A extension with the codes of their Canopy atomics (spec/13 R431, R436). -/
def amoRows : List ((Sq → Nat → Nat → Nat → Word → Instr) × Nat) :=
  [(.amoadd, 0x01), (.amoand, 0x0A), (.amoor, 0x0B), (.amoxor, 0x0C), (.amomin, 0x04), (.amomax, 0x05), (.amominu, 0x06),
   (.amomaxu, 0x07), (.amoswap, 0x0D)]

/-- The launched atomics of the atomic registers with their codes (spec/13 R431, R438). -/
def atomRows : List ((Nat → Instr) × Nat) :=
  [(.atomAdd, 0x01), (.atomFadd32, 0x02), (.atomFadd16, 0x03), (.atomMin, 0x04), (.atomMax, 0x05), (.atomMinu, 0x06),
   (.atomMaxu, 0x07), (.atomFmin32, 0x08), (.atomFmax32, 0x09), (.atomAnd, 0x0A), (.atomOr, 0x0B), (.atomXor, 0x0C),
   (.atomSwap, 0x0D), (.atomCas, 0x0E), (.atomRma, 0x10)]

/-- An instruction of the matrix or vector engine: its command, which engine, whether a queue entry is that instruction, and what it comes
to when it is taken (spec/06 R193, spec/08 R261). -/
structure InsnRow where
  cmd : Nat → Det → Instr
  ve : Bool
  mine : QEnt → Bool
  start : Nat → Nat → Det → Dev → QEnt → EngOut

def meRow (cmd : Nat → Det → Instr) (mine : QEnt → Bool) (start : Nat → Nat → Det → Dev → QEnt → EngOut) : InsnRow :=
  { cmd := cmd, ve := false, mine := mine, start := start }

def veRow (cmd : Nat → Det → Instr) (opc : Nat) (start : Nat → Nat → Det → Dev → QEnt → EngOut) : InsnRow :=
  { cmd := cmd, ve := true, mine := fun x => x.opc == opc, start := start }

/-- The instructions of the matrix engine; `lq` is the delay of an MMA's lane queues. -/
def meRows (lq : Nat) : List InsnRow :=
  [meRow (fun c det => .mma c det lq) (fun x => x.opc == 1) (fun now c det => mmaStart det c now lq),
   meRow .mpredPredict (fun x => x.opc == 2 && !bitAt x.w0.toNat 13) predictStart,
   meRow .mpredObserve (fun x => x.opc == 2 && bitAt x.w0.toNat 13) observeStart,
   meRow .mout (fun x => x.opc == 3) moutStart, meRow .mload (fun x => x.opc == 4) mloadStart,
   meRow .mseed (fun x => x.opc == 5) mseedStart]

/-- The elementwise instructions of the vector engine with their codes (spec/08 R261). -/
def elemRows : List ((Nat → Det → Instr) × Nat) :=
  [(.veAdd, 0x10), (.veSub, 0x11), (.veMul, 0x12), (.veFma, 0x13), (.veMin, 0x14), (.veMax, 0x15), (.veAnd, 0x16), (.veOr, 0x17),
   (.veXor, 0x18), (.veShl, 0x19), (.veShr, 0x1A), (.veSra, 0x1B), (.veSel, 0x1C), (.veCvt, 0x1D), (.veExp2, 0x1E), (.veRcp, 0x1F)]

/-- The instructions of the vector engine. -/
def veRows : List InsnRow :=
  (elemRows.map fun p => veRow p.1 p.2 vElem) ++
  [veRow .veCmpeq 0x20 vCompare, veRow .veCmpne 0x21 vCompare, veRow .veCmplt 0x22 vCompare, veRow .veCmple 0x23 vCompare,
   veRow .veRsum 0x30 vRed, veRow .veRmax 0x31 vRed, veRow .veSmxs 0x32 vRed, veRow .veTopk 0x38 vTop,
   veRow .veCompress 0x40 vCompress, veRow .veExpand 0x41 vExpand, veRow .veMld 0x50 vMld, veRow .veMst 0x51 vMst,
   veRow .veMpfx 0x52 vMpfx]

/-- An instruction is next in its engine's queue and nothing outside it holds it: the vector engine works no other (spec/08 R259), no
chain has still to arm a ring of its own (spec/09 R304), and no power cap is in force, or none of its window is used (spec/19 R637). -/
abbrev Dev.Turn (d : Dev) (c : Nat) (ve : Bool) (x : QEnt) : Prop :=
  nextPlace (d.queue c (if ve = true then .ve else .me)) = some x ∧ (ve = true → (d.queue c .ve).any (·.started) = false) ∧
  d.chainWaits c ve x = false ∧ (d.rd .TEL_PCAPST = 0 ∨ SMap.get 0 d.tel.capUsed (2 * c + if ve = true then 1 else 0) = 0)

/-- What an instruction that starts leaves (spec/06 R192, R198, spec/08 R259, spec/19 R637): what it wrote, its place marked as started
with the areas it writes, the clk it occupies counted and charged to the cap's window, the chains fed, its wait ended. -/
def EngOut.begun (o : EngOut) (d0 : Dev) (now c : Nat) (ve : Bool) : Dev :=
  let e : Eng := if ve = true then .ve else .me
  let n := if ve = true then 1 else 0
  match o with
  | .done d area occ =>
    let a := (d.setQueue c e (modNext (fun y => { y with started := true, area := area }) (d.queue c e))).bump (busyReg ve) [c] occ
    ((({ a with tel := { a.tel with capUsed := a.tel.capUsed.mod 0 (2 * c + n) (· + occ) } } : Dev).feedChains c).stallEnd now c n)
  | _ => d0

/-- The tile that a source of a matrix instruction supplies is there and good (spec/06 R194, R196, R197, spec/09 R285, R286): `src` 0 is a
place of CLM, 1 and 2 the head slot of the ring of SE0 and SE1. -/
abbrev Dev.TileThere (d : Dev) (c src off : Nat) (bs : List Byte) : Prop :=
  tileGood bs = true ∧
  (src = 0 → bs = d.tileBytes (clmAt c off) ∧ off + 32 ≤ clmSize ∧ off + bs.length ≤ clmSize) ∧
  (src ≠ 0 → let r := d.ring c (src - 1)
    (r.mode = 1 ∨ r.mode = 2) ∧ r.headReady = true ∧ bs = d.tileBytes (r.at c r.head) ∧ bs.length ≤ r.slot64 * 64)

/-- Whether that tile is poisoned (spec/02 R77). -/
def Dev.tileHurt (d : Dev) (c src off : Nat) (bs : List Byte) : Bool :=
  d.tilePoisoned (if src = 0 then clmAt c off else (d.ring c (src - 1)).at c (d.ring c (src - 1)).head) bs

/-- A source tensor of a vector instruction can be read (spec/08 R262, R263, R279): its descriptor keeps the rules and lies in CLM; an
accumulator is not being written and is of its class; a tile is there and good, of the descriptor's format, without repeats. -/
abbrev Dev.SourceThere (d : Dev) (c : Nat) (t : Tens) : Prop :=
  t.bad false = false ∧ t.misaligned = false ∧ t.past = false ∧
  (t.kind = 0 ∨
   (t.kind = 3 ∧ d.accBusy c t.acc = false ∧ (t.dt == .fp32) = (d.acc c t.acc).fp ∧ (t.dt = .fp32 ∨ t.dt = .int32)) ∨
   ∃ bs, (t.kind = 1 ∨ t.kind = 2) ∧ d.TileThere c (if t.kind = 1 then 0 else t.ringNo + 1) t.base bs ∧
     (TileHdr.parse bs).dtype = t.dtype ∧ multiEntry bs = false)

/-- A destination tensor of a vector instruction can be written at once (spec/08 R263, spec/09 R286, R287): an accumulator is not being
written; a ring has a free slot that holds any tile of the result's shape and format. -/
abbrev Dev.DestFree (d : Dev) (c : Nat) (t : Tens) (rows len : Nat) : Prop :=
  (t.kind = 3 → d.accBusy c t.acc = false) ∧
  (t.kind = 2 → (d.ring c t.ringNo).room = true ∧ denseSize t.dt rows len ≤ (d.ring c t.ringNo).slot64 * 64)

/-- Commands whose whole effect is on the volatile part: the Understory, its instant, its log and the flash stay as they are; of a transfer,
where its reading finds no error. -/
def volatileOnly : Instr → Bool
  | .armWordWrite .. | .drain .. | .drainComplete .. | .suspend .. | .resume .. | .cancel .. | .jobSuspended .. | .job .. | .copy .. |
    .tblLoad .. | .tileLoad .. | .scrub .. | .erase .. | .classSet .. | .progLoad .. | .replaceRows .. | .tblSet .. | .shardSet .. |
    .migrate .. | .graphSet .. | .update .. | .updProgSet .. | .updBindSet .. | .layerSet .. | .maskSet .. | .routeSet .. |
    .queryFragment .. | .queryMessage .. | .qfeCtlWrite .. | .rowClaimComplete .. | .rowWritesComplete .. | .nxIssueGe .. |
    .engineQueueSpace .. | .gather .. | .nbr1 .. | .nbr2 .. | .nseg .. | .nlist .. | .gatherAdmit .. | .versionReadReturn .. |
    .rowReadReturn .. | .adjacencyReadReturn .. | .entry .. | .loadrep .. | .moveStart .. | .moveCopyStart .. | .moveSnap .. |
    .moveReady .. | .moveCommit .. | .moveDiscard .. | .moveBusy .. | .nxIssueMe .. | .meRetire .. | .nxIssueVe .. | .veRetire .. |
    .arm .. | .rearm .. | .disarm .. | .chain .. | .streamLoop .. | .streamNext .. | .streamLoad .. | .streamGath .. | .streamGbmp .. |
    .streamStore .. | .streamAdv .. | .streamWait .. | .streamSignal .. | .streamEnd .. |
    .ringProducerResume .. | .nxIssueMq .. | .gmergeRows .. | .gmergeTiles .. | .gradientSpaceWaitEnd | .updatePartStart .. |
    .layerReadersZero .. | .updpart .. | .updout .. | .nxPark .. | .nxTget .. | .nxTgetPoll .. | .nxSpawn .. | .nxSend .. |
    .nxDelay .. | .nxEndThread .. | .nxEndJob .. | .jobEndDrained .. | .clusterSleep .. | .clusterWake .. | .clusterWakeComplete .. |
    .amoadd .. | .amoand .. | .amoor .. | .amoxor .. | .amomin .. | .amomax .. | .amominu .. | .amomaxu .. | .amoswap .. | .lr .. |
    .sc .. | .fence .. | .fenceI .. | .ecall .. | .ebreak .. | .atomAdd .. | .atomFadd32 .. | .atomFadd16 .. | .atomMin .. |
    .atomMax .. | .atomMinu .. | .atomMaxu .. | .atomFmin32 .. | .atomFmax32 .. | .atomAnd .. | .atomOr .. | .atomXor .. |
    .atomSwap .. | .atomCas .. | .atomRma .. | .rehomeComplete .. | .ethFrameRx .. | .arpRequest .. | .neighborSolicitation .. |
    .icmpEchoRequest .. | .pfcFrameRx .. | .salrexData .. | .salrexAck .. | .salrexReset .. | .rdr .. | .wr .. | .wra .. |
    .atomic .. | .atr .. | .rowRead .. | .rowWrite .. | .rowMerge .. | .rowLmerge .. | .rowr .. | .syncr .. | .answer .. | .direct .. |
    .cxlLinkUp .. | .cxlLinkDown | .hostSnoop | .cdatRequest .. | .getpid .. | .getbcr .. | .getdcr .. | .getstatus .. | .nxIssueSe .. |
    .illegalInstruction .. | .nxpinWrite .. | .ideCheckFail | .cxlCacheResponse .. | .hdmDecoderEnable .. | .arpReply .. |
    .neighborAdvertisement .. | .prefetchFill .. | .cIntN .. => true
  | .streamTransferComplete _ _ ref => ref % 32 == 0
  | _ => false

/-- The slices hide no error that a line's leaving would bring to memory: no clean line stands before an uncorrectable granule, and
nothing waits to be found (spec/13 R428, R430, spec/14 R484). -/
abbrev Dev.linesClean (d : Dev) : Prop := d.findings = [] ∧ ∀ l ∈ d.canopy.lines, l.2.bad = 0

/-- Commands that write no byte and no mark of memory in any state: those of the ports and their neighbours, of the module's
management and sensors, and the sequencer's that end no job and drain no store. -/
def storesNothing : Instr → Bool
  | .keyHoldExpire .. | .qfeCtlWrite .. | .loadrep .. | .clusterOff .. | .fenceI .. | .ecall .. |
    .rehomeComplete .. | .errorWindowEnd .. | .lpdTempRead .. | .portLinkDown .. | .ethFrameRx .. | .arpRequest .. |
    .neighborSolicitation .. | .icmpEchoRequest .. | .pfcFrameRx .. | .ackTimer .. | .rtoExpire .. | .pathPenaltyEnd .. | .answer .. |
    .cxlLinkUp .. | .hostSnoop | .spdmRequest .. | .cdatRequest .. | .vinInRange | .pwrEnRise | .rstNHigh | .rcvChunk .. |
    .rcvFlashComplete .. | .rcvWindowWrite .. | .remoteMonitorAge .. | .faultWindowEnd .. | .mapoutRecordWrite | .mrecClear |
    .powerSample .. | .hlatchDone | .ptgRunEnd .. | .tapInstruction .. | .i3cPrivateRead .. | .entdaa .. | .setdasa .. | .rstdaa |
    .getpid .. | .getbcr .. | .getdcr .. | .getstatus .. | .cprsNChange .. | .vauxOvercurrent .. | .sdclkLoss |
    .threadBecomesUrgent .. | .ideCheckFail | .hdmDecoderEnable .. | .arpReply .. | .neighborAdvertisement .. |
    .cIntN .. | .refclkReturn => true
  | _ => false

/-- Commands that write no byte and no mark of memory in a state: a bank group that is issued while every row of it is still there, and a
line that comes to a side buffer while the slices hide no error. -/
def Dev.storesNothingNow (d : Dev) : Instr → Prop
  | .gatherGroupHoldExpire id => ∀ r, d.reader? id = some r → ∀ x ∈ d.bankGroup r, ∀ q ∈ x.rows, d.rowGone x q = false
  | .prefetchFill .. => d.linesClean
  | _ => False

end Sys2Proof.Machine
end

