-- ==== Sys2Proof/Certificates/Slice0/Obligations.lean ====
section
/-! DEFINITION. The statements for the provers: what the commands of each family do, what they leave alone, and what every step
keeps. -/

open Sys2Proof Sys2Proof.Machine

/-- spec/95: a command is one indivisible step: with a command at the front of its queue, a step is that command on the queue's rest. -/
def Obligations.StepRunsFrontCommand : Prop := ∀ (c : Instr) (rest : List Instr) (s : State),
  step { s with pending := c :: rest } = exec c { s with pending := rest }

/-- The model's choice (log entry 3): with no command waiting, one tick of 1 µs passes; nothing else changes but what follows it at the
ports, and that only where a port holds a pause or bytes in its receive buffer (log entry 35). -/
def Obligations.EmptyQueueTicks : Prop := ∀ s : State, s.pending = [] →
  step s = .next (s.later (s.now + 12000) (s.dev.portTime (s.now + 12000))) ∧
  ((∀ p ∈ s.dev.net.ports, p.2.buf = [] ∧ p.2.pauseEnd = []) → SMap.wf {} s.dev.net.ports = true →
    step s = .next { s with mach := { s.mach with und := { s.mach.und with now := s.mach.und.now + 12000 } } })

/-- Every command, in every state, with every operand, answers a next state, and leaves the queue as it was. -/
def Obligations.EveryCommandAnswers : Prop := ∀ (c : Instr) (s : State), ∃ t, exec c s = .next t ∧ t.pending = s.pending

/-- spec/17 R569, R571, R574: right after reset the module is OFF with nothing waiting, no unit present, no time passed, no event
recorded, no fuse blown by an image, and memory listing nothing. The fuses' contents and the flash's are the model's choice (log entry 2). -/
def Obligations.ResetLeavesTheModuleOff : Prop :=
  State.reset.mach.und.st = .off ∧ State.reset.pending = [] ∧ State.reset.now = 0 ∧ State.reset.mach.und.evLog = [] ∧
  State.reset.mach.und.rails = 0 ∧ State.reset.dev.pres = {} ∧ State.reset.dev.mem = {} ∧ State.reset.dev.mem.wf = true ∧
  State.reset.dev.jobs = [] ∧ State.reset.dev.host.ops = [] ∧ State.reset.dev.host.link = false ∧ State.reset.dev.out = []

/-- spec/12 R375: no step takes the module's time back. -/
def Obligations.TimeNeverRunsBack : Prop := ∀ (s t : State), step s = .next t → s.now ≤ t.now

/-- spec/18 R625: the event log holds the 64 most recent records: a step never leaves it longer, whatever it records. -/
def Obligations.EventLogKeepsItsBound : Prop := ∀ (s t : State), step s = .next t → s.mach.und.evLog.length ≤ 64 → t.mach.und.evLog.length ≤ 64

/-- spec/17 R583, R597: whatever command is given in whatever state, the fused SVN never falls, no key slot's revocation is taken back,
and no other fuse ever changes. -/
def Obligations.FusesOnlyMoveOneWay : Prop := ∀ (s t : State), step s = .next t → s.fuse.Keeps t.fuse

/-- spec/17 R570, R590, R592, spec/18 R622: from every state of the model a step leaves the module's state as it is or changes it as the
table of R570 allows; MEMTRAIN may reach RUN in one step, since LINKUP is left as soon as R592 is met. -/
def Obligations.StatesMoveByTheTable : Prop := ∀ (s t : State), step s = .next t →
  let a := s.mach.und.st
  let b := t.mach.und.st
  a = b ∨ b = .off ∨ (a ≠ .off ∧ b = .understory) ∨
  match a with
  | .off => b = .understory
  | .understory => b = .boot ∨ b = .faultHold
  | .boot => b = .memtrain ∨ b = .recovery ∨ b = .faultHold
  | .memtrain => b = .linkup ∨ b = .run ∨ b = .faultHold
  | .linkup => b = .run ∨ b = .faultHold
  | .run => b = .drain ∨ b = .faultHold
  | .drain => b = .boot ∨ b = .recovery ∨ b = .faultHold
  | .recovery => b = .memtrain ∨ b = .boot ∨ b = .faultHold
  | .faultHold => False

/-- spec/17 R583: at entry to RUN, for an image booted from flash or written to flash in RECOVERY: with SVN_COMMIT set and SVN above the
fused SVN, the fused SVN becomes SVN; with REVOKE_BELOW set every key slot below KEY_IDX is revoked; an image staged in RECOVERY and not
written to flash changes no fuse. -/
def Obligations.FusesAtEntryToRun : Prop := ∀ (s : State),
  let h := s.mach.und.imgHdr
  let svn := recNum h 8 1
  let keyIdx := recNum h 9 1
  let commit := bitAt (recNum h 10 1) 0
  let revoke := bitAt (recNum h 10 1) 1
  (s.mach.und.st = .linkup → ∀ id,
    let m := s.mach.atTime (s.mach.und.stateAt + s.dev.cfgF .UND_LINKCFG [] (if id then 16 else 0) 16 * 12000000)
    m.runReady = true → exec (.linkupWaitExpire id) s = .next (s.withMach m).enterRun) ∧
  (s.mach.und.source = 1 → s.enterRun.fuse = s.fuse) ∧
  (s.mach.und.source ≠ 1 →
    s.enterRun.fuse.svn = (if commit = true ∧ s.fuse.svn < svn then svn else s.fuse.svn) ∧
    (∀ i, bitAt s.enterRun.fuse.keyRev i = (bitAt s.fuse.keyRev i || (revoke && decide (i < keyIdx))))) ∧
  s.enterRun.mach.und.st = .run

/-- spec/17 R595: when one UND_CTL write sets more than one of SHUTDOWN, REBOOT and RECOVER, SHUTDOWN prevails, then REBOOT. UND_CTL
writes outside RUN are ignored, except REBOOT in RECOVERY. -/
def Obligations.UndCtlPriority : Prop := ∀ (s : State) (v : Nat),
  let m := s.mach
  (m.und.st = .run →
    (bitAt v 0 = true → m.undCtl v = m.startDrain .shutdown) ∧
    (bitAt v 0 = false → bitAt v 1 = true → m.undCtl v = m.startDrain .reboot) ∧
    (bitAt v 0 = false → bitAt v 1 = false → bitAt v 2 = true → m.undCtl v = m.startDrain .recover)) ∧
  (m.und.st ≠ .run → m.und.st ≠ .recovery → m.undCtl v = m) ∧
  (m.und.st = .recovery →
    (bitAt v 1 = true → bitAt v 0 = false → m.undCtl v = { m.enterBoot with nv := m.nv.breakFlash }) ∧
    (bitAt v 1 = false ∨ bitAt v 0 = true → m.undCtl v = m)) ∧
  exec .undShutdown s = .next (s.withMach (m.undCtl 1)) ∧ exec .undReboot s = .next (s.withMach (m.undCtl 2)) ∧
  exec .undRecover s = .next (s.withMach (m.undCtl 4)) ∧
  (∀ w : Word, m.und.st = .run → w.toNat < 8 →
    exec (.registerWrite false (Reg.UND_CTL.off []) 8 w) s = .next (s.withMach (m.undCtl w.toNat)))

/-- The frame of the commands of the volatile part: they leave the fuses, the flash and the map-out record, the Understory with its state,
its time and its log, and the queue as they were. -/
def Obligations.VolatileCommandsFrame : Prop := ∀ (c : Instr) (s t : State), volatileOnly c = true → exec c s = .next t →
  t.fuse = s.fuse ∧ t.mach.nv = s.mach.nv ∧ t.mach.und = s.mach.und ∧ t.pending = s.pending

/-- The frame of the commands that store nothing, in any state or in this one: every byte of memory, and every poison mark, reads as
before. -/
def Obligations.StorelessCommandsFrame : Prop := ∀ (c : Instr) (s t : State), storesNothing c = true ∨ s.dev.storesNothingNow c →
  exec c s = .next t →
  (∀ a, t.dev.mem.byte a = s.dev.mem.byte a) ∧ (∀ a, t.dev.mem.marked a = s.dev.mem.marked a)

/-- spec/16 R543: the frame of a host write that reaches a line of memory, while no cached line hides an error: every byte but the enabled
bytes of that line reads as before, memory keeps its canonical form, and the Understory, the flash and the fuses stay as they were. -/
def Obligations.HostWriteFrame : Prop := ∀ (s t : State) (h a mask : Nat) (bs : List Byte) (poison : Bool), s.dev.linesClean →
  s.dev.hdm (h / 64 * 64) = some a → (∃ u b, s.dev.target a = .ext u b) ∨ (∃ k, s.dev.target a = .clearing k) →
  (s.dev.hostMemWrite a mask ((bs ++ zeros64).take 64) poison).armSlot a = none → exec (.hostMemWrite h bs mask poison) s = .next t →
  (∀ c, (∀ i, i < 64 → bitAt mask i = true → c ≠ s.dev.cell (a + i)) → t.dev.mem.byte c = s.dev.mem.byte c) ∧
  (s.dev.mem.wf = true → t.dev.mem.wf = true) ∧ t.fuse = s.fuse ∧ t.mach.nv = s.mach.nv ∧ t.mach.und = s.mach.und

/-- spec/13 R431, R436: the frame of an AMO of this module: outside the bytes of its target every byte of memory is as it was once the
merging buffer had drained; no register of any core but rd changes; memory keeps its canonical form. The AMO does not wait at its slice,
no cached line hides an error, and the cores are listed in the canonical form. -/
def Obligations.AmosChangeOnlyTheirTarget : Prop := ∀ (s t : State) (p : (Sq → Nat → Nat → Nat → Word → Instr) × Nat) (q : Sq) (rd size a : Nat) (v : Word),
  p ∈ amoRows → s.dev.seqReady q = true → size = 4 ∨ size = 8 →
  let d := (s.dev.enter s.now q).drainMb s.now q.core
  SMap.wf {} d.cores = true →
  let e := d.l1Drop q.core (dlaOf a / 128)
  let e1 := match e.sliceAt (dlaOf a) with | some k => e.bump .CAN_ATOM [k] | none => e
  d.amoRefusal a size = sOk → d.remoteOf a = none → d.atomWait (dlaOf a) size (some q.core) = 0 → d.linesClean →
  d.heldRange (dlaOf a) size = false → e.poisoned (dlaOf a) size = false → exec (p.1 q rd size a v) s = .next t →
  (∀ c, (∀ i, i < size → c ≠ e1.cell (dlaOf a + i)) → t.dev.mem.byte c = d.mem.byte c) ∧
  (∀ c r, c ≠ q.core ∨ r ≠ rd → SMap.get 0 (t.dev.core c).sq.x r = SMap.get 0 (d.core c).sq.x r) ∧
  (d.mem.wf = true → t.dev.mem.wf = true) ∧ t.mach.und = s.mach.und ∧ t.mach.nv = s.mach.nv ∧ t.fuse = s.fuse

/-- spec/12 R374, spec/13 R444, R445: the frame of a load of this module's memory that the merging buffer and the L1 data cache do not
answer, and of one that the merging buffer does: no byte of memory changes, no other core's registers, and of its own only rd. The cores
are listed in the canonical form. -/
def Obligations.LoadsChangeOnlyTheirRegister : Prop := ∀ (s t : State) (q : Sq) (rd size a : Nat) (sgn : Bool), SMap.wf {} s.dev.cores = true →
  s.dev.seqReady q = true → size = 1 ∨ size = 2 ∨ size = 4 ∨ size = 8 → a % size = 0 → a < 2 ^ 56 →
  let d := s.dev.enter s.now q
  (d.privAccess q a = false ∧ ∃ y, d.mbHit q.core a size = .all y) ∨ (d.mbHit q.core a size = .none ∧ d.remoteOf a = none ∧
    (∃ u b, d.target (dlaOf a) = .ext u b) ∧ d.l1Caches (dlaOf a) = false ∧ d.heldRange (dlaOf a) size = false) →
  exec (.seqLoad q rd size sgn a .none) s = .next t →
  t.dev.mem = s.dev.mem ∧ (∀ c, c ≠ q.core → t.dev.core c = s.dev.core c) ∧
  (∀ r, r ≠ rd → SMap.get 0 (t.dev.core q.core).sq.x r = SMap.get 0 (s.dev.core q.core).sq.x r) ∧ t.mach.und = s.mach.und

/-- spec/16 R542, R543, R574, R670: where a host read of a line goes. With the link up and the module serving, a line of external memory
or of a Clearing is answered with its bytes and with poison when a granule is marked, once it need not wait at its slice or controller
(spec/14 R476); a hole, and any address before the module serves, with zeros and poison; a sync object with its value and zeros, unless an
uncorrected error of its sync unit's logic is met, which ends in FAULT_HOLD with cause 6 (spec/18 R622); the status window with its bytes. -/
def Obligations.HostReadAnswers : Prop := ∀ (s : State) (h a : Nat) (det : Det) (bad : Bool), s.dev.host.link = true →
  (s.mach.und.st.serves = false →
    exec (.hostMemRead h det bad) s = .next (s.withDev ((s.dev.cxlFlag 3).emit (.hostData zeros64 true)))) ∧
  (s.mach.und.st.serves = true → s.dev.hdm (h / 64 * 64) = some a →
    let r := s.dev.touch a 64 { part := s.dev.hostPart }
    (∀ u b, s.dev.target a = .ext u b → s.dev.readWait s.dev.hostPart a 64 = 0 → exec (.hostMemRead h .none bad) s =
      .next (s.withMach ((s.mach.onDev fun _ => r).hostData (r.bytes a 64) (r.poisoned a 64) (r.poisoned a 64)))) ∧
    (∀ k, s.dev.target a = .clearing k → s.dev.readWait s.dev.hostPart a 64 = 0 → exec (.hostMemRead h .none bad) s =
      .next (s.withMach ((s.mach.onDev fun _ => r).hostData (r.bytes a 64) (r.poisoned a 64) (r.poisoned a 64)))) ∧
    (s.dev.target a = .hole ∨ s.dev.target a = .noClear ∨ s.dev.target a = .syncHole →
      exec (.hostMemRead h det bad) s = .next (s.withDev ((s.dev.cxlFlag 3).emit (.hostData zeros64 true)))) ∧
    (∀ n o, s.dev.target a = .syncObj n o → det = .twice .syncUnit → exec (.hostMemRead h det bad) s = .next (s.withMach (s.mach.faultHold 6))) ∧
    (∀ n o, s.dev.target a = .syncObj n o → det ≠ .twice .syncUnit → s.dev.syncBroken n = false →
      exec (.hostMemRead h det false) s =
        .next (s.withDev (s.dev.emit (.hostData (leBytes 64 (s.dev.syncVal n).toNat) false)))) ∧
    (∀ o, s.dev.target a = .status o →
      exec (.hostMemRead h det bad) s = .next (s.withDev (s.dev.emit (.hostData (s.dev.bytes a 64) false)))))

/-- spec/16 R543, R551, R554, R670: a host write of a line. In a line of memory that holds no arm word and need not wait each enabled byte
is written, with the poison it carries, and the write is completed; a hole drops it with the flag of R565; a whole sync object's value is
set; a write of a part of one is counted as an error. spec/16 R549, R551, R552: in RUN a whole write of an arm word stores the 8 bytes in
the command region and then either arms the slot, whose command is accepted, or is ignored with ARMDROP. -/
def Obligations.HostWritesStoreAndArm : Prop :=
  (∀ (s : State) (h a mask : Nat) (bs : List Byte) (poison : Bool), bs.length = 64 →
    s.dev.host.link = true → s.mach.und.st.serves = true → s.dev.hdm (h / 64 * 64) = some a →
    (∀ u b, s.dev.target a = .ext u b → s.dev.writeWait s.dev.hostPart a 64 = 0 → (s.dev.hostMemWrite a mask bs poison).armSlot a = none →
      exec (.hostMemWrite h bs mask poison) s = .next (s.withDev ((s.dev.hostMemWrite a mask bs poison).emit .hostCmp))) ∧
    (s.dev.target a = .hole ∨ s.dev.target a = .noClear ∨ s.dev.target a = .syncHole →
      exec (.hostMemWrite h bs mask poison) s = .next (s.withDev ((s.dev.cxlFlag 3).emit .hostCmp))) ∧
    (∀ n o, s.dev.target a = .syncObj n o → mask % 256 = 255 →
      exec (.hostMemWrite h bs mask poison) s =
        .next (s.withDev ((s.dev.syncSet s.now n (BitVec.ofNat 64 (leNat (bs.take 8)))).emit .hostCmp))) ∧
    (∀ n o, s.dev.target a = .syncObj n o → mask % 256 ≠ 255 →
      exec (.hostMemWrite h bs mask poison) s = .next (s.withDev ((s.dev.bump .SYN_ERR [syncHome n]).emit .hostCmp)))) ∧
  (∀ (s : State) (slot : Nat) (v : Word), s.mach.und.st = .run → slot < 4096 →
    (let d := s.dev.hostMemWrite (s.dev.cmdBase + 256 * slot) 255 (leBytes 64 v.toNat) false
     let seq := v.toNat % 2 ^ 32
     (bitAt v.toNat 63 && seq != 0 && bitsOf v.toNat 32 31 == 0 && seq != SMap.get 0 d.host.lastSeq slot && (d.slotCtx slot).isSome &&
        (d.slotOp slot).isNone) = true →
      exec (.armWordWrite slot v) s = .next (s.withDev (d.accept s.now slot seq false))) ∧
    (let d := s.dev.hostMemWrite (s.dev.cmdBase + 256 * slot) 255 (leBytes 64 v.toNat) false
     let seq := v.toNat % 2 ^ 32
     (bitAt v.toNat 63 = false ∨ seq = 0 ∨ bitsOf v.toNat 32 31 ≠ 0 ∨ seq = SMap.get 0 d.host.lastSeq slot ∨
        (d.slotCtx slot).isNone = true ∨ (d.slotOp slot).isSome = true) →
      exec (.armWordWrite slot v) s = .next (s.withDev (d.cxlFlag 4))))

/-- spec/00 R13 to R20, spec/16 R559: a 64-bit write through the privileged view, once the module serves. Of a register with a shadow it
stores the shadow, but for the fields that the module itself sets; of another it has the register's effect when every bit set is of a
named field and every field's value is legal; else the register is left as it was and the write is counted in TEL_REGERR, as is every
write to a place with no register. spec/03 R118, spec/12 R377: QFE_CTL holds its three enables in RUN and in DRAIN, and before RUN a write
of it is dropped and counted; a write of nxpin in M sets or clears the running thread's PIN. -/
def Obligations.RegisterWritesActOrAreCounted : Prop :=
  (∀ (s : State) (off : Nat) (v : Word), s.mach.und.st.serves = true → off % 8 = 0 →
    (regAt off = none → exec (.registerWrite false off 8 v) s = .next (s.withDev (s.dev.bump .TEL_REGERR))) ∧
    (∀ r ix, regAt off = some (r, ix) → r.atomic = false →
      let x := setBits (s.dev.shad.get r ix) 0 64 v.toNat
      let y := setBits (s.mach.regValue r ix false &&& r.bitsOf .rw) 0 64 v.toNat
      (r.row.view = .shadow → exec (.registerWrite false off 8 v) s =
        .next (s.withDev { s.dev with shad := { s.dev.shad with
          reg := s.dev.shad.reg.put 0 (r.off ix) (BitVec.ofNat 64 (x &&& (x ^^^ r.bitsOf .ro))) } })) ∧
      (r.row.view ≠ .shadow → y &&& r.named = y → r.legal s.dev.conf ix y = true →
        exec (.registerWrite false off 8 v) s = .next (s.withMach (s.mach.regAct r ix y))) ∧
      (r.row.view ≠ .shadow → y &&& r.named ≠ y ∨ r.legal s.dev.conf ix y = false →
        exec (.registerWrite false off 8 v) s = .next (s.withDev (s.dev.bump .TEL_REGERR))))) ∧
  (∀ (s : State) (t : Nat) (v : Word) (q : Sq),
    (t < 2 → s.mach.und.st = .run ∨ s.mach.und.st = .drain → v.toNat < 8 →
      exec (.qfeCtlWrite t v) s = .next (s.withDev (s.dev.setQfe t { s.dev.qfe t with ctl := bitsOf v.toNat 0 3 }))) ∧
    (t < 2 → (s.mach.und.st ≠ .run ∧ s.mach.und.st ≠ .drain) ∨ 8 ≤ v.toNat →
      exec (.qfeCtlWrite t v) s = .next (s.withDev (s.dev.bump .TEL_REGERR))) ∧
    (∀ h, s.dev.seqReady q = true → q.user = false → ((s.dev.enter s.now q).core q.core).sq.cur = some h →
      exec (.nxpinWrite q v) s =
        .next (s.withDev ((s.dev.enter s.now q).modThr h fun x => { x with pin := if bitAt v.toNat 0 then some q.core else none }))))

/-- spec/16 R552, R555, R558, R564, spec/04 R143: each command that passes its checks starts. COPY, TBL_LOAD, TILE_LOAD, SCRUB and ERASE
go on to their first block, DRAIN is in force, REPLACE_ROWS reads its list; nothing but the volatile part changes. -/
def Obligations.LongCommandsStart : Prop := ∀ (s : State) (slot : Nat) (o : HOp),
  (s.dev.Accepts slot 0x0111 false s.dev.copyChecks o →
    exec (.copy slot) s = .next (s.withDev ((s.dev.taken s.now o).blockNext s.now o.handle))) ∧
  (s.dev.Accepts slot 0x0112 false (s.dev.tblLoadChecks s.now) o →
    exec (.tblLoad slot) s = .next (s.withDev ((s.dev.taken s.now o).blockNext s.now o.handle))) ∧
  (∀ n, s.dev.Accepts slot 0x0113 false s.dev.tileLoadChecks o → o.srcHost = false → s.dev.tileFound o = .done n →
    exec (.tileLoad slot) s =
      .next (s.withDev (((s.dev.taken s.now o).modOp o.handle fun q => { q with total := n }).blockNext s.now o.handle))) ∧
  (s.dev.Accepts slot 0x0113 false s.dev.tileLoadChecks o → o.srcHost = true →
    exec (.tileLoad slot) s = .next (s.withDev ((s.dev.taken s.now o).hostAsk s.now slot (o.f 40 8) 32 []))) ∧
  (s.dev.Accepts slot 0x0114 true s.dev.scrubChecks o →
    exec (.scrub slot) s = .next (s.withDev ((s.dev.taken s.now o).blockNext s.now o.handle))) ∧
  (s.dev.Accepts slot 0x0115 true s.dev.eraseChecks o →
    exec (.erase slot) s = .next (s.withDev ((s.dev.taken s.now o).blockNext s.now o.handle))) ∧
  (s.dev.Accepts slot 0x0102 true s.dev.drainChecks o →
    exec (.drain slot) s = .next (s.withDev (s.dev.taken s.now o))) ∧
  (s.dev.Accepts slot 0x0120 false s.dev.replChecks o → bitAt (o.f 34 2) 0 = false →
    exec (.replaceRows slot) s =
      .next (s.withDev ((s.dev.taken s.now o).replList s.now (o.taken s.now)
        ((s.dev.taken s.now o).bytes (o.f 40 8) (6 * o.f 36 4)) ((s.dev.taken s.now o).poisoned (o.f 40 8) (6 * o.f 36 4))))) ∧
  (s.dev.Accepts slot 0x0120 false s.dev.replChecks o → bitAt (o.f 34 2) 0 = true →
    exec (.replaceRows slot) s = .next (s.withDev ((s.dev.taken s.now o).hostAsk s.now slot (o.f 40 8) (6 * o.f 36 4) [])))

/-- spec/16 R555, spec/04 R121, spec/10 R312, spec/11 R347, R355, R359: a command that sets one entry writes the entry's shadow with the
image its record names, and completes OK; PROG_LOAD of an image in host memory first asks the host for it. The shadow also keeps the
operation's handle (the model's own, log entry 24). -/
def Obligations.SetCommandsWriteTheShadow : Prop := ∀ (s : State) (slot : Nat) (o : HOp),
  let d := s.dev.taken s.now o
  let img (n : Nat) : List Byte := s.dev.bytes (o.f 40 8) n
  let put (f : Tabs → Tabs) : Host.Outcome State Fault Refusal := .next (s.withDev ((d.onShad f).finish (o.taken s.now) sOk []))
  let tag : List Byte := leBytes 8 o.handle
  (s.dev.Accepts slot 0x0116 true (s.dev.setChecks 1 256 64 64 0) o →
    exec (.classSet slot) s = put fun t => { t with cls := t.cls.put [] (o.f 32 1) (img 64 ++ tag) }) ∧
  (s.dev.Accepts slot 0x0121 true (s.dev.setChecks 2 4096 64 64 0) o →
    exec (.tblSet slot) s = put fun t => { t with tbl := t.tbl.put [] (o.f 32 2) (img 64 ++ tag) }) ∧
  (s.dev.Accepts slot 0x0124 true (s.dev.setChecks 1 256 64 64 0) o →
    exec (.graphSet slot) s = put fun t => { t with grf := t.grf.put [] (o.f 32 1) (img 64 ++ tag) }) ∧
  (s.dev.Accepts slot 0x0127 true (s.dev.setChecks 2 4096 32 32 0) o →
    exec (.updBindSet slot) s = put fun t => { t with bind := t.bind.put [] (o.f 32 2) (img 32 ++ tag) }) ∧
  (s.dev.Accepts slot 0x0128 true (s.dev.setChecks 2 1024 64 64 8) o →
    exec (.layerSet slot) s =
      put fun t => { t with layer := t.layer.put [] (o.f 32 2) (img 64 ++ (o.rcd.drop 48).take 8 ++ tag) }) ∧
  (∀ n, n = 8 + 8 * (s.dev.num (o.f 40 8) 1 % 64) → s.dev.Accepts slot 0x0126 true (s.dev.setChecks 1 64 n 8 0) o →
    exec (.updProgSet slot) s = put fun t => { t with upr := t.upr.put [] (o.f 32 1) (img n ++ tag) }) ∧
  (s.dev.Accepts slot 0x0117 true s.dev.progChecks o → bitAt (o.f 36 2) 0 = false →
    let e := d.cmdTouch (o.taken s.now) (o.f 40 8) (o.f 48 4)
    exec (.progLoad slot) s = .next (s.withDev ((e.onShad fun t => { t with
      prog := t.prog.put [] (o.f 32 4) ((e.cmdRead (o.f 40 8) (o.f 48 4)).1 ++ tag) }).finish (o.taken s.now) sOk []))) ∧
  (s.dev.Accepts slot 0x0117 true s.dev.progChecks o → bitAt (o.f 36 2) 0 = true → o.f 48 4 ≠ 0 →
    exec (.progLoad slot) s = .next (s.withDev (d.hostAsk s.now slot (o.f 40 8) (o.f 48 4) [])))

/-- spec/05 R166, R174, spec/07 R253, spec/11 R365, spec/15 R531: each of these commands that passes its checks has its effect: the
shards' entries are written with SEQ raised and propagated, a migration begins, an update starts its parts, masks that pass are stored, or
asked of the host, a route is pinned or given back to the module, its entry marked where the image read was (spec/02 R77). -/
def Obligations.TableCommandsAct : Prop := ∀ (s : State) (slot : Nat) (o : HOp),
  (s.dev.Accepts slot 0x0122 true s.dev.shardChecks o →
    exec (.shardSet slot) s = .next (s.withDev ((o.shards.foldl (fun d x =>
      match d.shardIx (o.f 32 2 % 4096) x with
      | none => d
      | some ix =>
        let e := { Ent.ofBytes (s.dev.shardImg o x) with seq := ((d.entAt (d.shardEntAt ix)).seq + 1) % 65536 }
        (d.putEnt (d.shardEntAt ix) e).propagate s.now e) (s.dev.taken s.now o)).finish (o.taken s.now) sOk []))) ∧
  (s.dev.Accepts slot 0x0123 true s.dev.migChecks o →
    exec (.migrate slot) s = .next (s.withDev (((s.dev.taken s.now o).onTabs fun x =>
      { x with repls := x.repls.put {} o.handle { idx := some ((s.dev.taken s.now o).migRows (o.taken s.now)) } }).migPump s.now o.handle
        (1 + ((s.dev.taken s.now o).migRows (o.taken s.now)).length)))) ∧
  (s.dev.Accepts slot 0x0125 false s.dev.updChecks o →
    exec (.update slot) s = .next (s.withDev ((s.dev.taken s.now o).updStart s.now (o.taken s.now)))) ∧
  (s.dev.Accepts slot 0x0130 false s.dev.maskChecks o → bitAt (o.f 36 2) 0 = false →
    let d := (s.dev.taken s.now o).cmdTouch (o.taken s.now) (o.f 40 8) (512 * o.f 32 4)
    exec (.maskSet slot) s = .next (s.withDev (d.maskImages (o.taken s.now) (d.cmdRead (o.f 40 8) (512 * o.f 32 4)).1
      ((d.cmdRead (o.f 40 8) (512 * o.f 32 4)).2 != 0)))) ∧
  (s.dev.Accepts slot 0x0130 false s.dev.maskChecks o → bitAt (o.f 36 2) 0 = true →
    exec (.maskSet slot) s = .next (s.withDev ((s.dev.taken s.now o).hostAsk s.now slot (o.f 40 8) (512 * o.f 32 4) []))) ∧
  (s.dev.Accepts slot 0x0140 true s.dev.routeChecks o →
    let b := s.dev.bytes (o.f 40 8) 32
    let d := s.dev.taken s.now o
    let k := o.f 32 2
    let put (e : Dev) : Dev := (if e.poisoned (o.f 40 8) 32 = true then e.markRange (e.routeAt k) 32 true else e).finish (o.taken s.now) sOk []
    (bitAt (recNum b 0 1) 3 = true →
      exec (.routeSet slot) s = .next (s.withDev (put (d.setRoute k
        { d.route k with flags := recNum b 0 1, ports := recNum b 8 8, addr := recNum b 16 16 })))) ∧
    (bitAt (recNum b 0 1) 3 = false →
      exec (.routeSet slot) s = .next (s.withDev (put ((d.setRoute k { d.route k with
        flags := setBits (d.route k).flags 3 1 0 }).rebuildRoute k)))))

/-- spec/16 R555 to R558, spec/12 R395: a JOB that passes its checks creates its job on the cluster chosen and keeps its number; a SUSPEND
of an operation other than a job makes it stop at its next stopping point, of a job takes it out of the schedule; a CANCEL of a drain ends
it with E_CANCELLED, or releases what it covers, of a job ends the job, of another running operation makes it stop, and of a suspended one
discards it. -/
def Obligations.JobControlCommandsAct : Prop := ∀ (s : State) (slot : Nat) (o : HOp),
  (∀ n d j, s.dev.Accepts slot 0x0110 false s.dev.jobChecks o →
    (s.dev.taken s.now o).chooseCluster ((s.dev.taken s.now o).ctxClusters o.ctx (o.f 78 2)) 0 = some n →
    (s.dev.taken s.now o).createJob s.now n
      { ctx := o.ctx, prio := (s.dev.taken s.now o).ctxPrio o.ctx (o.f 76 1), creator := .slot o.handle, entry := o.f 32 8,
        deadTick := if o.f 72 4 = 0 then none else some (tickCeil (s.now + o.f 72 4 * usT)) }
      ([o.f 40 8, o.f 48 8, o.f 56 8, o.f 64 8].map (BitVec.ofNat 64)) 4 = some (d, j) →
    exec (.job slot) s = .next (s.withDev (d.modOp o.handle fun q => { q with job := some j }))) ∧
  (∀ q, s.dev.reqReady slot 0x0103 = true → s.dev.Accepts slot 0x0103 false (s.dev.reqChecks HOp.maySuspend) o →
    (s.dev.taken s.now o).handleOp (o.f 32 4) = some q → q.opc ≠ 0x0110 →
    exec (.suspend slot) s =
      .next (s.withDev (((s.dev.taken s.now o).modOp q.handle fun x => { x with st := .suspending slot }).settle s.now))) ∧
  (∀ q j, s.dev.reqReady slot 0x0103 = true → s.dev.Accepts slot 0x0103 false (s.dev.reqChecks HOp.maySuspend) o →
    (s.dev.taken s.now o).handleOp (o.f 32 4) = some q → q.opc = 0x0110 → q.job = some j →
    exec (.suspend slot) s =
      .next (s.withDev ((((((s.dev.taken s.now o).modOp q.handle fun x => { x with st := .suspending slot }).modJob j
        fun b => { b with halted := true }).unplace j).schedule s.now (j / 4096))))) ∧
  (∀ q, s.dev.reqReady slot 0x0105 = true → s.dev.Accepts slot 0x0105 false (s.dev.reqChecks HOp.mayCancel) o →
    (s.dev.taken s.now o).handleOp (o.f 32 4) = some q →
    (q.opc = 0x0102 → q.st ≠ .covering →
      exec (.cancel slot) s = .next (s.withDev ((((s.dev.taken s.now o).finish q eCancelled (q.results (s.dev.taken s.now o) s.now)).finishReq
        slot sOk).settle s.now))) ∧
    (q.opc = 0x0102 → q.st = .covering →
      exec (.cancel slot) s = .next (s.withDev ((((s.dev.taken s.now o).onHost fun h =>
        { h with ops := h.ops.filter fun x => x.handle != q.handle }).finishReq slot sOk).settle s.now))) ∧
    (∀ j, q.opc = 0x0110 → q.st ≠ .suspended → q.job = some j →
      exec (.cancel slot) s =
        .next (s.withDev (((s.dev.taken s.now o).modOp q.handle fun x => { x with cancelBy := some slot }).endJob s.now j .cancel))) ∧
    (q.opc ≠ 0x0102 → q.opc ≠ 0x0110 → q.st ≠ .suspended →
      exec (.cancel slot) s =
        .next (s.withDev (((s.dev.taken s.now o).modOp q.handle fun x => { x with cancelBy := some slot }).settle s.now))) ∧
    (q.opc ≠ 0x0102 → q.st = .suspended →
      exec (.cancel slot) s = .next (s.withDev (((s.dev.taken s.now o).discardOp s.now q).finishReq slot sOk))))

/-- spec/16 R557, R558: RESUME puts the suspended operation under the RESUME's own handle, slot, sequence number and completion code: a
copy, a load, a scrub or an erase goes on with its next block, a job's threads are taken up again, rows, moves and update parts go on.
spec/16 R561: with no COMMIT before it, an accepted COMMIT is checked at once on the snapshot of every shadow: a set that breaks a check
is refused with the check's status, register and kind; a set that breaks none raises the epoch by one and begins its adoption. -/
def Obligations.ResumeAndCommitAct : Prop :=
  (∀ (s : State) (slot : Nat) (o q : HOp),
    s.dev.reqReady slot 0x0104 = true → s.dev.Accepts slot 0x0104 false (s.dev.reqChecks HOp.mayResume) o →
    (s.dev.taken s.now o).handleOp (o.f 32 4) = some q →
    let r : HOp :=
      { q with handle := o.handle, slot := o.slot, seq := o.seq, copc := 0x0104, irq := o.irq, st := .running, cancelBy := none,
               buf := if q.opc = 0x0113 then q.buf else [], bufPm := if q.opc = 0x0113 then q.bufPm else 0 }
    let e := ((s.dev.taken s.now o).onHost fun h =>
      { h with ops := (h.ops.filter fun x => x.handle != q.handle).map fun x => if x.handle = o.handle then r else x }).rehandle
        q.handle o.handle
    (q.opc = 0x0111 ∨ q.opc = 0x0112 ∨ q.opc = 0x0113 ∨ q.opc = 0x0114 ∨ q.opc = 0x0115 →
      exec (.resume slot) s = .next (s.withDev (e.blockNext s.now o.handle))) ∧
    (∀ j, q.opc = 0x0110 → q.job = some j →
      exec (.resume slot) s = .next (s.withDev ((e.modJob j fun b => { b with creator := .slot o.handle }).thawJob s.now j))) ∧
    (q.opc = 0x0120 → exec (.resume slot) s = .next (s.withDev ((e.replAll s.now).settle s.now))) ∧
    (q.opc = 0x0123 ∨ q.opc = 0x0125 → exec (.resume slot) s = .next (s.withDev (e.settle s.now)))) ∧
  (∀ (s : State) (slot : Nat) (o q : HOp),
    s.dev.Accepts slot 0x0101 true commitChecks o → s.dev.host.commits = [] →
    let c : Commit := ⟨slot, o.ctx, bitAt (o.f 32 1) 0, s.dev.shad, false, []⟩
    let d := (s.dev.taken s.now o).onHost fun h => { h with commits := [c] }
    let l := newProgs d.conf.tab s.dev.shad.tab
    d.slotOp slot = some q →
    (∀ f, d.checkCommit s.dev.shad slot = some f →
      exec (.commit slot) s = .next (s.withDev ((d.onHost fun h => { h with commits := h.commits.drop 1 }).finish q f.status
        (commitRes (d.rd .CXL_EPOCH) (some f))))) ∧
    (d.checkCommit s.dev.shad slot = none →
      exec (.commit slot) s = .next (s.withMach ((s.mach.onDev fun _ =>
        ((d.bump64 .CXL_EPOCH).loadProgs s.dev.shad l).onHost fun h =>
          { h with commits := { c with started := true } :: h.commits.drop 1 }).extend7 l))))

/-- spec/00 R25, spec/16 R552, R668: a command of these that some check refuses completes at once with the status that the order of R668
chooses, and has no other effect. -/
def Obligations.RefusedCommandsOnlyComplete : Prop := ∀ (s : State) (slot st : Nat) (o : HOp),
  let done : Host.Outcome State Fault Refusal := .next (s.withDev (s.dev.finish o st []))
  (s.dev.Refuses slot 0x0102 true s.dev.drainChecks o st → exec (.drain slot) s = done) ∧
  (s.dev.Refuses slot 0x0110 false s.dev.jobChecks o st → exec (.job slot) s = done) ∧
  (s.dev.Refuses slot 0x0111 false s.dev.copyChecks o st → exec (.copy slot) s = done) ∧
  (s.dev.Refuses slot 0x0112 false (s.dev.tblLoadChecks s.now) o st → exec (.tblLoad slot) s = done) ∧
  (s.dev.Refuses slot 0x0114 true s.dev.scrubChecks o st → exec (.scrub slot) s = done) ∧
  (s.dev.Refuses slot 0x0115 true s.dev.eraseChecks o st → exec (.erase slot) s = done) ∧
  (s.dev.Refuses slot 0x0116 true (s.dev.setChecks 1 256 64 64 0) o st → exec (.classSet slot) s = done) ∧
  (s.dev.Refuses slot 0x0117 true s.dev.progChecks o st → exec (.progLoad slot) s = done) ∧
  (s.dev.Refuses slot 0x0120 false s.dev.replChecks o st → exec (.replaceRows slot) s = done) ∧
  (s.dev.Refuses slot 0x0121 true (s.dev.setChecks 2 4096 64 64 0) o st → exec (.tblSet slot) s = done) ∧
  (s.dev.Refuses slot 0x0122 true s.dev.shardChecks o st → exec (.shardSet slot) s = done) ∧
  (s.dev.Refuses slot 0x0123 true s.dev.migChecks o st → exec (.migrate slot) s = done) ∧
  (s.dev.Refuses slot 0x0124 true (s.dev.setChecks 1 256 64 64 0) o st → exec (.graphSet slot) s = done) ∧
  (s.dev.Refuses slot 0x0125 false s.dev.updChecks o st → exec (.update slot) s = done) ∧
  (s.dev.Refuses slot 0x0127 true (s.dev.setChecks 2 4096 32 32 0) o st → exec (.updBindSet slot) s = done) ∧
  (s.dev.Refuses slot 0x0128 true (s.dev.setChecks 2 1024 64 64 8) o st → exec (.layerSet slot) s = done) ∧
  (∀ n, n = 8 + 8 * (s.dev.num (o.f 40 8) 1 % 64) → s.dev.Refuses slot 0x0126 true (s.dev.setChecks 1 64 n 8 0) o st →
    exec (.updProgSet slot) s = done) ∧
  (s.dev.Refuses slot 0x0140 true s.dev.routeChecks o st → exec (.routeSet slot) s = done) ∧
  (s.dev.reqReady slot 0x0103 = true → s.dev.Refuses slot 0x0103 false (s.dev.reqChecks HOp.maySuspend) o st →
    exec (.suspend slot) s = done) ∧
  (s.dev.reqReady slot 0x0104 = true → s.dev.Refuses slot 0x0104 false (s.dev.reqChecks HOp.mayResume) o st →
    exec (.resume slot) s = done) ∧
  (s.dev.reqReady slot 0x0105 = true → s.dev.Refuses slot 0x0105 false (s.dev.reqChecks HOp.mayCancel) o st →
    exec (.cancel slot) s = done)

/-- spec/16 R558, R562, R564: the events of operations. A drain completes OK once nothing that started before is outstanding against its
target, and is released with E_BUSY when its time has passed; a suspended job completes with E_SUSPENDED once it is still; a unit adopts
the COMMIT in progress at its safe point, and the last one completes it. -/
def Obligations.OperationEventsAct : Prop := ∀ (s : State) (h : Nat) (o : HOp),
  (s.dev.waitingDrain h = some o → o.drainKind = 0 → s.dev.rangeBusy (o.f 40 8) (o.f 48 8) = false →
    exec (.drainComplete h) s = .next (s.withDev (s.dev.finish o sOk (o.results s.dev s.now) .covering))) ∧
  (s.dev.waitingDrain h = some o → o.drainKind ≠ 0 → s.dev.tableDrainBusy (o.f 34 2 % 4096) = false →
    exec (.drainComplete h) s = .next (s.withDev (s.dev.finish o sOk (o.results s.dev s.now) .covering))) ∧
  (s.dev.waitingDrain h = some o →
    let t := max s.now (o.at_ + o.f 36 4 * 12000000)
    exec (.drainTimeout h) s = .next { s with mach := { s.mach with
      und := { s.mach.und with now := t }
      dev := (s.dev.finish o eBusy (o.results s.dev t)).settle t } }) ∧
  (∀ j b, s.dev.handleOp h = some o → o.opc = 0x0110 → o.job = some j → o.st = .suspending b → s.dev.jobStill j = true →
    exec (.jobSuspended h) s =
      .next (s.withDev (((s.dev.finish o eSuspended (o.results s.dev s.now) .suspended).finishReq b sOk).freezeJob j))) ∧
  (∀ j b q, s.dev.handleOp h = some o → o.opc = 0x0110 → o.job = some j → o.st = .suspending b → s.dev.slotOp b = some q →
    let t := max s.now (q.at_ + 100 * 12000000)
    exec (.suspendTimeout h) s = .next { s with mach := { s.mach with
      und := { s.mach.und with now := t }
      dev := ((((s.dev.modOp h fun x => { x with st := .running }).finishReq b eBusy).modJob j
        fun x => { x with halted := false }).schedule t (j / 4096)) } }) ∧
  (∀ c r u, s.dev.host.commits = c :: r → c.started = true → s.dev.adopters.contains u = true → c.done.contains u = false →
    let c' : Commit := { c with done := c.done ++ [u] }
    let d := (s.dev.adoptUnit s.now c.conf u (s.dev.rd .CXL_EPOCH)).onHost fun h => { h with commits := c' :: r }
    ((d.adopters.all fun x => c'.done.contains x) = false → exec (.commitAdopt u) s = .next (s.withDev d)) ∧
    ((d.adopters.all fun x => c'.done.contains x) = true →
      exec (.commitAdopt u) s = .next (s.withMach (({ s.mach with dev := d } : Mach).commitEnd c'))))

/-- spec/16 R540 to R543, R565, spec/17 R574, R599: the host's link. It trains at 4, 8 or 16 lanes from BOOT on; its loss is flagged; a
failed IDE check is flagged; a decoder is set or taken away; every snoop is a miss; each mailbox request is answered. spec/16 R540, R554,
R555, R558, R565: blocks and host answers. A block of an operation that is to go on, and whose reads need not wait, is done; a failed
CXL.cache access ends its command with E_FAULT; an answered read of a COPY keeps the data for the block, an answered write is the block's
end. -/
def Obligations.HostLinkAndBlocksAct : Prop :=
  (∀ (s : State),
    (∀ w fast lopt ide, s.mach.cxlMay = true → s.dev.host.link = false → w = 4 ∨ w = 8 ∨ w = 16 →
      exec (.cxlLinkUp w fast lopt ide) s = .next (s.withDev { s.dev with host := { s.dev.host with
        link := true
        linkReg := w + (if fast then 2 ^ 5 else 0) + (if lopt then 2 ^ 6 else 0) + if ide then 2 ^ 7 else 0 } })) ∧
    (s.dev.host.link = true → s.dev.host.cacheReqs = [] →
      exec .cxlLinkDown s = .next (s.withDev ({ s.dev with host := { s.dev.host with link := false, linkReg := 0 } }.cxlFlag 0))) ∧
    (s.dev.host.link = true → exec .ideCheckFail s = .next (s.withDev (s.dev.cxlFlag 1))) ∧
    (∀ n base size, s.dev.host.link = true → n < 8 → size % 2 ^ 28 = 0 → 2 ^ 28 ≤ size → size ≤ 2 ^ 40 → base % 2 ^ 28 = 0 →
      exec (.hdmDecoderEnable n true base size) s =
        .next (s.withDev { s.dev with host := { s.dev.host with decs := s.dev.host.decs.put {} n ⟨true, base, size⟩ } })) ∧
    (∀ n base size, s.dev.host.link = true → n < 8 →
      exec (.hdmDecoderEnable n false base size) s =
        .next (s.withDev { s.dev with host := { s.dev.host with decs := s.dev.host.decs.put {} n {} } })) ∧
    (s.dev.host.link = true → exec .hostSnoop s = .next (s.withDev (s.dev.emit .snoopMiss))) ∧
    (∀ req, s.dev.host.link = true → exec (.spdmRequest req) s = .next { s with mach := { s.mach with
      und := { s.mach.und with spdm := min 4 (Config.spdmSessions s.mach.und.spdm req) }
      dev := s.dev.emit (.doe (Config.spdmAnswer s.mach.und.spdm s.mach.und.meas req)) } }) ∧
    (∀ req, s.dev.host.link = true →
      exec (.cdatRequest req) s =
        .next (s.withDev (s.dev.emit (.doe (Config.cdatAnswer (s.dev.pres.hbms + s.dev.pres.lpds * 2 ^ 8) req)))))) ∧
  (∀ (s : State) (h slot : Nat) (o : HOp),
    (s.dev.handleOp h = some o → o.st = .running → s.dev.opWaits o = false →
      (s.dev.host.cacheReqs.any fun q => q.slot == o.slot) = false → o.srcHost = false →
      (∀ bad, o.opc = 0x0111 → exec (.longOpBlockDone h bad) s = .next (s.withDev (s.dev.copyBlock s.now o))) ∧
      (∀ bad, o.opc = 0x0112 → exec (.longOpBlockDone h bad) s = .next (s.withDev (s.dev.tblBlock s.now o))) ∧
      (∀ bad, o.opc = 0x0113 → o.total ≠ 0 → exec (.longOpBlockDone h bad) s = .next (s.withDev (s.dev.tileBlock s.now o))) ∧
      (∀ bad, o.opc = 0x0114 → exec (.longOpBlockDone h bad) s = .next (s.withMach (s.mach.scrubBlock o bad))) ∧
      (∀ bad, o.opc = 0x0115 → exec (.longOpBlockDone h bad) s = .next (s.withDev (s.dev.eraseBlock s.now o)))) ∧
    (∀ req data pm, (s.dev.host.cacheReqs.find? fun q => q.slot == slot) = some req →
      let d := { s.dev with host := { s.dev.host with cacheReqs := s.dev.host.cacheReqs.erase req } }
      exec (.cxlCacheResponse slot false data pm) s = .next (s.withDev (s.dev.cacheFail s.now slot)) ∧
      (d.slotOp slot = some o → data.length = req.len → o.opc = 0x0111 →
        (req.write = false → exec (.cxlCacheResponse slot true data pm) s =
          .next (s.withDev (d.modOp o.handle fun q => { q with buf := data, bufPm := pm }))) ∧
        (req.write = true → exec (.cxlCacheResponse slot true data pm) s = .next (s.withDev (d.blockDone s.now o req.len))))))

/-- spec/03 R81 to R99, spec/15 R499 to R503: what becomes of a datagram for the query port of an enabled front end that passes the checks
of its frame. A bad header or check drops it in its counter; a key that is held, or already open with other parameters, drops it; a key
that is not known opens a reassembly when its class, its length and the free pages allow, and is answered with the refusal otherwise; a
fragment of an open reassembly is written. spec/03 R98, R97, R101: a whole query message whose record is good opens a query and is
complete at once, another is answered with the refusal that comes first; an incomplete reassembly is answered E_DEADLINE at its deadline;
a key is released when its hold ends. -/
def Obligations.QueriesAreTakenOrDropped : Prop :=
  (∀ (s : State) (g : Dgram),
    let t := g.port / 18
    let e := s.dev.bump .ETH_RXFRM [g.port]
    let a := e.admitFrame g.port g.sub g.mac g.tag g.dscp g.occ (dgramLen g) (e.ownAddr g.port g.v6 g.dst)
    let d := a.1
    let key : QKey := ⟨true, g.v6, g.src, g.sport, recNum g.payload 4 8⟩
    let x : Query :=
      { key := key, cls := recNum g.payload 2 1, total := recNum g.payload 16 4, usParam := recNum g.payload 12 4, lastAt := s.now,
        rxPort := g.port, rxSub := g.sub, dstAddr := g.dst, dscp := g.dscp }
    g.port < 36 → s.dev.ethUp g.port g.sub = true → a.2 = true → g.dport = d.cfgF .QFE_UDP [t] 0 16 →
    bitAt (d.qfe t).ctl 0 = true → bitAt (d.qfe t).ctl 1 = true →
    (dgramBad g = true → exec (.queryFragment g) s = .next (s.withDev (d.bump .QFE_DROP_FMT [t]))) ∧
    (dgramBad g = false → dgramChk g = false → exec (.queryFragment g) s = .next (s.withDev (d.bump .QFE_DROP_CRC [t]))) ∧
    (dgramBad g = false → dgramChk g = true →
      (∀ y u, (d.qfe t).find key = some y → y.st = .held u →
        exec (.queryFragment g) s = .next (s.withDev (d.bump .QFE_DROP_STALE [t]))) ∧
      (∀ y, (d.qfe t).find key = some y → y.st = .open_ →
        exec (.queryFragment g) s = .next (s.withDev (d.nextFragment s.now t g y))) ∧
      (∀ d1 st, (d.qfe t).find key = none → d.keyRoom t = some d1 → (d1.bump .QFE_RXDG [t]).admitQuery t x.cls x.total true = .inl st →
        exec (.queryFragment g) s = .next (s.withDev ((d1.bump .QFE_RXDG [t]).answer s.now t x st 0 0 []))) ∧
      (∀ d1 page, (d.qfe t).find key = none → d.keyRoom t = some d1 →
        (d1.bump .QFE_RXDG [t]).admitQuery t x.cls x.total true = .inr page →
        exec (.queryFragment g) s = .next (s.withDev ((((d1.bump .QFE_RXDG [t]).openKey s.now t page x).1.putFragment s.now t
          ((d1.bump .QFE_RXDG [t]).openKey s.now t page x).2 (recNum g.payload 20 4) (g.payload.drop 32))))))) ∧
  (∀ (s : State) (t src tag : Nat) (body : List Byte) (key : QKey) (x : Query),
    (let d := s.dev.took (some src) 0x14 tag body
     let q : Query :=
       { key := ⟨false, false, src, 0, recNum body 8 8⟩, cls := recNum body 1 1, total := body.length, usParam := recNum body 16 4,
         lastAt := s.now, sfxTag := tag }
     t < 2 → bitAt (d.qfe t).ctl 0 = true → bitAt (d.qfe t).ctl 2 = true → (d.qfe t).find q.key = none →
     ∀ d1, d.keyRoom t = some d1 →
     let e := d1.bump .QFE_RXDG [t]
     let bad := recordStatus body (SMap.get [] (e.qfe t).classes q.cls) q.cls q.key.qid q.usParam
     (∀ page, e.admitQuery t q.cls q.total false = .inr page → bad = sOk →
       exec (.queryMessage t src tag body) s =
         .next (s.withDev ((e.openKey s.now t page q).1.putFragment s.now t (e.openKey s.now t page q).2 0 body))) ∧
     (∀ page, e.admitQuery t q.cls q.total false = .inr page → bad ≠ sOk →
       exec (.queryMessage t src tag body) s = .next (s.withDev (e.answer s.now t q bad 0 0 []))) ∧
     (∀ st, e.admitQuery t q.cls q.total false = .inl st →
       exec (.queryMessage t src tag body) s = .next (s.withDev (e.answer s.now t q (refusal [(true, st), (bad != sOk, bad)]) 0 0 [])))) ∧
    ((s.dev.qfe t).find key = some x → x.st = .open_ →
      exec (.reassemblyExpire t key) s = .next { s with mach := { s.mach with
        und := { s.mach.und with now := max s.now x.deadline }
        dev := (s.dev.bump .QFE_RASM_EXP [t]).answer (max s.now x.deadline) t x eDeadline 0 0 [] } }) ∧
    (∀ u, (s.dev.qfe t).find key = some x → x.st = .held u →
      exec (.keyHoldExpire t key) s = .next { s with mach := { s.mach with
        und := { s.mach.und with now := max s.now u }
        dev := s.dev.setQfe t { s.dev.qfe t with keys := (s.dev.qfe t).keys.filter fun y => y.key != key } } }))

/-- spec/04 R132, R133, R136: the steps of a row writer. It tries its claim again after 100 ns; the claim once complete it writes the row;
its writes once complete it releases the version word. spec/04 R145, spec/05 R161, R176, R178, R183, spec/11 R359, spec/15 R521: a ROW
message whose layout is right is a row request at the module it was sent to, and a response is taken by the requester; one whose layout is
not right is counted and answered E_ARG. -/
def Obligations.RowWritersAndMessagesAct : Prop :=
  (∀ (s : State) (id : Nat) (w : Writer) (fault : Bool), s.dev.writer? id = some w →
    (∀ t, w.st = .retry t → exec (.rowClaimRetry id) s = .next { s with mach := { s.mach with
      und := { s.mach.und with now := max s.now t }
      dev := s.dev.tryClaim (max s.now t) w } }) ∧
    (w.st = .held → s.dev.writerHeld w = false → exec (.rowClaimRetry id) s = .next (s.withDev (s.dev.tryClaim s.now w))) ∧
    (w.st = .claimed → (∀ p, w.by_ = .part p → w.sh = true) →
      exec (.rowClaimComplete id fault) s = .next (s.withDev (s.dev.writeRow w fault))) ∧
    (∀ p k, w.st = .claimed → w.by_ = .part k → w.sh = false → s.dev.part? k = some p → s.dev.spansWait p.mem (s.dev.updSpans p w) = false →
      exec (.rowClaimComplete id fault) s = .next (s.withDev ((s.dev.updRow s.now p w).1.writeRow
        { w with data := (s.dev.updRow s.now p w).2.1, pm := (s.dev.updRow s.now p w).2.2 } fault))) ∧
    (s.dev.mayRelease w = true →
      exec (.rowWritesComplete id fault) s = .next (s.withDev ((s.dev.releaseRow s.now w fault).settle s.now)))) ∧
  (∀ (s : State) (src tag status : Nat) (body : List Byte),
    let d := s.dev.took (some src) 0x10 tag body
    let td := d.tdesc (recNum body 2 2 % 4096)
    let xs (n : Nat) : List Nat := (List.range n).map fun i => recNum body (32 + 4 * i) 4
    (rowBad body 0 = false → exec (.rowRead src tag body) s = .next (s.withDev (d.rowReq s.now (rowMsg src tag body .read)))) ∧
    (rowBad body 0 = true → exec (.rowRead src tag body) s = .next (s.withDev (d.badMsg s.now src 0x11 tag true))) ∧
    (rowBad body 1 = false → (tdValid td = true → body.length = 32 + tdB td) →
      exec (.rowWrite src tag body) s =
        .next (s.withDev ((d.rowReq s.now (rowMsg src tag body (.write (body.drop 32) 0 (bitAt (recNum body 1 1) 0)))).settle s.now))) ∧
    (∀ off n, off = recNum body 4 2 → n = recNum body 6 2 → rowBad body 2 = false → 1 ≤ n → n ≤ 1024 → body.length = 32 + 4 * n →
      (tdValid td = true → off + n ≤ tdElts td) →
      exec (.rowMerge src tag body) s =
        .next (s.withDev (d.rowReq s.now (rowMsg src tag body (.merge (recNum body 16 8) off (xs n) false))))) ∧
    (rowBad body 3 = false → body.length = 288 → recNum body 8 8 < 2 ^ 22 →
      let x := d.layerMerge (recNum body 2 2) (recNum body 8 2) (recNum body 10 1 % 64) (recNum body 16 8) (xs 64) false d.fabPart
      (x.1.peer src).st = .up →
      exec (.rowLmerge src tag body) s = .next (s.withDev (x.1.respond src s.now 0x11 x.2 tag (rowrBody 0 0 0 [])))) ∧
    (rowrBad status body = false → exec (.rowr tag status body) s = .next (s.withDev ((s.dev.cores.map (·.1)).foldl
      (fun d c => d.coreAfter s.now c) (((s.dev.took none 0x11 tag body).rowr s.now tag status body).settle s.now)))) ∧
    (rowrBad status body = true →
      exec (.rowr tag status body) s = .next (s.withDev ((s.dev.took none 0x11 tag body).bump .SFX_RXBAD))))

/-- spec/12 R378, R379, R419: an issue by the running thread takes the next place of its engine's queue when one is free, with a copy of
its record where the engine's commands have one and no error is met as it is read (spec/13 R440), and else the sequencer waits with it. -/
def Obligations.IssueTakesAPlaceOrWaits : Prop := ∀ (s : State) (q : Sq) (w : BitVec 32) (rs1 rs2 : Word) (h : Nat),
  s.dev.seqReady q = true →
  let d := s.dev.enter s.now q
  let j := (d.thr h).job
  let c := q.core
  (d.core c).sq.cur = some h → d.findings = [] →
  (let x : QEnt := { w0 := rs1, w1 := rs2, tok := bitAt rs1.toNat 31, k := nxK w, thr := h, job := j }
   (nxIs w 0x0B 0 = true → nxOk w 0x30 false false true = true →
     (d.hasPlace c .me = true →
       exec (.nxIssueMe q w rs1 rs2) s = .next (s.withDev (((d.bump .CORE_SQ_ISSUE [c]).place c .me x).coreAfter s.now c))) ∧
     (d.hasPlace c .me = false →
       exec (.nxIssueMe q w rs1 rs2) s = .next (s.withDev (d.modSq c fun k => { k with stall := some (0, x) })))) ∧
   (nxIs w 0x0B 1 = true → nxOk w 0x30 false false true = true →
     (d.hasPlace c .ve = true →
       exec (.nxIssueVe q w rs1 rs2) s = .next (s.withDev (((d.bump .CORE_SQ_ISSUE [c]).place c .ve x).coreAfter s.now c))) ∧
     (d.hasPlace c .ve = false →
       exec (.nxIssueVe q w rs1 rs2) s = .next (s.withDev (d.modSq c fun k => { k with stall := some (1, x) }))))) ∧
  (let x : QEnt := { off := rs1.toNat, tok := bitAt w.toNat 31, k := nxK w, thr := h, job := j }
   (nxIs w 0x0B 2 = true → nxOk w 0x70 false true true = true →
     (d.hasPlace c .ge = true → exec (.nxIssueGe q w rs1) s =
       .next (s.withDev (((d.bump .CORE_SQ_ISSUE [c]).place c .ge (d.copyRecord c 64 x)).coreAfter s.now c))) ∧
     (d.hasPlace c .ge = false →
       exec (.nxIssueGe q w rs1) s = .next (s.withDev (d.modSq c fun k => { k with stall := some (10, x) })))) ∧
   (nxIs w 0x0B 5 = true → nxOk w 0x70 false true true = true →
     (d.hasPlace c .mq = true → exec (.nxIssueMq q w rs1) s =
       .next (s.withDev (((d.bump .CORE_SQ_ISSUE [c]).place c .mq (d.copyRecord c 64 x)).coreAfter s.now c))) ∧
     (d.hasPlace c .mq = false →
       exec (.nxIssueMq q w rs1) s = .next (s.withDev (d.modSq c fun k => { k with stall := some (13, x) }))))) ∧
  (∀ e cmd, e < 2 → nxIs w 0x0B (3 + e) = true → cmd = nxF w 25 4 → 1 ≤ cmd → cmd ≤ 4 → nxOk w 0x7F (cmd == 3) true true = true →
    let x : QEnt := { cmd := cmd, off := rs1.toNat, tok := bitAt w.toNat 31, k := nxK w, thr := h, job := j }
    (d.hasPlace c (.se e) = true → exec (.nxIssueSe q w rs1) s = .next (s.withDev (((d.bump .CORE_SQ_ISSUE [c]).place c (.se e)
      (if cmd = 3 then x else if cmd = 4 then d.copyRecord c 128 x else d.copyRecord c 64 x)).coreAfter s.now c))) ∧
    (d.hasPlace c (.se e) = false → exec (.nxIssueSe q w rs1) s =
      .next (s.withDev (d.modSq c fun k => { k with stall := some (3 + e + 8 * seRecord cmd, x) }))))

/-- spec/12 R382 to R387, R399, R419: what a thread does to itself and to others. PARK goes on when every needed operand has arrived and
else waits and traps; TGET reads and clears an operand, or with POLL returns the ARRIVED bits; SPAWN makes a thread in the lowest free
slot, or returns bit 63; SEND delivers a token; DELAY sets the thread's entry; END with JOB 1 ends the job. -/
def Obligations.ThreadInstructionsAct : Prop := ∀ (s : State) (q : Sq) (w : BitVec 32) (rs1 rs2 : Word) (h : Nat),
  s.dev.seqReady q = true →
  let d := s.dev.enter s.now q
  let c := q.core
  let j := (d.thr h).job
  (d.core c).sq.cur = some h →
  (nxIs w 0x2B 0 = true → nxOk w 0 false true true = true →
    let t := { d.thr h with need := bitsOf rs1.toNat 0 4 }
    (t.met = true → exec (.nxPark q w rs1) s = .next (s.withDev (d.modThr h fun _ => t))) ∧
    (t.met = false → exec (.nxPark q w rs1) s = .next (s.withDev (d.afterStores s.now c fun d =>
      (d.modThr h fun _ =>
        { t with st := .wait, watch := if t.watched then some (d.watchTick s.now t.job) else none }).trapCore s.now c 24)))) ∧
  (nxIs w 0x2B 1 = true → nxOk w 7 true true false = true →
    let k := nxF w 25 2
    (bitAt w.toNat 27 = true →
      exec (.nxTgetPoll q w) s = .next (s.withDev (d.setX c (nxRd w) (BitVec.ofNat 64 (d.thr h).arr)))) ∧
    (bitAt w.toNat 27 = false → bitAt (d.thr h).arr k = false →
      exec (.nxTget q w) s = .next (s.withDev (d.setX c (nxRd w) 0))) ∧
    (bitAt w.toNat 27 = false → bitAt (d.thr h).arr k = true →
      exec (.nxTget q w) s = .next (s.withDev
        (((if bitAt (d.thr h).tokSrc k then d.l1Clear c else d).modThr h fun t =>
          { t with arr := setBits t.arr k 1 0, tokSrc := setBits t.tokSrc k 1 0 }).setX c (nxRd w) ((d.thr h).op k))))) ∧
  (nxIs w 0x2B 2 = true → nxOk w 0 false false false = true → q.user = false →
    (bitAt rs2.toNat 7 = true → bitAt rs2.toNat 11 = true) → rs2.toNat < 2 ^ 12 →
    let n := cluOfCore c
    (d.freeSlot n = none → exec (.nxSpawn q w rs1 rs2) s =
      .next (s.withDev ((d.bump .FOR_SLOTFULL [n]).setX c (nxRd w) (BitVec.ofNat 64 (2 ^ 63))))) ∧
    (∀ g, d.freeSlot n = some g → exec (.nxSpawn q w rs1 rs2) s = .next (s.withDev (((d.modThr g fun _ =>
      { st := if bitsOf rs2.toNat 0 4 = 0 then .ready else .wait, job := j, need := bitsOf rs2.toNat 0 4, prio := bitsOf rs2.toNat 4 3,
        pin := if bitAt rs2.toNat 7 then some (n * 8 + bitsOf rs2.toNat 8 3) else none,
        last := if bitAt rs2.toNat 11 then some (n * 8 + bitsOf rs2.toNat 8 3) else none, ctx := rs1, readyAt := s.now,
        watch := if bitsOf rs2.toNat 0 4 = 0 then none else some (d.watchTick s.now j) }).setX c (nxRd w)
          (BitVec.ofNat 64 g)).schedule s.now n)))) ∧
  (nxIs w 0x2B 3 = true → nxOk w 0 false false true = true → rs1.toNat < 2 ^ 18 → d.curJob c = some j →
    exec (.nxSend q w rs1 rs2) s = .next (s.withDev (d.afterStores s.now c fun d =>
      if d.ofJob (bitsOf rs1.toNat 0 16) j && cluOf (bitsOf rs1.toNat 0 16) == cluOfCore c then
        d.token s.now (bitsOf rs1.toNat 0 16) (bitsOf rs1.toNat 16 2) rs2 true
      else (d.bump .FOR_TOKERR [cluOfCore c]).refuseJob s.now j eState))) ∧
  (nxIs w 0x2B 5 = true → nxOk w 0x30 false true true = true →
    exec (.nxDelay q w rs1) s =
      .next (s.withDev (d.modThr h fun t => { t with delay := some (max rs1.toNat (s.now / usT + 1), nxK w) }))) ∧
  (nxIs w 0x2B 7 = true → nxOk w 1 false true true = true → bitAt w.toNat 25 = true → d.curJob c = some j →
    (jobStatusOk (bitsOf rs1.toNat 0 8) = true → exec (.nxEndJob q w rs1) s =
      .next (s.withDev ((d.trapCore s.now c 25).endJob s.now j (.program (bitsOf rs1.toNat 0 8))))) ∧
    (jobStatusOk (bitsOf rs1.toNat 0 8) = false → exec (.nxEndJob q w rs1) s =
      .next (s.withDev ((d.trapCore s.now c 25).endJob s.now j (.refusal eArg)))))

/-- spec/12 R402: after an ADD its object holds its value before plus the operand, modulo 2^64, and after a SET the operand; no other
object's value changes. The values are listed in the canonical form. -/
def Obligations.SyncAddAndSetValues : Prop := ∀ (d : Dev) (now n m : Nat) (v : Word), SMap.wf 0 d.sync.vals = true →
  (d.syncBroken n = false → (d.syncAdd now n v).syncVal n = d.syncVal n + v) ∧
  (d.syncSet now n v).syncVal n = v ∧
  (m ≠ n → (d.syncAdd now n v).syncVal m = d.syncVal m ∧ (d.syncSet now n v).syncVal m = d.syncVal m)

/-- spec/12 R400 to R408: NX.SYNC of an object of this module whose code does not fail. After the thread's earlier stores, ADD and SET
change the object and rd takes its value before; WAIT gives rd zero and sends the token at once or arms a monitor; DECL records the value
for the job's end. -/
def Obligations.SyncInstructionsAct : Prop := ∀ (s : State) (q : Sq) (w : BitVec 32) (rs1 rs2 : Word) (h n : Nat),
  s.dev.seqReady q = true → nxIs w 0x2B 4 = true → nxOk w 0x37 false false false = true →
  let d := s.dev.enter s.now q
  let c := q.core
  let j := (d.thr h).job
  (d.core c).sq.cur = some h → s.dev.syncAddr rs1.toNat = .inr (none, n) → d.syncAddr rs1.toNat = .inr (none, n) →
  (nxF w 25 3 = 0 → (d.drainMb s.now c).storesOut c = false → (d.drainMb s.now c).syncBroken n = false →
    exec (.nxSyncAdd q w rs1 rs2 false) s =
      .next (s.withDev (((d.drainMb s.now c).syncAdd s.now n rs2).setX c (nxRd w) ((d.drainMb s.now c).syncVal n)))) ∧
  (nxF w 25 3 = 1 → (d.drainMb s.now c).storesOut c = false →
    exec (.nxSyncSet q w rs1 rs2 false) s =
      .next (s.withDev (((d.drainMb s.now c).syncSet s.now n rs2).setX c (nxRd w) ((d.drainMb s.now c).syncVal n)))) ∧
  (nxF w 25 3 = 2 → (d.setX c (nxRd w) 0).syncBroken n = false →
    exec (.nxSyncWaitGe q w rs1 rs2 false) s =
      .next (s.withDev ((d.setX c (nxRd w) 0).syncWait s.now ⟨n, false, rs2, .thread h (nxK w), s.now⟩))) ∧
  (nxF w 25 3 = 3 → (d.setX c (nxRd w) 0).syncBroken n = false →
    exec (.nxSyncWaitEq q w rs1 rs2 false) s =
      .next (s.withDev ((d.setX c (nxRd w) 0).syncWait s.now ⟨n, true, rs2, .thread h (nxK w), s.now⟩))) ∧
  (nxF w 25 3 = 4 → d.syncBroken n = false → (d.job j).decl.length < 16 → (∀ p ∈ (d.job j).decl, p.1 ≠ n) →
    exec (.nxSyncDecl q w rs1 false) s =
      .next (s.withDev (((d.modJob j fun b => { b with decl := (d.job j).decl ++ [(n, d.syncVal n)] }).bump .SYN_OPS [syncHome n]).setX c
        (nxRd w) (d.syncVal n))))

/-- spec/12 R386, R397: END with JOB 0. The running thread leaves its core and its slot drains; its monitors, its WAITs that found none,
its remote waits and its delay entry are dropped; the slot frees when nothing of the job's is left, and the cluster schedules. spec/12
R397 to R399, R407, R410, R416: what falls due. A WAIT that found no monitor is tried again at the next tick; a delay entry sends its
token; a deadline ends its job, and answers the query of a job that serves one; a watched wait that expires ends its job with E_WATCHDOG,
which is counted in FOR_WDOG, a merge that waited here for space being answered so; a job whose work has drained is reported. -/
def Obligations.ThreadEndsAndTimersAct : Prop :=
  (∀ (s : State) (q : Sq) (w : BitVec 32) (h : Nat),
    s.dev.seqReady q = true → nxIs w 0x2B 7 = true → nxOk w 0 true true true = true → bitAt w.toNat 25 = false →
    let d := s.dev.enter s.now q
    (d.core q.core).sq.cur = some h →
    let mine (o : Mon) : Bool := match o.dst with | .thread g _ => g == h | _ => false
    let a := (d.trapCore s.now q.core 25).modThr h fun t => { t with st := .drain, watch := none, delay := none }
    let b := a.onSync fun x => { x with mons := x.mons.filter fun o => !mine o, retry := x.retry.filter fun o => !mine o }
    let e := b.onNet fun t => { t with outst := t.outst.filter fun o => !(match o.who with | .wait g _ => g == h | _ => false) }
    exec (.nxEndThread q w) s =
      .next (s.withDev (((e.lastExit s.now (d.thr h).job).reap (cluOf h)).schedule s.now (cluOf h)))) ∧
  (∀ (s : State),
    let wdog (j : Nat) (e : Dev) : Dev := if (e.job j).live = true ∧ (e.job j).ending = none then e.bump .FOR_WDOG [j / 4096] else e
    (∀ i o, s.dev.sync.retry[i]? = some o → s.dev.syncBroken o.obj = false →
      let t := max s.now ((o.at_ / 12000 + 1) * 12000)
      let l := s.dev.sync.retry
      exec (.monitorRetry i) s = .next { s with mach := { s.mach with
        und := { s.mach.und with now := t }
        dev := (s.dev.onSync fun x => { x with retry := l.take i ++ l.drop (i + 1) }).syncWait t o } }) ∧
    (∀ h t k, (s.dev.thr h).delay = some (t, k) →
      let u := max s.now (t * 12000)
      exec (.delayFire h) s = .next { s with mach := { s.mach with
        und := { s.mach.und with now := u }
        dev := (((s.dev.modThr h fun t => { t with delay := none }).token u h k (BitVec.ofNat 64 (u / 12000)) false).watchWait u h).wakeWire
          (cluOf h) 2 false } }) ∧
    (∀ j t, (s.dev.job j).deadTick = some t → (s.dev.job j).live = true → (s.dev.job j).ending = none →
      let u := max s.now (t * 12000)
      (s.dev.endJob u j .deadline).queryOf j = none →
      exec (.deadlineFire j) s = .next { s with mach := { s.mach with
        und := { s.mach.und with now := u }
        dev := s.dev.endJob u j .deadline } }) ∧
    (∀ j t tl x, (s.dev.job j).deadTick = some t → (s.dev.job j).live = true → (s.dev.job j).ending = none →
      let u := max s.now (t * 12000)
      let e := s.dev.endJob u j .deadline
      e.queryOf j = some (tl, x) →
      exec (.deadlineFire j) s = .next { s with mach := { s.mach with
        und := { s.mach.und with now := u }
        dev := if clsPartial x.desc = true then e.answerPub u tl x eDeadline else e.answer u tl x eDeadline 0 0 [] } }) ∧
    (∀ w j t, s.dev.waitOf w = some (j, t) → (∀ i, w ≠ .merge i) → (∀ g, w ≠ .sent g) →
      let u := max s.now (t * 12000)
      exec (.watchdogExpire w) s = .next { s with mach := { s.mach with
        und := { s.mach.und with now := u }
        dev := ((wdog j s.dev).endJob u j .watchdog).settle u } }) ∧
    (∀ i j t r, s.dev.waitOf (.merge i) = some (j, t) → s.dev.tabs.gwait[i]? = some r →
      let u := max s.now (t * 12000)
      exec (.watchdogExpire (.merge i)) s = .next { s with mach := { s.mach with
        und := { s.mach.und with now := u }
        dev := ((wdog j ((s.dev.onTabs fun x => { x with gwait := x.gwait.take i ++ x.gwait.drop (i + 1) }).rowAnswer u r eWatchdog)).endJob
          u j .watchdog).settle u } }) ∧
    (∀ j, exec (.jobEndDrained j) s = .next (s.withDev ((s.dev.jobDone s.now j).settle s.now))))

/-- spec/12 R376, R387, R389, R392, R397, R411 to R413, spec/13 R444 to R448: the rest of a sequencer and of a cluster. FNEXT runs the
thread of the local slot or gates the core; a stalled issue takes a free place; a thread near its deadline is scheduled again; FENCE,
FENCE.I, ecall, ebreak and an illegal instruction have the effects of their rules; a cluster sleeps, wakes and goes off. -/
def Obligations.CoreAndClusterCommandsAct : Prop := ∀ (s : State) (q : Sq) (w : BitVec 32) (n : Nat),
  let d := s.dev.enter s.now q
  let c := q.core
  let up (now : Nat) (x : Dev) : Host.Outcome State Fault Refusal :=
    .next { s with mach := { s.mach with und := { s.mach.und with now := now }, dev := x } }
  (s.dev.seqReady q = true → nxIs w 0x2B 6 = true → nxOk w 0 true true false = true → q.user = false →
    let e := (d.leaveCore s.now c).modSq c fun k => { k with mAt := s.now }
    ((e.core c).sq.loc.isSome = true →
      exec (.nxFnext q w .none) s = .next (s.withDev ((e.fnextTake s.now c (nxRd w)).schedule s.now (cluOfCore c)))) ∧
    ((e.core c).sq.loc.isSome = false →
      exec (.nxFnext q w .none) s =
        .next (s.withDev ((e.modSq c fun k => k.gate s.now (nxRd w)).schedule s.now (cluOfCore c))))) ∧
  (∀ st x, (s.dev.core n).sq.stall = some (st, x) → s.dev.hasPlace n (Eng.ofNum (st % 8)) = true → st / 8 = 0 →
    exec (.engineQueueSpace n) s = .next (s.withDev ((((s.dev.modSq n fun k => { k with stall := none }).bump .CORE_SQ_ISSUE [n]).place n
      (Eng.ofNum (st % 8)) x).coreAfter s.now n))) ∧
  (∀ D, s.dev.deadOf n = some D → (s.dev.thr n).st = .ready →
    let u := max s.now ((D - s.dev.cfgF .FOR_CFG [cluOf n] 0 32) * 12000)
    exec (.threadBecomesUrgent n) s = up u (s.dev.schedule u (cluOf n))) ∧
  (s.dev.seqReady q = true →
    exec (.fenceI q) s = .next (s.withDev (d.modSq c fun k => { k with ibuf := false })) ∧
    exec (.ecall q) s = .next (s.withDev (d.toCopse s.now c (if q.user then 8 else 11))) ∧
    exec (.ebreak q) s = .next (s.withDev (d.exc s.now q 3 eArg)) ∧
    exec (.illegalInstruction q) s = .next (s.withDev (d.exc s.now q 2 eArg)) ∧
    (∀ pred succ, bitAt pred 0 = false → bitAt pred 3 = false ∨ bitAt succ 1 = false → exec (.fence q pred succ) s = .next (s.withDev d)) ∧
    (∀ pred succ, bitAt pred 0 = true → bitAt pred 3 = false ∨ bitAt succ 1 = false →
      exec (.fence q pred succ) s = .next (s.withDev (d.afterStores s.now c fun d => d))) ∧
    (∀ pred succ, bitAt pred 0 = false → bitAt pred 3 = true → bitAt succ 1 = true →
      exec (.fence q pred succ) s = .next (s.withDev (d.l1Clear c))) ∧
    (∀ pred succ, bitAt pred 0 = true → bitAt pred 3 = true → bitAt succ 1 = true →
      exec (.fence q pred succ) s = .next (s.withDev (d.afterStores s.now c fun d => d.l1Clear c)))) ∧
  (s.dev.cluHere n = true → (s.dev.clu n).pst = 0 → s.dev.maySleep (s.now / 12000) n = true →
    exec (.clusterSleep n) s =
      .next (s.withDev ((s.dev.modClu n fun x => { x with pst := 1, sleptAt := s.now, waking := false }).bump .CLU_SLEEPS [n]))) ∧
  (s.dev.dueWithin (s.now / 12000) n (s.dev.cfgF .CLU_PWR [n] 0 16) = true →
    exec (.clusterWake n) s = .next (s.withDev (s.dev.wakeWire n 2 false))) ∧
  ((s.dev.clu n).waking = true → (s.dev.clu n).pst = 1 →
    exec (.clusterWakeComplete n) s = .next (s.withDev ((s.dev.modClu n fun x => { x with pst := 0, waking := false }).schedule s.now n))) ∧
  ((s.dev.clu n).pst = 1 → (s.dev.clu n).waking = false → s.dev.cfgF .CLU_PWR [n] 16 1 = 1 → (s.dev.slotsOf n).isEmpty = true →
    s.dev.noDelays n = true →
    exec (.clusterOff n) s = up (max s.now ((s.dev.clu n).sleptAt + s.dev.cfgF .CLU_PWR [n] 20 24 * 12000))
      ((s.dev.modClu n fun x => { x with pst := 2 }).bump .CLU_OFFS [n]))

/-- spec/12 R374, spec/13 R444, R445, R451: a naturally aligned load or store of a sequencer, with no error detected. A load takes its
bytes from the merging buffer when that holds them all, from the memory of this module where the L1 data cache does not cache the line and
nothing there makes it wait, from a sync object's line; a store goes to the merging buffer; one of another module goes there too. -/
def Obligations.LoadsAndStoresAct : Prop := ∀ (s : State) (q : Sq) (rd size a : Nat) (sgn : Bool) (v : Word),
  s.dev.seqReady q = true → size = 1 ∨ size = 2 ∨ size = 4 ∨ size = 8 → a % size = 0 → a < 2 ^ 56 →
  let d := s.dev.enter s.now q
  let c := q.core
  let x := v.toNat % 2 ^ (8 * size)
  (∀ y, d.privAccess q a = false → d.mbHit c a size = .all y →
    exec (.seqLoad q rd size sgn a .none) s = .next (s.withDev (d.loadDone c rd size sgn y false))) ∧
  (∀ u b, d.mbHit c a size = .none → d.remoteOf a = none → d.target (dlaOf a) = .ext u b → d.l1Caches (dlaOf a) = false →
    d.loadWaits c (dlaOf a) size = false → d.heldRange (dlaOf a) size = false →
    exec (.seqLoad q rd size sgn a .none) s = .next (s.withDev
      ((d.touch (dlaOf a) size { part := d.corePart c, alloc := false }).loadDone c rd size sgn (d.num (dlaOf a) size) (d.poisoned (dlaOf a) size)))) ∧
  (∀ n o, d.mbHit c a size = .none → d.remoteOf a = none → d.target (dlaOf a) = .syncObj n o → d.syncBroken n = false →
    exec (.seqLoad q rd size sgn a .none) s =
      .next (s.withDev (d.loadDone c rd size sgn (recNum (d.syncBytes n) o size) false))) ∧
  (∀ u b, d.remoteOf a = none → d.target (dlaOf a) = .ext u b → d.heldRange (dlaOf a) size = false →
    exec (.seqStore q size a v .none) s = .next (s.withDev (d.mbStore s.now c a ((d.curJob c).getD 0) (leBytes size x)))) ∧
  (∀ k, d.remoteOf a = some k → d.routeCheck k = .send →
    exec (.seqStore q size a v .none) s = .next (s.withDev (d.mbStore s.now c a ((d.curJob c).getD 0) (leBytes size x))))

/-- spec/13 R431, R433, R436, R437: an AMO of this module that nothing refuses or holds back, with no error detected. After the merging
buffer has drained and the line has left the core's L1, the target takes the code's new value as one indivisible read and write, and rd
takes the old value, sign-extended. spec/13 R431, R438: a launched atomic of a live job that nothing refuses or holds back: the target
takes its new value, and CORE_ATOM_RES the old one. spec/13 R437: LR reads the line at its slice and reserves it; SC writes, and gives 0,
only with the reservation intact, and ends it; 64 ns after an LR what its slice held back goes on. -/
def Obligations.AtomicsAct : Prop :=
  (∀ (s : State) (q : Sq) (rd size a : Nat) (v : Word),
    ∀ p ∈ [(Instr.amoadd, 0x01), (Instr.amoand, 0x0A), (Instr.amoor, 0x0B), (Instr.amoxor, 0x0C), (Instr.amomin, 0x04),
      (Instr.amomax, 0x05), (Instr.amominu, 0x06), (Instr.amomaxu, 0x07), (Instr.amoswap, 0x0D)],
    s.dev.seqReady q = true → size = 4 ∨ size = 8 →
    let d := (s.dev.enter s.now q).drainMb s.now q.core
    let t := dlaOf a
    let e := d.l1Drop q.core (t / 128)
    let e1 := match e.sliceAt t with | some k => e.bump .CAN_ATOM [k] | none => e
    let old := e.num t size
    d.amoRefusal a size = sOk → d.remoteOf a = none → d.atomWait t size (some q.core) = 0 → d.findings = [] →
    d.heldRange t size = false → e.poisoned t size = false →
    exec (p.1 q rd size a v) s = .next (s.withDev
      ((e1.storeNow t (leBytes size (atomNew p.2 size old (v.toNat % 2 ^ (8 * size)) 0)) false (some (e1.atomPart (some q.core)))
        true).setX q.core rd (BitVec.ofInt 64 (sext (8 * size) old))))) ∧
  (∀ (s : State) (c : Nat) (o : AtomOp),
    ∀ p ∈ [(Instr.atomAdd, 0x01), (Instr.atomFadd32, 0x02), (Instr.atomFadd16, 0x03), (Instr.atomMin, 0x04), (Instr.atomMax, 0x05),
      (Instr.atomMinu, 0x06), (Instr.atomMaxu, 0x07), (Instr.atomFmin32, 0x08), (Instr.atomFmax32, 0x09), (Instr.atomAnd, 0x0A),
      (Instr.atomOr, 0x0B), (Instr.atomXor, 0x0C), (Instr.atomSwap, 0x0D), (Instr.atomCas, 0x0E), (Instr.atomRma, 0x10)],
    (s.dev.core c).sq.atom = some o → o.code = p.2 → s.dev.atomWait o.addr o.len (some c) = 0 → s.dev.findings = [] →
    s.dev.heldRange o.addr o.len = false → (s.dev.job o.job).live = true → (s.dev.job o.job).ending = none → s.dev.atomRefusal o = sOk →
    let r := (s.dev.modSq c fun k => { k with atom := none }).atomAt o (some c)
    exec (p.1 c) s = .next (s.withDev ((if r.poison then r.d.poisonIn c o.job else r.d).modSq c fun k =>
      { k with atomRes := BitVec.ofNat 64 r.old }))) ∧
  (∀ (s : State) (q : Sq) (rd size a : Nat) (v : Word), s.dev.seqReady q = true →
    size = 4 ∨ size = 8 →
    let d := (s.dev.enter s.now q).drainMb s.now q.core
    let t := dlaOf a
    let e := d.l1Drop q.core (t / 128)
    (d.amoRefusal a size = sOk → d.remoteOf a = none → d.heldRange t size = false → d.poisoned t size = false → d.findings = [] →
      (d.readWait (d.corePart q.core) t size = 0 →
        exec (.lr q rd size a) s = .next (s.withDev ((((d.lrAt s.now q.core t size).d).setX q.core rd
          (BitVec.ofInt 64 (sext (8 * size) (d.num t size)))).releaseHeld s.now))) ∧
      (d.atomWait t size (some q.core) = 0 →
        exec (.sc q rd size a v) s = .next (s.withDev (((e.scAt q.core t size v.toNat).d.setX q.core rd
          (BitVec.ofNat 64 (e.scAt q.core t size v.toNat).old)).releaseHeld s.now)))) ∧
    (∀ c l t0, c < 128 → (s.dev.core c).sq.resv = some (l, t0, true) →
      let u := max s.now (t0 + 768)
      exec (.lrHoldExpire c) s = .next { s with mach := { s.mach with
        und := { s.mach.und with now := u }
        dev := (s.dev.modSq c fun k => { k with resv := some (l, t0, false) }).releaseHeld u } }))

/-- spec/13 R431: what the integer codes leave at an 8-byte target, as operations on 64-bit words: sum, bitwise operations, the signed and
the unsigned lesser and greater, the swapped value, and the value swapped in only where the target held the operand. -/
def Obligations.AtomicCodesCompute : Prop := ∀ (v a b : BitVec 64),
  let new (code : Nat) : BitVec 64 := BitVec.ofNat 64 (atomNew code 8 v.toNat a.toNat b.toNat)
  new 0x01 = v + a ∧ new 0x0A = v &&& a ∧ new 0x0B = v ||| a ∧ new 0x0C = v ^^^ a ∧ new 0x0D = a ∧
  new 0x0E = (if v = a then b else v) ∧ new 0x04 = (if v.sle a then v else a) ∧ new 0x05 = (if a.sle v then v else a) ∧
  new 0x06 = (if v.ule a then v else a) ∧ new 0x07 = (if a.ule v then v else a)

/-- spec/13 R426, R438, R444, R448, spec/14 R472 to R488: events of the memory system. The oldest open entry of a merging buffer drains
after 32 clk; a prefetched line enters the side buffer; CORE_ATOM_RES is read; a re-home ends; a read is issued and decoded; buckets are
refilled, what they held back goes on, and what was found is reported; temperatures are read and levels follow; windows of errors end; a
unit leaves once the reads that wait there have been decoded. That what was held goes on at the refill is the model's choice (log entry
9). That MEM_READ_DECODE gives its result as the read issues is the model's choice (log entry 90). -/
def Obligations.MemoryEventsAct : Prop := ∀ (s : State),
  let up (now : Nat) (x : Dev) : State := { s with mach := { s.mach with und := { s.mach.und with now := now }, dev := x } }
  (∀ c e r, (s.dev.core c).sq.mb = e :: r → farBlock ≤ e.block →
    exec (.mbDrainTimeout c .none) s = .next (up (max s.now (e.openAt + 160)) (s.dev.drainEntry (max s.now (e.openAt + 160)) c e))) ∧
  (∀ c e r, (s.dev.core c).sq.mb = e :: r → e.block < farBlock →
    s.dev.heldRange (e.block % farBlock * 128) 128 = false →
    exec (.mbDrainTimeout c .none) s = .next (up (max s.now (e.openAt + 160)) (s.dev.drainEntry (max s.now (e.openAt + 160)) c e))) ∧
  (∀ c line, let d := s.dev.modSq c fun k => { k with pfOut := k.pfOut.filter (· != line) }
    (s.dev.core c).sq.pfOut.contains line = true → s.dev.readWait (s.dev.corePart c) (line * 128) 128 = 0 → d.l1Caches (line * 128) = true →
    exec (.prefetchFill c line) s =
      .next (s.withDev ((d.touch (line * 128) 128 { part := d.corePart c }).sideFill c (d.lineNow line 0)))) ∧
  (∀ c rd, s.dev.seqReady ⟨c, true⟩ = true → (s.dev.core c).sq.atom = none →
    let r := s.mach.readReg .user (some c) (Reg.CORE_ATOM_RES.off [c]) 8
    exec (.coreAtomResRead c rd) s = .next (s.withMach (r.1.onDev fun d => d.loadDone c rd 8 false r.2 false))) ∧
  (∀ t, s.dev.canopy.rehome0 = some t → bitsOf ((s.dev.bump .CAN_REHOME []).rd .CAN_REHOME) 32 32 ≥ (s.now - t) / 12000 →
    exec (.rehomeComplete 0) s =
      .next (s.withDev { s.dev.bump .CAN_REHOME [] with canopy := { (s.dev.bump .CAN_REHOME []).canopy with rehome0 := none } })) ∧
  (∀ dla res part u b, s.mach.und.st.serves = true → part < 16 → s.dev.target dla = .ext u b →
    let x := s.dev.memPlace u
    exec (.memReadDecode dla res part) s = .next (s.withMach ((s.mach.onDev fun d => d.setPlace u { x with
      reqs := x.reqs ++ [{ id := x.nextId, dla := dla, cell := b, res := res, part := part, bytes := 64, at_ := s.now }],
      nextId := x.nextId + 1 }).unitIssues u))) ∧
  (s.mach.und.st.serves = true →
    let t := max s.now (roundUp s.now 120)
    let d := (s.dev.places.foldl Dev.refillPlace s.dev.countWaits).onExt fun e => { e with clock := t }
    let m := ((List.range 40).filter d.unitHere).foldl Mach.unitIssues (up t d).mach
    exec .regulatorRefill s = .next (s.withMach m.goOn.flushReports)) ∧
  (∀ u id x, ((s.dev.memPlace u).reqs.find? fun q => q.id == id) = some x →
    exec (.requestAgeLimit u id) s = .next (s.withMach ((up (max s.now (x.at_ + 48000)) (s.dev.setPlace u { s.dev.memPlace u with
      reqs := (s.dev.memPlace u).reqs.map fun r => if r.id = id then { r with aged := true } else r })).mach.unitIssues u))) ∧
  (∀ k temp, s.mach.und.st.serves = true → k < 8 → bitAt s.dev.pres.hbms k = true →
    let x : MUnit := SMap.get {} s.dev.ext.units k
    let l := nextLevel (s.dev.cfgF .HBM_THR [k] 0 8) temp x.level
    let m := (up (max s.now (roundUp s.now 384000)) (s.dev.onExt fun e =>
      { e with units := e.units.put {} k { x with temp := temp, level := l } })).mach
    (l = x.level → exec (.hbmTempRead k temp) s = .next (s.withMach (m.unitIssues k))) ∧
    (l ≠ x.level → exec (.hbmTempRead k temp) s = .next (s.withMach
      (((m.onDev fun d => d.bump .HBM_TSTEP [k]).event 0x0104 1 (evUnit 4 k) (l + x.level * 2 ^ 8 + temp % 256 * 2 ^ 16)).unitIssues k)))) ∧
  (∀ p temp, s.mach.und.st.serves = true → p < 32 → bitAt s.dev.pres.lpds p = true →
    exec (.lpdTempRead p temp) s = .next (up (max s.now (roundUp s.now 384000)) (s.dev.onExt fun e =>
      { e with units := e.units.mod {} (8 + p) fun x => { x with temp := temp } }))) ∧
  (∀ c, s.mach.und.st.serves = true → c < 384 →
    let x : Chan := SMap.get {} s.dev.ext.chans c
    let t := max s.now (x.at_ + s.dev.cfgF .MEM_ERRCFG [] 20 12 * 12000000)
    exec (.errorWindowEnd c) s =
      .next (up t (s.dev.onExt fun e => { e with chans := e.chans.put {} c { x with ce := 0, ue := 0, at_ := t } }))) ∧
  (∀ u, u < 40 → (SMap.get {} s.dev.ext.units u).leaving = true →
    exec (.unitMapoutComplete u) s = .next (s.withMach (((((s.mach.lastReads u).onDev fun d =>
      ((d.discardLines fun b => unitOf b == some u).setPlace u {}).onExt fun e => { e with units := e.units.del u }).leaveUnits
        (if u < 8 then { hbms := 2 ^ u } else { lpds := 2 ^ (u - 8) })).event 0x0103 1
          (if u < 8 then evUnit 4 u else evUnit 5 (u - 8)) (if u < 8 then 24 else 32)).lossHold s.dev.lostArea)))

/-- spec/04 R146, R148, spec/10 R323, R328, R330, R331, spec/16 R564: the gather engine takes the next place of its queue when the command
before it has admitted its last lookup: with the command of its OP code, refused by its check list or bound to the descriptors in force. A
drain of its table holds it instead, and counts it once. spec/04 R152, R153, R137, spec/10 R327: what happens in the gather engine. One
lookup of the first command that has one is admitted; a bank group is issued when its first request has waited 100 ns; a version word, the
data of a row, a backoff's end and an adjacency read each take their request on, and the cores that read the row go on. -/
def Obligations.GatherEngineActs : Prop :=
  (∀ (s : State) (c : Nat) (x : QEnt),
    let d := s.dev
    let op := recNum x.rcd 0 1
    let t := recNum x.rcd 2 2 % 4096
    nextPlace (d.queue c .ge) = some x → d.geMayStart c = true →
    let go (st : Nat) : Dev :=
      if x.bad = 0 ∧ d.heldTable t = true then d.holdTable t (2 ^ 43 + c) else (d.startCmd s.now c x st (d.mkGather x)).coreAfter s.now c
    (op = 1 → exec (.gather c) s = .next (s.withDev (go (d.gatherStatus c x)))) ∧
    (op = 0 ∨ 5 < op → x.bad = 0 → exec (.gather c) s = .next (s.withDev (go eArg))) ∧
    (op = 2 → exec (.nbr1 c) s = .next (s.withDev (go (d.nbrStatus c x)))) ∧
    (op = 3 → exec (.nbr2 c) s = .next (s.withDev (go (d.nbrStatus c x)))) ∧
    (op = 4 → exec (.nseg c) s = .next (s.withDev (go (d.nbrStatus c x)))) ∧
    (op = 5 → exec (.nlist c) s = .next (s.withDev (go (d.nbrStatus c x))))) ∧
  (∀ (s : State),
    let d := s.dev
    (∀ c g, ((d.core c).ge.cmds.find? fun g => !g.ent.dead && g.op != 0 &&
        (if g.isNbr then !g.want.isEmpty else decide (g.next < g.count))) = some g →
      exec (.gatherAdmit c) s = .next (s.withDev ((d.admitOne s.now c g).coreAfter s.now c))) ∧
    (∀ id r t, d.reader? id = some r → r.st = .wait t →
      exec (.gatherGroupHoldExpire id) s = .next { s with mach := { s.mach with
        und := { s.mach.und with now := max s.now (t + 100 * 12) }, dev := d.issueGroup (max s.now (t + 100 * 12)) r } }) ∧
    (∀ id r k, d.reader? id = some r →
      exec (.versionReadReturn id k) s = .next (s.withDev ((d.versionReturn s.now r k).geAfter s.now r))) ∧
    (∀ id r, d.reader? id = some r → d.notIssued (.row id) = false → d.rowHeld r = false →
      exec (.rowReadReturn id) s = .next (s.withDev (((d.memDone (.row id)).dataReturn s.now r).geAfter s.now r))) ∧
    (∀ id r t q, d.reader? id = some r → r.st = .backoff t → r.rows.head? = some q →
      exec (.lookupBackoffExpire id) s = .next { s with mach := { s.mach with
        und := { s.mach.und with now := max s.now t }, dev := d.nextAttempt (max s.now t) r q } }) ∧
    (∀ c id n g r, d.cmd? c id = some g → (g.reads.find? fun r => r.id == n) = some r →
      let ps := g.adjCells r.via r.kind
      (∀ p, ps.find? (fun p => d.heldRange p.1 p.2) = some p →
        exec (.adjacencyReadReturn c id n) s =
          .next (s.withDev (d.holdRange p.1 p.2 (2 ^ 46 + c * 2 ^ 32 + id * 2 ^ 12 + n)))) ∧
      ((∀ p ∈ ps, d.heldRange p.1 p.2 = false) → (∃ p ∈ ps, d.rangeOk p.1 p.2 = false) →
        exec (.adjacencyReadReturn c id n) s =
          .next (s.withDev ((d.endJob s.now g.ent.job .fault).memDone (.adj c id n)))) ∧
      ((∀ p ∈ ps, d.heldRange p.1 p.2 = false) → (∀ p ∈ ps, d.rangeOk p.1 p.2 = true) → d.notIssued (.adj c id n) = false →
        (∀ p ∈ ps, d.portWait (d.jobPart g.ent.job) p.1 p.2 = 0) → d.findings = [] →
        let e := ((g.adjLines r.via r.kind).filter fun l => r.own.contains (l / 256)).foldl
          (fun d l => d.touchLine l 128 { part := d.jobPart g.ent.job, fetched := true }) (d.memDone (.adj c id n))
        (r.left ≠ [] → exec (.adjacencyReadReturn c id n) s = .next (s.withDev ((e.modCmd c id fun g =>
          { g with reads := g.reads.map fun y => if y.id = n then { y with own := [] } else y }).coreAfter s.now c))) ∧
        (r.left = [] →
          let e := if (ps.any fun p => e.poisoned p.1 p.2) = true then e.cmdMark c g else e
          let g := (e.cmd? c id).getD g
          let x := e.adjStep c { g with reads := g.reads.filter fun y => y.id != n } r
          exec (.adjacencyReadReturn c id n) s = .next (s.withDev ((x.1.modCmd c id fun _ => x.2).coreAfter s.now c))))))

/-- spec/06 R192 to R229, R242 to R247, spec/08 R259 to R279, spec/19 R637: the instructions of the matrix and vector engines. For each of
them: when its turn has come, its fields keep the rules, its operands are there and its result has a place, it starts with its whole
effect. For every instruction of either engine, in any state: one whose start succeeds writes its results, marks its place, counts its
occupancy and lets chains queue more; a refused one is counted, discards its job's entries and ends the job; one that does not fit its
ring or its area ends its job. spec/06 R192, R194, spec/08 R259, R281, spec/12 R380: an instruction in progress retires. Its place frees,
it is counted, the mask register it wrote takes its value, its chain counts it, a completion that asks for a token sends it, and chains
queue more. -/
def Obligations.EngineInstructionsStartAndRetire : Prop :=
  (∀ (s : State) (c : Nat) (x : QEnt),
    let d := s.dev
    let a := x.f0 8 5
    d.Turn c false x →
    (∀ lq xs ws, x.opc = 1 → mmaBad x = false → d.accBusy c a = false →
      d.TileThere c (x.f0 32 2) (x.f1 0 17 * 32) xs → d.TileThere c (x.f0 34 2) (x.f1 32 17 * 32) ws →
      (TileHdr.parse xs).dtype = x.f0 16 4 → (TileHdr.parse ws).dtype = x.f0 20 4 →
      takeOf (bitAt x.w0.toNat 29) x.cfg xs ws ≠ .refuse → (bitAt x.w0.toNat 13 = true → (mmaArgs x 0).fp = (d.acc c a).fp) →
      exec (.mma c .none lq) s = .next (s.withDev ((mmaRun d c x (takeOf (bitAt x.w0.toNat 29) x.cfg xs ws) xs ws
        (d.tileHurt c (x.f0 32 2) (x.f1 0 17 * 32) xs) (d.tileHurt c (x.f0 34 2) (x.f1 32 17 * 32) ws) lq).begun d s.now c false))) ∧
    (∀ v1 v2, x.opc = 2 → bitAt x.w0.toNat 13 = false → mpredBad x = false →
      let two := decide (64 < x.f0 16 7 + 1)
      d.accBusy c a = false → (two = true → d.accBusy c (a + 1) = false) → d.TileThere c 0 (x.f1 0 17 * 32) v1 →
      (if two = true then d.TileThere c 0 (x.f1 17 17 * 32) v2 else v2 = v1) → (TileHdr.parse v1).dt = .bf16 → (TileHdr.parse v2).dt = .bf16 →
      exec (.mpredPredict c .none) s = .next (s.withDev ((predict d c x v1 v2 (d.tileHurt c 0 (x.f1 0 17 * 32) v1)
        (two && d.tileHurt c 0 (x.f1 17 17 * 32) v2)).begun d s.now c false))) ∧
    (∀ bs, x.opc = 2 → bitAt x.w0.toNat 13 = true → mpredBad x = false → d.TileThere c 0 (x.f1 0 17 * 32) bs →
      exec (.mpredObserve c .none) s = .next (s.withDev ((observeStart s.now c .none d x).begun d s.now c false))) ∧
    (x.opc = 3 → moutBad x = false → d.accBusy c a = false →
      let size := denseSize ((DType.ofCode (x.f0 16 4)).getD .int8) (d.acc c a).rows (d.acc c a).cols
      let r := d.ring c (x.f0 24 2 - 1)
      (x.f0 24 2 = 0 → x.f1 0 17 * 32 + size ≤ clmSize) →
      (x.f0 24 2 ≠ 0 → (r.mode = 2 ∨ r.mode = 3) ∧ r.room = true ∧ size ≤ r.slot64 * 64) →
      (bitAt x.w0.toNat 20 = true → x.f1 17 17 * 32 + 256 ≤ clmSize) →
      (bitAt x.w0.toNat 21 = true ∨ bitAt x.w0.toNat 22 = true → x.f1 34 17 * 32 + 512 ≤ clmSize) →
      exec (.mout c .none) s = .next (s.withDev ((moutStart s.now c .none d x).begun d s.now c false))) ∧
    (∀ bs, x.opc = 4 → mloadBad x = false → d.accBusy c a = false → d.TileThere c (x.f0 32 2) (x.f1 0 17 * 32) bs → mloadTakes bs = true →
      let h := TileHdr.parse bs
      let p := d.tileHurt c (x.f0 32 2) (x.f1 0 17 * 32) bs
      let w := (d.writeAcc c a (fun m n => ((tileAt bs m n).head?).getD 0) (some p)).setAcc c a
        { fp := h.dt == .fp32, rows := h.rows, cols := h.cols, sat := false }
      let e := ((w.bump .CORE_BADIDX [c] (tileDropped bs)).releaseSrc c (x.f0 32 2) (bitAt x.w0.toNat 36)).consumed c x.job [p]
      exec (.mload c .none) s = .next (s.withDev ((EngOut.done e [(accAt c a, 0x4000)] 0).begun d s.now c false)))) ∧
  (∀ (s : State) (c : Nat) (x : QEnt),
    let d := s.dev
    let st (offs : List Nat) : List VSrc := (d.fetchAll s.now c .none offs).srcs
    let e (offs : List Nat) : Dev := d.releaseTens c (d.fetchAll s.now c .none offs).ts
    let t := d.tens c x.dst
    d.Turn c true x → vBad x = false →
    (∀ p ∈ [(Instr.veAdd, 0x10), (Instr.veSub, 0x11), (Instr.veMul, 0x12), (Instr.veFma, 0x13), (Instr.veMin, 0x14), (Instr.veMax, 0x15),
        (Instr.veAnd, 0x16), (Instr.veOr, 0x17), (Instr.veXor, 0x18), (Instr.veShl, 0x19), (Instr.veShr, 0x1A), (Instr.veSra, 0x1B),
        (Instr.veSel, 0x1C), (Instr.veCvt, 0x1D), (Instr.veExp2, 0x1E), (Instr.veRcp, 0x1F)],
      ∀ k y, x.opc = p.2 → vclass x.opc = some k → (∀ o ∈ vOffs x k, d.SourceThere c (d.tens c o)) → (st (vOffs x k)).head? = some y →
        refusal (d.vPre c x (vOffs x k) (k != .cvt) true ++ vElemChk d c x k (st (vOffs x k))) = sOk →
        (e (vOffs x k)).DestFree c t y.rows y.len →
        exec (p.1 c .none) s = .next (s.withDev ((vElemRun d (e (vOffs x k)) c x k (st (vOffs x k))).begun d s.now c true))) ∧
    (∀ p ∈ [(Instr.veCmpeq, 0x20), (Instr.veCmpne, 0x21), (Instr.veCmplt, 0x22), (Instr.veCmple, 0x23)], x.opc = p.2 →
      (∀ o ∈ vOffs x .cmp, d.SourceThere c (d.tens c o)) →
      refusal (d.vPre c x (vOffs x .cmp) true false ++ vCmpChk x (st (vOffs x .cmp))) = sOk →
      exec (p.1 c .none) s = .next (s.withDev ((vCompare s.now c .none d x).begun d s.now c true))) ∧
    (∀ p ∈ [(Instr.veRsum, 0x30), (Instr.veRmax, 0x31), (Instr.veSmxs, 0x32)], x.opc = p.2 → d.SourceThere c (d.tens c x.aOff) →
      t.kind = 0 → (x.opc = 0x32 → t.dt = .fp32) → refusal (d.vPre c x [x.aOff] true true ++ vRedChk d c x (st [x.aOff])) = sOk →
      exec (p.1 c .none) s = .next (s.withDev ((vRed s.now c .none d x).begun d s.now c true))) ∧
    (x.opc = 0x38 → d.SourceThere c (d.tens c x.aOff) → refusal (d.vPre c x [x.aOff] true false ++ vTopChk x (st [x.aOff])) = sOk →
      exec (.veTopk c .none) s = .next (s.withDev ((vTop s.now c .none d x).begun d s.now c true))) ∧
    (∀ y, (st [x.aOff]).head? = some y → d.SourceThere c (d.tens c x.aOff) →
      (x.opc = 0x40 → x.imm % 4 = 0 → x.imm + 4 ≤ clmSize → refusal (d.vPre c x [] false true ++ vCompChk d c x (st [x.aOff])) = sOk →
        let n := (d.selected c x y.rows y.len).length
        n ≤ (d.compShape c x y n).2.2 → (e [x.aOff]).DestFree c t (d.compShape c x y n).1 (d.compShape c x y n).2.1 →
        exec (.veCompress c .none) s = .next (s.withDev ((vCompress s.now c .none d x).begun d s.now c true))) ∧
      (x.opc = 0x41 → refusal (d.vPre c x [] false true ++ vExpChk d c x (st [x.aOff])) = sOk →
        x.imm + (d.selected c x (d.expShape c x y).1 (d.expShape c x y).2).length ≤ (if x.gran = true then y.rows else y.rows * y.len) →
        (e [x.aOff]).DestFree c t (d.expShape c x y).1 (d.expShape c x y).2 →
        exec (.veExpand c .none) s = .next (s.withDev ((vExpand s.now c .none d x).begun d s.now c true)))) ∧
    (x.opc = 0x51 → x.imm % 8 = 0 → x.imm + 8 ≤ clmSize →
      let w := d.store (clmAt c x.imm) (leBytes 8 (SMap.get 0 (d.core c).ve.vm x.mreg))
      exec (.veMst c .none) s = .next (s.withDev ((EngOut.done w [(clmAt c x.imm, 8)] 4).begun d s.now c true)))) ∧
  (∀ (s : State) (c lq : Nat) (x : QEnt), ∀ row ∈ meRows lq ++ veRows,
    let d := s.dev
    let e : Eng := if row.ve = true then .ve else .me
    let n := if row.ve = true then 1 else 0
    nextPlace (d.queue c e) = some x → row.mine x = true → (row.ve = true → (d.queue c e).any (·.started) = false) →
    d.chainWaits c row.ve x = false →
    (∀ d' area occ, row.start s.now c .none d x = .done d' area occ → d.capHolds c row.ve occ = false →
      exec (row.cmd c .none) s = .next (s.withDev ((EngOut.done d' area occ).begun d s.now c row.ve))) ∧
    (∀ st, row.start s.now c .none d x = .refuse st →
      exec (row.cmd c .none) s = .next (s.withDev ((d.refuseInsn s.now c e x st).stallEnd s.now c n))) ∧
    (∀ d' st, row.start s.now c .none d x = .stop d' st →
      exec (row.cmd c .none) s = .next (s.withDev ((d'.stopInsn s.now c e x st).stallEnd s.now c n)))) ∧
  (∀ (s : State) (c : Nat) (x : QEnt),
    let d := s.dev
    (∀ i, (d.queue c .me)[i]? = some x → x.started = true →
      let a := (d.setQueue c .me ((d.queue c .me).take i ++ (d.queue c .me).drop (i + 1))).landAcm.bump .CORE_ME_INSN [c]
      exec (.meRetire c i) s = .next (s.withDev
        ((((((a.chainRetired c .me x).complete s.now x 0).feedChains c).reap (cluOfCore c))).seAfter s.now c))) ∧
    (∀ r, d.queue c .ve = x :: r → x.started = true →
      let a := ((d.landVm c).setQueue c .ve r).landAcm.bump .CORE_VE_INSN [c]
      exec (.veRetire c) s = .next (s.withDev
        ((((((a.chainRetired c .ve x).complete s.now x 0).feedChains c).reap (cluOfCore c))).seAfter s.now c))))

/-- spec/06 R216, spec/08 R259, R261, R281: MSEED gives the core's LFSR its SEED, and 1 for a SEED of 0; VE_MPFX sets the lanes below IMM
of its mask register and clears the rest, VE_MLD gives it eight bytes of CLM, and it takes that value as the instruction retires. The
cores, and the mask registers, are listed in the canonical form. -/
def Obligations.SeedAndMaskInstructions : Prop := ∀ (s : State) (c : Nat) (x : QEnt),
  let d := s.dev
  SMap.wf {} d.cores = true → SMap.wf 0 (d.core c).ve.vm = true →
  (d.Turn c false x → x.opc = 5 → x.f0 8 23 = 0 → x.w1 = 0 →
    ∃ t, exec (.mseed c .none) s = .next t ∧ (t.dev.core c).me.lfsr = if x.f0 32 32 = 0 then 1 else x.f0 32 32) ∧
  (d.Turn c true x → vBad x = false →
    (x.opc = 0x52 → ∃ t, exec (.veMpfx c .none) s = .next t ∧ (t.dev.core c).ve.vmNew = some (x.mreg, 2 ^ x.imm - 1)) ∧
    (x.opc = 0x50 → x.imm % 8 = 0 → x.imm + 8 ≤ clmSize →
      ∃ t, exec (.veMld c .none) s = .next t ∧ (t.dev.core c).ve.vmNew = some (x.mreg, d.num (clmAt c x.imm) 8))) ∧
  (∀ r i v, d.queue c .ve = x :: r → x.started = true → (d.core c).ve.vmNew = some (i, v) →
    ∃ t, exec (.veRetire c) s = .next t ∧ SMap.get 0 (d.landVm c |>.core c).ve.vm i = v ∧
      t.dev = (((((((d.landVm c).setQueue c .ve r).landAcm.bump .CORE_VE_INSN [c]).chainRetired c .ve x).complete s.now x 0).feedChains
        c).reap (cluOfCore c)).seAfter s.now c)

/-- spec/09 R282 to R288, R300 to R304: the command at the front of a stream engine's queue, with no DISARM in progress. ARM arms a ring
that is not armed and whose record is right; REARM waits its turn behind at most one other, and starts an ended program again; DISARM
takes the ring out of use and completes when it is free; CHAIN runs with at most one other. Each refused one completes with its status. -/
def Obligations.StreamCommandsAct : Prop := ∀ (s : State) (c k : Nat) (x : QEnt) (rest : List QEnt),
  let d := s.dev
  let r := d.ring c k
  let f := recNum x.rcd
  d.queue c (.se k) = x :: rest → (d.se c k).closing = false →
  (x.cmd = 1 → x.bad = 0 → d.armBad c x.rcd = sOk → r.mode = 0 →
    exec (.arm c k) s = .next (s.withDev (((d.modRing c k fun _ => d.armRing c x.job 0 x.rcd).seOk s.now c k x).seAfter s.now c))) ∧
  (x.cmd = 1 → x.bad = 0 → d.armBad c x.rcd = sOk → r.mode ≠ 0 →
    exec (.arm c k) s = .next (s.withDev ((d.seRefuse s.now c k x eState).seAfter s.now c))) ∧
  (x.cmd = 1 → x.bad = 0 → d.armBad c x.rcd ≠ sOk →
    exec (.arm c k) s = .next (s.withDev ((d.seRefuse s.now c k x (d.armBad c x.rcd)).seAfter s.now c))) ∧
  (x.cmd = 2 → x.bad = 0 → f 32 1 < 16 → f 33 31 = 0 → f 7 1 = 0 → f 15 1 = 0 → f 23 1 = 0 → f 31 1 = 0 →
    (r.mode ≠ 1 → r.mode ≠ 3 → exec (.rearm c k) s = .next (s.withDev (d.seRefuse s.now c k x eState))) ∧
    (r.mode = 1 ∨ r.mode = 3 →
      (2 ≤ r.rearms.length → exec (.rearm c k) s = .next s) ∧
      (r.rearms.length < 2 →
        let a := (d.modRing c k fun r => { r with rearms := r.rearms ++ [x.rcd] }).seOk s.now c k x
        exec (.rearm c k) s = .next (s.withDev (if r.ended = true then a.rearmNow c k else a))))) ∧
  (x.cmd = 3 →
    let a := (d.disarm s.now c k).modSe c k fun e => { e with closing := true }
    exec (.disarm c k) s = .next (s.withDev
      (((a.modChain c r.chain fun g => if k = 0 then { g with off0 := true } else { g with off1 := true }).geAll s.now c).seAfter s.now c))) ∧
  (k = 0 → x.cmd = 4 →
    (2 ≤ (d.se c 0).chains.length → exec (.chain c) s = .next s) ∧
    ((d.se c 0).chains.length < 2 →
      (d.chainStatus c x ≠ sOk → exec (.chain c) s = .next (s.withDev (d.seRefuse s.now c 0 x (d.chainStatus c x)))) ∧
      (d.chainStatus c x = sOk → exec (.chain c) s = .next (s.withDev (((d.setQueue c (.se 0) rest).modSe c 0 fun e =>
        { e with chains := e.chains ++ [{ id := e.nextChain, rcd := x.rcd, ent := x }], nextChain := e.nextChain + 1 }).seAfter s.now c)))))

/-- spec/09 R289 to R300: the program of a ring at an instruction it may run. LOOP opens a level and NEXT goes round; LOAD and STORE begin
a transfer, GATH and GBMP hand lookups to the gather engine; ADV publishes the tail or frees the head; WAIT arms its monitor once and goes
on when it has been met; SIGNAL adds to its object after the transfers; END stays, or runs a pending REARM. Which LOADs share a header
batch is the model's choice (log entry 75). -/
def Obligations.ArmatureStepsAct : Prop := ∀ (s : State) (c k : Nat) (w : Word),
  let d := s.dev
  let r := d.ring c k
  let a := r.addr (armF w 4 2) (armOff w)
  (d.armNow c k 1 = some w → exec (.streamLoop c k) s = .next (s.withDev (d.modRing c k fun r =>
    { r with loops := ⟨armF w 4 3, r.pc, 0, armF w 8 24, sext 32 (armF w 32 32)⟩ :: r.loops, pc := r.pc + 1 }))) ∧
  (d.armNow c k 2 = some w → exec (.streamNext c k) s = .next (s.withDev (d.modRing c k fun r =>
    match r.loops with
    | [] => { r with pc := r.pc + 1 }
    | l :: rest => if l.i + 1 < l.count then { r with loops := { l with i := l.i + 1 } :: rest, pc := l.pc + 1 }
                   else { r with loops := rest, pc := r.pc + 1 }))) ∧
  (d.armNow c k 3 = some w → a % 32 = 0 → r.mayLoad = true → d.mayFetch c k = true → (∀ y, d.remoteOf a = some y → d.routeCheck y = .send) →
    let e := (d.stallEnd s.now c (2 + k)).modSe c k fun e => { e with
      xfers := e.xfers.map fun x => if !x.store && x.slot == r.tail then { x with slot := 16 } else x }
    exec (.streamLoad c k) s = .next (s.withDev
      (((e.modRing c k fun r' => r'.setSlot r.tail { st := 1, kind := 0, src := [a, armF w 6 1] }).startLoad s.now c k r.tail a).armNext c k))) ∧
  (d.armNow c k 3 = some w → a % 32 ≠ 0 → exec (.streamLoad c k) s = .next (s.withDev (d.refuseJob s.now r.job eAlign))) ∧
  (d.armNow c k 4 = some w →
    let t := armF w 8 12
    let n := armF w 20 7
    a % 8 = 0 → d.listOk a (n * (if armF w 6 1 = 1 then 4 else 6)) = true → tdValid (d.tdesc t) = true → d.heldTable t = false →
    exec (.streamGath c k) s =
      .next (s.withDev (((d.addCmd c (gathCmd d { job := r.job } k a (armF w 6 1) t n)).armNext c k).coreAfter s.now c))) ∧
  (d.armNow c k 5 = some w →
    let b := r.addr (armF w 4 2) 0
    let kt := r.index (armF w 8 3)
    let bm := armF w 40 19 * 8
    let ns := (List.range (armF w 12 12)).flatMap fun t => (bitList 64 (d.num (clmAt c (bm + 8 * t)) 8)).map (64 * t + ·)
    b % 256 = 0 → 64 * kt < armF w 24 16 → bm + 8 * armF w 12 12 ≤ clmSize → d.remoteOf b = none →
    d.poisoned (clmAt c bm) (8 * armF w 12 12) = false →
    exec (.streamGbmp c k) s = .next (s.withDev (((if ns.isEmpty = true then d else d.addCmd c
      (gbmpCmd { job := r.job } k b (if armF w 6 2 = 0 then 1 else 2 + armF w 6 2) (min 64 (armF w 24 16 - 64 * kt)) ns)).armNext c k).coreAfter
        s.now c))) ∧
  (d.armNow c k 6 = some w → a % 32 = 0 → r.headReady = true → (d.se c k).room = true → bitAt w.toNat 6 = false →
    let e := d.stallEnd s.now c (2 + k)
    let q := e.ring c k
    let bs := (e.tileBytes (q.at c q.head)).take (q.slot64 * 64)
    tileGood (e.tileBytes (q.at c q.head)) = true → q.fits (e.tileBytes (q.at c q.head)) = true →
    e.poisoned (q.at c q.head) (q.slot64 * 64) = false → e.tilePoisoned (q.at c q.head) bs = false →
    (e.remoteOf a = none → e.rangeOk (dlaOf a) bs.length = true) → (∀ y, e.remoteOf a = some y → e.routeCheck y = .send) →
    exec (.streamStore c k .none) s = .next (s.withDev ((e.startStore s.now c k a bs false).armNext c k))) ∧
  (d.armNow c k 7 = some w → r.mode = 1 → (r.slot r.tail).st = 2 → (r.slot r.tail).adv = false →
    exec (.streamAdv c k) s = .next (s.withDev (((d.bump .CORE_SE_TILES [c]).modRing c k fun r' =>
      { r'.setSlot r.tail { r.slot r.tail with adv := true } with tail := r.nextSlot r.tail }).armNext c k))) ∧
  (d.armNow c k 7 = some w → r.mode = 3 → r.headReady = true → (d.se c k).xfers.any (fun x => x.store && x.slot == r.head) = false →
    exec (.streamAdv c k) s =
      .next (s.withDev ((((d.stallEnd s.now c (2 + k)).modRing c k Ring.release).armNext c k).coreAfter s.now c))) ∧
  (d.armNow c k 8 = some w → (d.se c k).waiting = false → d.syncBroken (armF w 4 17) = false →
    let e := d.modSe c k fun e => { e with waiting := true, waitDone := false, waitTick := some (d.watchTick s.now r.job) }
    let g := (e.syncWait s.now ⟨armF w 4 17, bitAt w.toNat 21, BitVec.ofNat 64 (armF w 32 32), .stream c k, s.now⟩).stallOn s.now c (2 + k) 6
    exec (.streamWait c k) s = .next (s.withDev (if (g.se c k).waitDone = true then
      ((g.modSe c k fun e => { e with waiting := false, waitDone := false, waitTick := none }).armNext c k).stallEnd s.now c (2 + k)
      else g))) ∧
  (d.armNow c k 8 = some w → (d.se c k).waiting = true →
    ((d.se c k).waitDone = false → exec (.streamWait c k) s = .next s) ∧
    ((d.se c k).waitDone = true → exec (.streamWait c k) s = .next (s.withDev
      (((d.modSe c k fun e => { e with waiting := false, waitDone := false, waitTick := none }).armNext c k).stallEnd s.now c (2 + k))))) ∧
  (d.armNow c k 9 = some w → (d.se c k).xfers = [] →
    (r.mode = 3 ∨ ∀ i, i < r.nslots → (r.slot i).st = 0 ∨ ((r.slot i).st ≠ 1 ∧ (r.slot i).adv = true)) → d.syncBroken (armF w 4 17) = false →
    exec (.streamSignal c k) s =
      .next (s.withDev (((d.stallEnd s.now c (2 + k)).armNext c k).syncAdd s.now (armF w 4 17)
        (BitVec.ofInt 64 (sext 32 (armF w 32 32)))))) ∧
  (d.armNow c k 0 = some w → exec (.streamEnd c k) s = .next (s.withDev ((d.rearmNow c k).seAfter s.now c))) ∧
  (∀ id x, let a := x.span.1
    d.xfer? c k id = some x → d.remoteOf x.addr = none → x.ph = 0 ∨ x.ph = 2 → d.heldRange a x.span.2 = false → d.xferWait c k x = 0 →
    d.spanBusy a x.span.2 = false →
    let e := if d.stalled c (2 + k) 2 = true then d.stallEnd s.now c (2 + k) else d
    (x.store = false → ∀ j off, e.target a ≠ .core j off) →
    exec (.streamTransferComplete c k (32 * id)) s = .next (s.withDev
      ((if x.store = true then e.storeDone c k x else if (d.ring c k).mode = 0 ∨ x.slot = 16 then e.dropXfer c k id
        else e.loadArrives s.now c k x).seAfter s.now c))) ∧
  exec (.ringProducerResume c k) s =
    .next (s.withDev ((if r.room = true then d.stallEnd s.now c (2 + k) else d).coreAfter s.now c))

/-- spec/11 R342 to R346: the merge queue takes its head descriptor, with no error detected. A refused one completes with its status; a
good one starts, is poisoned with its list, and sends its entries in order, each after the one before it, until it waits for a layer
tile's header. A pad index of ROWS merges nothing and is OK; a tile number at or above NT is E_RANGE. -/
def Obligations.MergeDescriptorsStart : Prop := ∀ (s : State) (c : Nat) (x : QEnt) (rest : List QEnt),
  let d := s.dev
  (d.core c).mq.q = x :: rest → x.started = false → x.bad = 0 → d.findings = [] →
  let n := x.g 4 4
  let a := d.modCore c fun k => { k with mq := { q := { x with started := true } :: rest, next := 0, outs := [] } }
  let b := a.gmPoison c x (a.poisoned (x.g 16 8) (n * x.gIdx))
  let out (entry : Dev → QEnt → Nat → Dev) : Dev :=
    if d.gmStatus c x ≠ sOk then ((d.modCore c fun k => { k with mq := { k.mq with q := rest } }).complete s.now x
      (BitVec.ofNat 64 (d.gmStatus c x * 2 ^ 56))).reap (cluOfCore c)
    else (b.gmPump c entry n).gmEnd s.now c
  (x.g 0 1 = 1 → exec (.gmergeRows c) s = .next (s.withDev (out (Dev.gmRow s.now c)))) ∧
  (x.g 0 1 = 2 → exec (.gmergeTiles c) s = .next (s.withDev (out (Dev.gmTile s.now c)))) ∧
  (∀ (e : Dev) i, e.num (x.g 16 8 + i * x.gIdx) x.gIdx = 2 ^ (8 * x.gIdx) - 1 → Dev.gmRow s.now c e x i = e.gmOut c i sOk) ∧
  (∀ (e : Dev) i, e.findings = [] → ldNt (e.layerOf (x.g 2 2 % 4096)) ≤ e.num (x.g 16 8 + 2 * i) 2 →
    Dev.gmTile s.now c e x i = e.gmOut c i eRange) ∧
  (∀ (e : Dev) y ys entry i, (e.core c).mq.q = y :: ys → (e.core c).mq.hdr = false → y.dead = false → y.started = true →
    (e.core c).mq.next < y.g 4 4 →
    let g := entry e y (e.core c).mq.next
    e.gmPump c entry (i + 1) =
      if (g.core c).mq.hdr = true then g
      else (g.modCore c fun k => { k with mq := { k.mq with next := k.mq.next + 1 } }).gmPump c entry i)

/-- spec/11 R361, R364 to R368: update parts. A part starts when its shard's moves have settled; a layer's update writes its new copy once
its readers are at zero, unless CANCEL or SUSPEND stops it first; UPDPART adds the parts of another module's UPDATE, or answers E_STATE
where no shared table with a binding stands, or counts a bad request; UPDOUT joins a holder's outcomes, the request ending with the last
of them, gives the holder's shards E_STATE where it failed, and is dropped and counted when its length is wrong; a merge that waited for
space is added, those behind it keeping their order. -/
def Obligations.UpdatePartsAct : Prop := ∀ (s : State),
  let d := s.dev
  (∀ id p, d.part? id = some p → exec (.updatePartStart id) s = .next (s.withDev ((d.startPart s.now p).settle s.now))) ∧
  (∀ id p, d.part? id = some p → p.layer = true → p.started = true → p.readers = true →
    (∀ st, d.partStop p = some st → exec (.layerReadersZero id) s = .next (s.withDev (d.partEnd s.now p st))) ∧
    (d.partStop p = none → d.spansWait p.mem (d.layerSpans p) = false → exec (.layerReadersZero id) s = .next (s.withDev (d.updLayer s.now p)))) ∧
  (∀ src tag body,
    let e := d.took (some src) 0x1B tag body
    let t := recNum body 2 2 % 4096
    let n := recNum body 24 4
    let p := partOf (.inr (src, tag)) body 0 (recNum body 17 1 % 8) (recNum body 18 2)
    (body.length ≠ 40 ∨ recNum body 0 1 ≠ 0 ∨ n = 0 ∨ 65536 < n →
      exec (.updpart src tag body) s = .next (s.withDev (e.badMsg s.now src 0x1C tag true))) ∧
    (body.length = 40 → recNum body 0 1 = 0 → 0 < n → n ≤ 65536 →
      let g := e.onTabs fun x => { x with uouts := x.uouts.put [] p.outKey (List.replicate n {}) }
      (tdValid (g.tdesc t) = true → tdSharded (g.tdesc t) = true → bdValid (g.bindOf t) = true →
        exec (.updpart src tag body) s = .next (s.withDev ((g.addParts p (recNum body 20 4) n).remoteEnd s.now src tag))) ∧
      ((tdValid (g.tdesc t) && tdSharded (g.tdesc t) && bdValid (g.bindOf t)) = false →
        exec (.updpart src tag body) s = .next (s.withDev ((g.onTabs fun x =>
          { x with uouts := x.uouts.put [] p.outKey (List.replicate n { sts := [eState], parts := 1 }) }).remoteEnd s.now src tag))))) ∧
  (∀ tag st body h o q,
    let e := d.took none 0x1C tag body
    (e.net.outst.find? fun o => o.tag == tag) = some o → o.who = .part h → st ≠ sOk →
    let g := e.onNet fun t => { t with outst := t.outst.filter fun x => x.tag != tag }
    g.handleOp h = some q →
    exec (.updout tag st body) s = .next (s.withDev ((g.holderLost q o.dst).updEnd s.now h))) ∧
  (∀ tag body h o q,
    let e := d.took none 0x1C tag body
    let n := recNum body 4 4
    let first := recNum body 0 4
    body.length = 8 + 16 * n → (e.net.outst.find? fun o => o.tag == tag) = some o → o.who = .part h →
    let g := e.onNet fun t => { t with
      outst := if n < o.op then t.outst.map fun x => if x.tag = tag then { x with op := x.op - n } else x
        else t.outst.filter fun x => x.tag != tag }
    g.handleOp h = some q →
    exec (.updout tag sOk body) s = .next (s.withDev (((List.range n).foldl (fun d i =>
      let b := (body.drop (8 + 16 * i)).take 16
      if recNum b 1 1 = 0 then d
      else d.modOut h (first + i) fun u => u.join b (d.shardAt (q.f 34 2 % 4096) (q.f 52 4 + first + i) o.dst)) g).updEnd s.now h))) ∧
  (∀ tag body, body.length ≠ 8 + 16 * recNum body 4 4 →
    exec (.updout tag sOk body) s = .next (s.withDev ((d.took none 0x1C tag body).bump .SFX_RXBAD))) ∧
  (d.tabs.gwait.findIdx? d.mergeReady = none → exec .gradientSpaceWaitEnd s = .next s) ∧
  (∀ i r, d.tabs.gwait.findIdx? d.mergeReady = some i → d.tabs.gwait[i]? = some r →
    exec .gradientSpaceWaitEnd s = .next (s.withDev
      ((((d.onTabs fun x => { x with gwait := x.gwait.take i }).rowReq s.now r).onTabs fun x =>
        { x with gwait := x.gwait ++ d.tabs.gwait.drop (i + 1) }).settle s.now)))

/-- spec/05 R163 to R173: an entry that arrives is adopted, a load window closes when it is due, and a module's load report is kept, in
whatever window; a message of another length is only counted. A microsecond gives the copy bucket its tokens. spec/05 R172, R175 to R180,
spec/16 R564: moves. A waiting move enters MOVING once no writer, part or drain is in its way; it copies; a snapshot is taken in or turned
away busy; READY in time commits and COMMIT, DISCARD and BUSY end the two sides; without READY it is aborted at MOVE_TMO_US; at a lease's
end old storage is freed. The marks, the image and the hot flag that stand beside a MOVE's body are the model's choice (log entry 84). -/
def Obligations.ShardsAndMovesAct : Prop :=
  (∀ (s : State) (src : Nat) (body : List Byte),
    let d := s.dev
    (exec (.entry body) s = .next (s.withDev
      (if entBad body = false then (d.took none 0x18 0 body).adopt (Ent.ofBytes body) else (d.took none 0x18 0 body).bump .SFX_RXBAD))) ∧
    (let t := max s.now (d.tabs.winStart + d.cfgF .TBL_MIGT [] 0 20 * 12000)
     exec .loadWindowClose s = .next (s.later t (d.closeWindow t))) ∧
    (let n := recNum body 4 2
     let e := d.took (some src) 0x1A 0 body
     exec (.loadrep src body) s = .next (s.withDev (if loadrepBad body = false then e.onTabs fun x => { x with
       peerTot := x.peerTot.put [] src ((List.range n).map fun i => (recNum body (8 + 8 * i) 2, recNum body (12 + 8 * i) 4)) }
       else e.bump .SFX_RXBAD))) ∧
    exec .fabShareRefill s = .next (s.later (s.now + 12000) (d.refillFab (s.now + 12000)))) ∧
  (∀ (s : State),
    let d := s.dev
    (∀ id v, d.move? id = some v → v.st = .wait → d.heldTable v.table = false → d.moveReady v = true →
      exec (.moveStart id) s = .next (s.withDev ((d.startMove v).settle s.now))) ∧
    (∀ id v, d.move? id = some v → v.st = .wait → d.heldTable v.table = true →
      exec (.moveStart id) s = .next (s.withDev (d.holdTable v.table (2 ^ 45 + id)))) ∧
    (∀ id v fault, d.move? id = some v → v.st = .moving →
      (v.dst = none ∨ 0 < d.tabs.fabTok → d.copyWaits v = false →
        exec (.moveCopyStart id fault) s = .next (s.withDev ((d.copyMove s.now v fault).settle s.now))) ∧
      (v.dst ≠ none → d.tabs.fabTok ≤ 0 → exec (.moveCopyStart id fault) s = .next s)) ∧
    (∀ src body pm img, moveBad 0 body = false →
      let e := d.took (some src) 0x19 0 body
      let t := recNum body 2 2 % 4096
      let row := recNum body 8 8
      exec (.moveSnap src body pm img) s = .next (s.withDev
        (match e.takeSnap s.now src t (recNum body 4 1) (recNum body 5 1) row (body.drop 32) pm img e.migPart with
         | some g => g.settle s.now
         | none => (e.countBusy t img).sendMove s.now src t row (moveBody 4 t (recNum body 4 1) 0 row (recNum body 16 2) [])))) ∧
    (∀ src body v t,
      let e := d.took (some src) 0x19 0 body
      moveBad 1 body = false → e.moveFor src body = some v → v.st = .snapped t → v.dst.isSome = true →
      (s.now ≤ t + v.tmo * 12000 → exec (.moveReady src body) s = .next (s.withDev ((e.commitMove s.now v).settle s.now))) ∧
      (t + v.tmo * 12000 < s.now → exec (.moveReady src body) s = .next (s.withDev e))) ∧
    (∀ src body i,
      let e := d.took (some src) 0x19 0 body
      e.incomingFor src body = some i →
      (moveBad 2 body = false → exec (.moveCommit src body) s = .next (s.withDev ((e.commitIn s.now i (recNum body 16 2)).settle s.now))) ∧
      (moveBad 3 body = false → exec (.moveDiscard src body) s = .next (s.withDev ((e.discard s.now i).settle s.now)))) ∧
    (∀ src body, let e := (d.took (some src) 0x19 0 body).bump .SFX_RXBAD
      (∀ pm img, moveBad 0 body = true → exec (.moveSnap src body pm img) s = .next (s.withDev e)) ∧
      (moveBad 1 body = true → exec (.moveReady src body) s = .next (s.withDev e)) ∧
      (moveBad 2 body = true → exec (.moveCommit src body) s = .next (s.withDev e)) ∧
      (moveBad 3 body = true → exec (.moveDiscard src body) s = .next (s.withDev e)) ∧
      (moveBad 4 body = true → exec (.moveBusy src body) s = .next (s.withDev e))) ∧
    (∀ src body v t,
      let e := d.took (some src) 0x19 0 body
      (e.tabs.moves.find? fun v => v.table == recNum body 2 2 % 4096 && v.rows.contains (recNum body 8 8) && v.dst == some src) = some v →
      moveBad 4 body = false → v.st = .snapped t → exec (.moveBusy src body) s = .next (s.withDev
        (((e.countTurned v).abortMove s.now v).settle s.now))) ∧
    (∀ id v t, d.move? id = some v → v.st = .snapped t →
      let u := max s.now (t + v.tmo * 12000)
      exec (.moveTimeout id) s = .next (s.later u ((d.abortMove u v).settle u))) ∧
    (∀ t row, d.rowEnt? t row = none → exec (.leaseEnd t row) s = .next (s.withDev (d.freeOld s.now))) ∧
    (∀ t row a, d.rowEnt? t row = some a → (d.entAt a).state = 3 →
      let left := ((d.entAt a).lease + 2 ^ 32 - s.now / 12000 % 2 ^ 32) % 2 ^ 32
      let u := if left < 2 ^ 31 then max s.now ((s.now / 12000 + left) * 12000) else s.now
      let home := match d.shardEnt (d.tdesc t) t row with | some x => x.module == (d.entAt a).module | none => false
      exec (.leaseEnd t row) s = .next (s.later u ((if home = true then d.delRent t row else d).freeOld u))))

/-- spec/15 R497, R501, spec/18 R619: a sub-port of a training port gains link and announces its addresses, the last one ending the
training, and RUN may be entered; a sub-port loses link, and its port fails when it then fails its test in RUN. spec/15 R497 to R503: a
frame of a port that has link is counted and, in this order, refused for its FCS, its length, its EtherType, its tag, its addresses or for
want of room, or stands in the buffer; a priority flow control frame pauses the enabled priorities it names for their times. The ports are
listed in the canonical form. -/
def Obligations.PortsAndFramesAct : Prop :=
  (∀ (s : State) (n sub : Nat),
    let m := s.mach
    n < 36 →
    (m.portMay n = true → sub < subPorts (m.dev.portMode n) → bitAt (m.dev.port n).up sub = false → (m.dev.port n).training = true →
      let d := m.dev.modPort n fun p =>
        { p with up := p.up ||| 2 ^ sub, training := (p.up ||| 2 ^ sub) != 2 ^ subPorts (m.dev.portMode n) - 1 }
      exec (.portLinkUp n sub) s =
        .next (s.withDev (if m.dev.portMode n = 4 then d else d.announce n sub)).tryRun) ∧
    (bitAt (m.dev.port n).up sub = true →
      let d := m.dev.portDown (m.und.st == .run) n (2 ^ sub)
      exec (.portLinkDown n sub false) s = .next (s.withDev d) ∧
      (m.und.st = .run → exec (.portLinkDown n sub true) s = .next (s.withMach ({ m with dev := d }.portFails n))))) ∧
  (∀ (s : State) (f : Frame),
    let d := s.dev
    let n := f.port
    let e := d.bump .ETH_RXFRM [n]
    n < 36 → d.ethUp n f.sub = true → d.portMode n ≠ 4 →
    (f.fcs = false → exec (.ethFrameRx f) s = .next (s.withDev (e.bump .ETH_FCSERR [n]))) ∧
    (f.fcs = true → f.len < 64 ∨ 9216 < f.len → exec (.ethFrameRx f) s = .next (s.withDev (e.bump .ETH_RXDROP [n]))) ∧
    (f.fcs = true → 64 ≤ f.len → f.len ≤ 9216 → f.etype = 0x8808 →
      exec (.ethFrameRx f) s = .next (s.withDev (e.bump .ETH_RXDROP [n]))) ∧
    (f.fcs = true → 64 ≤ f.len → f.len ≤ 9216 → f.etype ≠ 0x8808 → e.tagOk n f.tag = true →
      e.macMine n f.sub f.dst = false ∨ e.ipDrop f = true → exec (.ethFrameRx f) s = .next (s.withDev (e.bump .ETH_RXDROP [n]))) ∧
    (f.fcs = true → 64 ≤ f.len → f.len ≤ 9216 → f.etype ≠ 0x8808 → e.tagOk n f.tag = false →
      exec (.ethFrameRx f) s = .next (s.withDev (e.bump .ETH_RXDROP [n]))) ∧
    (f.fcs = true → 64 ≤ f.len → f.len ≤ 9216 → f.etype ≠ 0x8808 → e.tagOk n f.tag = true → e.macMine n f.sub f.dst = true →
      e.ipDrop f = false →
      let waiting := (e.port n).waiting - SMap.get 0 (e.port n).buf (e.rxPrio f) + f.occ
      (2 ^ 20 < waiting + f.len → exec (.ethFrameRx f) s = .next (s.withDev (e.bump .ETH_RXDROP [n]))) ∧
      (waiting + f.len ≤ 2 ^ 20 → exec (.ethFrameRx f) s =
        .next (s.withDev (if f.etype = 0x88B6 then (e.buffer f).testFrame n f else e.buffer f)))) ∧
    (∀ p t, t ≠ 0 → p < 8 →
      exec (.pfcFrameRx n f.sub [(p, t)]) s = .next (s.withDev ((e.bump .ETH_PFCRX [n]).pausePrio s.now n (8 * f.sub + p) t)) ∧
      (e.pfcOn n p = true → SMap.wf {} d.net.ports = true →
        ∃ u, exec (.pfcFrameRx n f.sub [(p, t)]) s = .next u ∧ bitAt (u.dev.port n).paused (8 * f.sub + p) = true)))

/-- spec/15 R501: what a module does for its addresses on a sub-port that has link. It answers an ARP request, a Neighbor Solicitation and
an echo request for its own address, and no other; a reply or an advertisement is learned; after 30 s a neighbour is asked again, and one
that has been asked goes. The last two clauses rest on log entry 33, the frames' layout on log entry 32. -/
def Obligations.NeighboursAreServed : Prop := ∀ (s : State) (n sub mac src dst : Nat) (body : List Byte),
  let d := s.dev
  let e := d.bump .ETH_RXFRM [n]
  n < 36 → d.ethUp n sub = true → sub < 4 →
  exec (.arpRequest n sub mac src dst) s = .next (s.withDev (if e.ownAddr n false dst = true then
    e.sendFrame n sub (e.dscpPrio 0) (.frame n sub mac etArp none (arpBytes 2 (e.macOf n sub) dst mac src)) else e)) ∧
  (src ≠ 0 → exec (.neighborSolicitation n sub mac src dst) s = .next (s.withDev (if e.ownAddr n true dst = true then
    e.sendFrame n sub (e.dscpPrio 0) (.frame n sub mac (etIp true) none (naBytes dst (e.macOf n sub) src true)) else e))) ∧
  exec (.icmpEchoRequest n sub true mac src dst body) s = .next (s.withDev (if e.ownAddr n true dst = true then
    e.sendFrame n sub (e.dscpPrio 0) (.frame n sub mac (etIp true) none (icmp6Bytes 129 dst src body)) else e.bump .ETH_RXDROP [n])) ∧
  exec (.arpReply n src mac) s = .next (s.withDev (e.learn s.now n (addrKey false src) mac)) ∧
  exec (.neighborAdvertisement n dst mac) s = .next (s.withDev (e.learn s.now n (addrKey true dst) mac)) ∧
  (∀ t i x, (d.nbrs t)[i]? = some x → x.asked = true → exec (.neighborRevalidate t i) s =
    .next (s.later (x.at_ + 30000 * 12000000) (d.setNbrs t ((d.nbrs t).take i ++ (d.nbrs t).drop (i + 1))))) ∧
  (∀ t i x, (d.nbrs t)[i]? = some x → x.asked = false →
    let u := max s.now (x.at_ + 30000 * 12000000)
    let g := d.setNbrs t ((d.nbrs t).take i ++ [{ x with asked := true, at_ := u }] ++ (d.nbrs t).drop (i + 1))
    exec (.neighborRevalidate t i) s = .next (s.later u (match g.askFrom t (decide (2 ^ 128 ≤ x.addr)) with
      | some (p, y, b) => g.askNbr p y b (x.addr % 2 ^ 128)
      | none => g)))

/-- spec/15 R499 to R510, R527, R528, R532, R533: a packet that reaches a port carrying it is counted and checked as a frame; of those
that pass, one that breaks a header rule is counted as bad. DATA and ACK move the peer's state; one for another incarnation is answered
with a RESET; DATA received before is counted and acknowledged again, and the rest is delivered in order; an ACK of the right form
acknowledges; a RESET that names this module's incarnation applies the loss actions; a HELLO announces its sender's incarnation, and is
managed by a manager; an ASSIGN gives its ID to the identity it names. -/
def Obligations.SalrexPacketsAct : Prop := ∀ (s : State) (x : Rx),
  let d := (s.dev.rxFrame x).1
  let h := Hdr.of x.bytes
  let b := x.bytes.drop 32
  let g := Hello.of b
  s.dev.rxHere x = true → (s.dev.rxFrame x).2 = true →
  (d.pktBad 1 x.bytes = true → exec (.salrexData x) s = .next (s.withDev (d.bump .SFX_RXBAD))) ∧
  (d.pktBad 2 x.bytes = true → exec (.salrexAck x) s = .next (s.withDev (d.bump .SFX_RXBAD))) ∧
  (d.pktBad 3 x.bytes = true → exec (.hello x) s = .next (s.withDev (d.bump .SFX_RXBAD))) ∧
  (d.pktBad 4 x.bytes = true → exec (.salrexReset x) s = .next (s.withDev (d.bump .SFX_RXBAD))) ∧
  (d.pktBad 1 x.bytes = false → (d.meetPeer s.now h.src h.sinc).2 = false →
    let e := (d.meetPeer s.now h.src h.sinc).1
    (h.dinc ≠ d.net.inc → exec (.salrexData x) s = .next (s.withDev (e.sendReset s.now h.src h.dinc))) ∧
    (h.dinc = d.net.inc → exec (.salrexData x) s = .next (s.withDev (e.data s.now h.src x h)) ∧
      ((e.rxFlow h.src h.chan).got.contains h.psn = true →
        exec (.salrexData x) s = .next (s.withDev ((e.bump .SFX_DUP).sendAck s.now h.src h.chan))))) ∧
  (d.pktBad 2 x.bytes = false → (d.meetPeer s.now h.src h.sinc).2 = false → h.dinc = d.net.inc → b.length = 24 → recNum b 6 2 = 0 →
    exec (.salrexAck x) s = .next (s.withDev ((d.meetPeer s.now h.src h.sinc).1.ack s.now h.src h.chan b))) ∧
  (d.pktBad 4 x.bytes = false → b.length = 8 → recNum b 4 4 = 0 → (d.meetPeer s.now h.src h.sinc).2 = false → (d.peer h.src).st = .up →
    (d.peer h.src).inc = h.sinc → recNum b 0 4 = d.net.inc →
    exec (.salrexReset x) s = .next (s.withDev ((d.lossActions s.now h.src).startPeer h.src h.sinc))) ∧
  (d.pktBad 3 x.bytes = false → helloBad 0 b = false →
    let e := (d.neighbour x g).announced s.now g.module h.sinc
    let t := s.withDev (if e.isMgr = true ∧ g.ident ≠ e.ident then e.manage s.now x g h.src else e)
    exec (.hello x) s =
      .next (if s.dev.idClash g = true then s.withMach (t.mach.event 0x0403 1 (evUnit 8 g.module) g.ident) else t)) ∧
  (d.pktBad 3 x.bytes = false → helloBad 1 b = false →
    let e := d.announced s.now h.src h.sinc
    bitAt g.flags 0 = true → g.ident = e.ident → e.net.id = none → g.module ≠ 0xFFF →
    exec (.assign x) s = .next (s.withDev (e.onNet fun n => { n with id := some g.module, helloN := 0 })).tryRun)

/-- spec/15 R510 to R514, R527, R532, R534: the transport's timers. An acknowledgement falls due ACK_US after its first packet; an
unacknowledged packet is sent again at its RTO, with the window at one packet; after LOST_MS the peer is lost, its loss actions run and it
is recorded; a path's penalty ends; the hello timer says hello on every native port, and without an ID or at each hundredth tick to the
manager. -/
def Obligations.TransportTimersAct : Prop := ∀ (s : State) (k : Nat),
  let d := s.dev
  (∀ c t, c < 2 → (d.rxFlow k c).firstAt = some t →
    let u := max s.now (t + d.cfgF .SFX_TMO [] 32 8 * 12000)
    exec (.ackTimer k c) s = .next (s.later u (d.sendAck u k c))) ∧
  (∀ c psn p, c < 2 → ((d.txFlow k c).unacked.find? fun p => p.psn == psn) = some p →
    let u := max s.now (p.lastAt + d.cfgF .SFX_TMO [] 0 16 * 12000 * min 8 (2 ^ p.tries))
    let e := d.bump .SFX_RTO
    exec (.rtoExpire k c psn) s =
      .next (s.later u ((e.setTx k c { e.txFlow k c with w := ((e.payloadMax : Nat) : Rat) }).resend u k c psn))) ∧
  (∀ t, (d.peer k).st = .up → (d.peer k).oldest = some t →
    let u := max s.now (t + d.cfgF .SFX_TMO [] 16 16 * 12000000)
    let e := ((d.bump .SFX_LOST).lossActions u k).peerState k .lost (d.peer k).inc
    exec (.peerLost k) s = .next (s.withMach ((s.later u e).mach.event 0x0402 1 (evUnit 8 k) (d.peer k).inc))) ∧
  (∀ i q, d.net.penal[i]? = some q → exec (.pathPenaltyEnd i) s =
    .next (s.later q.2 (d.onNet fun n => { n with penal := n.penal.take i ++ n.penal.drop (i + 1) }))) ∧
  (s.mach.und.st.serves = true →
    let u := max s.now (d.net.helloAt + d.cfgF .SFX_TMO [] 48 16 * 12000000)
    let e := (d.onNet fun n => { n with helloAt := u, helloN := n.helloN + 1 }).hellosNative d.helloFlags
    exec .helloTimer s = .next (s.later u
      (if d.isMgr = true ∨ (d.net.id.isSome = true ∧ (d.net.helloN + 1) % 100 ≠ 0) then e else e.hellosMgr d.helloFlags)))

/-- spec/15 R517 to R523, spec/13 R437: requests at their target. A request of a wrong layout is a bad message; one for a hole is E_RANGE;
RD of memory answers its bytes and marks; WR stores and answers once it has; an atomic is applied when no reservation or drain holds it. -/
def Obligations.MemoryRequestsAct : Prop := ∀ (s : State) (src tag : Nat) (body : List Byte),
  let d := s.dev
  let a := recNum body 0 8
  let n := recNum body 8 4
  let r := d.took (some src) 0x01 tag body
  let w := d.took (some src) 0x03 tag body
  (d.rdBad body = true → exec (.rd src tag body .none false) s = .next (s.withDev (r.badMsg s.now src 0x02 tag true))) ∧
  (d.rdBad body = false → d.target a = .hole →
    exec (.rd src tag body .none false) s = .next (s.withDev (r.respond src s.now 0x02 eRange tag []))) ∧
  (d.rdBad body = false → (∃ u b, d.target a = .ext u b) ∨ (∃ k, d.target a = .clearing k) → d.rdWaits a n = false →
    exec (.rd src tag body .none false) s = .next (s.withDev
      ((r.touch a n { part := d.fabPart }).respond src s.now 0x02 sOk tag (leBytes 8 (d.pmOf a n) ++ d.bytes a n)))) ∧
  (d.wrBad body = true → exec (.wr src tag body) s = .next (s.withDev (w.badMsg s.now src 0x04 tag true))) ∧
  (d.wrBad body = false → (∃ u b, d.target a = .ext u b) ∨ (∃ k, d.target a = .clearing k) → d.wrWaits a n = false →
    exec (.wr src tag body) s = .next (s.withDev
      ((w.storePmNow a (body.drop 24) (recNum body 16 8) (some w.fabPart)).respond src s.now 0x04 sOk tag []))) ∧
  (d.wrBad body = false → d.target a = .hole →
    exec (.wr src tag body) s = .next (s.withDev (w.respond src s.now 0x04 eRange tag []))) ∧
  (let o := atOp body
   let t := d.took (some src) 0x05 tag body
   (atBad body = true → exec (.atomic src tag body) s = .next (s.withDev (t.badMsg s.now src 0x06 tag true))) ∧
   (atBad body = false → d.heldRange o.addr (max o.len 1) = false → d.atWait src body = 0 →
     exec (.atomic src tag body) s = .next (s.withDev ((t.serveAt s.now src tag body).releaseHeld s.now))))

/-- spec/12 R402, R408, spec/15 R521, R529: SYNC messages at the home, and what goes no further. ADD and SET change the object, and answer
its value before unless they were posted; a WAIT is held here until its object meets it; a broken layout is a bad message; an ANSWER of a
right form ends the query it names; a DIRECT sets or deletes the entries it lists, and a wrong one is counted. -/
def Obligations.SyncMessagesAct : Prop := ∀ (s : State) (src tag : Nat) (body : List Byte) (noresp : Bool),
  let d := s.dev.took (some src) 0x12 tag body
  let i := recNum body 4 4
  let v : Word := BitVec.ofNat 64 (recNum body 8 8)
  let old (e : Dev) : Dev := if noresp = true then e else e.respond src s.now 0x13 sOk tag (leBytes 8 (d.syncVal i).toNat)
  (s.dev.heldRange (syncBase + 64 * i) 64 = false →
    (syncMsgBad 0 body = false → d.syncBroken i = false →
      exec (.syncMsgAdd src tag body noresp false) s = .next (s.withDev (old (d.syncAdd s.now i v)))) ∧
    (syncMsgBad 1 body = false →
      exec (.syncMsgSet src tag body noresp false) s = .next (s.withDev (old (d.syncSet s.now i v)))) ∧
    (syncMsgBad 2 body = false → d.syncBroken i = false →
      exec (.syncMsgWaitGe src tag body false) s = .next (s.withDev (d.syncWait s.now ⟨i, false, v, .remote src tag, s.now⟩))) ∧
    (syncMsgBad 3 body = false → d.syncBroken i = false →
      exec (.syncMsgWaitEq src tag body false) s = .next (s.withDev (d.syncWait s.now ⟨i, true, v, .remote src tag, s.now⟩)))) ∧
  (syncMsgBad 0 body = true →
    exec (.syncMsgAdd src tag body noresp false) s = .next (s.withDev (d.badMsg s.now src 0x13 tag (!noresp)))) ∧
  (32 ≤ body.length → body.length = 32 + 8 * recNum body 12 1 →
    exec (.answer src tag body) s = .next (s.withDev ((s.dev.took (some src) 0x15 tag body).onNet fun n => { n with
      outst := n.outst.filter fun o => !(o.tag == tag && o.dst == src && match o.who with | .query _ => true | _ => false) }))) ∧
  (let n := recNum body 0 2
   let ent (i : Nat) : List Byte := (body.drop (8 + 32 * i)).take 32
   1 ≤ n → n ≤ 255 → body.length = 8 + 32 * n → recNum body 2 6 = 0 →
   (∀ i, i < n → recNum (ent i) 0 2 < 4096 ∧ recNum (ent i) 2 1 < 4 ∧ recNum (ent i) 3 5 = 0) →
   exec (.direct src body) s = .next (s.withDev ((List.range n).foldl (fun d i =>
     if bitAt (recNum (ent i) 2 1) 1 = true then d.delDir (recNum (ent i) 0 2)
     else d.setDir ⟨recNum (ent i) 0 2, bitAt (recNum (ent i) 2 1) 0, recNum (ent i) 8 8, recNum (ent i) 16 16⟩)
       (s.dev.took (some src) 0x22 0 body)))) ∧
  (recNum body 0 2 = 0 ∨ 255 < recNum body 0 2 ∨ body.length ≠ 8 + 32 * recNum body 0 2 ∨ recNum body 2 6 ≠ 0 →
    exec (.direct src body) s = .next (s.withDev ((s.dev.took (some src) 0x22 0 body).bump .SFX_RXBAD)))

/-- spec/12 R374, R408, spec/13 R436, R438, spec/15 R517, R522, R523: responses. One whose request is not outstanding is dropped. The data
of a load the core still waits for goes to its register; WRA ends a store; the value before an AMO and the result of a store-conditional
go to the register, that of a launched atomic to its register; SYNCR gives its value to the core, or the token to the thread that waits. -/
def Obligations.ResponsesAct : Prop := ∀ (s : State) (tag : Nat) (body : List Byte) (o : Outst),
  let ans (t : Nat) (b : List Byte) := s.dev.answered t tag sOk b
  ((ans 0x01 body).2 = none → exec (.rdr tag sOk body) s = .next (s.withDev (ans 0x01 body).1)) ∧
  (∀ c rd size sgn, (ans 0x01 body).2 = some o → o.who = .load c rd size sgn → (ans 0x01 body).1.stillWaits c o = true →
    exec (.rdr tag sOk body) s = .next (s.withDev (((((ans 0x01 body).1.unstall c).loadDone c rd size sgn (recNum body (8 + o.op) size)
      (recNum body 0 8 != 0))).afterReply s.now))) ∧
  (∀ c, (ans 0x03 []).2 = some o → o.who = .store c → exec (.wra tag sOk) s = .next (s.withDev ((ans 0x03 []).1.afterReply s.now))) ∧
  (∀ c rd size, (ans 0x05 body).2 = some o → o.who = .amo c rd size → (ans 0x05 body).1.stillWaits c o = true → recNum body 8 8 = 0 →
    exec (.atr tag sOk body) s = .next (s.withDev ((((ans 0x05 body).1.unstall c).setX c rd
      (BitVec.ofInt 64 (sext (8 * size) (recNum body 0 8)))).afterReply s.now))) ∧
  (∀ c rd, (ans 0x05 body).2 = some o → o.who = .sc c rd → (ans 0x05 body).1.stillWaits c o = true →
    exec (.atr tag sOk body) s = .next (s.withDev ((((ans 0x05 body).1.unstall c).setX c rd
      (BitVec.ofNat 64 (recNum body 0 8))).afterReply s.now))) ∧
  (∀ c j, (ans 0x05 body).2 = some o → o.who = .atom c → o.job = some j → recNum body 8 8 = 0 →
    let d := (ans 0x05 body).1.atomOver c
    (d.job j).live = true → (d.job j).ending = none →
    exec (.atr tag sOk body) s = .next (s.withDev ((d.modSq c fun k =>
      { k with atomRes := BitVec.ofNat 64 (recNum body 0 8) }).afterReply s.now))) ∧
  (∀ c rd, (ans 0x12 body).2 = some o → o.who = .sync c rd → (ans 0x12 body).1.stillWaits c o = true →
    exec (.syncr tag sOk body) s = .next (s.withDev ((((ans 0x12 body).1.unstall c).setX c rd
      (BitVec.ofNat 64 (recNum body 0 8))).afterReply s.now))) ∧
  (∀ h k, (ans 0x12 body).2 = some o → o.who = .wait h k →
    exec (.syncr tag sOk body) s = .next (s.withDev ((((ans 0x12 body).1.token s.now h k (BitVec.ofNat 64 (recNum body 0 8)) true).wakeWire
      (cluOf h) 1 false).afterReply s.now)))

/-- spec/17 R569 to R572, spec/20 R654: power and pins. 54 V starts the Understory, which reads the fuses, and its loss leaves nothing
volatile; the rails are sequenced when PWR_EN and RST_N are high, each within 5 ms, and the last leads to BOOT unless the coolant is too
warm; PWR_EN low drains RUN and elsewhere takes the rails down; RST_N low resets every unit but the Understory; a rail that fails leads to
FAULT_HOLD. -/
def Obligations.PowerAndPinsAct : Prop := ∀ (s : State),
  let m := s.mach
  let u := m.und
  (u.st = .off → exec .vinInRange s = .next (s.withMach
    (({ m with und := { u.bare true with meas := measureNone s.fuse } } : Mach).fuseRegs s.fuse).startRails)) ∧
  (u.st ≠ .off → exec .vinOutOfRange s = .next (s.withMach ⟨m.nv.breakFlash, u.bare false,
    { host := { link := false, linkReg := 0 }, fresh := m.dev.fresh, out := m.dev.out }⟩)) ∧
  exec .pwrEnRise s = .next (s.withMach ({ m with und := { u with pwrEn := true } } : Mach).startRails) ∧
  exec .rstNHigh s = .next (s.withMach ({ m with und := { u with rstN := true } } : Mach).startRails) ∧
  (u.st = .run → exec .pwrEnFall s = .next (s.withMach (({ m with und := { u with pwrEn := false } } : Mach).startDrain .pwrEn))) ∧
  (u.st ≠ .off → u.st ≠ .run → u.st ≠ .drain →
    exec .pwrEnFall s = .next (s.withMach ({ m with und := { u with pwrEn := false } } : Mach).toUnderstory)) ∧
  (u.st ≠ .off → exec .rstNLow s = .next (s.withMach ({ m with und := { u with rstN := false } } : Mach).toUnderstory)) ∧
  (u.st = .understory → 1 ≤ u.rails → u.rails ≤ 4 →
    exec .railPowerGood s = .next (s.withMach { m with und := { u with rails := u.rails + 1, railAt := u.now } })) ∧
  (u.st = .understory → u.rails = 5 → u.inletHot = false → exec .railPowerGood s = .next (s.withMach m.enterBoot)) ∧
  (u.st = .understory → u.rails = 5 → u.inletHot = true →
    exec .railPowerGood s = .next (s.withMach { m with und := { u with rails := 6 } })) ∧
  (u.st = .understory → 1 ≤ u.rails → u.rails ≤ 5 →
    exec .railPgTimeout s = .next (s.withMach ((s.later (u.railAt + 5 * 12000000) m.dev).mach.faultHold 4))) ∧
  (u.st = .boot ∨ u.st = .memtrain ∨ u.st = .linkup ∨ u.st = .run ∨ u.st = .drain ∨ u.st = .recovery →
    exec .railFault s = .next (s.withMach (m.faultHold 4)))

/-- spec/17 R582, R588 to R595, R602: from BOOT to RUN and out of it. A good image is taken into use and a bad one leads to RECOVERY with
its cause; after MEMTRAIN a module without a cluster or an HBM3E stack, or whose configuration fails its check, is held with the cause,
and another applies the image and goes to LINKUP; RUN is entered as soon as its conditions hold; UND_CTL and the drain's end lead where
they say. -/
def Obligations.ModuleStatesAct : Prop := ∀ (s : State),
  let m := s.mach
  let u := m.und
  (u.st = .boot →
    (imgCause m.nv.img s.fuse s.fuse.part = 0 → exec (.imageReadComplete true) s = .next (s.withMach (m.adoptImage s.fuse 0))) ∧
    (∀ c, c ≠ 0 → imgCause m.nv.img s.fuse s.fuse.part = c →
      let r := m.enterRecovery c
      exec (.imageReadComplete true) s = .next (s.withMach { r with und := { r.und with meas := measureNone s.fuse } })) ∧
    (let r := m.enterRecovery 1
     exec (.imageReadComplete false) s = .next (s.withMach { r with und := { r.und with meas := measureNone s.fuse } }))) ∧
  (u.st = .memtrain → ∀ cf sf quals pf,
    let t := m.trained s.fuse.built cf sf quals
    (t.dev.pres.clusters = 0 → exec (.memtrainComplete cf sf quals pf) s = .next (s.withMach (t.faultHold 1)).tryRun) ∧
    (t.dev.pres.clusters ≠ 0 → t.dev.pres.hbms = 0 →
      exec (.memtrainComplete cf sf quals pf) s = .next (s.withMach (t.faultHold 2)).tryRun) ∧
    (∀ f, t.dev.pres.clusters ≠ 0 → t.dev.pres.hbms ≠ 0 → t.dev.checkBoot (Conf.ofImage t.image) s.fuse.built.ports = some f →
      exec (.memtrainComplete cf sf quals pf) s = .next (s.withMach
        (({ t with und := { t.und with cfgFailAt := f.at_, cfgFailKind := f.kind } } : Mach).faultHold 3)).tryRun) ∧
    (t.dev.pres.clusters ≠ 0 → t.dev.pres.hbms ≠ 0 → t.dev.checkBoot (Conf.ofImage t.image) s.fuse.built.ports = none →
      exec (.memtrainComplete cf sf quals pf) s = .next (s.withMach
        (({ t with dev := t.dev.bootImage t.und.now t.image } : Mach).enterLinkup pf)).tryRun)) ∧
  (u.st = .linkup → ∀ id,
    exec (.linkupWaitExpire id) s = .next (s.later (u.stateAt + m.dev.cfgF .UND_LINKCFG [] (if id = true then 16 else 0) 16 * 12000000)
      m.dev).tryRun) ∧
  (s.mach.runReady = true → s.tryRun = s.enterRun) ∧ (s.mach.runReady = false → s.tryRun = s) ∧
  (u.st = .run →
    exec .undShutdown s = .next (s.withMach (m.startDrain .shutdown)) ∧ exec .undReboot s = .next (s.withMach (m.startDrain .reboot)) ∧
    exec .undRecover s = .next (s.withMach (m.startDrain .recover))) ∧
  (u.st = .drain → exec .moduleDrainTimeout s = .next (s.later (u.stateAt + m.dev.cfgF .UND_LINKCFG [] 32 16 * 12000000)
    (m.dev.cancelAll (max u.now (u.stateAt + m.dev.cfgF .UND_LINKCFG [] 32 16 * 12000000))))) ∧
  (u.st = .drain → m.dev.allQuiet = true →
    let e : Mach := { m with dev := (List.range 36).foldl (fun d n => d.modPort n fun _ => {}) m.dev }
    (u.drainTo = some .reboot → exec .moduleDrainEnd s = .next (s.withMach e.enterBoot)) ∧
    (u.drainTo = some .shutdown → exec .moduleDrainEnd s = .next (s.withMach e.toUnderstory)) ∧
    (u.drainTo = some .pwrEn → exec .moduleDrainEnd s = .next (s.withMach e.toUnderstory.startRails)) ∧
    (u.drainTo = some .recover → exec .moduleDrainEnd s = .next (s.withMach
      { e.enterRecovery 8 with und := { (e.enterRecovery 8).und with meas := measureNone s.fuse } })))

/-- spec/17 R584 to R587: the recovery mailbox in RECOVERY. While it is idle the data window takes what is written within it; CHUNK takes
its argument where that is legal, a write of another being counted (spec/00 R18), checks it, and copies the window to the staged image;
VERIFY checks the staged image and keeps the cause; BOOT and FLASH need a verified one, and BOOT takes it into use; the end of FLASH boots
what reads back good, and else stays with E_FAULT. While FLASH runs each command is E_BUSY and a write of the window is dropped. Outside
RECOVERY all of it changes nothing. -/
def Obligations.RecoveryMailboxActs : Prop := ∀ (s : State) (off : Nat) (bs : List Byte) (arg : Word) (good : Bool),
  let m := s.mach
  let r := m.und.rcv
  let put (x : Rcv) : Mach := m.onUnd fun u => { u with rcv := x }
  let go (m : Mach) : Host.Outcome State Fault Refusal := .next (s.withMach m)
  let legal := bitsOf arg.toNat 27 5 = 0 ∧ arg.toNat < 2 ^ 48 ∧ 1 ≤ bitsOf arg.toNat 32 16 ∧ bitsOf arg.toNat 32 16 ≤ 32768
  (m.und.st = .recovery → r.busy = 0 →
    exec (.rcvWindowWrite off bs) s = go (if off + bs.length ≤ 0x200000 then put { r with
      window := (List.range bs.length).foldl (fun w i => SMap.put 0 w (off + i) (bs.getD i 0)) r.window } else m) ∧
    (let v := if legal then arg else r.arg
     let n := if legal then m else m.onDev fun d => d.bump .TEL_REGERR
     let at_ := bitsOf v.toNat 0 27
     let len := bitsOf v.toNat 32 16
     exec (.rcvChunk arg) s = go (n.onUnd fun u => { u with rcv :=
       if at_ % 64 ≠ 0 then { r with arg := v, status := eAlign }
       else if imgMax < at_ + 64 * len then { r with arg := v, status := eRange }
       else { r with arg := v, status := sOk, verified := false,
                     staged := (List.range (64 * len)).foldl (fun m i => SMap.put 0 m (at_ + i) (SMap.get 0 r.window i)) r.staged } })) ∧
    (let y := imgCause r.img s.fuse s.fuse.part
     exec .rcvVerify s = go (if y = 0 then put { r with verified := true, status := sOk }
       else m.onUnd fun u => { u with rcv := { r with verified := false, status := eArg }, rcvCause := y })) ∧
    exec .rcvBoot s = go (if r.verified = true then (put { r with status := sOk }).adoptImage s.fuse 1 else put { r with status := eState }) ∧
    exec .rcvFlash s = go (if r.verified = true then { put { r with busy := 4 } with nv := { m.nv with flashBusy := true } }
      else put { r with status := eState })) ∧
  (m.und.st = .recovery → r.busy = 4 →
    let n := if good = true then m.nv.flashImage r.img else m.nv.breakFlash
    let e : Mach := { m with nv := n }
    exec (.rcvFlashComplete good) s = go (if good = true ∧ imgCause n.img s.fuse s.fuse.part = 0 then
        (e.onRcv fun r => { r with busy := 0, status := sOk }).adoptImage s.fuse 2
      else e.onRcv fun r => { r with busy := 0, status := eFault })) ∧
  (m.und.st = .recovery → r.busy ≠ 0 →
    exec (.rcvWindowWrite off bs) s = go m ∧ exec .rcvVerify s = go (put { r with status := eBusy }) ∧
    exec .rcvBoot s = go (put { r with status := eBusy }) ∧ exec .rcvFlash s = go (put { r with status := eBusy }) ∧
    (legal → exec (.rcvChunk arg) s = go (put { r with arg := arg, status := eBusy }))) ∧
  (m.und.st ≠ .recovery → ∀ c ∈ [.rcvWindowWrite off bs, .rcvChunk arg, .rcvVerify, .rcvBoot, .rcvFlash, .rcvFlashComplete good],
    exec c s = go m)

/-- spec/18 R613 to R617, R620, R622: the scrubber reads the next present granule and goes on from it; an uncorrectable error of the
Understory's SRAM or fuses enters FAULT_HOLD with cause 7; a core whose sequencer stays in M for KWDOG_MS loses its job, is recorded and
started again; a monitor held too long for another module is freed; a fault window ends; mapped-out units join the record, and a clear of
it is asked for. -/
def Obligations.FaultServicesAct : Prop := ∀ (s : State),
  let m := s.mach
  let d := m.dev
  (∀ res a u b, m.und.st.serves = true → d.cfgF .UND_SCRUB [] 0 8 ≠ 0 → d.scrubNext d.tel.scrubAt = some a → d.scrubWaits a = false →
    let e := d.onTel fun t => { t with scrubAt := a + 64 }
    e.target a = .ext u b → a % 128 ≠ 0 →
    exec (.patrolScrubRead res .none) s = .next (s.withMach (({ m with dev := e.memBytes u e.maintPart 64 } : Mach).decodeAt u b a res))) ∧
  (∀ res, m.und.st ≠ .off → m.und.st ≠ .understory → m.und.st ≠ .faultHold →
    exec (.patrolScrubRead res (.twice .understory)) s = .next (s.withMach (m.faultHold 7))) ∧
  (∀ c, d.coreHere c = true → (d.clu (cluOfCore c)).pst = 0 → (d.core c).sq.user = false → (d.core c).sq.gated = none →
    let now := max m.und.now ((d.core c).sq.mAt + d.cfgF .UND_FLTCFG [] 40 8 * 12000000)
    let e := (d.modSq c fun q => { q with mb := [] }).l1Clear c
    let e := (match d.lastJob c with | some j => e.endJob now j .watchdog | none => e).bump .CORE_KWDOG [c]
    let t := (s.later now e).mach.event 0x0304 2 (evUnit 1 c) ((d.lastJob c).getD 0 % 4096)
    exec (.kernelWatchdogExpire c) s = .next (s.withMach (({ t with dev := t.dev.restartSeq now c } : Mach).countFault c))) ∧
  (∀ n i o, d.sync.mons.findIdx? (Mon.farAt n) = some i →
    d.sync.mons[i]? = some o →
    exec (.remoteMonitorAge n) s = .next (s.later (o.at_ + d.cfgF .UND_FLTCFG [] 48 16 * 1000 * 12000000)
      ((d.onSync fun x => { x with mons := x.mons.eraseIdx i }).bump .SFX_MONFREE))) ∧
  (∀ u t r, SMap.get [] d.fltWin.seen u = t :: r → exec (.faultWindowEnd u) s =
    .next (s.later (t + d.cfgF .UND_FLTCFG [] 8 16 * 1000 * 12000000) { d with fltWin := ⟨d.fltWin.seen.put [] u []⟩ })) ∧
  (m.und.st ≠ .off → m.und.newOut ≠ {} → exec .mapoutRecordWrite s = .next (s.withMach
    { m with nv := { m.nv with mapOut := m.nv.mapOut.or m.und.newOut }, und := { m.und with newOut := {} } })) ∧
  (m.und.st ≠ .off → exec .mrecClear s = .next (s.withMach m.mrecClear))

/-- spec/19 R635 to R638, spec/20 R662, R663: sensors, power and its cap. Every 100 µs each sensor is read, and a BOOT held back by the
coolant goes on when it has cooled; each rail group's power is sampled every 10 µs; the cap level moves one step against CAP_W; at the end
of 2,400 clk the engines' allowances start again. -/
def Obligations.SensorsPowerAndCap : Prop := ∀ (s : State), s.mach.und.st ≠ .off →
  (∀ temps,
    let m0 := (s.later (roundUp s.now (100 * 12000)) s.dev).mach
    let m := (List.range 17).foldl (fun m i => m.takeSensor (m0.sensorNow temps i) i) m0
    exec (.sensorRead temps) s = .next (s.withMach
      (if m.und.st = .understory ∧ m.und.rails = 6 ∧ m.und.inletHot = false then m.enterBoot else m))) ∧
  (∀ watts, exec (.powerSample watts) s = .next (s.withMach ((s.later (roundUp s.now (10 * 12000)) s.dev).mach.onUnd fun u => { u with
    power := (List.range 6).foldl (fun p i =>
      p.mod {} i fun x => ⟨(watts.getD i 0 % 65536 :: x.samples).take 100, max x.peak (watts.getD i 0 % 65536)⟩) u.power }))) ∧
  (∀ mean,
    let l := s.dev.rd .TEL_PCAPST
    let warm := (List.range 17).any fun i => decide (sensorWarn i < (SMap.get {} s.mach.und.sensors i).temp)
    let l' := capNext (s.dev.cfg .TEL_PCAP) mean l warm
    exec (.powerCapStep mean) s = .next (s.later (roundUp s.now (100 * 12000))
      (if l' = l then s.dev else (s.dev.wr .TEL_PCAPST [] l').bump .TEL_PCAPSTEP))) ∧
  (exec .capWindow s = .next (s.later (roundUp s.now (2400 * 5)) ((if s.dev.tel.capWait = true then s.dev.bump .TEL_PCAPWIN else s.dev).onTel
    fun t => { t with capUsed := [], capWait := false }))) ∧
  (∀ v mean l warm, bitAt v 0 = true → l ≤ 7 →
    (bitsOf v 1 11 * 10 < mean → capNext v mean l warm = min 7 (l + 1)) ∧
    (mean * 16 < bitsOf v 1 11 * 10 * 15 → capNext v mean l false = l - 1) ∧
    capNext v mean l warm ≤ 7)

/-- spec/19 R632, R639 to R643: what is started by a register in a state that serves registers, and what its end leaves. A latch is
complete at its instant; a dwell's counts stand and the trained setting is back; a memory run leaves what it moved and found, and what it
overwrote unspecified; a port run leaves its errors, or its frames; a TAP instruction is granted in RECOVERY, and elsewhere only those
that read. -/
def Obligations.TestServicesAct : Prop := ∀ (s : State),
  let m := s.mach
  let d := m.dev
  let go (r : Reg) (ix : List Nat) (v : Nat) := (.next (s.withMach (m.writeReg .priv none (r.off ix) 8 v)) : Host.Outcome State Fault Refusal)
  (m.und.st.serves = true →
    (∀ cls, exec (.hlatchGo cls) s = go .TEL_HLATCH [] (cls % 256 + 256)) ∧
    (∀ v, exec (.marginGo v) s = go .TEL_MGCTL [] (setBits v.toNat 36 1 1)) ∧
    (∀ g v, g < 40 → exec (.mtgReadBw g v) s = go .TEL_MTG_CTL [g] (setBits (setBits v.toNat 0 2 1) 5 1 1) ∧
      exec (.mtgWriteCheck g v) s = go .TEL_MTG_CTL [g] (setBits (setBits v.toNat 0 2 2) 5 1 1)) ∧
    (∀ n v, n < 36 → exec (.ptgLanePrbs n v) s = go .TEL_PTG_CTL [n] (setBits (setBits v.toNat 0 2 1) 5 1 1) ∧
      exec (.ptgFrames n v) s = go .TEL_PTG_CTL [n] (setBits (setBits v.toNat 0 2 2) 5 1 1))) ∧
  (d.tel.latchAt ≠ 0 → exec .hlatchDone s = .next (s.later d.tel.latchAt
    ((d.wr .TEL_HLATCH [] (setBits (d.rd .TEL_HLATCH) 9 1 1)).onTel fun t => { t with latchAt := 0 }))) ∧
  (∀ errors bits, bitAt (d.rd .TEL_MGCTL) 37 = true →
    let v := d.rd .TEL_MGCTL
    exec (.marginDwellEnd errors bits) s = .next (s.later (d.tel.mgAt + bitsOf v 20 16 * 12000)
      (if d.mgHere (bitsOf v 0 2) (bitsOf v 2 11) = true then (d.mgScramble (bitsOf v 0 2) (bitsOf v 2 11)).mgEnd sOk errors bits
       else d.mgEnd eState errors bits))) ∧
  (∀ g units errors addr, g < 40 → bitAt (d.rd .TEL_MTG_CTL [g]) 6 = true → bitsOf (d.rd .TEL_MTG_CTL [g]) 0 2 ≠ 2 →
    let v := d.rd .TEL_MTG_CTL [g]
    let e := d.memBytes g d.maintPart (units * 64)
    let e := (e.wr .TEL_MTG_RES [g] units).wr .TEL_MTG_ERR [g] (0 + (if e.unitHere g = true then sOk else eState) * 2 ^ 32)
    exec (.mtgRunEnd g units errors addr) s = .next (s.later (SMap.get 0 d.tel.mtgAt g + bitsOf v 7 25 * 12000)
      ((e.wr .TEL_MTG_ERRADDR [g] 0).wr .TEL_MTG_CTL [g] (setBits v 6 1 0)))) ∧
  (∀ g units errors addr, g < 40 → bitAt (d.rd .TEL_MTG_CTL [g]) 6 = true → bitsOf (d.rd .TEL_MTG_CTL [g]) 0 2 = 2 → errors < 2 ^ 32 →
    let v := d.rd .TEL_MTG_CTL [g]
    let k := d.scrambleChans g (d.mtgRange g).1 (d.mtgRange g).2 (d.rd .TEL_MTG_CH [g])
    let e := k.memBytes g k.maintPart (units * 64)
    let e := (e.wr .TEL_MTG_RES [g] units).wr .TEL_MTG_ERR [g] (errors + (if e.unitHere g = true then sOk else eState) * 2 ^ 32)
    exec (.mtgRunEnd g units errors addr) s = .next (s.later (SMap.get 0 d.tel.mtgAt g + bitsOf v 7 25 * 12000)
      ((e.wr .TEL_MTG_ERRADDR [g] (if errors = 0 then 0 else addr % 2 ^ 44)).wr .TEL_MTG_CTL [g] (setBits v 6 1 0)))) ∧
  (∀ n count errs, n < 36 → bitAt (d.rd .TEL_PTG_CTL [n]) 6 = true → bitsOf (d.rd .TEL_PTG_CTL [n]) 0 2 ≠ 1 →
    let v := d.rd .TEL_PTG_CTL [n]
    exec (.ptgRunEnd n count errs) s = .next (s.later (SMap.get 0 d.tel.ptgAt n + bitsOf v 16 32 * 12000)
      ((((d.wr .TEL_PTG_CTL [n] (setBits v 6 1 0)).wr .TEL_PTG_RES [n, 0] count).bump .ETH_TXFRM [n] count).emit
        (.test 0x88B6 (leBytes 4 n ++ leBytes 4 count))))) ∧
  (∀ n count errs, n < 36 → bitAt (d.rd .TEL_PTG_CTL [n]) 6 = true → bitsOf (d.rd .TEL_PTG_CTL [n]) 0 2 = 1 →
    let v := d.rd .TEL_PTG_CTL [n]
    let lane (l : Nat) : Nat := if bitAt v (8 + l) = true then errs.getD l 0 % 2 ^ 32 else 0
    exec (.ptgRunEnd n count errs) s = .next (s.later (SMap.get 0 d.tel.ptgAt n + bitsOf v 16 32 * 12000)
      (((d.wr .TEL_PTG_CTL [n] (setBits v 6 1 0)).wr .TEL_PTG_RES [n, 0] count).onTel fun t => { t with
        laneErr := (List.range 4).foldl (fun l i => l.put 0 (n * 4 + i) (lane (2 * i) + lane (2 * i + 1) * 2 ^ 32)) t.laneErr }))) ∧
  (∀ t, m.und.st ≠ .off →
    let tap (c : Nat) : Mach := m.onUnd fun u => { u with mgmt := { u.mgmt with tap := c } }
    (m.und.st = .recovery ∨ t = .bypass ∨ t = .idcode ∨ t = .sample ∨ t = .sensors →
      exec (.tapInstruction t) s = .next (s.withMach (tap (tapCode t)))) ∧
    (m.und.st ≠ .recovery → t ≠ .bypass → t ≠ .idcode → t ≠ .sample → t ≠ .sensors →
      exec (.tapInstruction t) s = .next (s.withMach { tap (tapCode .bypass) with dev := d.bump .TEL_JTAGDENY })))

/-- spec/20 R659, R660: I3C management. A private write to the target's address sets the offset, and with eight bytes of data writes the
register there; a read gives the registers from the offset on; ENTDAA and SETDASA give an address where there is none, RSTDAA takes it
back; the standard's reads give the bytes the standard fixes, GETSTATUS two that the spec leaves open (log entry 30). spec/20 R651 to
R658: connectors and clocks. A cable's presence follows CPRS_N, and its removal or its overcurrent takes its connector's ports down; a
module on the connector is serviced on C_INT_N (the access itself is outside the scope, log entry 31); without SDCLK every port is down,
and on its return those that are not DOWN train; without REFCLK the CXL link is down. -/
def Obligations.ManagementAndConnectorsAct : Prop :=
  (∀ (s : State) (addr : Nat),
    let m := s.mach
    let g := m.und.mgmt
    let mg (x : Mgmt) : Mach := m.onUnd fun u => { u with mgmt := x }
    m.und.st ≠ .off →
    (m.i3cMine addr = true →
      (∀ bs, 2 ≤ bs.length → exec (.i3cPrivateWrite addr bs) s = .next (s.withMach
        (if bs.length = 10 then (mg { g with i3cPtr := recNum bs 0 2 }).i3cWrite (i3cOff (recNum bs 0 2)) (recNum bs 2 8)
         else mg { g with i3cPtr := recNum bs 0 2 }))) ∧
      (∀ n, exec (.i3cPrivateRead addr n) s =
        .next (s.withMach ((m.i3cRegs (ceilDiv n 8)).1.emit (.i3c ((m.i3cRegs (ceilDiv n 8)).2.take n))))) ∧
      exec (.getpid addr) s = .next (s.withMach (m.emit (.i3c ((List.range 6).map fun i => Config.i3cStdByte (0 + i))))) ∧
      exec (.getbcr addr) s = .next (s.withMach (m.emit (.i3c ((List.range 1).map fun i => Config.i3cStdByte (6 + i))))) ∧
      exec (.getdcr addr) s = .next (s.withMach (m.emit (.i3c ((List.range 1).map fun i => Config.i3cStdByte (7 + i))))) ∧
      exec (.getstatus addr) s = .next (s.withDev
        ((m.dev.emit (.i3c [Config.freeByte m.dev.fresh, Config.freeByte (m.dev.fresh + 1)])).useFree 2))) ∧
    (g.i3cAddr = 0 → 0 < addr → addr < 128 →
      exec (.entdaa addr) s = .next (s.withMach (mg { g with i3cAddr := addr })) ∧
      exec (.setdasa g.static addr) s = .next (s.withMach (mg { g with i3cAddr := addr }))) ∧
    exec .rstdaa s = .next (s.withMach (mg { g with i3cAddr := 0 }))) ∧
  (∀ (s : State) (k : Nat),
    let m := s.mach
    let g := m.und.mgmt
    let mg (x : Mgmt) : Mach := m.onUnd fun u => { u with mgmt := x }
    (s.fuse.conn k = true →
      exec (.cprsNChange k true) s = .next (s.withMach (mg { g with cprs := setBits g.cprs k 1 1 })) ∧
      exec (.cprsNChange k false) s = .next (s.withMach ((mg { g with cprs := setBits g.cprs k 1 0 }).portsDown fun n => n / 4 == k)) ∧
      (m.vauxOn k = true → exec (.vauxOvercurrent k) s =
        .next (s.withMach ((mg { g with vauxOff := setBits g.vauxOff k 1 1 }).portsDown fun n => n / 4 == k))) ∧
      (∀ j, m.vauxOn k = true → j < 4 → m.dev.portMode (4 * k + j) ≠ 0 → m.dev.cfgF .ETH_PORT [4 * k + j] 3 1 = 1 →
        exec (.cIntN k) s = .next (s.withMach (m.emit (.test 0xC315 (leBytes 1 k)))))) ∧
    exec .sdclkLoss s = .next (s.withMach (({ m with und := { m.und with sdclk := false } } : Mach).portsDown fun _ => true)) ∧
    (m.und.st.serves = true → exec .sdclkReturn s = .next (s.withMach ⟨m.nv, { m.und with sdclk := true },
      (List.range 36).foldl (fun d n => if (d.portMode n != 0 && (d.port n).up == 0) = true then
        d.modPort n fun p => { p with training := true } else d) m.dev⟩)) ∧
    exec .refclkLoss s = .next (s.withMach ({ m with und := { m.und with refclk := false } } : Mach).cxlDown) ∧
    exec .refclkReturn s = .next (s.withMach { m with und := { m.und with refclk := true } }))
end

