-- ==== Sys2Proof/Laws/SMap.lean ====
section
/-! SUPPORT. The laws of sparse data: read after write, and that every operation keeps the canonical form. -/

namespace Sys2Proof.Machine

variable {α : Type}

theorem SMap.get_ins_same (d : α) (m : SMap α) (k : Nat) (v : α) : (m.ins k v).get d k = v := by
  induction m with
  | nil => simp [SMap.ins, SMap.get]
  | cons p r ih =>
    obtain ⟨j, w⟩ := p
    by_cases h : j = k
    · simp [SMap.ins, SMap.get, h]
    · by_cases h2 : k < j
      · simp [SMap.ins, SMap.get, h, h2]
      · simp [SMap.ins, SMap.get, h, h2, ih]

theorem SMap.get_ins_other (d : α) (m : SMap α) (k a : Nat) (v : α) (h : a ≠ k) :
    (m.ins k v).get d a = m.get d a := by
  induction m with
  | nil => simp [SMap.ins, SMap.get, Ne.symm h]
  | cons p r ih =>
    obtain ⟨j, w⟩ := p
    by_cases h1 : j = k
    · subst h1; simp [SMap.ins, SMap.get, Ne.symm h]
    · by_cases h2 : k < j
      · simp [SMap.ins, SMap.get, h1, h2, Ne.symm h]
      · simp [SMap.ins, SMap.get, h1, h2, ih]

theorem SMap.get_above (d : α) (m : SMap α) (k : Nat) (h : m.above k = true) : m.get d k = d := by
  induction m with
  | nil => rfl
  | cons p r ih =>
    obtain ⟨j, w⟩ := p
    simp only [SMap.above, List.all_cons, Bool.and_eq_true, decide_eq_true_eq] at h
    have : j ≠ k := by omega
    simp only [SMap.get, this, if_false]
    exact ih (by simpa [SMap.above] using h.2)

theorem SMap.above_trans (m : SMap α) (j k : Nat) (hjk : j ≤ k) (h : m.above k = true) : m.above j = true := by
  simp only [SMap.above, List.all_eq_true, decide_eq_true_eq] at *
  intro p hp; have := h p hp; omega

variable [DecidableEq α]

theorem SMap.get_del_same (d : α) (m : SMap α) (k : Nat) (h : m.wf d = true) : (m.del k).get d k = d := by
  induction m with
  | nil => rfl
  | cons p r ih =>
    obtain ⟨j, w⟩ := p
    simp only [SMap.wf, Bool.and_eq_true] at h
    by_cases h1 : j = k
    · subst h1; simpa [SMap.del] using SMap.get_above d r j h.1.2
    · by_cases h2 : k < j
      · simp only [SMap.del, h1, h2, if_false, if_true, SMap.get]
        exact SMap.get_above d r k (SMap.above_trans r k j (by omega) h.1.2)
      · simp [SMap.del, h1, h2, SMap.get, ih h.2]

omit [DecidableEq α] in
theorem SMap.get_del_other (d : α) (m : SMap α) (k a : Nat) (h : a ≠ k) : (m.del k).get d a = m.get d a := by
  induction m with
  | nil => rfl
  | cons p r ih =>
    obtain ⟨j, w⟩ := p
    by_cases h1 : j = k
    · subst h1; simp [SMap.del, SMap.get, Ne.symm h]
    · by_cases h2 : k < j
      · simp [SMap.del, SMap.get, h1, h2]
      · simp [SMap.del, SMap.get, h1, h2, ih]

/-- A read after a write to the same key gives the value written. -/
theorem SMap.get_put_same (d : α) (m : SMap α) (k : Nat) (v : α) (h : m.wf d = true) :
    (m.put d k v).get d k = v := by
  unfold SMap.put
  split
  · rename_i e; rw [SMap.get_del_same d m k h, e]
  · exact SMap.get_ins_same d m k v

/-- A write leaves every other key alone. -/
theorem SMap.get_put_other (d : α) (m : SMap α) (k a : Nat) (v : α) (h : a ≠ k) :
    (m.put d k v).get d a = m.get d a := by
  unfold SMap.put
  split
  · exact SMap.get_del_other d m k a h
  · exact SMap.get_ins_other d m k a v h

omit [DecidableEq α] in
theorem SMap.above_ins (m : SMap α) (j k : Nat) (v : α) (h : m.above j = true) (hk : j < k) :
    (m.ins k v).above j = true := by
  induction m with
  | nil => simp [SMap.ins, SMap.above, hk]
  | cons p r ih =>
    obtain ⟨i, w⟩ := p
    simp only [SMap.above, List.all_cons, Bool.and_eq_true, decide_eq_true_eq] at h
    have hr : SMap.above j r = true := by simpa [SMap.above] using h.2
    by_cases h1 : i = k
    · simp only [SMap.ins, h1, if_true, SMap.above, List.all_cons, Bool.and_eq_true, decide_eq_true_eq]
      exact ⟨hk, h.2⟩
    · by_cases h2 : k < i
      · simp only [SMap.ins, h1, h2, if_false, if_true, SMap.above, List.all_cons, Bool.and_eq_true,
          decide_eq_true_eq]
        exact ⟨hk, h.1, h.2⟩
      · have := ih hr
        simp only [SMap.ins, h1, h2, if_false, SMap.above, List.all_cons, Bool.and_eq_true, decide_eq_true_eq]
        exact ⟨h.1, this⟩

theorem SMap.wf_ins (d : α) (m : SMap α) (k : Nat) (v : α) (hv : v ≠ d) (h : m.wf d = true) :
    (m.ins k v).wf d = true := by
  induction m with
  | nil => simp [SMap.ins, SMap.wf, SMap.above, hv]
  | cons p r ih =>
    obtain ⟨j, w⟩ := p
    simp only [SMap.wf, Bool.and_eq_true, decide_eq_true_eq] at h
    by_cases h1 : j = k
    · subst h1; simp [SMap.ins, SMap.wf, hv, h.1.2, h.2]
    · by_cases h2 : k < j
      · have ha : SMap.above k ((j, w) :: r) = true := by
          have := SMap.above_trans r k j (by omega) h.1.2
          simp only [SMap.above, List.all_cons, Bool.and_eq_true, decide_eq_true_eq]
          exact ⟨h2, this⟩
        simp [SMap.ins, SMap.wf, hv, h1, h2, h.1.1, h.1.2, h.2]
        simpa [SMap.above] using ha
      · have := SMap.above_ins r j k v h.1.2 (by omega)
        simp [SMap.ins, SMap.wf, h1, h2, h.1.1, this, ih h.2]

omit [DecidableEq α] in
theorem SMap.above_del (m : SMap α) (j k : Nat) (h : m.above j = true) : (m.del k).above j = true := by
  induction m with
  | nil => rfl
  | cons p r ih =>
    obtain ⟨i, w⟩ := p
    have h' := h
    simp only [SMap.above, List.all_cons, Bool.and_eq_true, decide_eq_true_eq] at h
    have hr : SMap.above j r = true := by simpa [SMap.above] using h.2
    by_cases h1 : i = k
    · simpa [SMap.del, h1] using hr
    · by_cases h2 : k < i
      · simpa [SMap.del, h1, h2] using h'
      · have := ih hr
        simp only [SMap.del, h1, h2, if_false, SMap.above, List.all_cons, Bool.and_eq_true, decide_eq_true_eq]
        exact ⟨h.1, this⟩

theorem SMap.wf_del (d : α) (m : SMap α) (k : Nat) (h : m.wf d = true) : (m.del k).wf d = true := by
  induction m with
  | nil => rfl
  | cons p r ih =>
    obtain ⟨j, w⟩ := p
    have h' := h
    simp only [SMap.wf, Bool.and_eq_true, decide_eq_true_eq] at h
    by_cases h1 : j = k
    · simpa [SMap.del, h1] using h.2
    · by_cases h2 : k < j
      · simpa [SMap.del, h1, h2] using h'
      · simp [SMap.del, SMap.wf, h1, h2, h.1.1, SMap.above_del r j k h.1.2, ih h.2]

/-- A write keeps the canonical form. -/
theorem SMap.wf_put (d : α) (m : SMap α) (k : Nat) (v : α) (h : m.wf d = true) : (m.put d k v).wf d = true := by
  unfold SMap.put
  split
  · exact SMap.wf_del d m k h
  · rename_i e; exact SMap.wf_ins d m k v e h

/-! ### What is listed -/

theorem SMap.mem_of_mem_del {α : Type} {m : SMap α} (k : Nat) {x : Nat × α} (h : x ∈ m.del k) : x ∈ m := by
  induction m with
  | nil => exact h
  | cons p r ih =>
    obtain ⟨j, v⟩ := p
    unfold SMap.del at h
    (repeat' split at h)
    · exact List.mem_cons_of_mem _ h
    · exact h
    · exact List.mem_cons.2 ((List.mem_cons.1 h).imp id ih)

theorem SMap.mem_ins {α : Type} {m : SMap α} {k : Nat} {v : α} {x : Nat × α} (h : x ∈ m.ins k v) : x.2 = v ∨ x ∈ m := by
  induction m with
  | nil => exact .inl (by rw [List.mem_singleton.1 h])
  | cons p r ih =>
    obtain ⟨j, w⟩ := p
    unfold SMap.ins at h
    (repeat' split at h)
    · exact (List.mem_cons.1 h).imp (fun e => by rw [e]) (List.mem_cons_of_mem _)
    · exact (List.mem_cons.1 h).imp (fun e => by rw [e]) id
    · rcases List.mem_cons.1 h with e | e
      · exact .inr (List.mem_cons.2 (.inl e))
      · exact (ih e).imp id (List.mem_cons_of_mem _)

theorem SMap.mem_put {α : Type} [DecidableEq α] {d : α} {m : SMap α} {k : Nat} {v : α} {x : Nat × α} (h : x ∈ m.put d k v) :
    x.2 = v ∨ x ∈ m := by
  unfold SMap.put at h
  split at h
  · exact .inr (SMap.mem_of_mem_del k h)
  · exact SMap.mem_ins h

theorem SMap.get_mem {α : Type} (d : α) (m : SMap α) (k : Nat) : m.get d k = d ∨ (k, m.get d k) ∈ m := by
  induction m with
  | nil => exact .inl rfl
  | cons p r ih =>
    unfold SMap.get
    (repeat' split) <;> first
      | exact .inl rfl
      | exact .inr (by subst_vars; exact List.mem_cons_self)
      | exact ih.imp id (List.mem_cons_of_mem _)

end Sys2Proof.Machine
end

