-- ==== Sys2Proof/Laws/State.lean ====
section
/-! SUPPORT. What each named update of the state leaves alone: one lemma for each field and each update, so that no proof unfolds a
record update. -/

namespace Sys2Proof.Machine

/-! ### `Dev.wr` -/

@[simp] theorem Dev.wr_conf (d : Dev) (r : Reg) (ix : List Nat) (v : Nat) : (d.wr r ix v).conf = d.conf := rfl
@[simp] theorem Dev.wr_shad (d : Dev) (r : Reg) (ix : List Nat) (v : Nat) : (d.wr r ix v).shad = d.shad := rfl
@[simp] theorem Dev.wr_pres (d : Dev) (r : Reg) (ix : List Nat) (v : Nat) : (d.wr r ix v).pres = d.pres := rfl
@[simp] theorem Dev.wr_mem (d : Dev) (r : Reg) (ix : List Nat) (v : Nat) : (d.wr r ix v).mem = d.mem := rfl
@[simp] theorem Dev.wr_canopy (d : Dev) (r : Reg) (ix : List Nat) (v : Nat) : (d.wr r ix v).canopy = d.canopy := rfl
@[simp] theorem Dev.wr_ext (d : Dev) (r : Reg) (ix : List Nat) (v : Nat) : (d.wr r ix v).ext = d.ext := rfl
@[simp] theorem Dev.wr_cores (d : Dev) (r : Reg) (ix : List Nat) (v : Nat) : (d.wr r ix v).cores = d.cores := rfl
@[simp] theorem Dev.wr_clus (d : Dev) (r : Reg) (ix : List Nat) (v : Nat) : (d.wr r ix v).clus = d.clus := rfl
@[simp] theorem Dev.wr_threads (d : Dev) (r : Reg) (ix : List Nat) (v : Nat) : (d.wr r ix v).threads = d.threads := rfl
@[simp] theorem Dev.wr_jobs (d : Dev) (r : Reg) (ix : List Nat) (v : Nat) : (d.wr r ix v).jobs = d.jobs := rfl
@[simp] theorem Dev.wr_sync (d : Dev) (r : Reg) (ix : List Nat) (v : Nat) : (d.wr r ix v).sync = d.sync := rfl
@[simp] theorem Dev.wr_progs (d : Dev) (r : Reg) (ix : List Nat) (v : Nat) : (d.wr r ix v).progs = d.progs := rfl
@[simp] theorem Dev.wr_qfe0 (d : Dev) (r : Reg) (ix : List Nat) (v : Nat) : (d.wr r ix v).qfe0 = d.qfe0 := rfl
@[simp] theorem Dev.wr_qfe1 (d : Dev) (r : Reg) (ix : List Nat) (v : Nat) : (d.wr r ix v).qfe1 = d.qfe1 := rfl
@[simp] theorem Dev.wr_host (d : Dev) (r : Reg) (ix : List Nat) (v : Nat) : (d.wr r ix v).host = d.host := rfl
@[simp] theorem Dev.wr_net (d : Dev) (r : Reg) (ix : List Nat) (v : Nat) : (d.wr r ix v).net = d.net := rfl
@[simp] theorem Dev.wr_fltWin (d : Dev) (r : Reg) (ix : List Nat) (v : Nat) : (d.wr r ix v).fltWin = d.fltWin := rfl
@[simp] theorem Dev.wr_tabs (d : Dev) (r : Reg) (ix : List Nat) (v : Nat) : (d.wr r ix v).tabs = d.tabs := rfl
@[simp] theorem Dev.wr_tel (d : Dev) (r : Reg) (ix : List Nat) (v : Nat) : (d.wr r ix v).tel = d.tel := rfl
@[simp] theorem Dev.wr_held (d : Dev) (r : Reg) (ix : List Nat) (v : Nat) : (d.wr r ix v).held = d.held := rfl
@[simp] theorem Dev.wr_findings (d : Dev) (r : Reg) (ix : List Nat) (v : Nat) : (d.wr r ix v).findings = d.findings := rfl
@[simp] theorem Dev.wr_reports (d : Dev) (r : Reg) (ix : List Nat) (v : Nat) : (d.wr r ix v).reports = d.reports := rfl
@[simp] theorem Dev.wr_far (d : Dev) (r : Reg) (ix : List Nat) (v : Nat) : (d.wr r ix v).far = d.far := rfl
@[simp] theorem Dev.wr_fresh (d : Dev) (r : Reg) (ix : List Nat) (v : Nat) : (d.wr r ix v).fresh = d.fresh := rfl
@[simp] theorem Dev.wr_obsState (d : Dev) (r : Reg) (ix : List Nat) (v : Nat) : (d.wr r ix v).obsState = d.obsState := rfl
@[simp] theorem Dev.wr_out (d : Dev) (r : Reg) (ix : List Nat) (v : Nat) : (d.wr r ix v).out = d.out := rfl

/-! ### `Dev.bump` -/

@[simp] theorem Dev.bump_conf (d : Dev) (r : Reg) (ix : List Nat) (n : Nat) : (d.bump r ix n).conf = d.conf := rfl
@[simp] theorem Dev.bump_shad (d : Dev) (r : Reg) (ix : List Nat) (n : Nat) : (d.bump r ix n).shad = d.shad := rfl
@[simp] theorem Dev.bump_pres (d : Dev) (r : Reg) (ix : List Nat) (n : Nat) : (d.bump r ix n).pres = d.pres := rfl
@[simp] theorem Dev.bump_mem (d : Dev) (r : Reg) (ix : List Nat) (n : Nat) : (d.bump r ix n).mem = d.mem := rfl
@[simp] theorem Dev.bump_canopy (d : Dev) (r : Reg) (ix : List Nat) (n : Nat) : (d.bump r ix n).canopy = d.canopy := rfl
@[simp] theorem Dev.bump_ext (d : Dev) (r : Reg) (ix : List Nat) (n : Nat) : (d.bump r ix n).ext = d.ext := rfl
@[simp] theorem Dev.bump_cores (d : Dev) (r : Reg) (ix : List Nat) (n : Nat) : (d.bump r ix n).cores = d.cores := rfl
@[simp] theorem Dev.bump_clus (d : Dev) (r : Reg) (ix : List Nat) (n : Nat) : (d.bump r ix n).clus = d.clus := rfl
@[simp] theorem Dev.bump_threads (d : Dev) (r : Reg) (ix : List Nat) (n : Nat) : (d.bump r ix n).threads = d.threads := rfl
@[simp] theorem Dev.bump_jobs (d : Dev) (r : Reg) (ix : List Nat) (n : Nat) : (d.bump r ix n).jobs = d.jobs := rfl
@[simp] theorem Dev.bump_sync (d : Dev) (r : Reg) (ix : List Nat) (n : Nat) : (d.bump r ix n).sync = d.sync := rfl
@[simp] theorem Dev.bump_progs (d : Dev) (r : Reg) (ix : List Nat) (n : Nat) : (d.bump r ix n).progs = d.progs := rfl
@[simp] theorem Dev.bump_qfe0 (d : Dev) (r : Reg) (ix : List Nat) (n : Nat) : (d.bump r ix n).qfe0 = d.qfe0 := rfl
@[simp] theorem Dev.bump_qfe1 (d : Dev) (r : Reg) (ix : List Nat) (n : Nat) : (d.bump r ix n).qfe1 = d.qfe1 := rfl
@[simp] theorem Dev.bump_host (d : Dev) (r : Reg) (ix : List Nat) (n : Nat) : (d.bump r ix n).host = d.host := rfl
@[simp] theorem Dev.bump_net (d : Dev) (r : Reg) (ix : List Nat) (n : Nat) : (d.bump r ix n).net = d.net := rfl
@[simp] theorem Dev.bump_fltWin (d : Dev) (r : Reg) (ix : List Nat) (n : Nat) : (d.bump r ix n).fltWin = d.fltWin := rfl
@[simp] theorem Dev.bump_tabs (d : Dev) (r : Reg) (ix : List Nat) (n : Nat) : (d.bump r ix n).tabs = d.tabs := rfl
@[simp] theorem Dev.bump_tel (d : Dev) (r : Reg) (ix : List Nat) (n : Nat) : (d.bump r ix n).tel = d.tel := rfl
@[simp] theorem Dev.bump_held (d : Dev) (r : Reg) (ix : List Nat) (n : Nat) : (d.bump r ix n).held = d.held := rfl
@[simp] theorem Dev.bump_findings (d : Dev) (r : Reg) (ix : List Nat) (n : Nat) : (d.bump r ix n).findings = d.findings := rfl
@[simp] theorem Dev.bump_reports (d : Dev) (r : Reg) (ix : List Nat) (n : Nat) : (d.bump r ix n).reports = d.reports := rfl
@[simp] theorem Dev.bump_far (d : Dev) (r : Reg) (ix : List Nat) (n : Nat) : (d.bump r ix n).far = d.far := rfl
@[simp] theorem Dev.bump_fresh (d : Dev) (r : Reg) (ix : List Nat) (n : Nat) : (d.bump r ix n).fresh = d.fresh := rfl
@[simp] theorem Dev.bump_obsState (d : Dev) (r : Reg) (ix : List Nat) (n : Nat) : (d.bump r ix n).obsState = d.obsState := rfl
@[simp] theorem Dev.bump_out (d : Dev) (r : Reg) (ix : List Nat) (n : Nat) : (d.bump r ix n).out = d.out := rfl

/-! ### `Dev.cxlFlag` -/

@[simp] theorem Dev.cxlFlag_conf (d : Dev) (b : Nat) : (d.cxlFlag b).conf = d.conf := rfl
@[simp] theorem Dev.cxlFlag_shad (d : Dev) (b : Nat) : (d.cxlFlag b).shad = d.shad := rfl
@[simp] theorem Dev.cxlFlag_pres (d : Dev) (b : Nat) : (d.cxlFlag b).pres = d.pres := rfl
@[simp] theorem Dev.cxlFlag_mem (d : Dev) (b : Nat) : (d.cxlFlag b).mem = d.mem := rfl
@[simp] theorem Dev.cxlFlag_canopy (d : Dev) (b : Nat) : (d.cxlFlag b).canopy = d.canopy := rfl
@[simp] theorem Dev.cxlFlag_ext (d : Dev) (b : Nat) : (d.cxlFlag b).ext = d.ext := rfl
@[simp] theorem Dev.cxlFlag_cores (d : Dev) (b : Nat) : (d.cxlFlag b).cores = d.cores := rfl
@[simp] theorem Dev.cxlFlag_clus (d : Dev) (b : Nat) : (d.cxlFlag b).clus = d.clus := rfl
@[simp] theorem Dev.cxlFlag_threads (d : Dev) (b : Nat) : (d.cxlFlag b).threads = d.threads := rfl
@[simp] theorem Dev.cxlFlag_jobs (d : Dev) (b : Nat) : (d.cxlFlag b).jobs = d.jobs := rfl
@[simp] theorem Dev.cxlFlag_sync (d : Dev) (b : Nat) : (d.cxlFlag b).sync = d.sync := rfl
@[simp] theorem Dev.cxlFlag_progs (d : Dev) (b : Nat) : (d.cxlFlag b).progs = d.progs := rfl
@[simp] theorem Dev.cxlFlag_qfe0 (d : Dev) (b : Nat) : (d.cxlFlag b).qfe0 = d.qfe0 := rfl
@[simp] theorem Dev.cxlFlag_qfe1 (d : Dev) (b : Nat) : (d.cxlFlag b).qfe1 = d.qfe1 := rfl
@[simp] theorem Dev.cxlFlag_host (d : Dev) (b : Nat) : (d.cxlFlag b).host = d.host := rfl
@[simp] theorem Dev.cxlFlag_net (d : Dev) (b : Nat) : (d.cxlFlag b).net = d.net := rfl
@[simp] theorem Dev.cxlFlag_fltWin (d : Dev) (b : Nat) : (d.cxlFlag b).fltWin = d.fltWin := rfl
@[simp] theorem Dev.cxlFlag_tabs (d : Dev) (b : Nat) : (d.cxlFlag b).tabs = d.tabs := rfl
@[simp] theorem Dev.cxlFlag_tel (d : Dev) (b : Nat) : (d.cxlFlag b).tel = d.tel := rfl
@[simp] theorem Dev.cxlFlag_held (d : Dev) (b : Nat) : (d.cxlFlag b).held = d.held := rfl
@[simp] theorem Dev.cxlFlag_findings (d : Dev) (b : Nat) : (d.cxlFlag b).findings = d.findings := rfl
@[simp] theorem Dev.cxlFlag_reports (d : Dev) (b : Nat) : (d.cxlFlag b).reports = d.reports := rfl
@[simp] theorem Dev.cxlFlag_far (d : Dev) (b : Nat) : (d.cxlFlag b).far = d.far := rfl
@[simp] theorem Dev.cxlFlag_fresh (d : Dev) (b : Nat) : (d.cxlFlag b).fresh = d.fresh := rfl
@[simp] theorem Dev.cxlFlag_obsState (d : Dev) (b : Nat) : (d.cxlFlag b).obsState = d.obsState := rfl
@[simp] theorem Dev.cxlFlag_out (d : Dev) (b : Nat) : (d.cxlFlag b).out = d.out := rfl

/-! ### `Dev.emit` -/

@[simp] theorem Dev.emit_rg (d : Dev) (o : Out) : (d.emit o).rg = d.rg := rfl
@[simp] theorem Dev.emit_conf (d : Dev) (o : Out) : (d.emit o).conf = d.conf := rfl
@[simp] theorem Dev.emit_shad (d : Dev) (o : Out) : (d.emit o).shad = d.shad := rfl
@[simp] theorem Dev.emit_pres (d : Dev) (o : Out) : (d.emit o).pres = d.pres := rfl
@[simp] theorem Dev.emit_mem (d : Dev) (o : Out) : (d.emit o).mem = d.mem := rfl
@[simp] theorem Dev.emit_canopy (d : Dev) (o : Out) : (d.emit o).canopy = d.canopy := rfl
@[simp] theorem Dev.emit_ext (d : Dev) (o : Out) : (d.emit o).ext = d.ext := rfl
@[simp] theorem Dev.emit_cores (d : Dev) (o : Out) : (d.emit o).cores = d.cores := rfl
@[simp] theorem Dev.emit_clus (d : Dev) (o : Out) : (d.emit o).clus = d.clus := rfl
@[simp] theorem Dev.emit_threads (d : Dev) (o : Out) : (d.emit o).threads = d.threads := rfl
@[simp] theorem Dev.emit_jobs (d : Dev) (o : Out) : (d.emit o).jobs = d.jobs := rfl
@[simp] theorem Dev.emit_sync (d : Dev) (o : Out) : (d.emit o).sync = d.sync := rfl
@[simp] theorem Dev.emit_progs (d : Dev) (o : Out) : (d.emit o).progs = d.progs := rfl
@[simp] theorem Dev.emit_qfe0 (d : Dev) (o : Out) : (d.emit o).qfe0 = d.qfe0 := rfl
@[simp] theorem Dev.emit_qfe1 (d : Dev) (o : Out) : (d.emit o).qfe1 = d.qfe1 := rfl
@[simp] theorem Dev.emit_host (d : Dev) (o : Out) : (d.emit o).host = d.host := rfl
@[simp] theorem Dev.emit_net (d : Dev) (o : Out) : (d.emit o).net = d.net := rfl
@[simp] theorem Dev.emit_fltWin (d : Dev) (o : Out) : (d.emit o).fltWin = d.fltWin := rfl
@[simp] theorem Dev.emit_tabs (d : Dev) (o : Out) : (d.emit o).tabs = d.tabs := rfl
@[simp] theorem Dev.emit_tel (d : Dev) (o : Out) : (d.emit o).tel = d.tel := rfl
@[simp] theorem Dev.emit_held (d : Dev) (o : Out) : (d.emit o).held = d.held := rfl
@[simp] theorem Dev.emit_findings (d : Dev) (o : Out) : (d.emit o).findings = d.findings := rfl
@[simp] theorem Dev.emit_reports (d : Dev) (o : Out) : (d.emit o).reports = d.reports := rfl
@[simp] theorem Dev.emit_far (d : Dev) (o : Out) : (d.emit o).far = d.far := rfl
@[simp] theorem Dev.emit_fresh (d : Dev) (o : Out) : (d.emit o).fresh = d.fresh := rfl
@[simp] theorem Dev.emit_obsState (d : Dev) (o : Out) : (d.emit o).obsState = d.obsState := rfl

/-! ### `Dev.useFree` -/

@[simp] theorem Dev.useFree_rg (d : Dev) (n : Nat) : (d.useFree n).rg = d.rg := rfl
@[simp] theorem Dev.useFree_conf (d : Dev) (n : Nat) : (d.useFree n).conf = d.conf := rfl
@[simp] theorem Dev.useFree_shad (d : Dev) (n : Nat) : (d.useFree n).shad = d.shad := rfl
@[simp] theorem Dev.useFree_pres (d : Dev) (n : Nat) : (d.useFree n).pres = d.pres := rfl
@[simp] theorem Dev.useFree_mem (d : Dev) (n : Nat) : (d.useFree n).mem = d.mem := rfl
@[simp] theorem Dev.useFree_canopy (d : Dev) (n : Nat) : (d.useFree n).canopy = d.canopy := rfl
@[simp] theorem Dev.useFree_ext (d : Dev) (n : Nat) : (d.useFree n).ext = d.ext := rfl
@[simp] theorem Dev.useFree_cores (d : Dev) (n : Nat) : (d.useFree n).cores = d.cores := rfl
@[simp] theorem Dev.useFree_clus (d : Dev) (n : Nat) : (d.useFree n).clus = d.clus := rfl
@[simp] theorem Dev.useFree_threads (d : Dev) (n : Nat) : (d.useFree n).threads = d.threads := rfl
@[simp] theorem Dev.useFree_jobs (d : Dev) (n : Nat) : (d.useFree n).jobs = d.jobs := rfl
@[simp] theorem Dev.useFree_sync (d : Dev) (n : Nat) : (d.useFree n).sync = d.sync := rfl
@[simp] theorem Dev.useFree_progs (d : Dev) (n : Nat) : (d.useFree n).progs = d.progs := rfl
@[simp] theorem Dev.useFree_qfe0 (d : Dev) (n : Nat) : (d.useFree n).qfe0 = d.qfe0 := rfl
@[simp] theorem Dev.useFree_qfe1 (d : Dev) (n : Nat) : (d.useFree n).qfe1 = d.qfe1 := rfl
@[simp] theorem Dev.useFree_host (d : Dev) (n : Nat) : (d.useFree n).host = d.host := rfl
@[simp] theorem Dev.useFree_net (d : Dev) (n : Nat) : (d.useFree n).net = d.net := rfl
@[simp] theorem Dev.useFree_fltWin (d : Dev) (n : Nat) : (d.useFree n).fltWin = d.fltWin := rfl
@[simp] theorem Dev.useFree_tabs (d : Dev) (n : Nat) : (d.useFree n).tabs = d.tabs := rfl
@[simp] theorem Dev.useFree_tel (d : Dev) (n : Nat) : (d.useFree n).tel = d.tel := rfl
@[simp] theorem Dev.useFree_held (d : Dev) (n : Nat) : (d.useFree n).held = d.held := rfl
@[simp] theorem Dev.useFree_findings (d : Dev) (n : Nat) : (d.useFree n).findings = d.findings := rfl
@[simp] theorem Dev.useFree_reports (d : Dev) (n : Nat) : (d.useFree n).reports = d.reports := rfl
@[simp] theorem Dev.useFree_far (d : Dev) (n : Nat) : (d.useFree n).far = d.far := rfl
@[simp] theorem Dev.useFree_out (d : Dev) (n : Nat) : (d.useFree n).out = d.out := rfl

/-! ### `Dev.setCore` -/

@[simp] theorem Dev.setCore_rg (d : Dev) (c : Nat) (k : Core) : (d.setCore c k).rg = d.rg := rfl
@[simp] theorem Dev.setCore_conf (d : Dev) (c : Nat) (k : Core) : (d.setCore c k).conf = d.conf := rfl
@[simp] theorem Dev.setCore_shad (d : Dev) (c : Nat) (k : Core) : (d.setCore c k).shad = d.shad := rfl
@[simp] theorem Dev.setCore_pres (d : Dev) (c : Nat) (k : Core) : (d.setCore c k).pres = d.pres := rfl
@[simp] theorem Dev.setCore_mem (d : Dev) (c : Nat) (k : Core) : (d.setCore c k).mem = d.mem := rfl
@[simp] theorem Dev.setCore_canopy (d : Dev) (c : Nat) (k : Core) : (d.setCore c k).canopy = d.canopy := rfl
@[simp] theorem Dev.setCore_ext (d : Dev) (c : Nat) (k : Core) : (d.setCore c k).ext = d.ext := rfl
@[simp] theorem Dev.setCore_clus (d : Dev) (c : Nat) (k : Core) : (d.setCore c k).clus = d.clus := rfl
@[simp] theorem Dev.setCore_threads (d : Dev) (c : Nat) (k : Core) : (d.setCore c k).threads = d.threads := rfl
@[simp] theorem Dev.setCore_jobs (d : Dev) (c : Nat) (k : Core) : (d.setCore c k).jobs = d.jobs := rfl
@[simp] theorem Dev.setCore_sync (d : Dev) (c : Nat) (k : Core) : (d.setCore c k).sync = d.sync := rfl
@[simp] theorem Dev.setCore_progs (d : Dev) (c : Nat) (k : Core) : (d.setCore c k).progs = d.progs := rfl
@[simp] theorem Dev.setCore_qfe0 (d : Dev) (c : Nat) (k : Core) : (d.setCore c k).qfe0 = d.qfe0 := rfl
@[simp] theorem Dev.setCore_qfe1 (d : Dev) (c : Nat) (k : Core) : (d.setCore c k).qfe1 = d.qfe1 := rfl
@[simp] theorem Dev.setCore_host (d : Dev) (c : Nat) (k : Core) : (d.setCore c k).host = d.host := rfl
@[simp] theorem Dev.setCore_net (d : Dev) (c : Nat) (k : Core) : (d.setCore c k).net = d.net := rfl
@[simp] theorem Dev.setCore_fltWin (d : Dev) (c : Nat) (k : Core) : (d.setCore c k).fltWin = d.fltWin := rfl
@[simp] theorem Dev.setCore_tabs (d : Dev) (c : Nat) (k : Core) : (d.setCore c k).tabs = d.tabs := rfl
@[simp] theorem Dev.setCore_tel (d : Dev) (c : Nat) (k : Core) : (d.setCore c k).tel = d.tel := rfl
@[simp] theorem Dev.setCore_held (d : Dev) (c : Nat) (k : Core) : (d.setCore c k).held = d.held := rfl
@[simp] theorem Dev.setCore_findings (d : Dev) (c : Nat) (k : Core) : (d.setCore c k).findings = d.findings := rfl
@[simp] theorem Dev.setCore_reports (d : Dev) (c : Nat) (k : Core) : (d.setCore c k).reports = d.reports := rfl
@[simp] theorem Dev.setCore_far (d : Dev) (c : Nat) (k : Core) : (d.setCore c k).far = d.far := rfl
@[simp] theorem Dev.setCore_fresh (d : Dev) (c : Nat) (k : Core) : (d.setCore c k).fresh = d.fresh := rfl
@[simp] theorem Dev.setCore_obsState (d : Dev) (c : Nat) (k : Core) : (d.setCore c k).obsState = d.obsState := rfl
@[simp] theorem Dev.setCore_out (d : Dev) (c : Nat) (k : Core) : (d.setCore c k).out = d.out := rfl

/-! ### `Dev.modCore` -/

@[simp] theorem Dev.modCore_rg (d : Dev) (c : Nat) (f : Core → Core) : (d.modCore c f).rg = d.rg := rfl
@[simp] theorem Dev.modCore_conf (d : Dev) (c : Nat) (f : Core → Core) : (d.modCore c f).conf = d.conf := rfl
@[simp] theorem Dev.modCore_shad (d : Dev) (c : Nat) (f : Core → Core) : (d.modCore c f).shad = d.shad := rfl
@[simp] theorem Dev.modCore_pres (d : Dev) (c : Nat) (f : Core → Core) : (d.modCore c f).pres = d.pres := rfl
@[simp] theorem Dev.modCore_mem (d : Dev) (c : Nat) (f : Core → Core) : (d.modCore c f).mem = d.mem := rfl
@[simp] theorem Dev.modCore_canopy (d : Dev) (c : Nat) (f : Core → Core) : (d.modCore c f).canopy = d.canopy := rfl
@[simp] theorem Dev.modCore_ext (d : Dev) (c : Nat) (f : Core → Core) : (d.modCore c f).ext = d.ext := rfl
@[simp] theorem Dev.modCore_clus (d : Dev) (c : Nat) (f : Core → Core) : (d.modCore c f).clus = d.clus := rfl
@[simp] theorem Dev.modCore_threads (d : Dev) (c : Nat) (f : Core → Core) : (d.modCore c f).threads = d.threads := rfl
@[simp] theorem Dev.modCore_jobs (d : Dev) (c : Nat) (f : Core → Core) : (d.modCore c f).jobs = d.jobs := rfl
@[simp] theorem Dev.modCore_sync (d : Dev) (c : Nat) (f : Core → Core) : (d.modCore c f).sync = d.sync := rfl
@[simp] theorem Dev.modCore_progs (d : Dev) (c : Nat) (f : Core → Core) : (d.modCore c f).progs = d.progs := rfl
@[simp] theorem Dev.modCore_qfe0 (d : Dev) (c : Nat) (f : Core → Core) : (d.modCore c f).qfe0 = d.qfe0 := rfl
@[simp] theorem Dev.modCore_qfe1 (d : Dev) (c : Nat) (f : Core → Core) : (d.modCore c f).qfe1 = d.qfe1 := rfl
@[simp] theorem Dev.modCore_host (d : Dev) (c : Nat) (f : Core → Core) : (d.modCore c f).host = d.host := rfl
@[simp] theorem Dev.modCore_net (d : Dev) (c : Nat) (f : Core → Core) : (d.modCore c f).net = d.net := rfl
@[simp] theorem Dev.modCore_fltWin (d : Dev) (c : Nat) (f : Core → Core) : (d.modCore c f).fltWin = d.fltWin := rfl
@[simp] theorem Dev.modCore_tabs (d : Dev) (c : Nat) (f : Core → Core) : (d.modCore c f).tabs = d.tabs := rfl
@[simp] theorem Dev.modCore_tel (d : Dev) (c : Nat) (f : Core → Core) : (d.modCore c f).tel = d.tel := rfl
@[simp] theorem Dev.modCore_held (d : Dev) (c : Nat) (f : Core → Core) : (d.modCore c f).held = d.held := rfl
@[simp] theorem Dev.modCore_findings (d : Dev) (c : Nat) (f : Core → Core) : (d.modCore c f).findings = d.findings := rfl
@[simp] theorem Dev.modCore_reports (d : Dev) (c : Nat) (f : Core → Core) : (d.modCore c f).reports = d.reports := rfl
@[simp] theorem Dev.modCore_far (d : Dev) (c : Nat) (f : Core → Core) : (d.modCore c f).far = d.far := rfl
@[simp] theorem Dev.modCore_fresh (d : Dev) (c : Nat) (f : Core → Core) : (d.modCore c f).fresh = d.fresh := rfl
@[simp] theorem Dev.modCore_obsState (d : Dev) (c : Nat) (f : Core → Core) : (d.modCore c f).obsState = d.obsState := rfl
@[simp] theorem Dev.modCore_out (d : Dev) (c : Nat) (f : Core → Core) : (d.modCore c f).out = d.out := rfl

/-! ### `Dev.modSq` -/

@[simp] theorem Dev.modSq_rg (d : Dev) (c : Nat) (f : Machine.Seq → Machine.Seq) : (d.modSq c f).rg = d.rg := rfl
@[simp] theorem Dev.modSq_conf (d : Dev) (c : Nat) (f : Machine.Seq → Machine.Seq) : (d.modSq c f).conf = d.conf := rfl
@[simp] theorem Dev.modSq_shad (d : Dev) (c : Nat) (f : Machine.Seq → Machine.Seq) : (d.modSq c f).shad = d.shad := rfl
@[simp] theorem Dev.modSq_pres (d : Dev) (c : Nat) (f : Machine.Seq → Machine.Seq) : (d.modSq c f).pres = d.pres := rfl
@[simp] theorem Dev.modSq_mem (d : Dev) (c : Nat) (f : Machine.Seq → Machine.Seq) : (d.modSq c f).mem = d.mem := rfl
@[simp] theorem Dev.modSq_canopy (d : Dev) (c : Nat) (f : Machine.Seq → Machine.Seq) : (d.modSq c f).canopy = d.canopy := rfl
@[simp] theorem Dev.modSq_ext (d : Dev) (c : Nat) (f : Machine.Seq → Machine.Seq) : (d.modSq c f).ext = d.ext := rfl
@[simp] theorem Dev.modSq_clus (d : Dev) (c : Nat) (f : Machine.Seq → Machine.Seq) : (d.modSq c f).clus = d.clus := rfl
@[simp] theorem Dev.modSq_threads (d : Dev) (c : Nat) (f : Machine.Seq → Machine.Seq) : (d.modSq c f).threads = d.threads := rfl
@[simp] theorem Dev.modSq_jobs (d : Dev) (c : Nat) (f : Machine.Seq → Machine.Seq) : (d.modSq c f).jobs = d.jobs := rfl
@[simp] theorem Dev.modSq_sync (d : Dev) (c : Nat) (f : Machine.Seq → Machine.Seq) : (d.modSq c f).sync = d.sync := rfl
@[simp] theorem Dev.modSq_progs (d : Dev) (c : Nat) (f : Machine.Seq → Machine.Seq) : (d.modSq c f).progs = d.progs := rfl
@[simp] theorem Dev.modSq_qfe0 (d : Dev) (c : Nat) (f : Machine.Seq → Machine.Seq) : (d.modSq c f).qfe0 = d.qfe0 := rfl
@[simp] theorem Dev.modSq_qfe1 (d : Dev) (c : Nat) (f : Machine.Seq → Machine.Seq) : (d.modSq c f).qfe1 = d.qfe1 := rfl
@[simp] theorem Dev.modSq_host (d : Dev) (c : Nat) (f : Machine.Seq → Machine.Seq) : (d.modSq c f).host = d.host := rfl
@[simp] theorem Dev.modSq_net (d : Dev) (c : Nat) (f : Machine.Seq → Machine.Seq) : (d.modSq c f).net = d.net := rfl
@[simp] theorem Dev.modSq_fltWin (d : Dev) (c : Nat) (f : Machine.Seq → Machine.Seq) : (d.modSq c f).fltWin = d.fltWin := rfl
@[simp] theorem Dev.modSq_tabs (d : Dev) (c : Nat) (f : Machine.Seq → Machine.Seq) : (d.modSq c f).tabs = d.tabs := rfl
@[simp] theorem Dev.modSq_tel (d : Dev) (c : Nat) (f : Machine.Seq → Machine.Seq) : (d.modSq c f).tel = d.tel := rfl
@[simp] theorem Dev.modSq_held (d : Dev) (c : Nat) (f : Machine.Seq → Machine.Seq) : (d.modSq c f).held = d.held := rfl
@[simp] theorem Dev.modSq_findings (d : Dev) (c : Nat) (f : Machine.Seq → Machine.Seq) : (d.modSq c f).findings = d.findings := rfl
@[simp] theorem Dev.modSq_reports (d : Dev) (c : Nat) (f : Machine.Seq → Machine.Seq) : (d.modSq c f).reports = d.reports := rfl
@[simp] theorem Dev.modSq_far (d : Dev) (c : Nat) (f : Machine.Seq → Machine.Seq) : (d.modSq c f).far = d.far := rfl
@[simp] theorem Dev.modSq_fresh (d : Dev) (c : Nat) (f : Machine.Seq → Machine.Seq) : (d.modSq c f).fresh = d.fresh := rfl
@[simp] theorem Dev.modSq_obsState (d : Dev) (c : Nat) (f : Machine.Seq → Machine.Seq) : (d.modSq c f).obsState = d.obsState := rfl
@[simp] theorem Dev.modSq_out (d : Dev) (c : Nat) (f : Machine.Seq → Machine.Seq) : (d.modSq c f).out = d.out := rfl

/-! ### `Dev.modClu` -/

@[simp] theorem Dev.modClu_rg (d : Dev) (n : Nat) (f : Cluster → Cluster) : (d.modClu n f).rg = d.rg := rfl
@[simp] theorem Dev.modClu_conf (d : Dev) (n : Nat) (f : Cluster → Cluster) : (d.modClu n f).conf = d.conf := rfl
@[simp] theorem Dev.modClu_shad (d : Dev) (n : Nat) (f : Cluster → Cluster) : (d.modClu n f).shad = d.shad := rfl
@[simp] theorem Dev.modClu_pres (d : Dev) (n : Nat) (f : Cluster → Cluster) : (d.modClu n f).pres = d.pres := rfl
@[simp] theorem Dev.modClu_mem (d : Dev) (n : Nat) (f : Cluster → Cluster) : (d.modClu n f).mem = d.mem := rfl
@[simp] theorem Dev.modClu_canopy (d : Dev) (n : Nat) (f : Cluster → Cluster) : (d.modClu n f).canopy = d.canopy := rfl
@[simp] theorem Dev.modClu_ext (d : Dev) (n : Nat) (f : Cluster → Cluster) : (d.modClu n f).ext = d.ext := rfl
@[simp] theorem Dev.modClu_cores (d : Dev) (n : Nat) (f : Cluster → Cluster) : (d.modClu n f).cores = d.cores := rfl
@[simp] theorem Dev.modClu_threads (d : Dev) (n : Nat) (f : Cluster → Cluster) : (d.modClu n f).threads = d.threads := rfl
@[simp] theorem Dev.modClu_jobs (d : Dev) (n : Nat) (f : Cluster → Cluster) : (d.modClu n f).jobs = d.jobs := rfl
@[simp] theorem Dev.modClu_sync (d : Dev) (n : Nat) (f : Cluster → Cluster) : (d.modClu n f).sync = d.sync := rfl
@[simp] theorem Dev.modClu_progs (d : Dev) (n : Nat) (f : Cluster → Cluster) : (d.modClu n f).progs = d.progs := rfl
@[simp] theorem Dev.modClu_qfe0 (d : Dev) (n : Nat) (f : Cluster → Cluster) : (d.modClu n f).qfe0 = d.qfe0 := rfl
@[simp] theorem Dev.modClu_qfe1 (d : Dev) (n : Nat) (f : Cluster → Cluster) : (d.modClu n f).qfe1 = d.qfe1 := rfl
@[simp] theorem Dev.modClu_host (d : Dev) (n : Nat) (f : Cluster → Cluster) : (d.modClu n f).host = d.host := rfl
@[simp] theorem Dev.modClu_net (d : Dev) (n : Nat) (f : Cluster → Cluster) : (d.modClu n f).net = d.net := rfl
@[simp] theorem Dev.modClu_fltWin (d : Dev) (n : Nat) (f : Cluster → Cluster) : (d.modClu n f).fltWin = d.fltWin := rfl
@[simp] theorem Dev.modClu_tabs (d : Dev) (n : Nat) (f : Cluster → Cluster) : (d.modClu n f).tabs = d.tabs := rfl
@[simp] theorem Dev.modClu_tel (d : Dev) (n : Nat) (f : Cluster → Cluster) : (d.modClu n f).tel = d.tel := rfl
@[simp] theorem Dev.modClu_held (d : Dev) (n : Nat) (f : Cluster → Cluster) : (d.modClu n f).held = d.held := rfl
@[simp] theorem Dev.modClu_findings (d : Dev) (n : Nat) (f : Cluster → Cluster) : (d.modClu n f).findings = d.findings := rfl
@[simp] theorem Dev.modClu_reports (d : Dev) (n : Nat) (f : Cluster → Cluster) : (d.modClu n f).reports = d.reports := rfl
@[simp] theorem Dev.modClu_far (d : Dev) (n : Nat) (f : Cluster → Cluster) : (d.modClu n f).far = d.far := rfl
@[simp] theorem Dev.modClu_fresh (d : Dev) (n : Nat) (f : Cluster → Cluster) : (d.modClu n f).fresh = d.fresh := rfl
@[simp] theorem Dev.modClu_obsState (d : Dev) (n : Nat) (f : Cluster → Cluster) : (d.modClu n f).obsState = d.obsState := rfl
@[simp] theorem Dev.modClu_out (d : Dev) (n : Nat) (f : Cluster → Cluster) : (d.modClu n f).out = d.out := rfl

/-! ### `Dev.modThr` -/

@[simp] theorem Dev.modThr_rg (d : Dev) (h : Nat) (f : Thread → Thread) : (d.modThr h f).rg = d.rg := rfl
@[simp] theorem Dev.modThr_conf (d : Dev) (h : Nat) (f : Thread → Thread) : (d.modThr h f).conf = d.conf := rfl
@[simp] theorem Dev.modThr_shad (d : Dev) (h : Nat) (f : Thread → Thread) : (d.modThr h f).shad = d.shad := rfl
@[simp] theorem Dev.modThr_pres (d : Dev) (h : Nat) (f : Thread → Thread) : (d.modThr h f).pres = d.pres := rfl
@[simp] theorem Dev.modThr_mem (d : Dev) (h : Nat) (f : Thread → Thread) : (d.modThr h f).mem = d.mem := rfl
@[simp] theorem Dev.modThr_canopy (d : Dev) (h : Nat) (f : Thread → Thread) : (d.modThr h f).canopy = d.canopy := rfl
@[simp] theorem Dev.modThr_ext (d : Dev) (h : Nat) (f : Thread → Thread) : (d.modThr h f).ext = d.ext := rfl
@[simp] theorem Dev.modThr_cores (d : Dev) (h : Nat) (f : Thread → Thread) : (d.modThr h f).cores = d.cores := rfl
@[simp] theorem Dev.modThr_clus (d : Dev) (h : Nat) (f : Thread → Thread) : (d.modThr h f).clus = d.clus := rfl
@[simp] theorem Dev.modThr_jobs (d : Dev) (h : Nat) (f : Thread → Thread) : (d.modThr h f).jobs = d.jobs := rfl
@[simp] theorem Dev.modThr_sync (d : Dev) (h : Nat) (f : Thread → Thread) : (d.modThr h f).sync = d.sync := rfl
@[simp] theorem Dev.modThr_progs (d : Dev) (h : Nat) (f : Thread → Thread) : (d.modThr h f).progs = d.progs := rfl
@[simp] theorem Dev.modThr_qfe0 (d : Dev) (h : Nat) (f : Thread → Thread) : (d.modThr h f).qfe0 = d.qfe0 := rfl
@[simp] theorem Dev.modThr_qfe1 (d : Dev) (h : Nat) (f : Thread → Thread) : (d.modThr h f).qfe1 = d.qfe1 := rfl
@[simp] theorem Dev.modThr_host (d : Dev) (h : Nat) (f : Thread → Thread) : (d.modThr h f).host = d.host := rfl
@[simp] theorem Dev.modThr_net (d : Dev) (h : Nat) (f : Thread → Thread) : (d.modThr h f).net = d.net := rfl
@[simp] theorem Dev.modThr_fltWin (d : Dev) (h : Nat) (f : Thread → Thread) : (d.modThr h f).fltWin = d.fltWin := rfl
@[simp] theorem Dev.modThr_tabs (d : Dev) (h : Nat) (f : Thread → Thread) : (d.modThr h f).tabs = d.tabs := rfl
@[simp] theorem Dev.modThr_tel (d : Dev) (h : Nat) (f : Thread → Thread) : (d.modThr h f).tel = d.tel := rfl
@[simp] theorem Dev.modThr_held (d : Dev) (h : Nat) (f : Thread → Thread) : (d.modThr h f).held = d.held := rfl
@[simp] theorem Dev.modThr_findings (d : Dev) (h : Nat) (f : Thread → Thread) : (d.modThr h f).findings = d.findings := rfl
@[simp] theorem Dev.modThr_reports (d : Dev) (h : Nat) (f : Thread → Thread) : (d.modThr h f).reports = d.reports := rfl
@[simp] theorem Dev.modThr_far (d : Dev) (h : Nat) (f : Thread → Thread) : (d.modThr h f).far = d.far := rfl
@[simp] theorem Dev.modThr_fresh (d : Dev) (h : Nat) (f : Thread → Thread) : (d.modThr h f).fresh = d.fresh := rfl
@[simp] theorem Dev.modThr_obsState (d : Dev) (h : Nat) (f : Thread → Thread) : (d.modThr h f).obsState = d.obsState := rfl
@[simp] theorem Dev.modThr_out (d : Dev) (h : Nat) (f : Thread → Thread) : (d.modThr h f).out = d.out := rfl

/-! ### `Dev.modJob` -/

@[simp] theorem Dev.modJob_rg (d : Dev) (j : Nat) (f : Job → Job) : (d.modJob j f).rg = d.rg := rfl
@[simp] theorem Dev.modJob_conf (d : Dev) (j : Nat) (f : Job → Job) : (d.modJob j f).conf = d.conf := rfl
@[simp] theorem Dev.modJob_shad (d : Dev) (j : Nat) (f : Job → Job) : (d.modJob j f).shad = d.shad := rfl
@[simp] theorem Dev.modJob_pres (d : Dev) (j : Nat) (f : Job → Job) : (d.modJob j f).pres = d.pres := rfl
@[simp] theorem Dev.modJob_mem (d : Dev) (j : Nat) (f : Job → Job) : (d.modJob j f).mem = d.mem := rfl
@[simp] theorem Dev.modJob_canopy (d : Dev) (j : Nat) (f : Job → Job) : (d.modJob j f).canopy = d.canopy := rfl
@[simp] theorem Dev.modJob_ext (d : Dev) (j : Nat) (f : Job → Job) : (d.modJob j f).ext = d.ext := rfl
@[simp] theorem Dev.modJob_cores (d : Dev) (j : Nat) (f : Job → Job) : (d.modJob j f).cores = d.cores := rfl
@[simp] theorem Dev.modJob_clus (d : Dev) (j : Nat) (f : Job → Job) : (d.modJob j f).clus = d.clus := rfl
@[simp] theorem Dev.modJob_threads (d : Dev) (j : Nat) (f : Job → Job) : (d.modJob j f).threads = d.threads := rfl
@[simp] theorem Dev.modJob_sync (d : Dev) (j : Nat) (f : Job → Job) : (d.modJob j f).sync = d.sync := rfl
@[simp] theorem Dev.modJob_progs (d : Dev) (j : Nat) (f : Job → Job) : (d.modJob j f).progs = d.progs := rfl
@[simp] theorem Dev.modJob_qfe0 (d : Dev) (j : Nat) (f : Job → Job) : (d.modJob j f).qfe0 = d.qfe0 := rfl
@[simp] theorem Dev.modJob_qfe1 (d : Dev) (j : Nat) (f : Job → Job) : (d.modJob j f).qfe1 = d.qfe1 := rfl
@[simp] theorem Dev.modJob_host (d : Dev) (j : Nat) (f : Job → Job) : (d.modJob j f).host = d.host := rfl
@[simp] theorem Dev.modJob_net (d : Dev) (j : Nat) (f : Job → Job) : (d.modJob j f).net = d.net := rfl
@[simp] theorem Dev.modJob_fltWin (d : Dev) (j : Nat) (f : Job → Job) : (d.modJob j f).fltWin = d.fltWin := rfl
@[simp] theorem Dev.modJob_tabs (d : Dev) (j : Nat) (f : Job → Job) : (d.modJob j f).tabs = d.tabs := rfl
@[simp] theorem Dev.modJob_tel (d : Dev) (j : Nat) (f : Job → Job) : (d.modJob j f).tel = d.tel := rfl
@[simp] theorem Dev.modJob_held (d : Dev) (j : Nat) (f : Job → Job) : (d.modJob j f).held = d.held := rfl
@[simp] theorem Dev.modJob_findings (d : Dev) (j : Nat) (f : Job → Job) : (d.modJob j f).findings = d.findings := rfl
@[simp] theorem Dev.modJob_reports (d : Dev) (j : Nat) (f : Job → Job) : (d.modJob j f).reports = d.reports := rfl
@[simp] theorem Dev.modJob_far (d : Dev) (j : Nat) (f : Job → Job) : (d.modJob j f).far = d.far := rfl
@[simp] theorem Dev.modJob_fresh (d : Dev) (j : Nat) (f : Job → Job) : (d.modJob j f).fresh = d.fresh := rfl
@[simp] theorem Dev.modJob_obsState (d : Dev) (j : Nat) (f : Job → Job) : (d.modJob j f).obsState = d.obsState := rfl
@[simp] theorem Dev.modJob_out (d : Dev) (j : Nat) (f : Job → Job) : (d.modJob j f).out = d.out := rfl

/-! ### `Dev.onHost` -/

@[simp] theorem Dev.onHost_rg (d : Dev) (f : HostPort → HostPort) : (d.onHost f).rg = d.rg := rfl
@[simp] theorem Dev.onHost_conf (d : Dev) (f : HostPort → HostPort) : (d.onHost f).conf = d.conf := rfl
@[simp] theorem Dev.onHost_shad (d : Dev) (f : HostPort → HostPort) : (d.onHost f).shad = d.shad := rfl
@[simp] theorem Dev.onHost_pres (d : Dev) (f : HostPort → HostPort) : (d.onHost f).pres = d.pres := rfl
@[simp] theorem Dev.onHost_mem (d : Dev) (f : HostPort → HostPort) : (d.onHost f).mem = d.mem := rfl
@[simp] theorem Dev.onHost_canopy (d : Dev) (f : HostPort → HostPort) : (d.onHost f).canopy = d.canopy := rfl
@[simp] theorem Dev.onHost_ext (d : Dev) (f : HostPort → HostPort) : (d.onHost f).ext = d.ext := rfl
@[simp] theorem Dev.onHost_cores (d : Dev) (f : HostPort → HostPort) : (d.onHost f).cores = d.cores := rfl
@[simp] theorem Dev.onHost_clus (d : Dev) (f : HostPort → HostPort) : (d.onHost f).clus = d.clus := rfl
@[simp] theorem Dev.onHost_threads (d : Dev) (f : HostPort → HostPort) : (d.onHost f).threads = d.threads := rfl
@[simp] theorem Dev.onHost_jobs (d : Dev) (f : HostPort → HostPort) : (d.onHost f).jobs = d.jobs := rfl
@[simp] theorem Dev.onHost_sync (d : Dev) (f : HostPort → HostPort) : (d.onHost f).sync = d.sync := rfl
@[simp] theorem Dev.onHost_progs (d : Dev) (f : HostPort → HostPort) : (d.onHost f).progs = d.progs := rfl
@[simp] theorem Dev.onHost_qfe0 (d : Dev) (f : HostPort → HostPort) : (d.onHost f).qfe0 = d.qfe0 := rfl
@[simp] theorem Dev.onHost_qfe1 (d : Dev) (f : HostPort → HostPort) : (d.onHost f).qfe1 = d.qfe1 := rfl
@[simp] theorem Dev.onHost_net (d : Dev) (f : HostPort → HostPort) : (d.onHost f).net = d.net := rfl
@[simp] theorem Dev.onHost_fltWin (d : Dev) (f : HostPort → HostPort) : (d.onHost f).fltWin = d.fltWin := rfl
@[simp] theorem Dev.onHost_tabs (d : Dev) (f : HostPort → HostPort) : (d.onHost f).tabs = d.tabs := rfl
@[simp] theorem Dev.onHost_tel (d : Dev) (f : HostPort → HostPort) : (d.onHost f).tel = d.tel := rfl
@[simp] theorem Dev.onHost_held (d : Dev) (f : HostPort → HostPort) : (d.onHost f).held = d.held := rfl
@[simp] theorem Dev.onHost_findings (d : Dev) (f : HostPort → HostPort) : (d.onHost f).findings = d.findings := rfl
@[simp] theorem Dev.onHost_reports (d : Dev) (f : HostPort → HostPort) : (d.onHost f).reports = d.reports := rfl
@[simp] theorem Dev.onHost_far (d : Dev) (f : HostPort → HostPort) : (d.onHost f).far = d.far := rfl
@[simp] theorem Dev.onHost_fresh (d : Dev) (f : HostPort → HostPort) : (d.onHost f).fresh = d.fresh := rfl
@[simp] theorem Dev.onHost_obsState (d : Dev) (f : HostPort → HostPort) : (d.onHost f).obsState = d.obsState := rfl
@[simp] theorem Dev.onHost_out (d : Dev) (f : HostPort → HostPort) : (d.onHost f).out = d.out := rfl

/-! ### `Dev.onNet` -/

@[simp] theorem Dev.onNet_rg (d : Dev) (f : Net → Net) : (d.onNet f).rg = d.rg := rfl
@[simp] theorem Dev.onNet_conf (d : Dev) (f : Net → Net) : (d.onNet f).conf = d.conf := rfl
@[simp] theorem Dev.onNet_shad (d : Dev) (f : Net → Net) : (d.onNet f).shad = d.shad := rfl
@[simp] theorem Dev.onNet_pres (d : Dev) (f : Net → Net) : (d.onNet f).pres = d.pres := rfl
@[simp] theorem Dev.onNet_mem (d : Dev) (f : Net → Net) : (d.onNet f).mem = d.mem := rfl
@[simp] theorem Dev.onNet_canopy (d : Dev) (f : Net → Net) : (d.onNet f).canopy = d.canopy := rfl
@[simp] theorem Dev.onNet_ext (d : Dev) (f : Net → Net) : (d.onNet f).ext = d.ext := rfl
@[simp] theorem Dev.onNet_cores (d : Dev) (f : Net → Net) : (d.onNet f).cores = d.cores := rfl
@[simp] theorem Dev.onNet_clus (d : Dev) (f : Net → Net) : (d.onNet f).clus = d.clus := rfl
@[simp] theorem Dev.onNet_threads (d : Dev) (f : Net → Net) : (d.onNet f).threads = d.threads := rfl
@[simp] theorem Dev.onNet_jobs (d : Dev) (f : Net → Net) : (d.onNet f).jobs = d.jobs := rfl
@[simp] theorem Dev.onNet_sync (d : Dev) (f : Net → Net) : (d.onNet f).sync = d.sync := rfl
@[simp] theorem Dev.onNet_progs (d : Dev) (f : Net → Net) : (d.onNet f).progs = d.progs := rfl
@[simp] theorem Dev.onNet_qfe0 (d : Dev) (f : Net → Net) : (d.onNet f).qfe0 = d.qfe0 := rfl
@[simp] theorem Dev.onNet_qfe1 (d : Dev) (f : Net → Net) : (d.onNet f).qfe1 = d.qfe1 := rfl
@[simp] theorem Dev.onNet_host (d : Dev) (f : Net → Net) : (d.onNet f).host = d.host := rfl
@[simp] theorem Dev.onNet_fltWin (d : Dev) (f : Net → Net) : (d.onNet f).fltWin = d.fltWin := rfl
@[simp] theorem Dev.onNet_tabs (d : Dev) (f : Net → Net) : (d.onNet f).tabs = d.tabs := rfl
@[simp] theorem Dev.onNet_tel (d : Dev) (f : Net → Net) : (d.onNet f).tel = d.tel := rfl
@[simp] theorem Dev.onNet_held (d : Dev) (f : Net → Net) : (d.onNet f).held = d.held := rfl
@[simp] theorem Dev.onNet_findings (d : Dev) (f : Net → Net) : (d.onNet f).findings = d.findings := rfl
@[simp] theorem Dev.onNet_reports (d : Dev) (f : Net → Net) : (d.onNet f).reports = d.reports := rfl
@[simp] theorem Dev.onNet_far (d : Dev) (f : Net → Net) : (d.onNet f).far = d.far := rfl
@[simp] theorem Dev.onNet_fresh (d : Dev) (f : Net → Net) : (d.onNet f).fresh = d.fresh := rfl
@[simp] theorem Dev.onNet_obsState (d : Dev) (f : Net → Net) : (d.onNet f).obsState = d.obsState := rfl
@[simp] theorem Dev.onNet_out (d : Dev) (f : Net → Net) : (d.onNet f).out = d.out := rfl

/-! ### `Dev.onSync` -/

@[simp] theorem Dev.onSync_rg (d : Dev) (f : Sync → Sync) : (d.onSync f).rg = d.rg := rfl
@[simp] theorem Dev.onSync_conf (d : Dev) (f : Sync → Sync) : (d.onSync f).conf = d.conf := rfl
@[simp] theorem Dev.onSync_shad (d : Dev) (f : Sync → Sync) : (d.onSync f).shad = d.shad := rfl
@[simp] theorem Dev.onSync_pres (d : Dev) (f : Sync → Sync) : (d.onSync f).pres = d.pres := rfl
@[simp] theorem Dev.onSync_mem (d : Dev) (f : Sync → Sync) : (d.onSync f).mem = d.mem := rfl
@[simp] theorem Dev.onSync_canopy (d : Dev) (f : Sync → Sync) : (d.onSync f).canopy = d.canopy := rfl
@[simp] theorem Dev.onSync_ext (d : Dev) (f : Sync → Sync) : (d.onSync f).ext = d.ext := rfl
@[simp] theorem Dev.onSync_cores (d : Dev) (f : Sync → Sync) : (d.onSync f).cores = d.cores := rfl
@[simp] theorem Dev.onSync_clus (d : Dev) (f : Sync → Sync) : (d.onSync f).clus = d.clus := rfl
@[simp] theorem Dev.onSync_threads (d : Dev) (f : Sync → Sync) : (d.onSync f).threads = d.threads := rfl
@[simp] theorem Dev.onSync_jobs (d : Dev) (f : Sync → Sync) : (d.onSync f).jobs = d.jobs := rfl
@[simp] theorem Dev.onSync_progs (d : Dev) (f : Sync → Sync) : (d.onSync f).progs = d.progs := rfl
@[simp] theorem Dev.onSync_qfe0 (d : Dev) (f : Sync → Sync) : (d.onSync f).qfe0 = d.qfe0 := rfl
@[simp] theorem Dev.onSync_qfe1 (d : Dev) (f : Sync → Sync) : (d.onSync f).qfe1 = d.qfe1 := rfl
@[simp] theorem Dev.onSync_host (d : Dev) (f : Sync → Sync) : (d.onSync f).host = d.host := rfl
@[simp] theorem Dev.onSync_net (d : Dev) (f : Sync → Sync) : (d.onSync f).net = d.net := rfl
@[simp] theorem Dev.onSync_fltWin (d : Dev) (f : Sync → Sync) : (d.onSync f).fltWin = d.fltWin := rfl
@[simp] theorem Dev.onSync_tabs (d : Dev) (f : Sync → Sync) : (d.onSync f).tabs = d.tabs := rfl
@[simp] theorem Dev.onSync_tel (d : Dev) (f : Sync → Sync) : (d.onSync f).tel = d.tel := rfl
@[simp] theorem Dev.onSync_held (d : Dev) (f : Sync → Sync) : (d.onSync f).held = d.held := rfl
@[simp] theorem Dev.onSync_findings (d : Dev) (f : Sync → Sync) : (d.onSync f).findings = d.findings := rfl
@[simp] theorem Dev.onSync_reports (d : Dev) (f : Sync → Sync) : (d.onSync f).reports = d.reports := rfl
@[simp] theorem Dev.onSync_far (d : Dev) (f : Sync → Sync) : (d.onSync f).far = d.far := rfl
@[simp] theorem Dev.onSync_fresh (d : Dev) (f : Sync → Sync) : (d.onSync f).fresh = d.fresh := rfl
@[simp] theorem Dev.onSync_obsState (d : Dev) (f : Sync → Sync) : (d.onSync f).obsState = d.obsState := rfl
@[simp] theorem Dev.onSync_out (d : Dev) (f : Sync → Sync) : (d.onSync f).out = d.out := rfl

/-! ### `Dev.onExt` -/

@[simp] theorem Dev.onExt_rg (d : Dev) (f : ExtMem → ExtMem) : (d.onExt f).rg = d.rg := rfl
@[simp] theorem Dev.onExt_conf (d : Dev) (f : ExtMem → ExtMem) : (d.onExt f).conf = d.conf := rfl
@[simp] theorem Dev.onExt_shad (d : Dev) (f : ExtMem → ExtMem) : (d.onExt f).shad = d.shad := rfl
@[simp] theorem Dev.onExt_pres (d : Dev) (f : ExtMem → ExtMem) : (d.onExt f).pres = d.pres := rfl
@[simp] theorem Dev.onExt_mem (d : Dev) (f : ExtMem → ExtMem) : (d.onExt f).mem = d.mem := rfl
@[simp] theorem Dev.onExt_canopy (d : Dev) (f : ExtMem → ExtMem) : (d.onExt f).canopy = d.canopy := rfl
@[simp] theorem Dev.onExt_cores (d : Dev) (f : ExtMem → ExtMem) : (d.onExt f).cores = d.cores := rfl
@[simp] theorem Dev.onExt_clus (d : Dev) (f : ExtMem → ExtMem) : (d.onExt f).clus = d.clus := rfl
@[simp] theorem Dev.onExt_threads (d : Dev) (f : ExtMem → ExtMem) : (d.onExt f).threads = d.threads := rfl
@[simp] theorem Dev.onExt_jobs (d : Dev) (f : ExtMem → ExtMem) : (d.onExt f).jobs = d.jobs := rfl
@[simp] theorem Dev.onExt_sync (d : Dev) (f : ExtMem → ExtMem) : (d.onExt f).sync = d.sync := rfl
@[simp] theorem Dev.onExt_progs (d : Dev) (f : ExtMem → ExtMem) : (d.onExt f).progs = d.progs := rfl
@[simp] theorem Dev.onExt_qfe0 (d : Dev) (f : ExtMem → ExtMem) : (d.onExt f).qfe0 = d.qfe0 := rfl
@[simp] theorem Dev.onExt_qfe1 (d : Dev) (f : ExtMem → ExtMem) : (d.onExt f).qfe1 = d.qfe1 := rfl
@[simp] theorem Dev.onExt_host (d : Dev) (f : ExtMem → ExtMem) : (d.onExt f).host = d.host := rfl
@[simp] theorem Dev.onExt_net (d : Dev) (f : ExtMem → ExtMem) : (d.onExt f).net = d.net := rfl
@[simp] theorem Dev.onExt_fltWin (d : Dev) (f : ExtMem → ExtMem) : (d.onExt f).fltWin = d.fltWin := rfl
@[simp] theorem Dev.onExt_tabs (d : Dev) (f : ExtMem → ExtMem) : (d.onExt f).tabs = d.tabs := rfl
@[simp] theorem Dev.onExt_tel (d : Dev) (f : ExtMem → ExtMem) : (d.onExt f).tel = d.tel := rfl
@[simp] theorem Dev.onExt_held (d : Dev) (f : ExtMem → ExtMem) : (d.onExt f).held = d.held := rfl
@[simp] theorem Dev.onExt_findings (d : Dev) (f : ExtMem → ExtMem) : (d.onExt f).findings = d.findings := rfl
@[simp] theorem Dev.onExt_reports (d : Dev) (f : ExtMem → ExtMem) : (d.onExt f).reports = d.reports := rfl
@[simp] theorem Dev.onExt_far (d : Dev) (f : ExtMem → ExtMem) : (d.onExt f).far = d.far := rfl
@[simp] theorem Dev.onExt_fresh (d : Dev) (f : ExtMem → ExtMem) : (d.onExt f).fresh = d.fresh := rfl
@[simp] theorem Dev.onExt_obsState (d : Dev) (f : ExtMem → ExtMem) : (d.onExt f).obsState = d.obsState := rfl
@[simp] theorem Dev.onExt_out (d : Dev) (f : ExtMem → ExtMem) : (d.onExt f).out = d.out := rfl

/-! ### `Dev.onTabs` -/

@[simp] theorem Dev.onTabs_rg (d : Dev) (f : Tables → Tables) : (d.onTabs f).rg = d.rg := rfl
@[simp] theorem Dev.onTabs_conf (d : Dev) (f : Tables → Tables) : (d.onTabs f).conf = d.conf := rfl
@[simp] theorem Dev.onTabs_shad (d : Dev) (f : Tables → Tables) : (d.onTabs f).shad = d.shad := rfl
@[simp] theorem Dev.onTabs_pres (d : Dev) (f : Tables → Tables) : (d.onTabs f).pres = d.pres := rfl
@[simp] theorem Dev.onTabs_mem (d : Dev) (f : Tables → Tables) : (d.onTabs f).mem = d.mem := rfl
@[simp] theorem Dev.onTabs_canopy (d : Dev) (f : Tables → Tables) : (d.onTabs f).canopy = d.canopy := rfl
@[simp] theorem Dev.onTabs_ext (d : Dev) (f : Tables → Tables) : (d.onTabs f).ext = d.ext := rfl
@[simp] theorem Dev.onTabs_cores (d : Dev) (f : Tables → Tables) : (d.onTabs f).cores = d.cores := rfl
@[simp] theorem Dev.onTabs_clus (d : Dev) (f : Tables → Tables) : (d.onTabs f).clus = d.clus := rfl
@[simp] theorem Dev.onTabs_threads (d : Dev) (f : Tables → Tables) : (d.onTabs f).threads = d.threads := rfl
@[simp] theorem Dev.onTabs_jobs (d : Dev) (f : Tables → Tables) : (d.onTabs f).jobs = d.jobs := rfl
@[simp] theorem Dev.onTabs_sync (d : Dev) (f : Tables → Tables) : (d.onTabs f).sync = d.sync := rfl
@[simp] theorem Dev.onTabs_progs (d : Dev) (f : Tables → Tables) : (d.onTabs f).progs = d.progs := rfl
@[simp] theorem Dev.onTabs_qfe0 (d : Dev) (f : Tables → Tables) : (d.onTabs f).qfe0 = d.qfe0 := rfl
@[simp] theorem Dev.onTabs_qfe1 (d : Dev) (f : Tables → Tables) : (d.onTabs f).qfe1 = d.qfe1 := rfl
@[simp] theorem Dev.onTabs_host (d : Dev) (f : Tables → Tables) : (d.onTabs f).host = d.host := rfl
@[simp] theorem Dev.onTabs_net (d : Dev) (f : Tables → Tables) : (d.onTabs f).net = d.net := rfl
@[simp] theorem Dev.onTabs_fltWin (d : Dev) (f : Tables → Tables) : (d.onTabs f).fltWin = d.fltWin := rfl
@[simp] theorem Dev.onTabs_tel (d : Dev) (f : Tables → Tables) : (d.onTabs f).tel = d.tel := rfl
@[simp] theorem Dev.onTabs_held (d : Dev) (f : Tables → Tables) : (d.onTabs f).held = d.held := rfl
@[simp] theorem Dev.onTabs_findings (d : Dev) (f : Tables → Tables) : (d.onTabs f).findings = d.findings := rfl
@[simp] theorem Dev.onTabs_reports (d : Dev) (f : Tables → Tables) : (d.onTabs f).reports = d.reports := rfl
@[simp] theorem Dev.onTabs_far (d : Dev) (f : Tables → Tables) : (d.onTabs f).far = d.far := rfl
@[simp] theorem Dev.onTabs_fresh (d : Dev) (f : Tables → Tables) : (d.onTabs f).fresh = d.fresh := rfl
@[simp] theorem Dev.onTabs_obsState (d : Dev) (f : Tables → Tables) : (d.onTabs f).obsState = d.obsState := rfl
@[simp] theorem Dev.onTabs_out (d : Dev) (f : Tables → Tables) : (d.onTabs f).out = d.out := rfl

/-! ### `Dev.poke` -/

@[simp] theorem Dev.poke_rg (d : Dev) (a : Nat) (bs : List Byte) (p : Bool) : (d.poke a bs p).rg = d.rg := rfl
@[simp] theorem Dev.poke_conf (d : Dev) (a : Nat) (bs : List Byte) (p : Bool) : (d.poke a bs p).conf = d.conf := rfl
@[simp] theorem Dev.poke_shad (d : Dev) (a : Nat) (bs : List Byte) (p : Bool) : (d.poke a bs p).shad = d.shad := rfl
@[simp] theorem Dev.poke_pres (d : Dev) (a : Nat) (bs : List Byte) (p : Bool) : (d.poke a bs p).pres = d.pres := rfl
@[simp] theorem Dev.poke_canopy (d : Dev) (a : Nat) (bs : List Byte) (p : Bool) : (d.poke a bs p).canopy = d.canopy := rfl
@[simp] theorem Dev.poke_ext (d : Dev) (a : Nat) (bs : List Byte) (p : Bool) : (d.poke a bs p).ext = d.ext := rfl
@[simp] theorem Dev.poke_cores (d : Dev) (a : Nat) (bs : List Byte) (p : Bool) : (d.poke a bs p).cores = d.cores := rfl
@[simp] theorem Dev.poke_clus (d : Dev) (a : Nat) (bs : List Byte) (p : Bool) : (d.poke a bs p).clus = d.clus := rfl
@[simp] theorem Dev.poke_threads (d : Dev) (a : Nat) (bs : List Byte) (p : Bool) : (d.poke a bs p).threads = d.threads := rfl
@[simp] theorem Dev.poke_jobs (d : Dev) (a : Nat) (bs : List Byte) (p : Bool) : (d.poke a bs p).jobs = d.jobs := rfl
@[simp] theorem Dev.poke_sync (d : Dev) (a : Nat) (bs : List Byte) (p : Bool) : (d.poke a bs p).sync = d.sync := rfl
@[simp] theorem Dev.poke_progs (d : Dev) (a : Nat) (bs : List Byte) (p : Bool) : (d.poke a bs p).progs = d.progs := rfl
@[simp] theorem Dev.poke_qfe0 (d : Dev) (a : Nat) (bs : List Byte) (p : Bool) : (d.poke a bs p).qfe0 = d.qfe0 := rfl
@[simp] theorem Dev.poke_qfe1 (d : Dev) (a : Nat) (bs : List Byte) (p : Bool) : (d.poke a bs p).qfe1 = d.qfe1 := rfl
@[simp] theorem Dev.poke_host (d : Dev) (a : Nat) (bs : List Byte) (p : Bool) : (d.poke a bs p).host = d.host := rfl
@[simp] theorem Dev.poke_net (d : Dev) (a : Nat) (bs : List Byte) (p : Bool) : (d.poke a bs p).net = d.net := rfl
@[simp] theorem Dev.poke_fltWin (d : Dev) (a : Nat) (bs : List Byte) (p : Bool) : (d.poke a bs p).fltWin = d.fltWin := rfl
@[simp] theorem Dev.poke_tabs (d : Dev) (a : Nat) (bs : List Byte) (p : Bool) : (d.poke a bs p).tabs = d.tabs := rfl
@[simp] theorem Dev.poke_tel (d : Dev) (a : Nat) (bs : List Byte) (p : Bool) : (d.poke a bs p).tel = d.tel := rfl
@[simp] theorem Dev.poke_held (d : Dev) (a : Nat) (bs : List Byte) (p : Bool) : (d.poke a bs p).held = d.held := rfl
@[simp] theorem Dev.poke_findings (d : Dev) (a : Nat) (bs : List Byte) (p : Bool) : (d.poke a bs p).findings = d.findings := rfl
@[simp] theorem Dev.poke_reports (d : Dev) (a : Nat) (bs : List Byte) (p : Bool) : (d.poke a bs p).reports = d.reports := rfl
@[simp] theorem Dev.poke_far (d : Dev) (a : Nat) (bs : List Byte) (p : Bool) : (d.poke a bs p).far = d.far := rfl
@[simp] theorem Dev.poke_fresh (d : Dev) (a : Nat) (bs : List Byte) (p : Bool) : (d.poke a bs p).fresh = d.fresh := rfl
@[simp] theorem Dev.poke_obsState (d : Dev) (a : Nat) (bs : List Byte) (p : Bool) : (d.poke a bs p).obsState = d.obsState := rfl
@[simp] theorem Dev.poke_out (d : Dev) (a : Nat) (bs : List Byte) (p : Bool) : (d.poke a bs p).out = d.out := rfl

/-! ### The epochs adopted -/

@[simp] theorem Dev.wr_epochs (d : Dev) (r : Reg) (ix : List Nat) (v : Nat) : (d.wr r ix v).epochs = d.epochs := rfl
@[simp] theorem Dev.bump_epochs (d : Dev) (r : Reg) (ix : List Nat) (n : Nat) : (d.bump r ix n).epochs = d.epochs := rfl
@[simp] theorem Dev.cxlFlag_epochs (d : Dev) (b : Nat) : (d.cxlFlag b).epochs = d.epochs := rfl
@[simp] theorem Dev.emit_epochs (d : Dev) (o : Out) : (d.emit o).epochs = d.epochs := rfl
@[simp] theorem Dev.useFree_epochs (d : Dev) (n : Nat) : (d.useFree n).epochs = d.epochs := rfl
@[simp] theorem Dev.modCore_epochs (d : Dev) (c : Nat) (f : Core → Core) : (d.modCore c f).epochs = d.epochs := rfl
@[simp] theorem Dev.modSq_epochs (d : Dev) (c : Nat) (f : Machine.Seq → Machine.Seq) : (d.modSq c f).epochs = d.epochs := rfl
@[simp] theorem Dev.modClu_epochs (d : Dev) (n : Nat) (f : Cluster → Cluster) : (d.modClu n f).epochs = d.epochs := rfl
@[simp] theorem Dev.modThr_epochs (d : Dev) (h : Nat) (f : Thread → Thread) : (d.modThr h f).epochs = d.epochs := rfl
@[simp] theorem Dev.modJob_epochs (d : Dev) (j : Nat) (f : Job → Job) : (d.modJob j f).epochs = d.epochs := rfl
@[simp] theorem Dev.onHost_epochs (d : Dev) (f : HostPort → HostPort) : (d.onHost f).epochs = d.epochs := rfl
@[simp] theorem Dev.onNet_epochs (d : Dev) (f : Net → Net) : (d.onNet f).epochs = d.epochs := rfl
@[simp] theorem Dev.onSync_epochs (d : Dev) (f : Sync → Sync) : (d.onSync f).epochs = d.epochs := rfl
@[simp] theorem Dev.onExt_epochs (d : Dev) (f : ExtMem → ExtMem) : (d.onExt f).epochs = d.epochs := rfl
@[simp] theorem Dev.onTabs_epochs (d : Dev) (f : Tables → Tables) : (d.onTabs f).epochs = d.epochs := rfl
@[simp] theorem Dev.poke_epochs (d : Dev) (a : Nat) (bs : List Byte) (p : Bool) : (d.poke a bs p).epochs = d.epochs := rfl

/-! ### The front ends -/

@[simp] theorem Dev.setQfe_rg (d : Dev) (t : Nat) (q : Qfe) : (d.setQfe t q).rg = d.rg := by unfold Dev.setQfe; split <;> rfl
@[simp] theorem Dev.setQfe_conf (d : Dev) (t : Nat) (q : Qfe) : (d.setQfe t q).conf = d.conf := by unfold Dev.setQfe; split <;> rfl
@[simp] theorem Dev.setQfe_shad (d : Dev) (t : Nat) (q : Qfe) : (d.setQfe t q).shad = d.shad := by unfold Dev.setQfe; split <;> rfl
@[simp] theorem Dev.setQfe_pres (d : Dev) (t : Nat) (q : Qfe) : (d.setQfe t q).pres = d.pres := by unfold Dev.setQfe; split <;> rfl
@[simp] theorem Dev.setQfe_mem (d : Dev) (t : Nat) (q : Qfe) : (d.setQfe t q).mem = d.mem := by unfold Dev.setQfe; split <;> rfl
@[simp] theorem Dev.setQfe_canopy (d : Dev) (t : Nat) (q : Qfe) : (d.setQfe t q).canopy = d.canopy := by unfold Dev.setQfe; split <;> rfl
@[simp] theorem Dev.setQfe_ext (d : Dev) (t : Nat) (q : Qfe) : (d.setQfe t q).ext = d.ext := by unfold Dev.setQfe; split <;> rfl
@[simp] theorem Dev.setQfe_cores (d : Dev) (t : Nat) (q : Qfe) : (d.setQfe t q).cores = d.cores := by unfold Dev.setQfe; split <;> rfl
@[simp] theorem Dev.setQfe_clus (d : Dev) (t : Nat) (q : Qfe) : (d.setQfe t q).clus = d.clus := by unfold Dev.setQfe; split <;> rfl
@[simp] theorem Dev.setQfe_threads (d : Dev) (t : Nat) (q : Qfe) : (d.setQfe t q).threads = d.threads := by unfold Dev.setQfe; split <;> rfl
@[simp] theorem Dev.setQfe_jobs (d : Dev) (t : Nat) (q : Qfe) : (d.setQfe t q).jobs = d.jobs := by unfold Dev.setQfe; split <;> rfl
@[simp] theorem Dev.setQfe_sync (d : Dev) (t : Nat) (q : Qfe) : (d.setQfe t q).sync = d.sync := by unfold Dev.setQfe; split <;> rfl
@[simp] theorem Dev.setQfe_progs (d : Dev) (t : Nat) (q : Qfe) : (d.setQfe t q).progs = d.progs := by unfold Dev.setQfe; split <;> rfl
@[simp] theorem Dev.setQfe_host (d : Dev) (t : Nat) (q : Qfe) : (d.setQfe t q).host = d.host := by unfold Dev.setQfe; split <;> rfl
@[simp] theorem Dev.setQfe_net (d : Dev) (t : Nat) (q : Qfe) : (d.setQfe t q).net = d.net := by unfold Dev.setQfe; split <;> rfl
@[simp] theorem Dev.setQfe_fltWin (d : Dev) (t : Nat) (q : Qfe) : (d.setQfe t q).fltWin = d.fltWin := by unfold Dev.setQfe; split <;> rfl
@[simp] theorem Dev.setQfe_tabs (d : Dev) (t : Nat) (q : Qfe) : (d.setQfe t q).tabs = d.tabs := by unfold Dev.setQfe; split <;> rfl
@[simp] theorem Dev.setQfe_tel (d : Dev) (t : Nat) (q : Qfe) : (d.setQfe t q).tel = d.tel := by unfold Dev.setQfe; split <;> rfl
@[simp] theorem Dev.setQfe_held (d : Dev) (t : Nat) (q : Qfe) : (d.setQfe t q).held = d.held := by unfold Dev.setQfe; split <;> rfl
@[simp] theorem Dev.setQfe_findings (d : Dev) (t : Nat) (q : Qfe) : (d.setQfe t q).findings = d.findings := by unfold Dev.setQfe; split <;> rfl
@[simp] theorem Dev.setQfe_reports (d : Dev) (t : Nat) (q : Qfe) : (d.setQfe t q).reports = d.reports := by unfold Dev.setQfe; split <;> rfl
@[simp] theorem Dev.setQfe_far (d : Dev) (t : Nat) (q : Qfe) : (d.setQfe t q).far = d.far := by unfold Dev.setQfe; split <;> rfl
@[simp] theorem Dev.setQfe_fresh (d : Dev) (t : Nat) (q : Qfe) : (d.setQfe t q).fresh = d.fresh := by unfold Dev.setQfe; split <;> rfl
@[simp] theorem Dev.setQfe_out (d : Dev) (t : Nat) (q : Qfe) : (d.setQfe t q).out = d.out := by unfold Dev.setQfe; split <;> rfl

/-! ### The module and the whole state -/

@[simp] theorem Mach.onDev_nv (m : Mach) (f : Dev → Dev) : (m.onDev f).nv = m.nv := rfl
@[simp] theorem Mach.onDev_und (m : Mach) (f : Dev → Dev) : (m.onDev f).und = m.und := rfl
@[simp] theorem Mach.atTime_nv (m : Mach) (t : Nat) : (m.atTime t).nv = m.nv := rfl
@[simp] theorem Mach.atTime_dev (m : Mach) (t : Nat) : (m.atTime t).dev = m.dev := rfl
@[simp] theorem Mach.onUnd_nv (m : Mach) (f : Und → Und) : (m.onUnd f).nv = m.nv := rfl
@[simp] theorem Mach.onUnd_dev (m : Mach) (f : Und → Und) : (m.onUnd f).dev = m.dev := rfl
@[simp] theorem Mach.onDev_dev (m : Mach) (f : Dev → Dev) : (m.onDev f).dev = f m.dev := rfl
@[simp] theorem Mach.atTime_now (m : Mach) (t : Nat) : (m.atTime t).und.now = max m.und.now t := rfl
@[simp] theorem State.withDev_fuse (s : State) (d : Dev) : (s.withDev d).fuse = s.fuse := rfl
@[simp] theorem State.withDev_pending (s : State) (d : Dev) : (s.withDev d).pending = s.pending := rfl
@[simp] theorem State.withDev_dev (s : State) (d : Dev) : (s.withDev d).dev = d := rfl
@[simp] theorem State.withDev_now (s : State) (d : Dev) : (s.withDev d).now = s.now := rfl
@[simp] theorem State.withMach_fuse (s : State) (m : Mach) : (s.withMach m).fuse = s.fuse := rfl
@[simp] theorem State.withMach_pending (s : State) (m : Mach) : (s.withMach m).pending = s.pending := rfl
@[simp] theorem State.withMach_mach (s : State) (m : Mach) : (s.withMach m).mach = m := rfl

/-! ### What the four ways to run a command answer -/

/-- A command on the volatile part answers a next state with everything else as it was. -/
theorem State.runDev_next (s : State) (f : Dev → Dev) : s.runDev f = .next (s.withDev (f s.dev)) := rfl

theorem State.runAt_next (s : State) (f : Nat → Dev → Dev) : s.runAt f = .next (s.withDev (f s.now s.dev)) := rfl

/-- A command on the module answers a next state with the fuses and the queue as they were. -/
theorem State.run_next (s : State) (f : Mach → Mach) : s.run f = .next (s.withMach (f s.mach)) := rfl

/-- A command after which RUN may be entered enters it exactly when R592 is met. -/
theorem State.runThen_next (s : State) (f : Mach → Mach) :
    s.runThen f = .next (if (f s.mach).runReady then (s.withMach (f s.mach)).enterRun else s.withMach (f s.mach)) := rfl

end Sys2Proof.Machine
end

