-- ==== Sys2Proof/Laws/Ctl.lean ====
section
/-! SUPPORT. What a memory controller's queue and miss registers do, said once: the place of a unit reads back as it was set, and what
issues next is a request that waits and may issue (spec/14 R471 to R476). -/

namespace Sys2Proof.Machine

theorem Dev.memPlace_setPlace (d : Dev) (p : Nat) (x : Place) (h : SMap.wf {} d.ext.places = true) : (d.setPlace p x).memPlace p = x := by
  simp only [Dev.memPlace, Dev.setPlace, Dev.onExt]
  exact SMap.get_put_same {} d.ext.places p x h

theorem Dev.memPlace_setPlace_other (d : Dev) (p q : Nat) (x : Place) (h : q ≠ p) : (d.setPlace p x).memPlace q = d.memPlace q := by
  simp only [Dev.memPlace, Dev.setPlace, Dev.onExt]
  exact SMap.get_put_other {} d.ext.places p q x h

/-- What issues next waits in the unit's queue and may issue. -/
theorem Dev.nextRead_may {d : Dev} {u : Nat} {q : MReq} (h : d.nextRead u = some q) : q ∈ (d.memPlace u).reqs ∧ d.mayIssue u q = true := by
  simp only [Dev.nextRead, Option.map_eq_some_iff] at h
  obtain ⟨f, hf, rfl⟩ := h
  have hm : f ∈ (d.memPlace u).reqs.filter fun q => d.mayIssue u q := by
    split at hf
    · next a e => cases hf; exact List.mem_of_find?_eq_some e
    · exact List.mem_of_head? hf
  rcases e : ((d.memPlace u).reqs.filter fun q => d.mayIssue u q).find?
      (fun r => r.aged && decide (r.id < f.id) && bankOf u r.cell == bankOf u f.cell) with _ | g
  · simpa [e] using List.mem_filter.mp hm
  · simpa [e] using List.mem_filter.mp (List.mem_of_find?_eq_some e)

/-- It finds a free miss register of its channel, and its bank below its quota (R471, R472). -/
theorem Dev.nextRead_room {d : Dev} {u : Nat} {q : MReq} (h : d.nextRead u = some q) :
    ((d.memPlace u).miss.filter fun r => chanOf u r.cell == chanOf u q.cell).length < chanRegs u ∧
    ((d.memPlace u).miss.filter fun r => bankOf u r.cell == bankOf u q.cell).length < bankQuota u := by
  have g := (Dev.nextRead_may h).2
  simp only [Dev.mayIssue, Place.chanFull, Place.bankFull, Bool.and_eq_true, Bool.not_eq_true', decide_eq_false_iff_not] at g
  omega

end Sys2Proof.Machine
end

