-- ==== Sys2Proof/Laws/Memory.lean ====
section
/-! SUPPORT. The laws of memory: what each operation that writes bytes or marks does to every byte, and that each keeps the canonical
form. -/

namespace Sys2Proof.Machine

/-! ### The canonical form -/

theorem Mem.wf_setByte {m : Mem} (a : Nat) (b : Byte) (h : m.wf = true) : (m.setByte a b).wf = true := by
  simp only [Mem.wf, Bool.and_eq_true] at h
  simp only [Mem.wf, Mem.setByte, Bool.and_eq_true]
  exact ⟨SMap.wf_put 0 m.bytes a b h.1, h.2⟩

theorem Mem.wf_mark {m : Mem} (a : Nat) (p : Bool) (h : m.wf = true) : (m.mark a p).wf = true := by
  simp only [Mem.wf, Bool.and_eq_true] at h
  simp only [Mem.wf, Mem.mark, Bool.and_eq_true]
  exact ⟨h.1, SMap.wf_put false m.poison (a / 64) p h.2⟩

theorem Mem.wf_remark {m : Mem} (g : Nat) (w p : Bool) (h : m.wf = true) : (m.remark g w p).wf = true := by
  unfold Mem.remark
  split
  · exact Mem.wf_mark g true h
  · split
    · exact Mem.wf_mark g false h
    · exact h

theorem Mem.wf_setBytes (l : List (Nat × Byte)) {m : Mem} (h : m.wf = true) : (m.setBytes l).wf = true := by
  induction l generalizing m with
  | nil => exact h
  | cons p r ih => exact ih (Mem.wf_setByte p.1 p.2 h)

theorem Mem.wf_fold {β : Type} (f : Mem → β → Mem) (hf : ∀ m x, m.wf = true → (f m x).wf = true) (l : List β) {m : Mem}
    (h : m.wf = true) : (l.foldl f m).wf = true := by
  induction l generalizing m with
  | nil => exact h
  | cons x r ih => exact ih (hf m x h)

/-- Every write to memory keeps the canonical form. -/
theorem Dev.wf_poke {d : Dev} (a : Nat) (bs : List Byte) (p : Bool) (h : d.mem.wf = true) : (d.poke a bs p).mem.wf = true :=
  Mem.wf_fold _ (fun _ g hm => Mem.wf_remark (d.cell g) _ p hm) _ (Mem.wf_setBytes _ h)

theorem Dev.wf_pokeRaw {d : Dev} (a : Nat) (bs : List Byte) (h : d.mem.wf = true) : (d.pokeRaw a bs).mem.wf = true :=
  Mem.wf_setBytes _ h

theorem Dev.wf_markRange {d : Dev} (a n : Nat) (p : Bool) (h : d.mem.wf = true) : (d.markRange a n p).mem.wf = true :=
  Mem.wf_fold _ (fun _ g hm => Mem.wf_mark (d.cell g) p hm) _ h

/-! ### What a write leaves of every byte -/

theorem Mem.byte_setByte_other (m : Mem) (a c : Nat) (b : Byte) (h : c ≠ a) : (m.setByte a b).byte c = m.byte c :=
  SMap.get_put_other 0 m.bytes a c b h

theorem Mem.byte_setByte_same (m : Mem) (a : Nat) (b : Byte) (h : m.wf = true) : (m.setByte a b).byte a = b := by
  simp only [Mem.wf, Bool.and_eq_true] at h
  exact SMap.get_put_same 0 m.bytes a b h.1

@[simp] theorem Mem.byte_mark (m : Mem) (a c : Nat) (p : Bool) : (m.mark a p).byte c = m.byte c := rfl

@[simp] theorem Mem.byte_remark (m : Mem) (g c : Nat) (w p : Bool) : (m.remark g w p).byte c = m.byte c := by
  unfold Mem.remark; split
  · rfl
  · split <;> rfl

theorem Mem.byte_setBytes_other (l : List (Nat × Byte)) (m : Mem) (c : Nat) (h : ∀ p ∈ l, c ≠ p.1) :
    (m.setBytes l).byte c = m.byte c := by
  induction l generalizing m with
  | nil => rfl
  | cons p r ih =>
    exact (ih _ fun q hq => h q (List.mem_cons_of_mem _ hq)).trans
      (Mem.byte_setByte_other m p.1 c p.2 (h p List.mem_cons_self))

theorem Mem.byte_fold {β : Type} (f : Mem → β → Mem) (c : Nat) (hf : ∀ m x, (f m x).byte c = m.byte c) (l : List β) (m : Mem) :
    (l.foldl f m).byte c = m.byte c := by
  induction l generalizing m with
  | nil => rfl
  | cons x r ih => exact (ih (f m x)).trans (hf m x)

/-- A byte that lies at none of the places written is as it was. -/
theorem Dev.byte_poke_other (d : Dev) (a : Nat) (bs : List Byte) (p : Bool) (c : Nat)
    (h : ∀ i, i < bs.length → c ≠ d.cell (a + i)) : (d.poke a bs p).mem.byte c = d.mem.byte c := by
  unfold Dev.poke
  refine (Mem.byte_fold _ c (fun m g => Mem.byte_remark m _ c _ p) _ _).trans (Mem.byte_setBytes_other _ _ c ?_)
  intro q hq
  simp only [List.mem_map] at hq
  obtain ⟨⟨b, i⟩, hz, rfl⟩ := hq
  have := (List.of_mem_zip hz).2
  exact h i (by simpa using this)

@[simp] theorem Dev.mem_bump (d : Dev) (r : Reg) (ix : List Nat) (n : Nat) : (d.bump r ix n).mem = d.mem := rfl
@[simp] theorem Dev.mem_bumpHi (d : Dev) (r : Reg) (ix : List Nat) : (d.bumpHi r ix).mem = d.mem := rfl

/-- Charging a regulator, and what a controller's queue does, change no byte and no mark. -/
@[simp] theorem Dev.mem_charge (d : Dev) (u part n : Nat) : (d.charge u part n).mem = d.mem := rfl
@[simp] theorem Dev.mem_memBytes (d : Dev) (u part n : Nat) : (d.memBytes u part n).mem = d.mem := by
  unfold Dev.memBytes; rw [Dev.mem_charge]; split <;> rfl
@[simp] theorem Dev.mem_setPlace (d : Dev) (u : Nat) (x : Place) : (d.setPlace u x).mem = d.mem := rfl
@[simp] theorem Dev.mem_queueReq (d : Dev) (now u : Nat) (q : MReq) : (d.queueReq now u q).mem = d.mem := rfl
@[simp] theorem Dev.mem_issueReq (d : Dev) (u : Nat) (q : MReq) : (d.issueReq u q).mem = d.mem := by simp [Dev.issueReq]
@[simp] theorem Dev.mem_issueAll (u n : Nat) (d : Dev) : (d.issueAll u n).mem = d.mem := by
  induction n generalizing d with
  | zero => rfl
  | succ n ih => unfold Dev.issueAll; split <;> simp [ih]
@[simp] theorem Dev.mem_pumpUnit (d : Dev) (u : Nat) : (d.pumpUnit u).mem = d.mem := Dev.mem_issueAll u _ d
@[simp] theorem Dev.mem_sliceErr (d : Dev) (k a : Nat) : (d.sliceErr k a).mem = d.mem := rfl
@[simp] theorem Dev.mem_useFree (d : Dev) (n : Nat) : (d.useFree n).mem = d.mem := rfl

theorem Dev.wf_markLine {d : Dev} (b : Nat) (h : d.mem.wf = true) : (d.markLine b).mem.wf = true :=
  Mem.wf_mark _ true (Mem.wf_mark b true h)

theorem Dev.wf_spoil {d : Dev} (b : Nat) (h : d.mem.wf = true) : (d.spoil b).mem.wf = true :=
  Mem.wf_mark b true (Mem.wf_setBytes _ h)

/-- A write-back of a dirty line changes memory only where a parity error is found on the way. -/
theorem Dev.mem_wbLine_none (d : Dev) (b : Nat) : (d.wbLine b .none).mem = d.mem := by
  unfold Dev.wbLine
  split
  · rfl
  · simp only [Dev.mem_pumpUnit, Dev.mem_queueReq]
    split
    · simp [detIs]
    · rfl

theorem Dev.wf_wbLine {d : Dev} (b : Nat) (x : Det) (h : d.mem.wf = true) : (d.wbLine b x).mem.wf = true := by
  unfold Dev.wbLine
  split
  · exact h
  · simp only [Dev.mem_pumpUnit, Dev.mem_queueReq]
    split
    · split
      · exact Dev.wf_markLine _ h
      · exact h
    · exact h

theorem Dev.mem_takeFind (d : Dev) : d.takeFind.1.mem = d.mem := by
  unfold Dev.takeFind; split <;> rfl

/-- A line that leaves keeps the canonical form, and changes nothing where no error hides. -/
theorem Dev.wf_evict {d : Dev} (l : Nat × CanLine) (h : d.mem.wf = true) : (d.evict l).mem.wf = true := by
  unfold Dev.evict Dev.writeBack Dev.unveil
  dsimp only
  split
  · exact Dev.wf_wbLine _ _ ((congrArg Mem.wf (Dev.mem_takeFind d)).trans h)
  · generalize bitList 2 l.2.bad = gs
    induction gs generalizing d with
    | nil => exact h
    | cons g r ih => exact ih (Dev.wf_spoil _ h)

theorem Dev.mem_evict {d : Dev} (l : Nat × CanLine) (hf : d.findings = []) (hb : l.2.bad = 0) : (d.evict l).mem = d.mem := by
  unfold Dev.evict Dev.writeBack Dev.unveil Dev.takeFind
  simp only [hf, hb]
  split
  · exact Dev.mem_wbLine_none d _
  · rfl

theorem Dev.wf_makeRoom {d : Dev} (b : Nat) (h : d.mem.wf = true) : (d.makeRoom b).mem.wf = true := by
  unfold Dev.makeRoom
  dsimp only
  split
  · exact h
  · split
    · exact Dev.wf_evict _ h
    · exact h

theorem Dev.mem_makeRoom {d : Dev} (b : Nat) (h : d.linesClean) : (d.makeRoom b).mem = d.mem := by
  unfold Dev.makeRoom
  dsimp only
  split
  · rfl
  · split
    · rename_i l hl
      exact Dev.mem_evict l h.1 (h.2 l (List.mem_filter.1 (List.mem_of_getElem? hl)).1)
    · rfl

/-! ### What an access does at its line's home -/

/-- A write-back, a line's leaving and a way's being made free leave the lines clean where they were. -/
theorem Dev.canopy_pumpUnit (u n : Nat) (d : Dev) : (d.issueAll u n).canopy = d.canopy ∧ (d.issueAll u n).findings = d.findings := by
  induction n generalizing d with
  | zero => exact ⟨rfl, rfl⟩
  | succ n ih =>
    unfold Dev.issueAll
    split
    · refine (ih _).imp (·.trans ?_) (·.trans ?_) <;> (unfold Dev.issueReq Dev.memBytes; dsimp only; split <;> rfl)
    · exact ⟨rfl, rfl⟩

theorem Dev.linesClean_wbLine {d : Dev} (b : Nat) (h : d.linesClean) : (d.wbLine b .none).linesClean := by
  unfold Dev.wbLine
  split
  · exact h
  · dsimp only
    unfold Dev.linesClean Dev.pumpUnit
    rw [(Dev.canopy_pumpUnit _ _ _).1, (Dev.canopy_pumpUnit _ _ _).2]
    split <;> exact h

theorem Dev.linesClean_evict {d : Dev} (l : Nat × CanLine) (h : d.linesClean) (hb : l.2.bad = 0) : (d.evict l).linesClean := by
  have key (e : Dev) (he : e.linesClean) :
      ({ e with canopy := { e.canopy with lines := e.canopy.lines.del l.1 } } : Dev).linesClean :=
    ⟨he.1, fun x hx => he.2 x (SMap.mem_of_mem_del _ hx)⟩
  unfold Dev.evict Dev.writeBack Dev.unveil Dev.takeFind
  simp only [h.1, hb]
  split
  · exact key _ (Dev.linesClean_wbLine _ h)
  · exact key _ h

theorem Dev.linesClean_makeRoom {d : Dev} (b : Nat) (h : d.linesClean) : (d.makeRoom b).linesClean := by
  unfold Dev.makeRoom
  dsimp only
  split
  · exact h
  · split
    · rename_i l hl
      exact Dev.linesClean_evict l h (h.2 l (List.mem_filter.1 (List.mem_of_getElem? hl)).1)
    · exact h

theorem Dev.linesClean_put {d : Dev} (k : Nat) (y : CanLine) (h : d.linesClean) (hy : y.bad = 0) :
    ({ d with canopy := { d.canopy with lines := d.canopy.lines.put {} k y } } : Dev).linesClean :=
  ⟨h.1, fun x hx => (SMap.mem_put hx).elim (fun e => by rw [e]; exact hy) (h.2 x)⟩

theorem Dev.linesClean_get {d : Dev} (k : Nat) (h : d.linesClean) : (SMap.get {} d.canopy.lines k).bad = 0 :=
  (SMap.get_mem {} d.canopy.lines k).elim (fun e => by rw [e]) fun hm => h.2 _ hm

theorem Dev.linesClean_memBytes {d : Dev} (u part n : Nat) (h : d.linesClean) : (d.memBytes u part n).linesClean := by
  unfold Dev.memBytes; dsimp only; split <;> exact h

/-- What an access does at its line's home changes no byte and no mark, and hides no error, where none was hidden. -/
theorem Dev.touchLine_clean {d : Dev} (a n : Nat) (x : Access) (h : d.linesClean) :
    (d.touchLine a n x).mem = d.mem ∧ (d.touchLine a n x).linesClean := by
  have ask (e : Dev) (u k : Nat) (he : e.mem = d.mem) (hc : e.linesClean) :
      (if x.fetched = true then e else e.memBytes u x.part k).mem = d.mem ∧
        (if x.fetched = true then e else e.memBytes u x.part k).linesClean := by
    split
    · exact ⟨he, hc⟩
    · exact ⟨(Dev.mem_memBytes e u x.part k).trans he, Dev.linesClean_memBytes u x.part k hc⟩
  unfold Dev.touchLine
  dsimp only
  split
  · exact ⟨rfl, h⟩
  · split
    · exact ask d _ _ rfl h
    · split
      · exact ask d _ _ rfl h
      · rename_i b _ k _
        generalize hd1 : Dev.charge _ (64 + k) x.part n = d1
        have h1 : d1.mem = d.mem ∧ d1.linesClean := by
          subst hd1; split <;> exact ⟨rfl, h⟩
        split
        · exact ⟨h1.1, Dev.linesClean_put _ _ h1.2 (Dev.linesClean_get _ h)⟩
        · split
          · have h2 (p : Prop) [Decidable p] (u : Nat) :
                (if p then d1 else if x.fetched = true then d1 else d1.memBytes u x.part 128).mem = d.mem ∧
                (if p then d1 else if x.fetched = true then d1 else d1.memBytes u x.part 128).linesClean := by
              split
              · exact h1
              · exact ask d1 _ _ h1.1 h1.2
            exact ⟨(Dev.mem_makeRoom _ (h2 _ _).2).trans (h2 _ _).1, Dev.linesClean_put _ _ (Dev.linesClean_makeRoom _ (h2 _ _).2) rfl⟩
          · exact ask d1 _ _ h1.1 h1.2
  · exact ⟨rfl, h⟩

theorem Dev.touch_clean {d : Dev} (a n : Nat) (x : Access) (h : d.linesClean) :
    (d.touch a n x).mem = d.mem ∧ (d.touch a n x).linesClean := by
  unfold Dev.touch
  generalize lineAddrs a n = l
  induction l generalizing d with
  | nil => exact ⟨rfl, h⟩
  | cons y r ih =>
    have h1 := Dev.touchLine_clean (overlap a n y 128).1 (overlap a n y 128).2 x h
    exact ⟨(ih h1.2).1.trans h1.1, (ih h1.2).2⟩

/-- An access keeps the canonical form whatever the slices hide. -/
theorem Dev.wf_touchLine {d : Dev} (a n : Nat) (x : Access) (h : d.mem.wf = true) : (d.touchLine a n x).mem.wf = true := by
  have ask (e : Dev) (u k : Nat) (he : e.mem.wf = true) : (if x.fetched = true then e else e.memBytes u x.part k).mem.wf = true := by
    split
    · exact he
    · rw [Dev.mem_memBytes]; exact he
  unfold Dev.touchLine
  dsimp only
  split
  · exact h
  · split
    · exact ask d _ _ h
    · split
      · exact ask d _ _ h
      · rename_i b _ k _
        generalize hd1 : Dev.charge _ (64 + k) x.part n = d1
        have h1 : d1.mem.wf = true := by subst hd1; split <;> exact h
        split
        · exact h1
        · split
          · refine Dev.wf_makeRoom _ ?_
            split
            · exact h1
            · exact ask d1 _ _ h1
          · exact ask d1 _ _ h1
  · exact h

theorem Dev.wf_touch {d : Dev} (a n : Nat) (x : Access) (h : d.mem.wf = true) : (d.touch a n x).mem.wf = true := by
  unfold Dev.touch
  generalize lineAddrs a n = l
  induction l generalizing d with
  | nil => exact h
  | cons y r ih => exact ih (Dev.wf_touchLine _ _ x h)

@[simp] theorem Dev.mem_lineWritten (d : Dev) (a n : Nat) : (d.lineWritten a n).mem = d.mem := rfl

/-- A write at its slice or controller leaves every byte that lies at none of its places, while the slices hide no error. -/
theorem Dev.byte_storeNow_other (d : Dev) (a : Nat) (bs : List Byte) (p : Bool) (part : Option Nat) (f : Bool) (c : Nat) (hc : d.linesClean)
    (h : ∀ i, i < bs.length → c ≠ d.cell (a + i)) : (d.storeNow a bs p part f).mem.byte c = d.mem.byte c :=
  (congrArg (fun m => Mem.byte m c) ((Dev.mem_lineWritten _ _ _).trans (Dev.touch_clean _ _ _ (d := d.poke a bs p) hc).1)).trans
    (Dev.byte_poke_other d a bs p c h)

theorem Dev.wf_storeNow {d : Dev} (a : Nat) (bs : List Byte) (p : Bool) (part : Option Nat) (f : Bool) (h : d.mem.wf = true) :
    (d.storeNow a bs p part f).mem.wf = true :=
  Dev.wf_touch a bs.length _ (Dev.wf_poke a bs p h)

/-- A store leaves every byte that lies at none of its places; held back, it leaves them all. -/
theorem Dev.byte_store_other (d : Dev) (a : Nat) (bs : List Byte) (p : Bool) (by_ part : Option Nat) (f : Bool) (c : Nat)
    (hc : d.linesClean) (h : ∀ i, i < bs.length → c ≠ d.cell (a + i)) : (d.store a bs p by_ part f).mem.byte c = d.mem.byte c := by
  unfold Dev.store
  split
  · exact Dev.byte_storeNow_other d a bs p part f c hc h
  · rfl

theorem Dev.wf_store {d : Dev} (a : Nat) (bs : List Byte) (p : Bool) (by_ part : Option Nat) (f : Bool) (h : d.mem.wf = true) :
    (d.store a bs p by_ part f).mem.wf = true := by
  unfold Dev.store
  split
  · exact Dev.wf_storeNow a bs p part f h
  · exact h

/-- Memory right after reset is in the canonical form. -/
theorem State.reset_mem_wf : State.reset.mach.dev.mem.wf = true := rfl

end Sys2Proof.Machine
end

