-- ==== Sys2Proof/Laws/Module.lean ====
section
/-! SUPPORT. What the shared operations of the module do to its state, its time and its log, said once each. -/

namespace Sys2Proof.Machine

theorem Mach.alertEdge_und (a b : Mach) : (a.alertEdge b).und = b.und := by unfold Mach.alertEdge; split <;> rfl
theorem Mach.alertEdge_nv (a b : Mach) : (a.alertEdge b).nv = b.nv := by unfold Mach.alertEdge; split <;> rfl

/-- An event keeps the module's state, its time and the flash. -/
@[simp] theorem Mach.event_st (m : Mach) (code sev unit data : Nat) : (m.event code sev unit data).und.st = m.und.st := by
  unfold Mach.event
  exact (congrArg Und.st (Mach.alertEdge_und m _)).trans rfl

@[simp] theorem Mach.event_now (m : Mach) (code sev unit data : Nat) : (m.event code sev unit data).und.now = m.und.now := by
  unfold Mach.event
  exact (congrArg Und.now (Mach.alertEdge_und m _)).trans rfl

@[simp] theorem Mach.event_nv (m : Mach) (code sev unit data : Nat) : (m.event code sev unit data).nv = m.nv := by
  unfold Mach.event
  exact (Mach.alertEdge_nv m _).trans rfl

/-- After an event the log holds at most 64 records (R625). -/
theorem Mach.event_log (m : Mach) (code sev unit data : Nat) : (m.event code sev unit data).und.evLog.length ≤ 64 := by
  unfold Mach.event
  refine (congrArg (fun u => u.evLog.length) (Mach.alertEdge_und m _)).trans_le ?_
  exact List.length_take_le _ _

@[simp] theorem Mach.toState_st (m : Mach) (st : MSt) : (m.toState st).und.st = st := rfl
@[simp] theorem Mach.toState_now (m : Mach) (st : MSt) : (m.toState st).und.now = m.und.now := rfl
@[simp] theorem Mach.toState_evLog (m : Mach) (st : MSt) : (m.toState st).und.evLog = m.und.evLog := rfl
@[simp] theorem Mach.toState_nv (m : Mach) (st : MSt) : (m.toState st).nv = m.nv := rfl
@[simp] theorem Mach.toState_dev (m : Mach) (st : MSt) : (m.toState st).dev = { m.dev with obsState := st.observes } := rfl

/-- FAULT_HOLD is entered, with its record, at the instant it was. -/
@[simp] theorem Mach.faultHold_st (m : Mach) (cause : Nat) : (m.faultHold cause).und.st = .faultHold := Mach.event_st _ _ _ _ _
@[simp] theorem Mach.faultHold_now (m : Mach) (cause : Nat) : (m.faultHold cause).und.now = m.und.now := Mach.event_now _ _ _ _ _

@[simp] theorem Mach.enterBoot_st (m : Mach) : m.enterBoot.und.st = .boot := congrArg Und.st (Mach.alertEdge_und m _)
@[simp] theorem Mach.enterBoot_now (m : Mach) : m.enterBoot.und.now = m.und.now :=
  (congrArg Und.now (Mach.alertEdge_und m _)).trans rfl
@[simp] theorem Mach.enterRecovery_st (m : Mach) (cause : Nat) : (m.enterRecovery cause).und.st = .recovery := Mach.event_st _ _ _ _ _
@[simp] theorem Mach.enterRecovery_now (m : Mach) (cause : Nat) : (m.enterRecovery cause).und.now = m.und.now :=
  Mach.event_now _ _ _ _ _
@[simp] theorem Mach.toUnderstory_st (m : Mach) : m.toUnderstory.und.st = .understory := rfl
@[simp] theorem Mach.toUnderstory_now (m : Mach) : m.toUnderstory.und.now = m.und.now := rfl
@[simp] theorem Mach.startDrain_st (m : Mach) (dst : DrainTo) : (m.startDrain dst).und.st = .drain := rfl

/-- Rail sequencing changes neither the state nor the time. -/
@[simp] theorem Mach.startRails_st (m : Mach) : m.startRails.und.st = m.und.st := by unfold Mach.startRails; split <;> rfl
@[simp] theorem Mach.startRails_now (m : Mach) : m.startRails.und.now = m.und.now := by unfold Mach.startRails; split <;> rfl

/-- The entry to RUN. -/
@[simp] theorem State.enterRun_st (s : State) : s.enterRun.mach.und.st = .run := rfl
@[simp] theorem State.enterRun_now (s : State) : s.enterRun.mach.und.now = s.mach.und.now := rfl
@[simp] theorem State.enterRun_pending (s : State) : s.enterRun.pending = s.pending := rfl
@[simp] theorem State.enterRun_evLog (s : State) : s.enterRun.mach.und.evLog = s.mach.und.evLog := rfl

/-- A lost unit holds the module only while it serves (R622). -/
theorem Mach.lossHold_st (m : Mach) (area : Option Nat) :
    (m.lossHold area).und.st = m.und.st ∨ (m.und.st.serves = true ∧ (m.lossHold area).und.st = .faultHold) := by
  unfold Mach.lossHold
  split
  · exact .inl rfl
  · rename_i h
    have hs : m.und.st.serves = true := by simpa using h
    split
    · exact .inr ⟨hs, Mach.faultHold_st _ _⟩
    · split
      · exact .inr ⟨hs, Mach.faultHold_st _ _⟩
      · exact .inl rfl

end Sys2Proof.Machine
end

