-- ==== Sys2Proof/Laws/Seq.lean ====
section
/-! SUPPORT. What the frame of a Natriuk instruction does, said once: the instruction's effect in the mode it is executed in, or the
exception. -/

namespace Sys2Proof.Machine

theorem Dev.nx_runs {d : Dev} {now : Nat} {q : Sq} {w : BitVec 32} {opc f3 : Nat} {ok : Bool} {f : Dev → Dev}
    (hr : d.seqReady q = true) (hw : nxIs w opc f3 = true) (ho : ok = true) : d.nx now q w opc f3 ok f = f (d.enter now q) := by
  simp only [Dev.nx, hr, hw, ho, Bool.not_true, Bool.or_self, Bool.false_eq_true, if_false, if_true]

theorem Dev.nx_illegal {d : Dev} {now : Nat} {q : Sq} {w : BitVec 32} {opc f3 : Nat} {ok : Bool} {f : Dev → Dev}
    (hr : d.seqReady q = true) (hw : nxIs w opc f3 = true) (ho : ok = false) :
    d.nx now q w opc f3 ok f = (d.enter now q).exc now q excIllegal eArg := by
  simp only [Dev.nx, hr, hw, ho, Bool.not_true, Bool.or_self, Bool.false_eq_true, if_false]

theorem Dev.nx_none {d : Dev} {now : Nat} {q : Sq} {w : BitVec 32} {opc f3 : Nat} {ok : Bool} {f : Dev → Dev}
    (hr : d.seqReady q = false) : d.nx now q w opc f3 ok f = d := by
  simp only [Dev.nx, hr, Bool.not_false, Bool.true_or, if_true]

end Sys2Proof.Machine
end

