-- ==== Sys2Proof/Laws/Slots.lean ====
section
/-! SUPPORT. What taking a slot's command does, said once: nothing, a refusal, or the start of the command. -/

namespace Sys2Proof.Machine

theorem Dev.takeCmd_idle (d : Dev) (now slot opc : Nat) (config : Bool) (checks : HOp → List (Bool × Nat))
    (go : Dev → HOp → Dev) (h : d.queuedOp slot opc = none) : d.takeCmd now slot opc config checks go = d := by
  rw [Dev.takeCmd, h]

theorem Dev.takeCmd_accepts {d : Dev} {now slot opc : Nat} {config : Bool} {checks : HOp → List (Bool × Nat)}
    {go : Dev → HOp → Dev} {o : HOp} (h : d.Accepts slot opc config checks o) :
    d.takeCmd now slot opc config checks go = go (d.taken now o) (o.taken now) := by
  rw [Dev.takeCmd, h.1]
  simp only [h.2, bne_self_eq_false, Bool.false_eq_true, if_false]
  rfl

theorem Dev.takeCmd_refuses {d : Dev} {now slot opc st : Nat} {config : Bool} {checks : HOp → List (Bool × Nat)}
    {go : Dev → HOp → Dev} {o : HOp} (h : d.Refuses slot opc config checks o st) :
    d.takeCmd now slot opc config checks go = d.finish o st [] := by
  rw [Dev.takeCmd, h.1]
  have e : (st != sOk) = true := by simpa using h.2.2
  simp only [h.2.1, e, if_true]

theorem Dev.takeCmdR_accepts {d : Dev} {now slot opc : Nat} {checks : HOp → List (Bool × Nat)}
    {res : HOp → List (Nat × Nat × Nat)} {go : Dev → HOp → Dev} {o : HOp} (h : d.Accepts slot opc false checks o) :
    d.takeCmdR now slot opc checks res go = go (d.taken now o) (o.taken now) := by
  rw [Dev.takeCmdR, h.1]
  simp only [h.2, bne_self_eq_false, Bool.false_eq_true, if_false]
  rfl

theorem Dev.takeCmdR_refuses {d : Dev} {now slot opc st : Nat} {checks : HOp → List (Bool × Nat)}
    {res : HOp → List (Nat × Nat × Nat)} {go : Dev → HOp → Dev} {o : HOp} (h : d.Refuses slot opc false checks o st) :
    d.takeCmdR now slot opc checks res go = d.finish o st (res o) := by
  rw [Dev.takeCmdR, h.1]
  have e : (st != sOk) = true := by simpa using h.2.2
  simp only [h.2.1, e, if_true]

end Sys2Proof.Machine
end

