-- ==== Sys2Proof/Tests/Slice0.lean ====
section
/-! SUPPORT. Tests. For each statement with premises, a concrete state and operands that meet them, clause by clause; a command that
each check of `WellFormed` refuses; the spec's worked examples; single steps. The premises that an image passes its verification rest
on constants of `Config` (R582: SHA-384, RSA and SLH-DSA), so no state can be shown to meet them; that a configuration passes its whole
check is too long for the kernel (NOTES.md). -/

namespace Sys2Proof.Tests
open Sys2Proof Sys2Proof.Machine
set_option maxRecDepth 100000
set_option Elab.async false

/-! ### Small states -/

/-- A record of fields, each an offset in bytes and its value. -/
def rcdOf (n : Nat) (fs : List (Nat × Nat)) : List Byte := leBytes n (fs.foldl (fun x p => x + p.2 * 2 ^ (8 * p.1)) 0)

/-- A state of the module with a volatile part. -/
def stOf (m : MSt) (d : Dev) : State := { mach := { und := { st := m }, dev := d } }

/-- One cluster of eight cores, two stacks, one package, no slice, two ports. -/
def units0 : Units := ⟨0xFF, 1, 0, 3, 1, 3⟩

/-- Context 0 owns every slot and may write the configuration; the host's decoders reach external memory, the windows from the
Clearings on, and the status window. -/
def conf0 : Conf :=
  { reg := SMap.put 0 (SMap.put 0 (SMap.put 0 [] (Reg.CXL_CTX.off [0]) 0x7FFFC0003) (Reg.CXL_HDMMAP.off [1]) 0x2000)
      (Reg.CXL_HDMMAP.off [2]) 0x3200 }

/-- A configuration that no check accepts: CMT_WIN below its range. -/
def conf1 : Conf := { conf0 with reg := SMap.put 0 conf0.reg (Reg.CXL_CMTCFG.off []) 1 }

/-- A host link with three decoders. -/
def host0 : HostPort :=
  { link := true, decs := [(0, ⟨true, 0, 2 ^ 40⟩), (1, ⟨true, 2 ^ 40, 2 ^ 40⟩), (2, ⟨true, 2 ^ 41, 2 ^ 28⟩)] }

def dev0 : Dev := { pres := units0, conf := conf0, shad := conf0, host := host0 }

/-- The module in RUN. -/
def run0 : State := stOf .run dev0

/-! ### Premises of the statements: whole machine -/

theorem test_EmptyQueueTicks_premises : State.reset.pending = [] ∧
    (let s : State := stOf .run { dev0 with net := { ports := [(0, { up := 1 })] } }
     s.pending = [] ∧ (∀ p ∈ s.dev.net.ports, p.2.buf = [] ∧ p.2.pauseEnd = []) ∧ SMap.wf {} s.dev.net.ports = true) := by decide

theorem test_steps_premises : step { run0 with pending := [.hostSnoop] } = .next (run0.withDev (run0.dev.emit .snoopMiss)) ∧
    run0.mach.und.evLog.length ≤ 64 := ⟨rfl, by decide⟩

theorem test_frames_premises : volatileOnly .hostSnoop = true ∧ storesNothing .hostSnoop = true ∧ run0.dev.storesNothingNow (.prefetchFill 0 0) ∧
    exec .hostSnoop run0 = .next (run0.withDev (run0.dev.emit .snoopMiss)) := ⟨rfl, rfl, (by decide : run0.dev.linesClean), rfl⟩

/-- LINKUP with its wait over; the module knows its ID. -/
def linkup0 : State := stOf .linkup { dev0 with net := { id := some 1 } }

theorem test_FusesAtEntryToRun_premises :
    linkup0.mach.und.st = .linkup ∧
    (linkup0.mach.atTime (linkup0.mach.und.stateAt + linkup0.dev.cfgF .UND_LINKCFG [] 0 16 * 12000000)).runReady = true ∧
    ({ linkup0.mach.und with source := 1 } : Und).source = 1 ∧
    linkup0.mach.und.source ≠ 1 := by
  refine ⟨?_, ?_, ?_, ?_⟩ <;> decide +kernel

theorem test_UndCtlPriority_premises :
    run0.mach.und.st = .run ∧
    bitAt 7 0 = true ∧
    bitAt 6 0 = false ∧
    bitAt 6 1 = true ∧
    bitAt 4 0 = false ∧
    bitAt 4 1 = false ∧
    bitAt 4 2 = true ∧
    linkup0.mach.und.st ≠ .run ∧
    linkup0.mach.und.st ≠ .recovery ∧
    (stOf .recovery {}).mach.und.st = .recovery ∧
    bitAt 2 1 = true ∧
    bitAt 2 0 = false ∧
    (bitAt 1 1 = false ∨ bitAt 1 0 = true) ∧
    (7 : Word).toNat < 8 := by
  refine ⟨?_, ?_, ?_, ?_, ?_, ?_, ?_, ?_, ?_, ?_, ?_, ?_, ?_, ?_⟩ <;> decide +kernel

/-- The same with slice 0 a Clearing; with the command region in HBM at 1 MB. -/
def clear0 : Dev := { dev0 with pres := { units0 with slices := 1 } }.wr .CAN_ACTIVE [] 1
def cmd0 : Dev := { dev0 with conf := { conf0 with reg := SMap.put 0 conf0.reg (Reg.CXL_CMDBASE.off []) 1 } }

/-- A core that runs a thread of a live job: the thread of handle 0, the job 1 of cluster 0. -/
def thr0 : State := stOf .run { dev0 with
  cores := [(0, { sq := { cur := some 0, user := true } })]
  threads := [(0, { st := .running, job := 1 })]
  jobs := [(1, { live := true })] }

/-- A line of bytes. -/
def line0 : List Byte := List.replicate 64 7

theorem test_HostWriteFrame_premises : run0.dev.linesClean ∧ clear0.linesClean ∧ run0.dev.hdm (0x1040 / 64 * 64) = some 0x1040 ∧
    (∃ u b, run0.dev.target 0x1040 = .ext u b) ∧ (clear0.hdm (2 ^ 40 / 64 * 64) = some clearBase ∧ ∃ k, clear0.target clearBase = .clearing k) ∧
    (run0.dev.hostMemWrite 0x1040 255 ((line0 ++ zeros64).take 64) true).armSlot 0x1040 = none ∧
    ∃ t, exec (.hostMemWrite 0x1040 line0 255 true) run0 = .next t :=
  ⟨by decide, by decide +kernel, by decide +kernel, ⟨0, 0x1040, by decide +kernel⟩, ⟨by decide +kernel, 0, by decide +kernel⟩, by decide +kernel,
    ⟨_, (rfl : execHostMemWrite 0x1040 line0 255 true run0 = State.run run0 _).trans (State.run_next _ _)⟩⟩

theorem test_HostReadAnswers_premises :
    run0.dev.host.link = true ∧ run0.mach.und.st.serves = true ∧
    (stOf .boot dev0).dev.host.link = true ∧ (stOf .boot dev0).mach.und.st.serves = false ∧
    dev0.hdm (0x1040 / 64 * 64) = some 0x1040 ∧ dev0.target 0x1040 = .ext 0 0x1040 ∧ dev0.readWait dev0.hostPart 0x1040 64 = 0 ∧
    clear0.hdm (2 ^ 40 / 64 * 64) = some clearBase ∧ clear0.target clearBase = .clearing 0 ∧ clear0.readWait clear0.hostPart clearBase 64 = 0 ∧
    dev0.hdm (2 ^ 40 / 64 * 64) = some clearBase ∧ dev0.target clearBase = .noClear ∧
    dev0.hdm (7 * 2 ^ 36 / 64 * 64) = some (7 * 2 ^ 36) ∧ dev0.target (7 * 2 ^ 36) = .hole ∧
    dev0.hdm ((2 ^ 40 + 0x800800000) / 64 * 64) = some (syncBase + 0x800000) ∧ dev0.target (syncBase + 0x800000) = .syncHole ∧
    dev0.hdm ((2 ^ 40 + 0x800000040) / 64 * 64) = some (syncBase + 64) ∧ dev0.target (syncBase + 64) = .syncObj 1 0 ∧
    dev0.syncBroken 1 = false ∧ Det.none ≠ .twice .syncUnit ∧
    dev0.hdm (2 ^ 41 / 64 * 64) = some statusWin ∧ dev0.target statusWin = .status 0 := by
  refine ⟨?_, ?_, ?_, ?_, ?_, ?_, ?_, ?_, ?_, ?_⟩ <;> decide +kernel

theorem test_HostWritesStoreAndArm_premises :
    line0.length = 64 ∧ run0.dev.host.link = true ∧ run0.mach.und.st.serves = true ∧
    dev0.writeWait dev0.hostPart 0x1040 64 = 0 ∧ (dev0.hostMemWrite 0x1040 255 line0 true).armSlot 0x1040 = none ∧
    255 % 256 = 255 ∧ 15 % 256 ≠ 255 ∧
    run0.mach.und.st = .run ∧ 4095 < 4096 ∧
    (let d := cmd0.hostMemWrite (cmd0.cmdBase + 256 * 4095) 255 (leBytes 64 (2 ^ 63 + 9)) false
     (bitAt (2 ^ 63 + 9) 63 && (9 : Nat) != 0 && bitsOf (2 ^ 63 + 9) 32 31 == 0 && (9 : Nat) != SMap.get 0 d.host.lastSeq 4095 && (d.slotCtx 4095).isSome && (d.slotOp 4095).isNone) = true) ∧
    bitAt 9 63 = false ∧
    bitsOf (2 ^ 63 + 2 ^ 40 + 9) 32 31 ≠ 0 := by
  refine ⟨?_, ?_, ?_, ?_, ?_, ?_, ?_⟩ <;> decide +kernel

theorem test_RegisterWritesActOrAreCounted_premises :
    run0.mach.und.st.serves = true ∧ 0xFFFFF8 % 8 = 0 ∧ regAt 0xFFFFF8 = none ∧
    Reg.MEM_RGN.off [63] % 8 = 0 ∧ regAt (Reg.MEM_RGN.off [63]) = some (.MEM_RGN, [63]) ∧ Reg.MEM_RGN.atomic = false ∧
      Reg.MEM_RGN.row.view = .shadow ∧
    regAt (Reg.UND_CTL.off []) = some (.UND_CTL, []) ∧ Reg.UND_CTL.atomic = false ∧ Reg.UND_CTL.row.view ≠ .shadow ∧
    (let y := setBits (run0.mach.regValue .UND_CTL [] false &&& Reg.UND_CTL.bitsOf .rw) 0 64 1
     y &&& Reg.UND_CTL.named = y ∧ Reg.UND_CTL.legal run0.dev.conf [] y = true) ∧
    (let y := setBits (run0.mach.regValue .UND_CTL [] false &&& Reg.UND_CTL.bitsOf .rw) 0 64 (2 ^ 63)
     y &&& Reg.UND_CTL.named ≠ y) ∧
    (1 < 2 ∧ (run0.mach.und.st = .run ∨ run0.mach.und.st = .drain)) ∧
    linkup0.mach.und.st ≠ .run ∧ linkup0.mach.und.st ≠ .drain ∧
    thr0.dev.seqReady ⟨0, false⟩ = true ∧ ((thr0.dev.enter thr0.now ⟨0, false⟩).core 0).sq.cur = some 0 := by
  refine ⟨?_, ?_, ?_, ?_, ?_, ?_, ?_, ?_⟩ <;> decide +kernel

/-! ### Premises of the statements: the host's commands -/

/-- The operation of slot 0 with a code and a record. -/
def opOf (opc : Nat) (fs : List (Nat × Nat)) (st : OpSt := .queued) : HOp :=
  { handle := 2 ^ 31 + 4096, seq := 1, opc := opc, copc := opc, rcd := rcdOf 256 fs, st := st }

/-- A state in which the host has given commands. -/
def cmds (d : Dev) (os : List HOp) : State := stOf .run { d with host := { d.host with ops := os } }

/-- Table 0: 8 rows of 32 bytes at 0x100000, default zeros. Table 1: the same, versioned. Table 2: sharded, of one shard, with a
binding. Layer 0 of this module. -/
def tabs0 : Dev := { dev0 with
  net := { id := some 1 }
  conf := { conf0 with
    reg := SMap.put 0 conf0.reg (Reg.TBL_SHB.off [2]) 0x100000
    tab := {
      tbl := [(0, rcdOf 64 [(0, 9), (2, 1), (8, 8), (16, 0x100000)]), (1, rcdOf 64 [(0, 11), (2, 1), (8, 8), (16, 0x100000), (24, 0x110000)]),
              (2, rcdOf 64 [(0, 0x29), (2, 1), (4, 12), (8, 8)])]
      bind := [(0, rcdOf 32 [(0, 1)]), (2, rcdOf 32 [(0, 1)])]
      layer := [(0, rcdOf 64 [(0, 1), (4, 1), (6, 1)])] } } }

/-- The module with a tile of the zero form at 0x2000. -/
def tile0 : Dev := dev0.poke 0x2000 (TileHdr.build ⟨3, 0, 0, 0, 0, 1, 1, 0, 0, 0, 32, 0, 0⟩)

theorem test_LongCommandsStart_premises :
    (cmds dev0 [opOf 0x111 [(32, 0x1000), (40, 0x8000), (48, 64)]]).dev.Accepts 0 0x0111 false (cmds dev0 [opOf 0x111 [(32, 0x1000), (40, 0x8000), (48, 64)]]).dev.copyChecks (opOf 0x111 [(32, 0x1000), (40, 0x8000), (48, 64)]) ∧
    (cmds tabs0 [opOf 0x112 [(32, 0), (48, 8), (56, 0x1000)]]).dev.Accepts 0 0x0112 false ((cmds tabs0 [opOf 0x112 [(32, 0), (48, 8), (56, 0x1000)]]).dev.tblLoadChecks 0) (opOf 0x112 [(32, 0), (48, 8), (56, 0x1000)]) ∧
    (let o := opOf 0x113 [(32, 1), (40, 0x2000), (48, 0x4000)]
     let d := (cmds tile0 [o]).dev
     d.Accepts 0 0x0113 false d.tileLoadChecks o ∧ o.srcHost = false ∧ d.tileFound o = .done 32) ∧
    (let o := opOf 0x113 [(32, 1), (36, 1), (40, 0x2000), (48, 0x4000)]
     let d := (cmds dev0 [o]).dev
     d.Accepts 0 0x0113 false d.tileLoadChecks o ∧ o.srcHost = true) ∧
    (let o := opOf 0x114 [(32, 0), (40, 64)]; let d := (cmds dev0 [o]).dev; d.Accepts 0 0x0114 true d.scrubChecks o) ∧
    (let o := opOf 0x115 [(48, 1)]; let d := (cmds dev0 [o]).dev; d.Accepts 0 0x0115 true d.eraseChecks o) ∧
    (let o := opOf 0x102 [(36, 60000), (48, 4096)]; let d := (cmds dev0 [o]).dev; d.Accepts 0 0x0102 true d.drainChecks o) ∧
    (let o := opOf 0x120 [(32, 1), (36, 1), (40, 0x1000), (48, 0x2000)]
     let d := (cmds tabs0 [o]).dev
     d.Accepts 0 0x0120 false d.replChecks o ∧ bitAt (o.f 34 2) 0 = false) ∧
    (let o := opOf 0x120 [(32, 1), (34, 1), (36, 1), (40, 0x1000), (48, 0x2000)]
     let d := (cmds tabs0 [o]).dev
     d.Accepts 0 0x0120 false d.replChecks o ∧ bitAt (o.f 34 2) 0 = true) := by
  refine ⟨?_, ?_, ?_, ?_, ?_, ?_, ?_, ?_, ?_⟩ <;> decide +kernel

theorem test_SetCommandsWriteTheShadow_premises :
    (let o := opOf 0x116 [(32, 255), (40, 0x1000)]
     let d := (cmds dev0 [o]).dev
     d.Accepts 0 0x0116 true (d.setChecks 1 256 64 64 0) o) ∧
    (let o := opOf 0x121 [(32, 4095), (40, 0x1000)]
     let d := (cmds dev0 [o]).dev
     d.Accepts 0 0x0121 true (d.setChecks 2 4096 64 64 0) o) ∧
    (let o := opOf 0x124 [(32, 1), (40, 0x1000)]
     let d := (cmds dev0 [o]).dev
     d.Accepts 0 0x0124 true (d.setChecks 1 256 64 64 0) o) ∧
    (let o := opOf 0x127 [(32, 1), (40, 0x1020)]
     let d := (cmds dev0 [o]).dev
     d.Accepts 0 0x0127 true (d.setChecks 2 4096 32 32 0) o) ∧
    (let o := opOf 0x128 [(32, 1023), (40, 0x1000), (48, 7)]
     let d := (cmds dev0 [o]).dev
     d.Accepts 0 0x0128 true (d.setChecks 2 1024 64 64 8) o) ∧
    (let o := opOf 0x126 [(32, 63), (40, 0x1008)]
     let d := (cmds dev0 [o]).dev
     8 = 8 + 8 * (d.num (o.f 40 8) 1 % 64) ∧ d.Accepts 0 0x0126 true (d.setChecks 1 64 8 8 0) o) ∧
    (let o := opOf 0x117 [(32, 5), (40, 0x1000), (48, 16)]
     let d := (cmds dev0 [o]).dev
     d.Accepts 0 0x0117 true d.progChecks o ∧ bitAt (o.f 36 2) 0 = false) ∧
    (let o := opOf 0x117 [(32, 5), (36, 1), (40, 0x1000), (48, 16)]
     let d := (cmds dev0 [o]).dev
     d.Accepts 0 0x0117 true d.progChecks o ∧ bitAt (o.f 36 2) 0 = true ∧ o.f 48 4 ≠ 0) := by
  refine ⟨?_, ?_, ?_, ?_, ?_, ?_, ?_, ?_⟩ <;> decide +kernel

theorem test_TableCommandsAct_premises :
    (let o := opOf 0x122 [(32, 2), (40, 1), (48, 0x1000)]
     let d := ((cmds tabs0 [o]).dev.poke 0x1000 (Ent.bytes { state := 1, module := 1, key := entKey 2 0 }))
     d.Accepts 0 0x0122 true d.shardChecks o) ∧
    (let o := opOf 0x123 [(32, 2), (35, 1), (36, 1), (48, 0x1000)]
     let d := (cmds tabs0 [o]).dev
     d.Accepts 0 0x0123 true d.migChecks o) ∧
    (let o := opOf 0x125 [(34, 0), (50, 1), (56, 1), (64, 0x1000)]
     let d := (cmds tabs0 [o]).dev
     d.Accepts 0 0x0125 false d.updChecks o) ∧
    (let o := opOf 0x125 [(32, 1), (34, 0), (50, 1), (56, 1), (64, 0x1000)]
     let d := (cmds tabs0 [o]).dev
     d.Accepts 0 0x0125 false d.updChecks o) ∧
    (let o := opOf 0x130 [(32, 1), (40, 0x1000), (48, 0x2000)]
     let d := (cmds dev0 [o]).dev
     d.Accepts 0 0x0130 false d.maskChecks o ∧ bitAt (o.f 36 2) 0 = false) ∧
    (let o := opOf 0x130 [(32, 1), (36, 1), (40, 0x1000), (48, 0x2000)]
     let d := (cmds dev0 [o]).dev
     d.Accepts 0 0x0130 false d.maskChecks o ∧ bitAt (o.f 36 2) 0 = true) ∧
    (let o := opOf 0x140 [(32, 7), (40, 0x1000)]
     let d := ((cmds dev0 [o]).dev.poke 0x1000 [9, 0, 0, 0, 0, 0, 0, 0, 3])
     d.Accepts 0 0x0140 true d.routeChecks o ∧ bitAt (recNum (d.bytes (o.f 40 8) 32) 0 1) 3 = true) ∧
    (let o := opOf 0x140 [(32, 7), (40, 0x1000)]
     let d := (cmds dev0 [o]).dev
     d.Accepts 0 0x0140 true d.routeChecks o ∧ bitAt (recNum (d.bytes (o.f 40 8) 32) 0 1) 3 = false) := by
  refine ⟨?_, ?_, ?_, ?_, ?_, ?_, ?_, ?_⟩ <;> decide +kernel

theorem test_RefusedCommandsOnlyComplete_premises :
    (let o := opOf 0x102 []; let d := (cmds dev0 [o]).dev; d.Refuses 0 0x0102 true d.drainChecks o eArg) ∧
    (let o := opOf 0x110 [(32, 2), (78, 1)]; let d := (cmds dev0 [o]).dev; d.Refuses 0 0x0110 false d.jobChecks o eAlign) ∧
    (let o := opOf 0x111 [(40, 2 ^ 43), (48, 64)]; let d := (cmds dev0 [o]).dev; d.Refuses 0 0x0111 false d.copyChecks o eRange) ∧
    (let o := opOf 0x112 []; let d := (cmds dev0 [o]).dev; d.Refuses 0 0x0112 false (d.tblLoadChecks 0) o eState) ∧
    (let o := opOf 0x114 [(32, 1)]; let d := (cmds dev0 [o]).dev; d.Refuses 0 0x0114 true d.scrubChecks o eAlign) ∧
    (let o := opOf 0x115 [(48, 2)]; let d := (cmds dev0 [o]).dev; d.Refuses 0 0x0115 true d.eraseChecks o eArg) ∧
    (let o := opOf 0x116 [(33, 1)]; let d := (cmds dev0 [o]).dev; d.Refuses 0 0x0116 true (d.setChecks 1 256 64 64 0) o eArg) ∧
    (let o := opOf 0x117 [(36, 2)]; let d := (cmds dev0 [o]).dev; d.Refuses 0 0x0117 true d.progChecks o eArg) ∧
    (let o := opOf 0x120 [(36, 1)]; let d := (cmds dev0 [o]).dev; d.Refuses 0 0x0120 false d.replChecks o eState) ∧
    (let o := opOf 0x121 [(32, 4096)]; let d := (cmds dev0 [o]).dev; d.Refuses 0 0x0121 true (d.setChecks 2 4096 64 64 0) o eArg) ∧
    (let o := opOf 0x122 []; let d := (cmds dev0 [o]).dev; d.Refuses 0 0x0122 true d.shardChecks o eArg) ∧
    (let o := opOf 0x123 []; let d := (cmds dev0 [o]).dev; d.Refuses 0 0x0123 true d.migChecks o eArg) ∧
    (let o := opOf 0x124 [(40, 32)]; let d := (cmds dev0 [o]).dev; d.Refuses 0 0x0124 true (d.setChecks 1 256 64 64 0) o eAlign) ∧
    (let o := opOf 0x125 []; let d := (cmds dev0 [o]).dev; d.Refuses 0 0x0125 false d.updChecks o eArg) ∧
    (let o := opOf 0x127 [(40, 2 ^ 43)]
     let d := (cmds dev0 [o]).dev
     d.Refuses 0 0x0127 true (d.setChecks 2 4096 32 32 0) o eRange) ∧
    (let o := opOf 0x128 [(32, 1024)]; let d := (cmds dev0 [o]).dev; d.Refuses 0 0x0128 true (d.setChecks 2 1024 64 64 8) o eArg) ∧
    (let o := opOf 0x140 [(32, 4096)]; let d := (cmds dev0 [o]).dev; d.Refuses 0 0x0140 true d.routeChecks o eArg) ∧
    (let o := opOf 0x126 [(40, 4)]
     let d := (cmds dev0 [o]).dev
     8 = 8 + 8 * (d.num (o.f 40 8) 1 % 64) ∧ d.Refuses 0 0x0126 true (d.setChecks 1 64 8 8 0) o eAlign) ∧
    (let o := { opOf 0x103 [(32, 77)] with slot := 1 }
     let d := (cmds dev0 [o]).dev
     d.reqReady 1 0x0103 = true ∧ d.Refuses 1 0x0103 false (d.reqChecks HOp.maySuspend) o eState) ∧
    (let o := { opOf 0x104 [(32, 77)] with slot := 1 }
     let d := (cmds dev0 [o]).dev
     d.reqReady 1 0x0104 = true ∧ d.Refuses 1 0x0104 false (d.reqChecks HOp.mayResume) o eState) ∧
    (let o := { opOf 0x105 [(32, 77)] with slot := 1 }
     let d := (cmds dev0 [o]).dev
     d.reqReady 1 0x0105 = true ∧ d.Refuses 1 0x0105 false (d.reqChecks HOp.mayCancel) o eState) := by
  refine ⟨?_, ?_, ?_, ?_, ?_, ?_, ?_, ?_, ?_, ?_, ?_, ?_, ?_, ?_, ?_, ?_, ?_, ?_, ?_, ?_, ?_⟩ <;> decide +kernel

theorem test_JobControlCommandsAct_premises :
    (let o := opOf 0x110 [(32, 0x1000), (78, 1)]
     let d := (cmds dev0 [o]).dev
     d.Accepts 0 0x0110 false d.jobChecks o ∧ (d.taken 0 o).chooseCluster ((d.taken 0 o).ctxClusters o.ctx (o.f 78 2)) 0 = some 0) ∧
    (let o := opOf 0x110 [(32, 0x1000), (78, 1)]
     let d := (cmds dev0 [o]).dev
     ((d.taken 0 o).createJob 0 0 { ctx := o.ctx, prio := (d.taken 0 o).ctxPrio o.ctx (o.f 76 1), creator := .slot o.handle, entry := o.f 32 8, deadTick := if o.f 72 4 = 0 then none else some (tickCeil (0 + o.f 72 4 * usT)) } ([o.f 40 8, o.f 48 8, o.f 56 8, o.f 64 8].map (BitVec.ofNat 64)) 4).isSome = true) ∧
    (let o := { opOf 0x103 [(32, 77)] with slot := 1 }
     let q := { opOf 0x111 [] .running with handle := 77, slot := 2 }
     let d := (cmds dev0 [o, q]).dev
     d.reqReady 1 0x0103 = true ∧ d.Accepts 1 0x0103 false (d.reqChecks HOp.maySuspend) o ∧
       (d.taken 0 o).handleOp (o.f 32 4) = some q ∧ q.opc ≠ 0x0110) ∧
    (let o := { opOf 0x103 [(32, 77)] with slot := 1 }
     let q := { opOf 0x110 [] .running with handle := 77, slot := 2, job := some 1 }
     let d := (cmds dev0 [o, q]).dev
     d.reqReady 1 0x0103 = true ∧ d.Accepts 1 0x0103 false (d.reqChecks HOp.maySuspend) o ∧
       (d.taken 0 o).handleOp (o.f 32 4) = some q ∧ q.opc = 0x0110 ∧ q.job = some 1) ∧
    (let o := { opOf 0x105 [(32, 77)] with slot := 1 }
     let q := { opOf 0x102 [] .running with handle := 77, slot := 2 }
     let d := (cmds dev0 [o, q]).dev
     d.reqReady 1 0x0105 = true ∧ d.Accepts 1 0x0105 false (d.reqChecks HOp.mayCancel) o ∧
       (d.taken 0 o).handleOp (o.f 32 4) = some q ∧ q.opc = 0x0102 ∧ q.st ≠ .covering) ∧
    (let o := { opOf 0x105 [(32, 77)] with slot := 1 }
     let q := { opOf 0x111 [] .running with handle := 77, slot := 2 }
     let d := (cmds dev0 [o, q]).dev
     d.reqReady 1 0x0105 = true ∧ d.Accepts 1 0x0105 false (d.reqChecks HOp.mayCancel) o ∧
       (d.taken 0 o).handleOp (o.f 32 4) = some q ∧ q.opc ≠ 0x0102 ∧ q.opc ≠ 0x0110 ∧ q.st ≠ .suspended) ∧
    (let o := { opOf 0x105 [(32, 77)] with slot := 1 }
     let q := { opOf 0x111 [] .suspended with handle := 77, slot := 2 }
     let d := (cmds dev0 [o, q]).dev
     d.reqReady 1 0x0105 = true ∧ d.Accepts 1 0x0105 false (d.reqChecks HOp.mayCancel) o ∧
       (d.taken 0 o).handleOp (o.f 32 4) = some q ∧ q.opc ≠ 0x0102 ∧ q.st = .suspended) ∧
    (let o := { opOf 0x105 [(32, 77)] with slot := 1 }
     let q := { opOf 0x102 [] .covering with handle := 77, slot := 2 }
     let d := (cmds dev0 [o, q]).dev
     d.reqReady 1 0x0105 = true ∧ d.Accepts 1 0x0105 false (d.reqChecks HOp.mayCancel) o ∧
       (d.taken 0 o).handleOp (o.f 32 4) = some q ∧ q.opc = 0x0102 ∧ q.st = .covering) ∧
    (let o := { opOf 0x105 [(32, 77)] with slot := 1 }
     let q := { opOf 0x110 [] .running with handle := 77, slot := 2, job := some 1 }
     let d := (cmds dev0 [o, q]).dev
     d.reqReady 1 0x0105 = true ∧ d.Accepts 1 0x0105 false (d.reqChecks HOp.mayCancel) o ∧
       (d.taken 0 o).handleOp (o.f 32 4) = some q ∧ q.opc = 0x0110 ∧ q.st ≠ .suspended ∧ q.job = some 1) := by
  refine ⟨?_, ?_, ?_, ?_, ?_, ?_, ?_, ?_, ?_⟩ <;> decide +kernel

theorem test_ResumeAndCommitAct_premises :
    (let o := { opOf 0x104 [(32, 77)] with slot := 1 }
     let q := { opOf 0x111 [] .suspended with handle := 77, slot := 2 }
     let d := (cmds dev0 [o, q]).dev
     d.reqReady 1 0x0104 = true ∧ d.Accepts 1 0x0104 false (d.reqChecks HOp.mayResume) o ∧
       (d.taken 0 o).handleOp (o.f 32 4) = some q ∧ (q.opc = 0x0111 ∨ q.opc = 0x0112 ∨ q.opc = 0x0114 ∨ q.opc = 0x0115)) ∧
    (∀ c ∈ [0x110, 0x120, 0x123, 0x125], let o := { opOf 0x104 [(32, 77)] with slot := 1 }
     let q := { opOf c [] .suspended with handle := 77, slot := 2, job := some 1 }
     let d := (cmds dev0 [o, q]).dev
     d.reqReady 1 0x0104 = true ∧ d.Accepts 1 0x0104 false (d.reqChecks HOp.mayResume) o ∧ (d.taken 0 o).handleOp (o.f 32 4) = some q ∧
       q.job = some 1) ∧
    (let o := opOf 0x101 []; let d := (cmds dev0 [o]).dev; d.Accepts 0 0x0101 true commitChecks o ∧ d.host.commits = []) ∧
    (let o := opOf 0x101 []
     let s := cmds dev0 [o]
     let d := (s.dev.taken 0 o).onHost fun h => { h with commits := [⟨0, 0, false, s.dev.shad, false, []⟩] }
     d.slotOp 0 = some (o.taken 0)) := by
  refine ⟨?_, ?_, ?_, ?_⟩ <;> decide +kernel

/-- A configuration with a failure is refused. -/
theorem test_firstFail_some : ∀ l : List Fail, firstFail l = none → l = []
  | [], _ => rfl
  | f :: r, h => by
    unfold firstFail at h
    split at h
    · exact absurd h (by simp)
    · split at h <;> exact absurd h (by simp)

theorem test_ResumeAndCommitAct_refused : (dev0.checkCommit conf1 0).isSome = true := by
  rcases h : dev0.checkCommit conf1 0 with _ | f
  · have g := test_firstFail_some _ h
    refine absurd g (List.ne_nil_of_mem (a := regFail eArg .CXL_CMTCFG) ?_)
    iterate 17 apply List.mem_append_left
    refine List.mem_flatMap.mpr ⟨.CXL_CMTCFG, by decide +kernel, List.mem_flatMap.mpr ⟨[], by decide +kernel, by decide +kernel⟩⟩
  · rfl

theorem test_OperationEventsAct_premises :
    (let o := opOf 0x102 [(36, 1), (48, 4096)] .running
     let d := (cmds dev0 [o]).dev
     d.waitingDrain o.handle = some o ∧ o.drainKind = 0 ∧ d.rangeBusy (o.f 40 8) (o.f 48 8) = false) ∧
    (let o := opOf 0x102 [(32, 1), (36, 1)] .running
     let d := (cmds tabs0 [o]).dev
     d.waitingDrain o.handle = some o ∧ o.drainKind ≠ 0 ∧ d.tableDrainBusy (o.f 34 2 % 4096) = false) ∧
    (let o := { opOf 0x110 [] (.suspending 1) with job := some 1 }
     let d := (cmds dev0 [o, { opOf 0x103 [] .running with handle := 78, slot := 1 }]).dev
     d.handleOp o.handle = some o ∧ o.opc = 0x0110 ∧ o.job = some 1 ∧ o.st = .suspending 1 ∧ d.jobStill 1 = true ∧
       (d.slotOp 1).isSome = true) ∧
    (let c : Commit := ⟨0, 0, false, conf0, true, []⟩
     let d := { dev0 with host := { host0 with commits := [c] } }
     d.host.commits = c :: [] ∧ c.started = true ∧ d.adopters.contains (.und) = true ∧ c.done.contains (.und) = false) ∧
    (let c : Commit := ⟨0, 0, false, conf0, true, []⟩
     let c' : Commit := { c with done := c.done ++ [.und] }
     let d := (({ dev0 with host := { host0 with commits := [c] } }).adoptUnit 0 c.conf .und 0).onHost fun h => { h with commits := c' :: [] }
     (d.adopters.all fun x => c'.done.contains x) = false) ∧
    (let c : Commit := ⟨0, 0, false, conf0, true, (dev0.adopters.filter (· != .und))⟩
     let c' : Commit := { c with done := c.done ++ [.und] }
     let d := (({ dev0 with host := { host0 with commits := [c] } }).adoptUnit 0 c.conf .und 0).onHost fun h => { h with commits := c' :: [] }
     (d.adopters.all fun x => c'.done.contains x) = true) := by
  refine ⟨?_, ?_, ?_, ?_, ?_, ?_⟩ <;> decide +kernel

/-! ### Premises of the statements: queries, tables, threads, sequencers -/

/-- The module with port 0 up in Ethernet, the address 10.0.0.1 on it, a query port, a class that is enabled, its ID 1. -/
def net0 : Dev := { tabs0 with
  net := { id := some 1, inc := 5, ports := [(0, { up := 1 })] }
  conf := { tabs0.conf with reg := SMap.put 0 (SMap.put 0 (SMap.put 0 (SMap.put 0 (SMap.put 0 tabs0.conf.reg (Reg.ETH_PORT.off [0]) 1)
    (Reg.ETH_ADDRC.off [0]) 0x401) (Reg.ETH_ADDRL.off [0]) 0x0A000001) (Reg.QFE_UDP.off [0]) 4000) (Reg.QFE_RASM.off [0]) 0x100000000 }
  qfe0 := { ctl := 7, classes := [(0, rcdOf 64 [(0, 13), (5, 1), (6, 1), (26, 4), (28, 4096)])] } }

/-- A record of class 0, query 9, with one list of one index. -/
def rec0 (us : Nat) : List Byte := rcdOf 54 [(0, 1), (2, 1), (4, 1), (8, 9), (16, us), (36, 1), (40, 48)]

/-- A query datagram of one byte, with its check computed, or not. -/
def gram0 (good : Bool) : Dgram :=
  let p := rcdOf 28 [(0, 1), (1, 1), (4, 9), (12, 100), (16, 1), (24, 1)]
  ⟨0, 0, false, 0x0A000002, 0x0A000001, 77, 4000, 0, false, false, .good, p ++ leBytes 4 (if good then crc32c (p ++ [0xAB]) else 0) ++ [0xAB],
    2 ^ 48 - 1, none, 0⟩

def key0 : QKey := ⟨true, false, 0x0A000002, 77, 9⟩

theorem test_HostLinkAndBlocksAct_premises :
    (let s : State := { stOf .boot { dev0 with host := {} } with mach := { und := { st := .boot, rstN := true } } }
     s.mach.cxlMay = true ∧ s.dev.host.link = false) ∧
    dev0.host.link = true ∧ dev0.host.cacheReqs = [] ∧
    7 < 8 ∧ 2 ^ 40 % 2 ^ 28 = 0 ∧ 2 ^ 28 ≤ 2 ^ 40 ∧
    (let o := opOf 0x111 [] .running
     let d := (cmds dev0 [o]).dev
     d.handleOp o.handle = some o ∧ o.st = .running ∧ d.opWaits o = false ∧ (d.host.cacheReqs.any fun q => q.slot == o.slot) = false ∧ o.srcHost = false) ∧
    (let o := opOf 0x112 [] .running
     o.srcHost = false) ∧ (let o := { opOf 0x113 [] .running with total := 1 }
     o.srcHost = false ∧ o.total ≠ 0) ∧
    (let o := opOf 0x111 [(56, 1)] .running
     let q : CacheReq := ⟨0, 0, 64, false⟩
     let s := stOf .run { dev0 with host := { host0 with ops := [o], cacheReqs := [q] } }
     (s.dev.host.cacheReqs.find? fun q => q.slot == 0) = some q ∧
       ({ s.dev with host := { s.dev.host with cacheReqs := s.dev.host.cacheReqs.erase q } } : Dev).slotOp 0 = some o ∧
       line0.length = q.len ∧ o.opc = 0x0111 ∧ q.write = false) := by
  refine ⟨?_, ?_, ?_, ?_, ?_, ?_⟩ <;> decide +kernel

theorem test_QueriesAreTakenOrDropped_premises :
    (let g := gram0 true
     let e := net0.bump .ETH_RXFRM [0]
     let a := e.admitFrame g.port g.sub g.mac g.tag g.dscp g.occ (dgramLen g) (e.ownAddr g.port g.v6 g.dst)
     let d := a.1
     g.port < 36 ∧ net0.ethUp g.port g.sub = true ∧ a.2 = true ∧ g.dport = d.cfgF .QFE_UDP [0] 0 16 ∧
       bitAt (d.qfe 0).ctl 0 = true ∧ bitAt (d.qfe 0).ctl 1 = true) ∧
    dgramBad { gram0 true with payload := [] } = true ∧ dgramBad (gram0 false) = false ∧ dgramChk (gram0 false) = false ∧
    dgramBad (gram0 true) = false ∧ dgramChk (gram0 true) = true ∧
    (({ ctl := 7, keys := [{ key := key0, st := .held 5 }] } : Qfe).find key0).isSome = true ∧
    (({ ctl := 7, keys := [{ key := key0 }] } : Qfe).find key0).isSome = true ∧
    (let d := net0.bump .ETH_RXFRM [0]
     (d.qfe 0).find key0 = none ∧ (d.keyRoom 0).isSome = true ∧
       (match d.keyRoom 0 with | some e => decide ((e.bump .QFE_RXDG [0]).admitQuery 0 0 1 true = .inr [0]) && decide ((e.bump .QFE_RXDG [0]).admitQuery 0 0 5000 true = .inl eRange) | none => false) = true) ∧
    (let body := rec0 7
     let d := net0.took (some 2) 0x14 5 body
     bitAt (d.qfe 0).ctl 2 = true ∧ (d.qfe 0).find ⟨false, false, 2, 0, 9⟩ = none ∧
       (match d.keyRoom 0 with
        | some e => let e := e.bump .QFE_RXDG [0]
          decide (e.admitQuery 0 0 body.length false = .inr [0] ∧ e.admitQuery 0 0 5000 false = .inl eRange ∧
            recordStatus body (SMap.get [] (e.qfe 0).classes 0) 0 9 7 = sOk ∧ recordStatus body (SMap.get [] (e.qfe 0).classes 0) 0 9 8 ≠ sOk)
        | none => false) = true) ∧
    (({ net0 with qfe0 := { keys := [{ key := key0 }] } } : Dev).qfe 0).find key0 = some { key := key0 } ∧
      ({ key := key0 } : Query).st = .open_ ∧
    (({ net0 with qfe0 := { keys := [{ key := key0, st := .held 7 }] } } : Dev).qfe 0).find key0 = some { key := key0, st := .held 7 } := by
  refine ⟨?_, ?_, ?_, ?_, ?_, ?_, ?_, ?_, ?_⟩ <;> decide +kernel

/-- A part of an UPDATE of layer 0, started, that waits for its readers. -/
def part0 : Part :=
  { id := 4, who := .inl 7, layer := true, target := 0, shard := 0, step := 1, lr := 0, discard := false, mask := 1, started := true, readers := true }

/-- A writer of row 0 of table 0. -/
def wr0 (st : WSt) (by_ : RBy := .msg 2 5) : Writer := { id := 3, by_ := by_, table := 0, row := 0, loc := { row := 0x100000 }, st := st }
def wrs (st : WSt) (by_ : RBy := .msg 2 5) : Dev := { tabs0 with tabs := { writers := [wr0 st by_] } }

theorem test_RowWritersAndMessagesAct_premises :
    (wrs (.retry 9)).writer? 3 = some (wr0 (.retry 9)) ∧
    (wrs .held).writer? 3 = some (wr0 .held) ∧ (wr0 .held).st = .held ∧ (wrs .held).writerHeld (wr0 .held) = false ∧
    (wr0 .claimed).st = .claimed ∧ (wr0 .claimed).by_ = .msg 2 5 ∧ (wr0 .claimed (.part 4)).by_ = .part 4 ∧
      (wr0 .claimed (.part 4)).sh = false ∧
    (let d := { wrs .claimed (.part 4) with tabs := { (wrs .claimed (.part 4)).tabs with parts := [{ id := 4, who := .inl 7, layer := false, target := 0, shard := 0, step := 1, lr := 0, discard := false, mask := 1, started := true }] } }
     (match d.part? 4 with | some p => d.spansWait p.mem (d.updSpans p (wr0 .claimed (.part 4))) == false | none => false) = true) ∧
    rowBad (rcdOf 32 [(0, 0)]) 0 = false ∧ rowBad (rcdOf 32 [(0, 1)]) 0 = true ∧
    rowBad (rcdOf 64 [(0, 1)]) 1 = false ∧ tdValid (tabs0.tdesc 0) = true ∧ (rcdOf 64 [(0, 1)]).length = 32 + tdB (tabs0.tdesc 0) ∧
    rowBad (rcdOf 36 [(0, 2), (6, 1)]) 2 = false ∧ (rcdOf 36 [(0, 2), (6, 1)]).length = 32 + 4 * 1 ∧
      0 + 1 ≤ tdElts (tabs0.tdesc 0) ∧
    rowBad (rcdOf 288 [(0, 3), (16, 1)]) 3 = false ∧ (rcdOf 288 [(0, 3), (16, 1)]).length = 288 ∧
    (let d := { tabs0 with net := { id := some 1, peers := [(2, { st := .up })] } }.took (some 2) 0x10 5 (rcdOf 288 [(0, 3), (16, 1)])
     ((d.layerMerge 0 0 0 1 (List.replicate 64 0) false d.fabPart).1.peer 2).st = .up) ∧
    (wrs .written).mayRelease (wr0 .written) = true ∧ recNum (rcdOf 288 [(0, 3), (16, 1)]) 8 8 < 2 ^ 22 ∧
    rowrBad sOk (rcdOf 16 []) = false ∧ rowrBad sOk [] = true := by
  refine ⟨?_, ?_, ?_, ?_, ?_, ?_, ?_, ?_, ?_, ?_⟩ <;> decide +kernel

/-- The running thread's core with a program of its own; the sequencer in U and in M. -/
def qU : Sq := ⟨0, true⟩
def qM : Sq := ⟨0, false⟩

/-- The 32 bits of an instruction. -/
def nx (x : Nat) : BitVec 32 := BitVec.ofNat 32 x

/-- A queue of the core filled up. -/
def fullQ : List QEnt := List.replicate 64 {}

theorem test_IssueTakesAPlaceOrWaits_premises :
    thr0.dev.seqReady qU = true ∧ ((thr0.dev.enter 0 qU).core 0).sq.cur = some 0 ∧ (thr0.dev.enter 0 qU).findings = [] ∧
    nxIs (nx 0x0B) 0x0B 0 = true ∧ nxOk (nx 0x0B) 0x30 false false true = true ∧ nxIs (nx 0x100B) 0x0B 1 = true ∧
    nxIs (nx 0x200B) 0x0B 2 = true ∧ nxOk (nx 0x200B) 0x70 false true true = true ∧ nxIs (nx 0x500B) 0x0B 5 = true ∧
    nxIs (nx 0x600300B) 0x0B 3 = true ∧ nxF (nx 0x600300B) 25 4 = 3 ∧ nxOk (nx 0x600300B) 0x7F true true true = true ∧
    (thr0.dev.enter 0 qU).hasPlace 0 .me = true ∧ (thr0.dev.enter 0 qU).hasPlace 0 (.se 1) = true ∧
    ({ thr0.dev with cores := [(0, { me := { q := fullQ }, ve := { q := fullQ }, ge := { q := fullQ } })] } : Dev).hasPlace 0 .me = false := by
  refine ⟨?_, ?_, ?_, ?_, ?_, ?_⟩ <;> decide +kernel

/-- The core's thread with its operand 1 arrived, needing nothing. -/
def thr1 : State := stOf .run { thr0.dev with threads := [(0, { st := .running, job := 1, arr := 2 })] }

theorem test_ThreadInstructionsAct_premises :
    nxIs (nx 0x2B) 0x2B 0 = true ∧ nxOk (nx 0x2B) 0 false true true = true ∧
      ({ thr1.dev.thr 0 with need := 2 } : Thread).met = true ∧ ({ thr1.dev.thr 0 with need := 3 } : Thread).met = false ∧
    nxIs (nx 0x800102B) 0x2B 1 = true ∧ nxOk (nx 0x800102B) 7 true true false = true ∧ bitAt (nx 0x800102B).toNat 27 = true ∧
    nxOk (nx 0x200102B) 7 true true false = true ∧ nxF (nx 0x200102B) 25 2 = 1 ∧
      bitAt ((thr1.dev.enter 0 qU).thr 0).arr 1 = true ∧ bitAt ((thr1.dev.enter 0 qU).thr 0).arr 0 = false ∧
    nxIs (nx 0x202B) 0x2B 2 = true ∧ nxOk (nx 0x202B) 0 false false false = true ∧ qM.user = false ∧
      (thr1.dev.enter 0 qM).freeSlot 0 = some 1 ∧
    nxIs (nx 0x302B) 0x2B 3 = true ∧ nxOk (nx 0x302B) 0 false false true = true ∧ (thr1.dev.enter 0 qU).curJob 0 = some 1 ∧
    nxIs (nx 0x502B) 0x2B 5 = true ∧ nxOk (nx 0x502B) 0x30 false true true = true ∧
    nxIs (nx 0x200702B) 0x2B 7 = true ∧ nxOk (nx 0x200702B) 1 false true true = true ∧ bitAt (nx 0x200702B).toNat 25 = true ∧
      jobStatusOk 0 = true ∧ jobStatusOk 0x60 = false := by
  refine ⟨?_, ?_, ?_, ?_, ?_, ?_, ?_⟩ <;> decide +kernel

theorem test_SyncAddAndSetValues_premises :
    SMap.wf (0 : Word) dev0.sync.vals = true ∧ dev0.syncBroken 7 = false ∧ (8 : Nat) ≠ 7 := by
  decide +kernel

theorem test_SyncInstructionsAct_premises :
    nxIs (nx 0x402B) 0x2B 4 = true ∧ nxOk (nx 0x402B) 0x37 false false false = true ∧ nxF (nx 0x402B) 25 3 = 0 ∧
    nxF (nx 0x200402B) 25 3 = 1 ∧ nxF (nx 0x400402B) 25 3 = 2 ∧ nxF (nx 0x600402B) 25 3 = 3 ∧ nxF (nx 0x800402B) 25 3 = 4 ∧
      nxOk (nx 0x800402B) 0x37 false false false = true ∧
    thr0.dev.syncAddr (0xFFF * 2 ^ 44 + syncBase + 64) = .inr (none, 1) ∧
      (thr0.dev.enter 0 qU).syncAddr (0xFFF * 2 ^ 44 + syncBase + 64) = .inr (none, 1) ∧
    ((thr0.dev.enter 0 qU).drainMb 0 0).storesOut 0 = false ∧ ((thr0.dev.enter 0 qU).drainMb 0 0).syncBroken 1 = false ∧
    ((thr0.dev.enter 0 qU).setX 0 0 0).syncBroken 1 = false ∧ ((thr0.dev.enter 0 qU).job 1).decl.length < 16 ∧ (∀ p ∈ ((thr0.dev.enter 0 qU).job 1).decl, p.1 ≠ 1) := by
  refine ⟨?_, ?_, ?_, ?_, ?_⟩ <;> decide +kernel

theorem test_ThreadEndsAndTimersAct_premises :
    nxIs (nx 0x702B) 0x2B 7 = true ∧ nxOk (nx 0x702B) 0 true true true = true ∧ bitAt (nx 0x702B).toNat 25 = false ∧
    (let o : Mon := ⟨1, false, 5, .thread 0 0, 0⟩
     let d := { thr0.dev with sync := { retry := [o] } }
     d.sync.retry[0]? = some o ∧ d.syncBroken o.obj = false) ∧
    (({ thr0.dev with threads := [(0, { st := .wait, job := 1, delay := some (3, 0) })] } : Dev).thr 0).delay = some (3, 0) ∧
    (let d : Dev := { thr0.dev with jobs := [(1, { live := true, deadTick := some 9 })] }
     (d.job 1).deadTick = some 9 ∧ (d.job 1).live = true ∧ (d.job 1).ending = none ∧
       (d.endJob 108000 1 .deadline).queryOf 1 = none) ∧
    (let d : Dev := { thr0.dev with
       jobs := [(1, { live := true, deadTick := some 9 })]
       qfe0 := { ctl := 7, keys := [{ key := key0, st := .job 1 }] } }
     ((d.endJob 108000 1 .deadline).queryOf 1).isSome = true) ∧
    (let r : RowReq := { table := 0, row := 0, op := .read, by_ := .merge 0 1, watch := some 3 }
     let d : Dev := { thr0.dev with tabs := { gwait := [r] }, cores := [(0, { mq := { q := [{ job := 1, started := true }] } })] }
     d.waitOf (.merge 0) = some (1, 3) ∧ d.tabs.gwait[0]? = some r) ∧
    ({ thr0.dev with threads := [(0, { st := .wait, job := 1, watch := some 3 })] } : Dev).waitOf (.thread 0) = some (1, 3) := by
  refine ⟨?_, ?_, ?_, ?_, ?_, ?_, ?_⟩ <;> decide +kernel

theorem test_CoreAndClusterCommandsAct_premises :
    nxIs (nx 0x602B) 0x2B 6 = true ∧ nxOk (nx 0x602B) 0 true true false = true ∧
    (let d : Dev := { thr0.dev with cores := [(0, { sq := { loc := some 4 } })] }
     ((((d.enter 0 qM).leaveCore 0 0).modSq 0 fun k => { k with mAt := 0 }).core 0).sq.loc.isSome = true) ∧
    ((((thr0.dev.enter 0 qM).leaveCore 0 0).modSq 0 fun k => { k with mAt := 0 }).core 0).sq.loc.isSome = false ∧
    (let d : Dev := { thr0.dev with cores := [(0, { sq := { stall := some (1, {}) } })] }
     (d.core 0).sq.stall = some (1, {}) ∧ d.hasPlace 0 (Eng.ofNum (1 % 8)) = true ∧ 1 / 8 = 0) ∧
    (let d : Dev := { thr0.dev with jobs := [(1, { live := true, deadTick := some 9 })], threads := [(0, { st := .ready, job := 1 })] }
     d.deadOf 0 = some 9 ∧ (d.thr 0).st = .ready) ∧
    bitAt 1 0 = true ∧ bitAt 1 3 = false ∧ bitAt 8 0 = false ∧ bitAt 8 3 = true ∧ bitAt 2 1 = true ∧ bitAt 9 0 = true ∧
      bitAt 9 3 = true ∧
    dev0.cluHere 0 = true ∧ (dev0.clu 0).pst = 0 ∧ dev0.maySleep 0 0 = true ∧
    ({ thr0.dev with jobs := [(1, { live := true, deadTick := some 0 })] } : Dev).dueWithin 0 0 (dev0.cfgF .CLU_PWR [0] 0 16) = true ∧
    (let d : Dev := { dev0 with clus := [(0, { pst := 1, waking := true })] }; (d.clu 0).waking = true ∧ (d.clu 0).pst = 1) ∧
    (let d : Dev := { dev0 with clus := [(0, { pst := 1 })], conf := { conf0 with reg := SMap.put 0 conf0.reg (Reg.CLU_PWR.off [0]) 0x10000 } }
     (d.clu 0).pst = 1 ∧ (d.clu 0).waking = false ∧ d.cfgF .CLU_PWR [0] 16 1 = 1 ∧ (d.slotsOf 0).isEmpty = true ∧
       d.noDelays 0 = true) := by
  refine ⟨?_, ?_, ?_, ?_, ?_, ?_, ?_, ?_, ?_, ?_⟩ <;> decide +kernel

/-- The module with a route to module 7. -/
def far0 : Dev := { dev0 with net := { id := some 1, peers := [(7, { st := .up })] } }.setRoute 7 { flags := 9, state := 1, inc := 0, ports := 1, addr := 2 }

theorem test_ThreadInstructionsAct_full_premise :
    (({ dev0 with threads := (List.range 4096).map fun i => (i, {}) } : Dev).freeSlot 0) = none := by
  simp only [Dev.freeSlot, Dev.slotsOf, List.map_map]
  rw [List.findSome?_eq_none_iff]
  intro i _
  split
  · next h =>
    exfalso
    have g := h.2
    simp [List.mem_filter, cluOf] at g
    have := h.1
    omega
  · rfl

/-! ### Premises of the statements: loads, stores, atomics and memory -/

/-- An address of this module. -/
def ga0 (a : Nat) : Nat := 0xFFF * 2 ^ 44 + a

/-- The merging buffer of core 0 with 8 bytes at 0x1000. -/
def mb0 : State := stOf .run { dev0 with cores := [(0, { sq := { mb := [⟨0x1000 / 128, 0xFF, List.replicate 128 1, 0, 0⟩] } })] }

theorem test_LoadsAndStoresAct_premises :
    mb0.dev.seqReady qM = true ∧ ga0 0x1000 % 8 = 0 ∧ ga0 0x1000 < 2 ^ 56 ∧
    (mb0.dev.enter 0 qM).mbHit 0 (ga0 0x1000) 8 = .all 0x0101010101010101 ∧ (mb0.dev.enter 0 qM).privAccess qM (ga0 0x1000) = false ∧
    (let d := dev0.enter 0 qM
     d.mbHit 0 (ga0 0x1000) 8 = .none ∧ d.remoteOf (ga0 0x1000) = none ∧ d.target (dlaOf (ga0 0x1000)) = .ext 0 0x1000 ∧
       d.l1Caches (dlaOf (ga0 0x1000)) = false ∧ d.heldRange (dlaOf (ga0 0x1000)) 8 = false ∧
       d.loadWaits 0 (dlaOf (ga0 0x1000)) 8 = false) ∧
    (let d := dev0.enter 0 qM
     let a := ga0 (syncBase + 64)
     a % 8 = 0 ∧ a < 2 ^ 56 ∧ d.mbHit 0 a 8 = .none ∧ d.remoteOf a = none ∧ d.target (dlaOf a) = .syncObj 1 0 ∧
       d.syncBroken 1 = false) ∧
    (let d := far0.enter 0 qM; d.remoteOf (7 * 2 ^ 44) = some 7 ∧ d.routeCheck 7 = .send) := by
  refine ⟨?_, ?_, ?_, ?_, ?_⟩ <;> decide +kernel

theorem test_LoadsChangeOnlyTheirRegister_premises :
    SMap.wf {} mb0.dev.cores = true ∧ SMap.wf {} dev0.cores = true ∧
    (let d := mb0.dev.enter 0 qM; d.privAccess qM (ga0 0x1000) = false ∧ (match d.mbHit 0 (ga0 0x1000) 8 with | .all _ => true | _ => false) = true) := by
  refine ⟨?_, ?_⟩ <;> decide +kernel

theorem test_LoadsChangeOnlyTheirRegister_next : ∃ t, exec (.seqLoad qM 5 8 false (ga0 0x1000) .none) mb0 = .next t := ⟨_, rfl⟩

theorem test_AtomicsAct_premises :
    (let d := (clear0.enter 0 qM).drainMb 0 0
     let a := ga0 clearBase
     let e := d.l1Drop 0 (dlaOf a / 128)
     SMap.wf {} d.cores = true ∧ d.amoRefusal a 8 = sOk ∧ d.remoteOf a = none ∧ d.atomWait (dlaOf a) 8 (some 0) = 0 ∧ d.linesClean ∧
       d.readWait (d.corePart 0) (dlaOf a) 8 = 0 ∧ d.heldRange (dlaOf a) 8 = false ∧ e.poisoned (dlaOf a) 8 = false ∧ d.poisoned (dlaOf a) 8 = false) ∧
    (let o : AtomOp := ⟨1, 8, 0, clearBase, 5, 0, [], false, 1⟩
     let d := { clear0 with cores := [(0, { sq := { atom := some o } })], jobs := [(1, { live := true })] }
     (d.core 0).sq.atom = some o ∧ o.code = 1 ∧ d.atomWait o.addr o.len (some 0) = 0 ∧ d.findings = [] ∧
       d.heldRange o.addr o.len = false ∧ (d.job o.job).live = true ∧ (d.job o.job).ending = none ∧ d.atomRefusal o = sOk) ∧
    (let d : Dev := { dev0 with cores := [(0, { sq := { resv := some (32, 0, true) } })] }
     0 < 128 ∧ (d.core 0).sq.resv = some (32, 0, true)) := by
  refine ⟨?_, ?_, ?_⟩ <;> decide +kernel

theorem test_AtomicsAct_rows : ((.amoadd, 1) : (Sq → Nat → Nat → Nat → Word → Instr) × Nat) ∈ amoRows ∧
    ((.atomAdd, 1) : (Nat → Instr) × Nat) ∈ atomRows := ⟨List.Mem.head _, List.Mem.head _⟩

theorem test_AmosChangeOnlyTheirTarget_next : ∃ t, exec (.amoadd qM 5 8 (ga0 clearBase) 1) (stOf .run clear0) = .next t := ⟨_, rfl⟩

theorem test_MemoryEventsAct_premises :
    (let e : MbEnt := ⟨farBlock + 1, 1, [1], 0, 0⟩
     let d : Dev := { dev0 with cores := [(0, { sq := { mb := [e] } })] }
     (d.core 0).sq.mb = e :: [] ∧ farBlock ≤ e.block) ∧
    (let e : MbEnt := ⟨32, 1, [1], 0, 0⟩
     let d : Dev := { dev0 with cores := [(0, { sq := { mb := [e] } })] }
     (d.core 0).sq.mb = e :: [] ∧ e.block < farBlock ∧
       d.heldRange (e.block % farBlock * 128) 128 = false) ∧
    (let l := clearBase / 128
     let d0 : Dev := { clear0 with cores := [(0, { sq := { pfOut := [l] } })] }
     let d := d0.modSq 0 fun k => { k with pfOut := k.pfOut.filter (· != l) }
     (d0.core 0).sq.pfOut.contains l = true ∧ d0.readWait (d0.corePart 0) (l * 128) 128 = 0 ∧ d.l1Caches (l * 128) = true) ∧
    thr0.dev.seqReady ⟨0, true⟩ = true ∧ (thr0.dev.core 0).sq.atom = none ∧
    (let d : Dev := { dev0 with canopy := { rehome0 := some 0 } }
     d.canopy.rehome0 = some 0 ∧ bitsOf ((d.bump .CAN_REHOME []).rd .CAN_REHOME) 32 32 ≥ (0 - 0) / 12000) ∧
    run0.mach.und.st.serves = true ∧ 15 < 16 ∧ dev0.target 0x1040 = .ext 0 0x1040 ∧
    (let q : MReq := { id := 3, dla := 0, cell := 0, part := 0, bytes := 64 }
     let d : Dev := { dev0 with ext := { places := [(0, { reqs := [q] })] } }
     ((d.memPlace 0).reqs.find? fun q => q.id == 3) = some q) ∧
    (let d : Dev := { dev0 with conf := { conf0 with reg := SMap.put 0 conf0.reg (Reg.HBM_THR.off [1]) 90 } }
     bitAt d.pres.hbms 1 = true ∧
       nextLevel (d.cfgF .HBM_THR [1] 0 8) 20 (SMap.get {} d.ext.units 1).level = (SMap.get {} d.ext.units 1).level) ∧
    (let d : Dev := { dev0 with conf := { conf0 with reg := SMap.put 0 conf0.reg (Reg.HBM_THR.off [1]) 90 } }
     nextLevel (d.cfgF .HBM_THR [1] 0 8) 127 (SMap.get {} d.ext.units 1).level ≠ (SMap.get {} d.ext.units 1).level) ∧
    bitAt dev0.pres.lpds 0 = true ∧ 383 < 384 ∧
    (let d : Dev := { dev0 with ext := { units := [(39, { leaving := true })] } }
     39 < 40 ∧ (SMap.get {} d.ext.units 39).leaving = true) := by
  refine ⟨?_, ?_, ?_, ?_, ?_, ?_, ?_, ?_, ?_, ?_, ?_⟩ <;> decide +kernel

/-! ### Premises of the statements: engines and streams -/

/-- Core 0 with its gather engine's state. -/
def geOf (g : GeEng) : Dev := { tabs0 with cores := [(0, { ge := g })], tabs := {} }

/-- A queue place with a record of 64 bytes. -/
def entOf (fs : List (Nat × Nat)) : QEnt := { rcd := rcdOf 64 fs, job := 1 }

/-- The gather engine with a read of a row of table 0 in a state. -/
def rdr0 (st : RdSt) : Reader := { id := 3, core := some 0, table := 0, slab := 0, rows := [{ row := 0, loc := { row := 0x100000 }, lks := [] }], st := st }

theorem test_frames_gatherGroup_premise :
    ({ tabs0 with tabs := { readers := [rdr0 .flight] } } : Dev).storesNothingNow (.gatherGroupHoldExpire 3) := by
  intro r h
  cases (show some (rdr0 .flight) = some r from h)
  exact of_decide_eq_true (by decide +kernel)

theorem test_GatherEngineActs_premises :
    (let x := entOf [(0, 1), (4, 1), (8, ga0 0x1000), (16, clmAt 0 0x1000)]
     let d := geOf { q := [x] }
     nextPlace (d.queue 0 .ge) = some x ∧ d.geMayStart 0 = true ∧ recNum x.rcd 0 1 = 1 ∧ d.gatherStatus 0 x = sOk ∧
       ¬(d.heldTable 0 = true)) ∧
    recNum (entOf [(0, 7)]).rcd 0 1 = 7 ∧ (entOf []).bad = 0 ∧ recNum (entOf [(0, 2)]).rcd 0 1 = 2 ∧
      recNum (entOf [(0, 3)]).rcd 0 1 = 3 ∧ recNum (entOf [(0, 4)]).rcd 0 1 = 4 ∧ recNum (entOf [(0, 5)]).rcd 0 1 = 5 ∧
    (let g : GCmd := { id := 2, op := 1, count := 4, next := 1 }
     let d := geOf { cmds := [g] }
     ((d.core 0).ge.cmds.find? fun g => !g.ent.dead && g.op != 0 && (if g.isNbr then !g.want.isEmpty else decide (g.next < g.count))) = some g) ∧
    ({ tabs0 with tabs := { readers := [rdr0 (.wait 5)] } } : Dev).reader? 3 = some (rdr0 (.wait 5)) ∧
      ({ tabs0 with tabs := { readers := [rdr0 .ver1] } } : Dev).reader? 3 = some (rdr0 .ver1) ∧
    ({ tabs0 with tabs := { readers := [rdr0 (.backoff 5)] } } : Dev).reader? 3 = some (rdr0 (.backoff 5)) ∧
      ((rdr0 (.backoff 5)).rows.head?).isSome = true ∧
    (let r : AdjRd := ⟨7, 0, none, .vtx 0, [], [0x10]⟩
     let g : GCmd := { id := 2, op := 2, reads := [r, { r with id := 8, left := [1] }], gd := rcdOf 64 [(16, 0x1000)] }
     let d := geOf { cmds := [g] }
     let ps := g.adjCells r.via r.kind
     d.cmd? 0 2 = some g ∧ (g.reads.find? fun r => r.id == 7) = some r ∧ (g.reads.find? fun r => r.id == 8) = some { r with id := 8, left := [1] } ∧
       (∀ p ∈ ps, d.heldRange p.1 p.2 = false) ∧ (∀ p ∈ ps, d.rangeOk p.1 p.2 = true) ∧ (∀ p ∈ ps, d.portWait (d.jobPart g.ent.job) p.1 p.2 = 0) ∧
       d.findings = [] ∧ d.notIssued (.adj 0 2 7) = false) ∧
    (let r : AdjRd := ⟨7, 0, none, .vtx 0, [], []⟩
     let g : GCmd := { id := 2, op := 2, reads := [r], gd := rcdOf 64 [(16, 2 ^ 43)] }
     let d := geOf { cmds := [g] }
     let ps := g.adjCells r.via r.kind
     (∀ p ∈ ps, d.heldRange p.1 p.2 = false) ∧ ∃ p ∈ ps, d.rangeOk p.1 p.2 = false) ∧
    (let r : AdjRd := ⟨7, 0, none, .vtx 0, [], []⟩
     let g : GCmd := { id := 2, op := 2, reads := [r], gd := rcdOf 64 [(16, 0x1000)] }
     let d := { geOf { cmds := [g] } with host := { host0 with ops := [opOf 0x102 [(36, 1), (40, 0x1000), (48, 4096)] .running] } }
     ((g.adjCells r.via r.kind).find? fun p => d.heldRange p.1 p.2) = some (0x1000, 8)) ∧
    (let d : Dev := { tabs0 with tabs := { readers := [rdr0 .flight] } }
     d.notIssued (.row 3) = false ∧ d.rowHeld (rdr0 .flight) = false) := by
  refine ⟨?_, ?_, ?_, ?_, ?_, ?_, ?_, ?_, ?_⟩ <;> decide +kernel

/-- The matrix and the vector engine of core 0 with one instruction each. -/
def meOf (x : QEnt) : Dev := { dev0 with cores := [(0, { me := { q := [x] } })] }
def veOf (x : QEnt) : Dev := { dev0 with cores := [(0, { ve := { q := [x] } })] }

theorem test_EngineInstructionsStartAndRetire_row : ∃ row ∈ meRows 0 ++ veRows, row.mine { w0 := 5 } = true ∧
    (∃ d' area occ, row.start 0 0 .none (meOf { w0 := 5 }) { w0 := 5 } = .done d' area occ) ∧
    row.start 0 0 .none (meOf { w0 := 5 }) { w0 := 5, w1 := 1 } = .refuse eArg :=
  ⟨_, List.mem_append_left _ (.tail _ (.tail _ (.tail _ (.tail _ (.tail _ (.head _)))))), rfl, ⟨_, _, _, rfl⟩, rfl⟩

theorem test_EngineInstructionsStartAndRetire_premises :
    (let x : QEnt := { w0 := 5 }
     let d := meOf x
     nextPlace (d.queue 0 .me) = some x ∧ d.chainWaits 0 false x = false ∧ d.capHolds 0 false 0 = false) ∧
    (let x : QEnt := { w0 := 0x52 }
     let d := veOf x
     nextPlace (d.queue 0 .ve) = some x ∧ (d.queue 0 .ve).any (·.started) = false ∧ d.chainWaits 0 true x = false) ∧
    (let x : QEnt := { w0 := 5, started := true }; ((meOf x).queue 0 .me)[0]? = some x ∧ (veOf x).queue 0 .ve = x :: []) := by
  refine ⟨?_, ?_, ?_⟩ <;> decide +kernel

/-- An all-zero tile of one row and one column, at 64 in CLM; an instruction that names it. -/
def zTile (dt : Nat) : List Byte := TileHdr.build ⟨3, dt, 0, 0, 0, 1, 1, 0, 0, 0, 32, 0, 0⟩
def meAt (w0 w1 dt : Nat) : QEnt × Dev :=
  let x : QEnt := { w0 := BitVec.ofNat 64 w0, w1 := BitVec.ofNat 64 w1 }
  (x, (meOf x).poke (clmAt 0 64) (zTile dt))

theorem test_EngineInstructionsStart_matrix :
    (let x := (meAt (1 + 2 ^ 16 + 2 ^ 20) (2 + 2 * 2 ^ 32) 1).1
     let d := (meAt (1 + 2 ^ 16 + 2 ^ 20) (2 + 2 * 2 ^ 32) 1).2
     d.Turn 0 false x ∧ x.opc = 1 ∧ mmaBad x = false ∧ d.accBusy 0 0 = false ∧ d.TileThere 0 (x.f0 32 2) (x.f1 0 17 * 32) (zTile 1) ∧
       d.TileThere 0 (x.f0 34 2) (x.f1 32 17 * 32) (zTile 1) ∧ (TileHdr.parse (zTile 1)).dtype = x.f0 16 4 ∧
       (TileHdr.parse (zTile 1)).dtype = x.f0 20 4 ∧ takeOf (bitAt x.w0.toNat 29) x.cfg (zTile 1) (zTile 1) ≠ .refuse ∧
       bitAt x.w0.toNat 13 = false) ∧
    (let x := (meAt 2 2 5).1
     let d := (meAt 2 2 5).2
     d.Turn 0 false x ∧ x.opc = 2 ∧ bitAt x.w0.toNat 13 = false ∧ mpredBad x = false ∧ ¬64 < x.f0 16 7 + 1 ∧ d.accBusy 0 0 = false ∧
       d.TileThere 0 0 (x.f1 0 17 * 32) (zTile 5) ∧ (TileHdr.parse (zTile 5)).dt = .bf16) ∧
    (let x := (meAt (2 + 2 ^ 13) 2 7).1
     let d := (meAt (2 + 2 ^ 13) 2 7).2
     d.Turn 0 false x ∧ x.opc = 2 ∧ bitAt x.w0.toNat 13 = true ∧ mpredBad x = false ∧ d.TileThere 0 0 (x.f1 0 17 * 32) (zTile 7)) ∧
    (let x := (meAt (3 + 2 ^ 16) 4 1).1
     let d := (meAt (3 + 2 ^ 16) 4 1).2
     d.Turn 0 false x ∧ x.opc = 3 ∧ moutBad x = false ∧ x.f0 24 2 = 0 ∧ bitAt x.w0.toNat 20 = false ∧ bitAt x.w0.toNat 21 = false ∧
       bitAt x.w0.toNat 22 = false ∧
       x.f1 0 17 * 32 + denseSize ((DType.ofCode (x.f0 16 4)).getD .int8) (d.acc 0 0).rows (d.acc 0 0).cols ≤ clmSize) ∧
    (let x := (meAt (3 + 2 ^ 16 + 2 ^ 24) 0 1).1
     let d := (meAt (3 + 2 ^ 16 + 2 ^ 24) 0 1).2.modRing 0 0 fun _ => { mode := 2, nslots := 4, ahead := 2, slot64 := 65, base := 0x10000 }
     d.Turn 0 false x ∧ moutBad x = false ∧ x.f0 24 2 = 1 ∧ (d.ring 0 0).mode = 2 ∧ (d.ring 0 0).room = true ∧
       denseSize ((DType.ofCode (x.f0 16 4)).getD .int8) (d.acc 0 0).rows (d.acc 0 0).cols ≤ (d.ring 0 0).slot64 * 64) ∧
    (let x := (meAt 4 2 2).1
     let d := (meAt 4 2 2).2
     d.Turn 0 false x ∧ x.opc = 4 ∧ mloadBad x = false ∧ d.accBusy 0 0 = false ∧ d.TileThere 0 (x.f0 32 2) (x.f1 0 17 * 32) (zTile 2) ∧
       mloadTakes (zTile 2) = true) := by
  refine ⟨?_, ?_, ?_, ?_, ?_, ?_⟩ <;> decide +kernel

/-- A vector instruction with A at 64, B at 128, C at 192 and DST at 256, plain tensors of one element. -/
def veAt (w0 : Nat) (w1 : Nat) (dt : Nat) (dst : List Byte := []) : QEnt × Dev :=
  let x : QEnt := { w0 := BitVec.ofNat 64 w0, w1 := BitVec.ofNat 64 w1 }
  let t (base : Nat) : List Byte := rcdOf 32 [(1, dt), (4, 1), (8, 1), (16, base)]
  (x, ((((veOf x).poke (clmAt 0 64) (t 0x1000)).poke (clmAt 0 128) (t 0x1100)).poke (clmAt 0 192) (t 0x1200)).poke (clmAt 0 256)
    (if dst.isEmpty then t 0x1300 else dst))

/-- The premises of an elementwise instruction of a class. -/
def elemOk (p : QEnt × Dev) (opc : Nat) (k : VClass) : Bool :=
  let x := p.1
  let d := p.2
  let srcs := (d.fetchAll 0 0 .none (vOffs x k)).srcs
  let e := d.releaseTens 0 (d.fetchAll 0 0 .none (vOffs x k)).ts
  decide (d.Turn 0 true x) && !vBad x && x.opc == opc && decide (vclass x.opc = some k) &&
  ((vOffs x k).all fun o => !(d.tens 0 o).bad false && !(d.tens 0 o).misaligned && !(d.tens 0 o).past && (d.tens 0 o).kind == 0) &&
  decide (refusal (d.vPre 0 x (vOffs x k) (k != .cvt) true ++ vElemChk d 0 x k srcs) = sOk) &&
  match srcs.head? with | some y => decide (e.DestFree 0 (d.tens 0 x.dst) y.rows y.len) | none => false

theorem test_EngineInstructionsStart_elementwise :
    elemOk (veAt 0x10 (4 + 1 * 2 ^ 16 + 2 * 2 ^ 32) 2) 0x10 .ew2 = true ∧
    elemOk (veAt (0x13 + 2 ^ 8) (4 + 1 * 2 ^ 16 + 2 * 2 ^ 32 + 3 * 2 ^ 48) 7) 0x13 .ew3 = true ∧
    elemOk (veAt (0x1C + 2 ^ 12) (4 + 1 * 2 ^ 16 + 2 * 2 ^ 32) 2) 0x1C .sel = true ∧
    elemOk (veAt 0x1D (4 + 1 * 2 ^ 16) 2) 0x1D .cvt = true ∧
    elemOk (veAt (0x1E + 2 ^ 8) (4 + 1 * 2 ^ 16) 7) 0x1E .ew1 = true := by
  refine ⟨?_, ?_, ?_, ?_, ?_⟩ <;> decide +kernel

/-- The source A of an instruction can be read, and its turn has come. -/
def aOk (p : QEnt × Dev) : Bool :=
  let t := p.2.tens 0 p.1.aOff
  decide (p.2.Turn 0 true p.1) && !vBad p.1 && !t.bad false && !t.misaligned && !t.past && t.kind == 0

theorem test_EngineInstructionsStart_vector :
    (let p := veAt 0x20 (5 + 1 * 2 ^ 16 + 2 * 2 ^ 32) 2
     aOk p = true ∧ p.1.opc = 0x20 ∧ (p.2.tens 0 p.1.bOff).past = false ∧
       refusal (p.2.vPre 0 p.1 (vOffs p.1 .cmp) true false ++ vCmpChk p.1 (p.2.fetchAll 0 0 .none (vOffs p.1 .cmp)).srcs) = sOk) ∧
    (let p := veAt 0x30 (4 + 1 * 2 ^ 16) 2
     aOk p = true ∧ p.1.opc = 0x30 ∧ (p.2.tens 0 p.1.dst).kind = 0 ∧
       refusal (p.2.vPre 0 p.1 [p.1.aOff] true true ++ vRedChk p.2 0 p.1 (p.2.fetchAll 0 0 .none [p.1.aOff]).srcs) = sOk) ∧
    (let p := veAt (0x32 + 2 ^ 8) (4 + 1 * 2 ^ 16) 7 (rcdOf 32 [(1, 7), (4, 2), (8, 1), (16, 0x1300)])
     aOk p = true ∧ p.1.opc = 0x32 ∧ (p.2.tens 0 p.1.dst).kind = 0 ∧ (p.2.tens 0 p.1.dst).dt = .fp32 ∧
       refusal (p.2.vPre 0 p.1 [p.1.aOff] true true ++ vRedChk p.2 0 p.1 (p.2.fetchAll 0 0 .none [p.1.aOff]).srcs) = sOk) ∧
    (let p := veAt (0x38 + 2 ^ 32) (5 + 1 * 2 ^ 16) 2
     aOk p = true ∧ p.1.opc = 0x38 ∧
       refusal (p.2.vPre 0 p.1 [p.1.aOff] true false ++ vTopChk p.1 (p.2.fetchAll 0 0 .none [p.1.aOff]).srcs) = sOk) ∧
    (let p := veAt 0x40 (4 + 1 * 2 ^ 16 + 6 * 2 ^ 48) 2
     aOk p = true ∧ p.1.opc = 0x40 ∧ p.1.imm % 4 = 0 ∧ p.1.imm + 4 ≤ clmSize ∧
       refusal (p.2.vPre 0 p.1 [] false true ++ vCompChk p.2 0 p.1 (p.2.fetchAll 0 0 .none [p.1.aOff]).srcs) = sOk ∧
       (match (p.2.fetchAll 0 0 .none [p.1.aOff]).srcs.head? with
        | some y => decide ((p.2.selected 0 p.1 y.rows y.len).length ≤
            (p.2.compShape 0 p.1 y (p.2.selected 0 p.1 y.rows y.len).length).2.2)
        | none => false) = true ∧ (p.2.tens 0 p.1.dst).kind = 0) ∧
    (let p := veAt 0x41 (4 + 1 * 2 ^ 16 + 6 * 2 ^ 48) 2
     aOk p = true ∧ p.1.opc = 0x41 ∧
       refusal (p.2.vPre 0 p.1 [] false true ++ vExpChk p.2 0 p.1 (p.2.fetchAll 0 0 .none [p.1.aOff]).srcs) = sOk ∧
       (match (p.2.fetchAll 0 0 .none [p.1.aOff]).srcs.head? with
        | some y => decide (p.1.imm + (p.2.selected 0 p.1 (p.2.expShape 0 p.1 y).1 (p.2.expShape 0 p.1 y).2).length ≤
            (if p.1.gran = true then y.rows else y.rows * y.len))
        | none => false) = true ∧ (p.2.tens 0 p.1.dst).kind = 0) ∧
    (let x : QEnt := { w0 := BitVec.ofNat 64 (0x51 + 8 * 2 ^ 32) }
     (veOf x).Turn 0 true x ∧ vBad x = false ∧ x.opc = 0x51 ∧ x.imm % 8 = 0 ∧ x.imm + 8 ≤ clmSize) := by
  refine ⟨?_, ?_, ?_, ?_, ?_, ?_, ?_⟩ <;> decide +kernel

theorem test_SeedAndMaskInstructions_premises :
    (let x : QEnt := { w0 := BitVec.ofNat 64 (5 + 9 * 2 ^ 32) }
     let d := meOf x
     SMap.wf {} d.cores = true ∧ SMap.wf 0 (d.core 0).ve.vm = true ∧ d.chainWaits 0 false x = false ∧
       nextPlace (d.queue 0 .me) = some x ∧ x.opc = 5 ∧ x.f0 8 23 = 0 ∧ x.w1 = 0 ∧ d.capHolds 0 false 0 = false) ∧
    (let x : QEnt := { w0 := BitVec.ofNat 64 (0x52 + 5 * 2 ^ 32) }
     let d := veOf x
     nextPlace (d.queue 0 .ve) = some x ∧ (d.queue 0 .ve).any (·.started) = false ∧ vBad x = false ∧ d.capHolds 0 true 4 = false ∧
       x.opc = 0x52) ∧
    (let x : QEnt := { w0 := BitVec.ofNat 64 (0x50 + 8 * 2 ^ 32) }
     let d := veOf x
     nextPlace (d.queue 0 .ve) = some x ∧ vBad x = false ∧ x.opc = 0x50 ∧ x.imm % 8 = 0 ∧ x.imm + 8 ≤ clmSize) ∧
    (let x : QEnt := { w0 := 0x52, started := true }
     let d : Dev := { dev0 with cores := [(0, { ve := { q := [x], vmNew := some (0, 5) } })] }
     d.queue 0 .ve = x :: [] ∧ (d.core 0).ve.vmNew = some (0, 5)) := by
  refine ⟨?_, ?_, ?_, ?_⟩ <;> decide +kernel

/-- The first stream engine of core 0. -/
def seOf (e : SeEng) : Dev := { tabs0 with cores := [(0, { se0 := e })] }

/-- A ring that runs a program of one instruction, its bases at 0x2000. -/
def ringOf (mode : Nat) (w : Word) : Ring :=
  { mode := mode, nslots := 4, ahead := 2, slot64 := 1, prog := [w, 0], b := List.replicate 4 (BitVec.ofNat 64 (ga0 0x2000)), base := 0x10000 }
def armOf (mode : Nat) (w : Word) : Dev := seOf { ring := ringOf mode w }

/-- An arm record: FETCH, 4 slots, AHEAD 2, a program of END alone. -/
def arm0 : List (Nat × Nat) := [(0, 1), (1, 4), (2, 2), (3, 1), (4, 1), (8, 0x10000), (12, 0x1000)]

theorem test_StreamCommandsAct_premises :
    (let x := { entOf arm0 with cmd := 1 }
     let d := seOf { q := [x] }
     d.queue 0 (.se 0) = x :: [] ∧ (d.se 0 0).closing = false ∧ x.bad = 0 ∧ d.armBad 0 x.rcd = sOk ∧ (d.ring 0 0).mode = 0) ∧
    (armOf 1 0).armBad 0 (entOf arm0).rcd = sOk ∧ ((armOf 1 0).ring 0 0).mode ≠ 0 ∧ dev0.armBad 0 (entOf []).rcd ≠ sOk ∧
    (let x := { entOf [] with cmd := 2 }
     let f := recNum x.rcd
     x.bad = 0 ∧ f 32 1 < 16 ∧ f 33 31 = 0 ∧ f 7 1 = 0 ∧ f 15 1 = 0 ∧ f 23 1 = 0 ∧ f 31 1 = 0) ∧
    ((armOf 2 0).ring 0 0).mode ≠ 1 ∧ ((armOf 2 0).ring 0 0).mode ≠ 3 ∧ ((armOf 1 0).ring 0 0).mode = 1 ∧
      ((armOf 1 0).ring 0 0).rearms.length < 2 ∧
    2 ≤ ((seOf { ring := { ringOf 1 0 with rearms := [[], []] } }).ring 0 0).rearms.length ∧
    (let x : QEnt := { rcd := rcdOf 128 [(0, 1), (2, 1)], cmd := 4 }
     let d := seOf { q := [x] }
     d.queue 0 (.se 0) = x :: [] ∧ (d.se 0 0).chains.length < 2 ∧ d.chainStatus 0 x = sOk ∧
       d.chainStatus 0 { x with rcd := [] } ≠ sOk) ∧
    2 ≤ ((seOf { chains := [⟨1, [], {}, false, false, 0, 0, 0, 0, false, false, false, false⟩, ⟨2, [], {}, false, false, 0, 0, 0, 0, false, false, false, false⟩] }).se 0 0).chains.length := by
  refine ⟨?_, ?_, ?_, ?_, ?_, ?_, ?_⟩ <;> decide +kernel

theorem test_ArmatureStepsAct_premises :
    (armOf 1 0x301).armNow 0 0 1 = some 0x301 ∧ (armOf 1 2).armNow 0 0 2 = some 2 ∧
    (let w : Word := 3
     let d := armOf 1 w
     let r := d.ring 0 0
     let a := r.addr (armF w 4 2) (armOff w)
     d.armNow 0 0 3 = some w ∧ a % 32 = 0 ∧ r.mayLoad = true ∧ d.mayFetch 0 0 = true ∧ d.remoteOf a = none) ∧
    (let w : Word := BitVec.ofNat 64 (3 + 2 ^ 40)
     let d := armOf 1 w
     let r := d.ring 0 0
     d.armNow 0 0 3 = some w ∧ r.addr (armF w 4 2) (armOff w) % 32 ≠ 0) ∧
    (let w : Word := BitVec.ofNat 64 (4 + 2 ^ 20)
     let d := armOf 1 w
     let r := d.ring 0 0
     let a := r.addr (armF w 4 2) (armOff w)
     d.armNow 0 0 4 = some w ∧ a % 8 = 0 ∧ d.listOk a (armF w 20 7 * (if armF w 6 1 = 1 then 4 else 6)) = true ∧
       tdValid (d.tdesc (armF w 8 12)) = true ∧ d.heldTable (armF w 8 12) = false) ∧
    (let w : Word := BitVec.ofNat 64 (5 + 2 ^ 12 + 64 * 2 ^ 24)
     let d := armOf 1 w
     let r := d.ring 0 0
     let b := r.addr (armF w 4 2) 0
     d.armNow 0 0 5 = some w ∧ b % 256 = 0 ∧ 64 * r.index (armF w 8 3) < armF w 24 16 ∧
       armF w 40 19 * 8 + 8 * armF w 12 12 ≤ clmSize ∧ d.remoteOf b = none ∧
       d.poisoned (clmAt 0 (armF w 40 19 * 8)) (8 * armF w 12 12) = false) ∧
    (let w : Word := 6
     let t := TileHdr.build ⟨3, 0, 0, 0, 0, 1, 1, 0, 0, 0, 32, 0, 0⟩
     let d := (seOf { ring := { ringOf 3 w with slots := [(0, { st := 2, adv := true })] } }).poke (clmAt 0 0x10000) t
     let r := d.ring 0 0
     let a := r.addr (armF w 4 2) (armOff w)
     d.armNow 0 0 6 = some w ∧ a % 32 = 0 ∧ r.headReady = true ∧ (d.se 0 0).room = true ∧ d.remoteOf a = none ∧
       bitAt w.toNat 6 = false) ∧
    (let w : Word := 6
     let t := TileHdr.build ⟨3, 0, 0, 0, 0, 1, 1, 0, 0, 0, 32, 0, 0⟩
     let d := (seOf { ring := { ringOf 3 w with slots := [(0, { st := 2, adv := true })] } }).poke (clmAt 0 0x10000) t
     let r := d.ring 0 0
     let a := r.addr (armF w 4 2) (armOff w)
     let bs := (d.tileBytes (r.at 0 r.head)).take (r.slot64 * 64)
     tileGood (d.tileBytes (r.at 0 r.head)) = true ∧ r.fits (d.tileBytes (r.at 0 r.head)) = true ∧
       d.poisoned (r.at 0 r.head) (r.slot64 * 64) = false ∧ d.tilePoisoned (r.at 0 r.head) bs = false ∧
       d.rangeOk (dlaOf a) bs.length = true) ∧
    (let d := seOf { ring := { ringOf 1 7 with slots := [(0, { st := 2 })] } }
     let r := d.ring 0 0
     d.armNow 0 0 7 = some 7 ∧ r.mode = 1 ∧ (r.slot r.tail).st = 2 ∧ (r.slot r.tail).adv = false) ∧
    (let d := seOf { ring := { ringOf 3 7 with slots := [(0, { st := 2, adv := true })] } }
     let r := d.ring 0 0
     d.armNow 0 0 7 = some 7 ∧ r.mode = 3 ∧ r.headReady = true ∧
       (d.se 0 0).xfers.any (fun x => x.store && x.slot == r.head) = false) ∧
    (let d := seOf { ring := ringOf 1 8, waiting := true }
     d.armNow 0 0 8 = some 8 ∧ (d.se 0 0).waiting = true ∧ (d.se 0 0).waitDone = false) ∧
    (let d := seOf { ring := ringOf 1 8, waiting := true, waitDone := true }
     d.armNow 0 0 8 = some 8 ∧ (d.se 0 0).waitDone = true) ∧
    (let d := armOf 3 9; d.armNow 0 0 9 = some 9 ∧ (d.se 0 0).xfers = [] ∧ (d.ring 0 0).mode = 3 ∧ d.syncBroken 0 = false) ∧
    (armOf 1 0).armNow 0 0 0 = some 0 ∧
    (let x : Xfer := { id := 4, slot := 0, addr := ga0 0x2000, store := false, ph := 0 }
     let d := seOf { xfers := [x] }
     d.xfer? 0 0 4 = some x ∧ d.remoteOf x.addr = none ∧ x.ph = 0 ∧ d.heldRange x.span.1 x.span.2 = false ∧ d.xferWait 0 0 x = 0 ∧
       d.spanBusy x.span.1 x.span.2 = false ∧ d.target (dlaOf x.addr) = .ext 0 0x2000) ∧
    (let x : Xfer := { id := 4, slot := 0, addr := ga0 0x2000, store := true }
     let d := seOf { xfers := [x] }
     d.xfer? 0 0 4 = some x ∧ x.ph = 2 ∧ d.heldRange x.span.1 x.span.2 = false ∧ d.xferWait 0 0 x = 0 ∧ d.spanBusy x.span.1 x.span.2 = false) ∧
    (let w : Word := 3
     let d := { armOf 1 w with net := far0.net, mem := far0.mem }.modRing 0 0 fun r => { r with b := [BitVec.ofNat 64 (7 * 2 ^ 44 + 0x2000)] }
     let a := (d.ring 0 0).addr 0 0
     d.armNow 0 0 3 = some w ∧ d.remoteOf a = some 7 ∧ d.routeCheck 7 = .send) ∧
    (let d := armOf 1 9
     let r := d.ring 0 0
     d.armNow 0 0 9 = some 9 ∧ r.mode ≠ 3 ∧ ∀ i, i < r.nslots → (r.slot i).st = 0) := by
  refine ⟨?_, ?_, ?_, ?_, ?_, ?_, ?_, ?_, ?_, ?_, ?_, ?_, ?_, ?_, ?_, ?_, ?_⟩ <;> decide +kernel

theorem test_MergeDescriptorsStart_premises :
    (let x := entOf [(0, 1), (4, 1), (16, clmAt 0 0), (24, clmAt 0 64), (32, 256)]
     let d : Dev := { tabs0 with cores := [(0, { mq := { q := [x] } })] }
     (d.core 0).mq.q = x :: [] ∧ x.started = false ∧ x.bad = 0 ∧ d.findings = [] ∧ x.g 0 1 = 1 ∧ d.gmStatus 0 x = sOk) ∧
    (entOf [(0, 2)]).g 0 1 = 2 ∧ dev0.gmStatus 0 (entOf [(0, 2)]) ≠ sOk ∧
    (let x := entOf [(0, 1), (16, clmAt 0 0)]
     let d := dev0.poke (clmAt 0 0) (List.replicate 6 255)
     d.num (x.g 16 8 + 0 * x.gIdx) x.gIdx = 2 ^ (8 * x.gIdx) - 1) ∧
    (let x := { entOf [(0, 1), (4, 1)] with started := true }
     let d : Dev := { tabs0 with cores := [(0, { mq := { q := [x] } })] }
     (d.core 0).mq.q = x :: [] ∧ (d.core 0).mq.hdr = false ∧ x.dead = false ∧ (d.core 0).mq.next < x.g 4 4) ∧
    (let x := entOf [(0, 2), (16, clmAt 0 0)]
     let d := tabs0.poke (clmAt 0 0) [1]
     d.findings = [] ∧ ldNt (d.layerOf (x.g 2 2 % 4096)) ≤ d.num (x.g 16 8 + 2 * 0) 2) := by
  refine ⟨?_, ?_, ?_, ?_, ?_⟩ <;> decide +kernel

theorem test_UpdatePartsAct_premises :
    (let p := part0
     let d := { tabs0 with host := { host0 with ops := [{ opOf 0x125 [] .running with handle := 7 }] }, tabs := { parts := [p] } }
     d.part? 4 = some p ∧ p.layer = true ∧ p.started = true ∧ p.readers = true ∧ d.partStop p = none ∧ d.spansWait p.mem (d.layerSpans p) = false) ∧
    (let p := part0
     let d := { tabs0 with host := { host0 with ops := [{ opOf 0x125 [] .running with handle := 7, cancelBy := some 2 }] }, tabs := { parts := [p] } }
     (d.partStop p).isSome = true) ∧
    (rcdOf 39 []).length ≠ 40 ∧ (rcdOf 40 [(24, 65536)]).length = 40 ∧ recNum (rcdOf 40 [(24, 65536)]) 0 1 = 0 ∧
      0 < recNum (rcdOf 40 [(24, 65536)]) 24 4 ∧ recNum (rcdOf 40 [(24, 65536)]) 24 4 ≤ 65536 ∧
    tdValid (tabs0.tdesc 2) = true ∧ tdSharded (tabs0.tdesc 2) = true ∧ bdValid (tabs0.bindOf 2) = true ∧
      (tdValid (tabs0.tdesc 1) && tdSharded (tabs0.tdesc 1) && bdValid (tabs0.bindOf 1)) = false ∧
    (let o : Outst := ⟨9, 3, 0x1B, 0, none, .part 7⟩
     let d := { tabs0 with net := { id := some 1, outst := [o] }, host := { host0 with ops := [{ opOf 0x125 [] .running with handle := 7 }] } }
     let e := d.took none 0x1C 9 []
     (e.net.outst.find? fun o => o.tag == 9) = some o ∧ eState ≠ sOk ∧
       ((e.onNet fun t => { t with outst := t.outst.filter fun x => x.tag != 9 }).handleOp 7).isSome = true) ∧
    (let o : Outst := ⟨9, 3, 0x1B, 5, none, .part 7⟩
     let d := { tabs0 with net := { id := some 1, outst := [o] }, host := { host0 with ops := [{ opOf 0x125 [] .running with handle := 7 }] } }
     let body := rcdOf 24 [(4, 1)]
     let e := d.took none 0x1C 9 body
     body.length = 8 + 16 * recNum body 4 4 ∧ (e.net.outst.find? fun o => o.tag == 9) = some o ∧ (e.handleOp 7).isSome = true ∧
       recNum body 4 4 < o.op ∧ (rcdOf 23 [(4, 1)]).length ≠ 8 + 16 * recNum (rcdOf 23 [(4, 1)]) 4 4) ∧
    tabs0.tabs.gwait.findIdx? tabs0.mergeReady = none ∧
    (let r : RowReq := { table := 0, row := 0, op := .read }
     let d := { tabs0 with tabs := { gwait := [r] } }
     d.tabs.gwait.findIdx? d.mergeReady = some 0 ∧ d.tabs.gwait[0]? = some r) := by
  refine ⟨?_, ?_, ?_, ?_, ?_, ?_, ?_, ?_⟩ <;> decide +kernel

/-! ### Premises of the statements: moves and the fabric -/

/-- A move of row 0 of table 2, and one that comes in. -/
def mv0 (st : MvSt) : Move := { id := 6, table := 2, row := 0, rows := [0], shard := false, dst := some 3, toHot := false, st := st, tmo := 10 }
def mvs (st : MvSt) : Dev := { tabs0 with tabs := { moves := [mv0 st] } }
def mvBody (kind : Nat) : List Byte := rcdOf 64 [(0, kind), (2, 2), (4, 1)]

theorem test_ShardsAndMovesAct_premises :
    entBad (rcdOf 64 []) = false ∧ loadrepBad (rcdOf 16 [(4, 1)]) = false ∧ (∀ k < 5, moveBad k (mvBody k) = false) ∧
      (∀ k < 5, moveBad k [] = true) ∧
    (mvs .wait).move? 6 = some (mv0 .wait) ∧ (mvs .wait).heldTable 2 = false ∧
    (let d := (mvs .wait).putEnt 0 { state := 1, module := 1, key := entKey 2 0 }
     d.move? 6 = some (mv0 .wait) ∧ d.moveReady (mv0 .wait) = true) ∧
    (let o := opOf 0x102 [(32, 1), (34, 2), (36, 1)] .running
     let d := { mvs .wait with host := { host0 with ops := [o] } }
     d.heldTable 2 = true) ∧
    (mvs .moving).move? 6 = some (mv0 .moving) ∧ (mv0 .moving).dst ≠ none ∧ (mvs .moving).tabs.fabTok ≤ 0 ∧ (mvs .moving).copyWaits (mv0 .moving) = false ∧
      0 < ({ mvs .moving with tabs := { moves := [mv0 .moving], fabTok := 1 } } : Dev).tabs.fabTok ∧
    (let e := (mvs (.snapped 0)).took (some 3) 0x19 0 (mvBody 1)
     e.moveFor 3 (mvBody 1) = some (mv0 (.snapped 0)) ∧ (mv0 (.snapped 0)).dst.isSome = true ∧
       0 ≤ 0 + (mv0 (.snapped 0)).tmo * 12000 ∧ 0 + (mv0 (.snapped 0)).tmo * 12000 < 120001) ∧
    (let d : Dev := { tabs0 with tabs := { incoming := [{ src := 3, table := 2, row := 0, nbatch := 1, rows := [], hot := false }] } }
     let e := d.took (some 3) 0x19 0 (mvBody 2)
     (e.incomingFor 3 (mvBody 2)).isSome = true) ∧
    (let e := (mvs (.snapped 0)).took (some 3) 0x19 0 (mvBody 4)
     (e.tabs.moves.find? fun v => v.table == recNum (mvBody 4) 2 2 % 4096 && v.rows.contains (recNum (mvBody 4) 8 8) && v.dst == some 3) = some (mv0 (.snapped 0))) ∧
    tabs0.rowEnt? 2 0 = none ∧
    (let d0 : Dev := { tabs0 with tabs := { rent := [(entKey 2 0, some 0)] } }
     let d := d0.putEnt (d0.rowEntAt 0) { state := 3, key := entKey 2 0 }
     d.rowEnt? 2 0 = some (d.rowEntAt 0) ∧ (d.entAt (d.rowEntAt 0)).state = 3) := by
  refine ⟨?_, ?_, ?_, ?_, ?_, ?_, ?_, ?_, ?_, ?_⟩ <;> decide +kernel

/-- Port 0 trains; the sideband has its cable. -/
def train0 : State := stOf .linkup { net0 with net := { ports := [(0, { training := true })] } }
def fr0 : Frame := ⟨0, 0, 2 ^ 48 - 1, 0x800, none, 0, true, 64, none, 0, true, 0⟩

theorem test_PortsAndFramesAct_premises :
    train0.mach.portMay 0 = true ∧ 0 < subPorts (train0.dev.portMode 0) ∧ bitAt (train0.dev.port 0).up 0 = false ∧
      (train0.dev.port 0).training = true ∧
    bitAt (net0.port 0).up 0 = true ∧ (stOf .run net0).mach.und.st = .run ∧
    net0.ethUp 0 0 = true ∧ net0.portMode 0 ≠ 4 ∧ fr0.fcs = true ∧ 64 ≤ fr0.len ∧ fr0.len ≤ 9216 ∧ fr0.etype ≠ 0x8808 ∧
    (let e := net0.bump .ETH_RXFRM [0]
     e.tagOk 0 none = true ∧ e.tagOk 0 (some (5, 0)) = false ∧ e.macMine 0 0 fr0.dst = true ∧ e.macMine 0 0 3 = false ∧ e.ipDrop fr0 = false) ∧
    (let e := net0.bump .ETH_RXFRM [0]
     (e.port 0).waiting - SMap.get 0 (e.port 0).buf (e.rxPrio fr0) + fr0.occ + fr0.len ≤ 2 ^ 20) ∧
    (let e := net0.bump .ETH_RXFRM [0]
     let f := { fr0 with occ := 2 ^ 20 }
     2 ^ 20 < (e.port 0).waiting - SMap.get 0 (e.port 0).buf (e.rxPrio f) + f.occ + f.len) ∧
    (let d : Dev := { net0 with conf := { net0.conf with reg := SMap.put 0 net0.conf.reg (Reg.ETH_PORT.off [0]) 0x80001 } }
     d.ethUp 0 0 = true ∧ d.portMode 0 ≠ 4 ∧ (d.bump .ETH_RXFRM [0]).pfcOn 0 3 = true ∧ SMap.wf {} d.net.ports = true) := by
  refine ⟨?_, ?_, ?_, ?_, ?_, ?_, ?_⟩ <;> decide +kernel

theorem test_NeighboursAreServed_premises :
    net0.ethUp 0 0 = true ∧ (0 : Nat) < 36 ∧ (0 : Nat) < 4 ∧ (5 : Nat) ≠ 0 ∧
    (let x : Nbr := ⟨9, 8, 0, true⟩; let d := net0.setNbrs 0 [x]; (d.nbrs 0)[0]? = some x ∧ x.asked = true) ∧
    (let x : Nbr := ⟨9, 8, 0, false⟩; let d := net0.setNbrs 0 [x]; (d.nbrs 0)[0]? = some x ∧ x.asked = false) := by
  refine ⟨?_, ?_, ?_⟩ <;> decide +kernel

/-- A packet of module 2, incarnation 7, to this module, incarnation 5. -/
def rx0 (ptype psn dinc : Nat) (body : List Byte) : Rx :=
  { port := 0, sub := 0, native := false, src := 0x0A000002, v6 := false, ce := false, bytes := packetBytes ptype 2 1 0 0 7 dinc psn 0 body,
    mac := 2 ^ 48 - 1, dst := 0x0A000001, dport := net0.cfgF .SFX_CFG [] 0 16 }
def up0 : Dev := { net0 with net := { net0.net with peers := [(2, { st := .up, inc := 7 })] } }

theorem test_SalrexPacketsAct_premises :
    net0.rxHere (rx0 1 0 5 []) = true ∧ (net0.rxFrame (rx0 1 0 5 [])).2 = true ∧ (up0.rxFrame (rx0 4 0 5 (rcdOf 8 [(0, 5)]))).2 = true ∧ (net0.rxFrame (rx0 1 0 5 [])).1.pktBad 1 [] = true ∧
      (net0.rxFrame (rx0 1 0 5 [])).1.pktBad 2 [] = true ∧ (net0.rxFrame (rx0 1 0 5 [])).1.pktBad 3 [] = true ∧
      (net0.rxFrame (rx0 1 0 5 [])).1.pktBad 4 [] = true ∧
    (let d := (up0.rxFrame (rx0 1 0 5 [])).1
     let b := (rx0 1 0 5 []).bytes
     d.pktBad 1 b = false ∧ (d.meetPeer 0 (Hdr.of b).src (Hdr.of b).sinc).2 = false ∧ (Hdr.of b).dinc = d.net.inc) ∧
    (let d := (up0.rxFrame (rx0 1 0 4 [])).1; let b := (rx0 1 0 4 []).bytes; d.pktBad 1 b = false ∧ (Hdr.of b).dinc ≠ d.net.inc) ∧
    ((({ up0 with net := { up0.net with peers := [(2, { st := .up, inc := 7, rreq := { got := [0] } })] } } : Dev).meetPeer 0 2 7).1.rxFlow 2 0).got.contains 0 = true ∧
    (let x := rx0 2 0 5 (rcdOf 24 [])
     let d := (up0.rxFrame x).1
     d.pktBad 2 x.bytes = false ∧ (d.meetPeer 0 2 7).2 = false ∧ (x.bytes.drop 32).length = 24 ∧ recNum (x.bytes.drop 32) 6 2 = 0) ∧
    (let x := rx0 4 0 5 (rcdOf 8 [(0, 5)])
     let d := (up0.rxFrame x).1
     d.pktBad 4 x.bytes = false ∧ (x.bytes.drop 32).length = 8 ∧ recNum (x.bytes.drop 32) 4 4 = 0 ∧ (d.peer 2).st = .up ∧
       (d.peer 2).inc = 7 ∧ recNum (x.bytes.drop 32) 0 4 = d.net.inc) ∧
    (let x := rx0 3 0 0 (rcdOf 32 [])
     let d := (up0.rxFrame x).1
     d.pktBad 3 x.bytes = false ∧ helloBad 0 (x.bytes.drop 32) = false) ∧
    (let x := rx0 3 0 0 (rcdOf 32 [(0, 1), (1, 1), (2, 9)])
     let d := (({ net0 with net := { net0.net with id := none } } : Dev).rxFrame x).1
     let g := Hello.of (x.bytes.drop 32)
     let e := d.announced 0 2 7
     d.pktBad 3 x.bytes = false ∧ helloBad 1 (x.bytes.drop 32) = false ∧ bitAt g.flags 0 = true ∧ g.ident = e.ident ∧
       e.net.id = none ∧ g.module ≠ 0xFFF) := by
  refine ⟨?_, ?_, ?_, ?_, ?_, ?_, ?_, ?_⟩ <;> decide +kernel

theorem test_TransportTimersAct_premises :
    (({ net0 with net := { peers := [(2, { st := .up, rreq := { firstAt := some 3 } })] } } : Dev).rxFlow 2 0).firstAt = some 3 ∧
    (let p : Pkt := { psn := 4, msgs := [], port := 0, entropy := 0, firstAt := 0, lastAt := 0, tries := 0, sentTo := 0 }
     let d : Dev := { net0 with net := { peers := [(2, { st := .up, req := { unacked := [p] } })] } }
     ((d.txFlow 2 0).unacked.find? fun p => p.psn == 4) = some p ∧ (d.peer 2).st = .up ∧ (d.peer 2).oldest = some 0) ∧
    (let d : Dev := { net0 with net := { penal := [(5, 9)] } }; d.net.penal[0]? = some (5, 9)) ∧
    run0.mach.und.st.serves = true := by
  refine ⟨?_, ?_, ?_, ?_⟩ <;> decide +kernel

/-- The bodies of an RD of 8 bytes, of a WR of 8 bytes and of an add of 8 bytes at 0x1040. -/
def rdBody : List Byte := rcdOf 12 [(0, 0x1040), (8, 8)]
def wrBody : List Byte := rcdOf 32 [(0, 0x1040), (8, 8), (24, 9)]
def atBody : List Byte := rcdOf 32 [(0, 0x1040), (8, 1), (9, 8), (16, 1)]

theorem test_MemoryRequestsAct_premises :
    dev0.rdBad [] = true ∧ dev0.wrBad [] = true ∧ atBad [] = true ∧
    dev0.rdBad rdBody = false ∧ dev0.target (recNum rdBody 0 8) = .ext 0 0x1040 ∧
      dev0.rdWaits (recNum rdBody 0 8) (recNum rdBody 8 4) = false ∧
    dev0.rdBad (rcdOf 12 [(0, 2 ^ 42), (8, 8)]) = false ∧ dev0.target (2 ^ 42) = .hole ∧
    dev0.wrBad wrBody = false ∧ dev0.target (recNum wrBody 0 8) = .ext 0 0x1040 ∧
      dev0.wrWaits (recNum wrBody 0 8) (recNum wrBody 8 4) = false ∧
    dev0.wrBad (rcdOf 32 [(0, 2 ^ 42), (8, 8)]) = false ∧
    (let o := atOp atBody
     atBad atBody = false ∧ dev0.heldRange o.addr (max o.len 1) = false ∧ dev0.atWait 2 atBody = 0) := by
  refine ⟨?_, ?_, ?_, ?_, ?_, ?_⟩ <;> decide +kernel

/-- A SYNC body of an operation on object 3. -/
def syBody (op : Nat) : List Byte := rcdOf 24 [(0, op), (4, 3), (8, 1)]

theorem test_SyncMessagesAct_premises :
    dev0.heldRange (syncBase + 64 * 3) 64 = false ∧ syncMsgBad 0 (syBody 0) = false ∧ syncMsgBad 1 (syBody 1) = false ∧
      syncMsgBad 2 (syBody 2) = false ∧ syncMsgBad 3 (syBody 3) = false ∧ syncMsgBad 0 (syBody 1) = true ∧
    (dev0.took (some 2) 0x12 1 (syBody 0)).syncBroken 3 = false ∧
    32 ≤ (rcdOf 32 []).length ∧ (rcdOf 32 []).length = 32 + 8 * recNum (rcdOf 32 []) 12 1 ∧
    (let b := rcdOf 40 [(0, 1), (8, 9)]
     let ent (i : Nat) : List Byte := (b.drop (8 + 32 * i)).take 32
     b.length = 8 + 32 * 1 ∧ recNum b 0 2 = 1 ∧ recNum b 2 6 = 0 ∧
       (∀ i, i < 1 → recNum (ent i) 0 2 < 4096 ∧ recNum (ent i) 2 1 < 4 ∧ recNum (ent i) 3 5 = 0)) ∧
    recNum (rcdOf 40 []) 0 2 = 0 := by
  refine ⟨?_, ?_, ?_, ?_, ?_⟩ <;> decide +kernel

/-- The running thread of core 0 waits for a response that this module has asked of module 3. -/
def asks (t : Nat) (w : Who) : State := stOf .run { thr0.dev with
  cores := [(0, { sq := { cur := some 0, user := true, remote := some 9 } })]
  net := { id := some 1, outst := [⟨5, 3, t, 0, some 1, w⟩] } }

theorem test_ResponsesAct_premises :
    (dev0.answered 0x01 5 sOk []).2 = none ∧
    (let w : Who := .load 0 7 8 false
     ((asks 0x01 w).dev.answered 0x01 5 sOk (rcdOf 16 [])).2 = some ⟨5, 3, 0x01, 0, some 1, w⟩ ∧
       ((asks 0x01 w).dev.answered 0x01 5 sOk (rcdOf 16 [])).1.stillWaits 0 ⟨5, 3, 0x01, 0, some 1, w⟩ = true) ∧
    (let w : Who := .store 0; ((asks 0x03 w).dev.answered 0x03 5 sOk []).2 = some ⟨5, 3, 0x03, 0, some 1, w⟩) ∧
    (let w : Who := .amo 0 7 8
     ((asks 0x05 w).dev.answered 0x05 5 sOk (rcdOf 16 [])).2 = some ⟨5, 3, 0x05, 0, some 1, w⟩ ∧
       ((asks 0x05 w).dev.answered 0x05 5 sOk (rcdOf 16 [])).1.stillWaits 0 ⟨5, 3, 0x05, 0, some 1, w⟩ = true ∧
       recNum (rcdOf 16 []) 8 8 = 0) ∧
    (let w : Who := .sc 0 7
     ((asks 0x05 w).dev.answered 0x05 5 sOk (rcdOf 16 [])).2 = some ⟨5, 3, 0x05, 0, some 1, w⟩ ∧
       ((asks 0x05 w).dev.answered 0x05 5 sOk (rcdOf 16 [])).1.stillWaits 0 ⟨5, 3, 0x05, 0, some 1, w⟩ = true) ∧
    (let w : Who := .atom 0
     let p := (asks 0x05 w).dev.answered 0x05 5 sOk (rcdOf 16 [])
     p.2 = some ⟨5, 3, 0x05, 0, some 1, w⟩ ∧ recNum (rcdOf 16 []) 8 8 = 0 ∧ ((p.1.atomOver 0).job 1).live = true ∧
       ((p.1.atomOver 0).job 1).ending = none) ∧
    (let w : Who := .sync 0 7
     ((asks 0x12 w).dev.answered 0x12 5 sOk (rcdOf 8 [])).2 = some ⟨5, 3, 0x12, 0, some 1, w⟩ ∧
       ((asks 0x12 w).dev.answered 0x12 5 sOk (rcdOf 8 [])).1.stillWaits 0 ⟨5, 3, 0x12, 0, some 1, w⟩ = true) ∧
    (let w : Who := .wait 0 1; ((asks 0x12 w).dev.answered 0x12 5 sOk (rcdOf 8 [])).2 = some ⟨5, 3, 0x12, 0, some 1, w⟩) := by
  refine ⟨?_, ?_, ?_, ?_, ?_, ?_, ?_, ?_⟩ <;> decide +kernel

/-! ### Premises of the statements: the Understory -/

def rails0 (n : Nat) (hot : Bool := false) : State :=
  { mach := { und := { st := .understory, vin := true, rails := n, sensors := if hot then [(15, { temp := 41 })] else [] } } }

theorem test_PowerAndPinsAct_premises :
    State.reset.mach.und.st = .off ∧ run0.mach.und.st ≠ .off ∧ run0.mach.und.st = .run ∧ linkup0.mach.und.st ≠ .off ∧
      linkup0.mach.und.st ≠ .run ∧ linkup0.mach.und.st ≠ .drain ∧
    (rails0 1).mach.und.st = .understory ∧ 1 ≤ (rails0 1).mach.und.rails ∧ (rails0 4).mach.und.rails ≤ 4 ∧
    (rails0 5).mach.und.rails = 5 ∧ (rails0 5).mach.und.inletHot = false ∧ (rails0 5 true).mach.und.inletHot = true ∧
    (stOf .boot {}).mach.und.st = .boot := by
  refine ⟨?_, ?_, ?_, ?_⟩ <;> decide +kernel

theorem test_ModuleStatesAct_premises :
    (stOf .boot {}).mach.und.st = .boot ∧ imgCause (stOf .boot {}).mach.nv.img {} 0x4812 ≠ 0 ∧
    (stOf .memtrain {}).mach.und.st = .memtrain ∧
      ((stOf .memtrain {}).mach.trained ⟨0, 0, 0, 0, 0, 0⟩ 0 0 []).dev.pres.clusters = 0 ∧
    (let t := (stOf .memtrain {}).mach.trained ⟨0xFF, 1, 0, 0, 0, 0⟩ 0 0 []; t.dev.pres.clusters ≠ 0 ∧ t.dev.pres.hbms = 0) ∧
    (let t := (stOf .memtrain {}).mach.trained ⟨0xFF, 1, 3, 3, 1, 3⟩ 0 0 []; t.dev.pres.clusters ≠ 0 ∧ t.dev.pres.hbms ≠ 0) ∧
    linkup0.mach.und.st = .linkup ∧ linkup0.mach.runReady = true ∧ run0.mach.runReady = false ∧
    run0.mach.und.st = .run ∧ (stOf .drain {}).mach.und.st = .drain ∧ (stOf .drain {}).mach.dev.allQuiet = true := by
  refine ⟨?_, ?_, ?_, ?_, ?_, ?_⟩ <;> decide +kernel

/-- At the end of MEMTRAIN with an image that has no section, so that no record gives a register a value. -/
def trained0 : Mach :=
  ({ und := { st := .memtrain }, nv := { flash := [(12, 0), (13, 0)] } } : Mach).trained ⟨0xFF, 1, 3, 3, 1, 3⟩ 0 0 []

theorem test_trained0_bare : trained0.dev.pres.clusters ≠ 0 ∧ trained0.dev.pres.hbms ≠ 0 ∧ (imgSects trained0.image).length = 0 := by
  refine ⟨?_, ?_, ?_⟩ <;> decide +kernel

theorem test_ModuleStatesAct_refused : (trained0.dev.checkBoot (Conf.ofImage trained0.image) 3).isSome = true := by
  rcases h : trained0.dev.checkBoot (Conf.ofImage trained0.image) 3 with _ | f
  · have g := test_firstFail_some _ h
    refine absurd g (List.ne_nil_of_mem (a := regFail eArg .UND_LINKCFG) ?_)
    iterate 17 apply List.mem_append_left
    refine List.mem_flatMap.mpr ⟨.UND_LINKCFG, by decide +kernel, List.mem_flatMap.mpr ⟨[], by decide +kernel, by decide +kernel⟩⟩
  · rfl

def rcv0 (r : Rcv) : State := { mach := { und := { st := .recovery, rcv := r } } }

theorem test_RecoveryMailboxActs_premises :
    (rcv0 {}).mach.und.st = .recovery ∧ (rcv0 {}).mach.und.rcv.busy = 0 ∧
    (rcv0 { busy := 4 }).mach.und.st = .recovery ∧ (rcv0 { busy := 4 }).mach.und.rcv.busy ≠ 0 ∧
      (rcv0 { busy := 4 }).mach.und.rcv.busy = 4 ∧
    (let legal (a : Word) : Bool := bitsOf a.toNat 27 5 = 0 ∧ a.toNat < 2 ^ 48 ∧ 1 ≤ bitsOf a.toNat 32 16 ∧ bitsOf a.toNat 32 16 ≤ 32768
     legal (BitVec.ofNat 64 (64 + 32768 * 2 ^ 32)) = true ∧ legal (BitVec.ofNat 64 (64 + 32769 * 2 ^ 32)) = false) ∧
    run0.mach.und.st ≠ .recovery ∧
      Instr.rcvVerify ∈ [.rcvWindowWrite 0 [], .rcvChunk 0, .rcvVerify, .rcvBoot, .rcvFlash, .rcvFlashComplete true] := by
  refine ⟨?_, ?_, ?_, ?_, ?_, ?_, ?_, ?_⟩ <;> decide +kernel

theorem test_FaultServicesAct_premises :
    (let d : Dev := { dev0 with conf := { conf0 with reg := SMap.put 0 conf0.reg (Reg.UND_SCRUB.off []) 1 } }
     d.cfgF .UND_SCRUB [] 0 8 ≠ 0 ∧ d.scrubNext 64 = some 64 ∧ d.scrubWaits 64 = false ∧
       (d.onTel fun t => { t with scrubAt := 128 }).target 64 = .ext 0 64 ∧ 64 % 128 ≠ 0) ∧
    dev0.coreHere 0 = true ∧ (dev0.clu (cluOfCore 0)).pst = 0 ∧ (dev0.core 0).sq.user = false ∧ (dev0.core 0).sq.gated = none ∧
    (let o : Mon := ⟨1, false, 5, .remote 3 9, 0⟩
     let d : Dev := { dev0 with sync := { mons := [o] } }
     d.sync.mons.findIdx? (Mon.farAt (syncHome 1)) = some 0 ∧ d.sync.mons[0]? = some o) ∧
    (let d : Dev := { dev0 with fltWin := ⟨[(3, [0])]⟩ }; SMap.get [] d.fltWin.seen 3 = 0 :: []) ∧
    run0.mach.und.st ≠ .off ∧ run0.mach.und.st ≠ .understory ∧ run0.mach.und.st ≠ .faultHold ∧
      ({ run0.mach.und with newOut := { cores := 1 } } : Und).newOut ≠ {} := by
  refine ⟨?_, ?_, ?_, ?_, ?_⟩ <;> decide +kernel

theorem test_SensorsPowerAndCap_premises :
    run0.mach.und.st ≠ .off ∧ bitAt (BitVec.ofNat 64 (1 + 1000 * 2)).toNat 0 = true ∧ (0 : Nat) ≤ 7 ∧
    bitsOf (1 + 1000 * 2) 1 11 * 10 < 10001 ∧ 9000 * 16 < bitsOf (1 + 1000 * 2) 1 11 * 10 * 15 := by
  refine ⟨?_, ?_⟩ <;> decide +kernel

theorem test_TestServicesAct_premises :
    run0.mach.und.st.serves = true ∧ (39 : Nat) < 40 ∧ (35 : Nat) < 36 ∧
    ({ dev0 with tel := { latchAt := 5 } } : Dev).tel.latchAt ≠ 0 ∧
    bitAt ((dev0.wr .TEL_MGCTL [] (2 ^ 37)).rd .TEL_MGCTL) 37 = true ∧
    (let d := dev0.wr .TEL_MTG_CTL [0] 65; bitAt (d.rd .TEL_MTG_CTL [0]) 6 = true ∧ bitsOf (d.rd .TEL_MTG_CTL [0]) 0 2 ≠ 2) ∧
    (let d := dev0.wr .TEL_PTG_CTL [0] 66; bitAt (d.rd .TEL_PTG_CTL [0]) 6 = true ∧ bitsOf (d.rd .TEL_PTG_CTL [0]) 0 2 ≠ 1) ∧
    (let d := dev0.wr .TEL_MTG_CTL [0] 66; bitAt (d.rd .TEL_MTG_CTL [0]) 6 = true ∧ bitsOf (d.rd .TEL_MTG_CTL [0]) 0 2 = 2) ∧
    (let d := dev0.wr .TEL_PTG_CTL [0] 65; bitAt (d.rd .TEL_PTG_CTL [0]) 6 = true ∧ bitsOf (d.rd .TEL_PTG_CTL [0]) 0 2 = 1) ∧
    dev0.mgHere 0 0 = true ∧ dev0.mgHere 2 287 = false ∧
    (rcv0 {}).mach.und.st = .recovery ∧ run0.mach.und.st ≠ .recovery ∧ Tap.extest ≠ .bypass ∧ Tap.extest ≠ .idcode ∧
      Tap.extest ≠ .sample ∧ Tap.extest ≠ .sensors := by
  refine ⟨?_, ?_, ?_, ?_, ?_, ?_, ?_⟩ <;> decide +kernel

theorem test_ManagementAndConnectorsAct_premises :
    run0.mach.und.st ≠ .off ∧
      ({ run0.mach with und := { run0.mach.und with mgmt := { i3cAddr := 9 } } } : Mach).i3cMine 9 = true ∧
      run0.mach.und.mgmt.i3cAddr = 0 ∧
    2 ≤ [(0 : Byte), 0].length ∧ (0 : Nat) < 9 ∧ (9 : Nat) < 128 ∧ run0.fuse.conn 8 = true ∧ run0.mach.vauxOn 8 = true ∧
    (let s := stOf .run { net0 with conf := { net0.conf with reg := SMap.put 0 net0.conf.reg (Reg.ETH_PORT.off [0]) 9 } }
     s.mach.vauxOn 0 = true ∧ s.mach.dev.portMode 0 ≠ 0 ∧ s.mach.dev.cfgF .ETH_PORT [0] 3 1 = 1) ∧
    run0.mach.und.st.serves = true := by
  refine ⟨?_, ?_, ?_, ?_⟩ <;> decide +kernel

/-! ### Ill-formed commands, one for each check -/

theorem test_wellFormed_accepts :
    Instr.wellFormed (.registerWrite true 0xFFFFF8 8 1) = true ∧ Instr.wellFormed (.hostMemWrite 64 line0 1 false) = true ∧
    Instr.wellFormed (.queryFragment (gram0 true)) = true ∧ Instr.wellFormed (.ethFrameRx fr0) = true ∧
      Instr.wellFormed (.salrexData (rx0 1 0 5 [])) = true := by
  refine ⟨?_, ?_⟩ <;> decide +kernel

theorem test_wellFormed_refuses_addresses :
    Instr.wellFormed (.registerWrite true (2 ^ 24) 8 1) = false ∧
    Instr.wellFormed (.registerWrite true 0 3 1) = false ∧
    Instr.wellFormed (.hostMemRead 65 .none false) = false ∧
    Instr.wellFormed (.hostMemWrite 64 [] 1 false) = false ∧
    Instr.wellFormed (.seqLoad qM 1 8 false (2 ^ 64) .none) = false ∧
    Instr.wellFormed (.seqLoad qM 32 8 false 0 .none) = false ∧
    Instr.wellFormed (.amoadd qM 1 2 0 0) = false ∧
    Instr.wellFormed (.memReadDecode (2 ^ 44) 0 0) = false ∧
    Instr.wellFormed (.memReadDecode 0 4 0) = false ∧
    Instr.wellFormed (.memReadDecode 0 0 16) = false ∧
    Instr.wellFormed (.fence qM 16 0) = false := by
  refine ⟨?_, ?_, ?_, ?_, ?_, ?_, ?_, ?_, ?_, ?_, ?_⟩ <;> decide +kernel

theorem test_wellFormed_refuses_units :
    Instr.wellFormed (.ecall ⟨128, true⟩) = false ∧
    Instr.wellFormed (.gather 128) = false ∧
    Instr.wellFormed (.arm 0 2) = false ∧
    Instr.wellFormed (.commit 4096) = false ∧
    Instr.wellFormed (.qfeCtlWrite 2 0) = false ∧
    Instr.wellFormed (.leaseEnd 4096 0) = false ∧
    Instr.wellFormed (.clusterSleep 16) = false ∧
    Instr.wellFormed (.unitMapoutComplete 40) = false ∧
    Instr.wellFormed (.hbmTempRead 8 0) = false ∧
    Instr.wellFormed (.lpdTempRead 32 0) = false ∧
    Instr.wellFormed (.errorWindowEnd 384) = false ∧
    Instr.wellFormed (.requestAgeLimit 128 0) = false ∧
    Instr.wellFormed (.vauxOvercurrent 9) = false ∧
    Instr.wellFormed (.hdmDecoderEnable 8 true 0 0) = false ∧
    Instr.wellFormed (.hlatchGo 64) = false ∧
    Instr.wellFormed (.mtgReadBw 40 0) = false ∧
    Instr.wellFormed (.entdaa 128) = false ∧
    Instr.wellFormed (.commitAdopt (.cluster 16)) = false := by
  refine ⟨?_, ?_, ?_, ?_, ?_, ?_, ?_, ?_, ?_, ?_, ?_, ?_, ?_, ?_, ?_, ?_, ?_, ?_⟩ <;> decide +kernel

theorem test_wellFormed_refuses_fabric :
    Instr.wellFormed (.peerLost 4096) = false ∧
    Instr.wellFormed (.rd 0 (2 ^ 64) [] .none false) = false ∧
    Instr.wellFormed (.wra 0 256) = false ∧
    Instr.wellFormed (.rtoExpire 0 0 (2 ^ 32)) = false ∧
    Instr.wellFormed (.portLinkUp 36 0) = false ∧
    Instr.wellFormed (.portLinkUp 0 4) = false ∧
    Instr.wellFormed (.arpRequest 0 0 (2 ^ 48) 0 0) = false ∧
    Instr.wellFormed (.arpRequest 0 0 0 (2 ^ 32) 0) = false ∧
    Instr.wellFormed (.neighborSolicitation 0 0 0 (2 ^ 128) 0) = false ∧
    Instr.wellFormed (.queryFragment { gram0 true with sport := 65536 }) = false ∧
    Instr.wellFormed (.ethFrameRx { fr0 with etype := 65536 }) = false ∧
    Instr.wellFormed (.salrexData { rx0 1 0 5 [] with src := 2 ^ 128 }) = false := by
  refine ⟨?_, ?_, ?_, ?_, ?_, ?_, ?_, ?_, ?_, ?_, ?_, ?_⟩ <;> decide +kernel

/-! ### Examples of the spec -/

theorem test_spec00_register_addresses :
    viewU + Reg.CXL_EPOCH.off [] = 0x31000040008 ∧ viewP + Reg.FOR_WTMO.off [3] = 0x30000150018 := by
  decide +kernel

theorem test_spec01_core77_window :
    clmAt 77 0 = 0x2104D000000 ∧ cluOfCore 77 = 9 := by
  decide +kernel

theorem test_spec02_csr_layout :
    canonValOff .csr .bf16 64 900 = 1062 ∧ canonSize .csr .bf16 64 64 900 = 2880 ∧ denseSize .bf16 64 64 = 8224 := by
  decide +kernel

theorem test_spec03_record_pages :
    recordPages 74336 = 19 := by
  decide +kernel

theorem test_spec04_row_address :
    0x04000000000 + rowOff 96 1000003 = 0x04007A12160 := by
  decide +kernel

theorem test_spec07_bitmap_layout :
    canonValOff .bmp .int4 64 2748 = 674 ∧ canonSize .bmp .int4 64 64 2748 = 2048 ∧
      canonSize .bmp .int4 64 64 2749 = denseSize .int4 64 64 := by
  decide +kernel

theorem test_spec12_words :
    nxIs (nx 0xA005200B) 0x0B 2 = true ∧ nxK (nx 0xA005200B) = 1 ∧ bitAt 0xA005200B 31 = true ∧ nxF (nx 0xA005200B) 15 5 = 10 ∧
      nxOk (nx 0xA005200B) 0x70 false true true = true ∧
    nxIs (nx 0x0005802B) 0x2B 0 = true ∧ nxF (nx 0x0005802B) 15 5 = 11 ∧ nxOk (nx 0x0005802B) 0 false true true = true := by
  refine ⟨?_, ?_⟩ <;> decide +kernel

theorem test_spec14_interleaving :
    unitOf 0x04801234567 = some 9 ∧
      Region.place ⟨1, 0, 0, 0x400000000, (List.range 16).map (8 + ·)⟩ 9 0x04801234567 = 0x06040123567 ∧
    unitOf (Region.place ⟨1, 0, 0, 0x400000000, (List.range 16).map (8 + ·)⟩ 9 0x04801235000) = some 13 := by
  refine ⟨?_, ?_⟩ <;> decide +kernel

theorem test_spec16_command_addresses :
    handleOf 323 0x41 = 0x80041143 ∧
      (let d : Dev := { dev0 with conf := { conf0 with reg := SMap.put 0 conf0.reg (Reg.CXL_CMDBASE.off []) 0x2FFFF } }; d.cmdBase + 323 * 256 = 0x02FFFF14300) := by
  decide +kernel

/-! ### Single steps -/

/-- What a command leaves satisfies a test. -/
def after (c : Instr) (s : State) (p : State → Bool) : Bool := match exec c s with | .next t => p t | _ => false

theorem test_steps_power :
    after .vinInRange State.reset (fun t => t.mach.und.st == .understory) = true ∧
    after .vinOutOfRange run0 (fun t => t.mach.und.st == .off) = true ∧
    after .railFault run0 (fun t => t.mach.und.st == .faultHold && t.mach.und.holdCause == 4) = true ∧
    after .undShutdown run0 (fun t => t.mach.und.st == .drain) = true := by
  refine ⟨?_, ?_, ?_, ?_⟩ <;> decide +kernel

theorem test_steps_memory :
    after (.hostMemWrite 0x1040 line0 3 false) run0 (fun t => t.dev.byte 0x1041 == 7 && t.dev.byte 0x1042 == 0) = true ∧
    after (.hostMemWrite 0x1040 line0 1 true) run0 (fun t => t.dev.poisoned 0x1040 1) = true ∧
    after (.wr 2 9 wrBody) run0 (fun t => t.dev.num 0x1040 8 == 9) = true ∧
    after (.seqStore qM 8 (ga0 0x1000) 5 .none) run0 (fun t => (t.dev.core 0).sq.mb.length == 1 && t.dev.num 0x1000 8 == 0) = true ∧
    after (.seqLoad qM 5 1 true (ga0 0x1000) .none) mb0 (fun t => SMap.get 0 (t.dev.core 0).sq.x 5 == 1) = true ∧
    after (.amoadd qM 5 8 (ga0 clearBase) (-1)) (stOf .run clear0) (fun t => t.dev.num clearBase 8 == 2 ^ 64 - 1) = true := by
  refine ⟨?_, ?_, ?_, ?_, ?_, ?_⟩ <;> decide +kernel

theorem test_steps_threads :
    after (.nxPark qU (nx 0x2B) 3) thr1 (fun t => (t.dev.thr 0).st == .wait && (t.dev.core 0).sq.cur == none) = true ∧
    after (.nxTget qU (nx 0x20012AB)) thr1 (fun t => (t.dev.thr 0).arr == 0) = true ∧
    after (.nxSyncAdd qU (nx 0x402B) (BitVec.ofNat 64 (ga0 (syncBase + 64))) 5 false) thr0 (fun t => t.dev.syncVal 1 == 5) = true ∧
    after (.nxEndThread qU (nx 0x702B)) thr0 (fun t => (t.dev.core 0).sq.cur == none) = true := by
  refine ⟨?_, ?_, ?_, ?_⟩ <;> decide +kernel

theorem test_steps_fabric :
    after (.queryFragment (gram0 false)) (stOf .run net0) (fun t => t.dev.rd .QFE_DROP_CRC [0] == 1) = true ∧
    after (.patrolScrubRead 0 (.twice .understory)) (stOf .boot dev0) (fun t => t.mach.und.st == .faultHold && t.mach.und.holdCause == 7) = true ∧
    after (.queryFragment (gram0 true)) (stOf .run net0) (fun t => t.dev.qfe0.keys.length == 1 && t.dev.rd .QFE_RXDG [0] == 1) = true ∧
    after (.portLinkDown 0 0 false) (stOf .run net0) (fun t => (t.dev.port 0).up == 0) = true ∧
    after (.syncMsgAdd 2 9 (syBody 0) true false) run0 (fun t => t.dev.syncVal 3 == 1) = true ∧
    after (.salrexReset (rx0 4 0 5 (rcdOf 8 [(0, 5)]))) (stOf .run up0) (fun t => (t.dev.peer 2).st == .up) = true := by
  refine ⟨?_, ?_, ?_, ?_, ?_, ?_⟩ <;> decide +kernel

theorem test_steps_registers :
    after (.registerWrite false 0xFFFFF8 8 1) run0 (fun t => t.dev.rd .TEL_REGERR == 1) = true ∧
    after (.qfeCtlWrite 1 7) run0 (fun t => t.dev.qfe1.ctl == 7) = true ∧
    after (.qfeCtlWrite 1 15) run0 (fun t => t.dev.qfe1.ctl == 0 && t.dev.rd .TEL_REGERR == 1) = true ∧
    after (.mseed 0 .none) (stOf .run (meOf { w0 := 5 })) (fun t => (t.dev.core 0).me.lfsr == 1) = true := by
  refine ⟨?_, ?_, ?_, ?_⟩ <;> decide +kernel

end Sys2Proof.Tests
end

/-! ## Proofs: the family of spec/00_scope.md -/

namespace Sys2Proof.Machine

/-! ### A slot command that a check refuses (spec/16 R552, R668) -/

/-- A command takes its slot's operation of one code: it puts it to the checks, and does nothing but what `Dev.takeCmd` does. -/
def Takes (c : Instr) (s : State) (slot opc : Nat) (config : Bool) (checks : HOp → List (Bool × Nat)) : Prop :=
  ∃ go, exec c s = .next (s.withDev (s.dev.takeCmd s.now slot opc config checks go))

section
variable {c : Instr} {s : State} {slot opc st : Nat} {config : Bool} {checks : HOp → List (Bool × Nat)} {o : HOp}

theorem Takes.refused (hc : Takes c s slot opc config checks) (h : s.dev.Refuses slot opc config checks o st) :
    exec c s = .next (s.withDev (s.dev.finish o st [])) := by
  obtain ⟨go, e⟩ := hc
  rw [e, Dev.takeCmd_refuses h]

end

/-- SUSPEND, RESUME and CANCEL take their slot's operation once the request is ready (R557). -/
theorem takes_of_reqReady {c : Instr} {s : State} {a : Out1} {slot opc : Nat} {may : HOp → Bool}
    {go : Nat → Dev → HOp → Dev} (hc : exec c s = a)
    (ha : a = s.runAt fun now d =>
      if !d.reqReady slot opc then d else d.takeCmd now slot opc false (d.reqChecks may) (go now))
    (hr : s.dev.reqReady slot opc = true) : Takes c s slot opc false (s.dev.reqChecks may) := by
  refine ⟨go s.now, ?_⟩
  simp only [hc, ha, State.runAt_next, hr, Bool.not_true, Bool.false_eq_true, if_false]

/-- The length of an UPD_PROG_SET's image comes from the image of the very operation that its slot holds (R347). -/
theorem takes_updProgSet {s : State} {slot : Nat} {o : HOp} (h : s.dev.queuedOp slot 0x0126 = some o) :
    Takes (.updProgSet slot) s slot 0x0126 true (s.dev.setChecks 1 64 (8 + 8 * (s.dev.num (o.f 40 8) 1 % 64)) 8 0) := by
  have e : exec (.updProgSet slot) s = execUpdProgSet slot s := rfl
  have h' : s.mach.dev.queuedOp slot 0x0126 = some o := h
  rw [Takes, e, execUpdProgSet, State.run_next]
  simp only [h']
  exact ⟨_, rfl⟩

/-- Settles O24: every command of the statement takes its slot's operation, SUSPEND, RESUME and CANCEL once their request is ready. -/
theorem refusedCommandsOnlyComplete : Obligations.RefusedCommandsOnlyComplete := by
  intro s slot st o
  refine ⟨?drain, ?job, ?copy, ?tblLoad, ?scrub, ?erase, ?classSet, ?progLoad, ?replaceRows, ?tblSet, ?shardSet, ?migrate, ?graphSet,
    ?update, ?updBindSet, ?layerSet, ?updProgSet, ?routeSet, ?suspend, ?resume, ?cancel⟩
  case updProgSet => rintro n rfl h; exact (takes_updProgSet h.1).refused h
  case suspend => exact fun hr => Takes.refused (takes_of_reqReady (a := execSuspend slot s) rfl rfl hr)
  case resume => exact fun hr => Takes.refused (takes_of_reqReady (a := execResume slot s) rfl rfl hr)
  case cancel => exact fun hr => Takes.refused (takes_of_reqReady (a := execCancel slot s) rfl rfl hr)
  all_goals exact Takes.refused ⟨_, rfl⟩

/-! ### A 64-bit register write through the privileged view (spec/00 R13 to R20, spec/16 R559) -/

/-- Once the module serves, the command is the 64-bit write of the privileged view. -/
theorem exec_registerWrite_serves {s : State} (off : Nat) (v : Word) (h : s.mach.und.st.serves = true) :
    exec (.registerWrite false off 8 v) s = .next (s.withMach (s.mach.writeReg .priv none off 8 v.toNat)) := by
  show execRegisterWrite false off 8 v s = _
  simp only [execRegisterWrite, State.run_next, h, if_true, Bool.false_eq_true, if_false]

section
variable {m : Mach} {off v : Nat} {r : Reg} {ix : List Nat}

theorem regSized_eight (ha : off % 8 = 0) : regSized off 8 = true := by simp [regSized, ha]

theorem Mach.writeReg_reserved (ha : off % 8 = 0) (hr : regAt off = none) : m.writeReg .priv none off 8 v = m.regErr := by
  have e : off / 8 * 8 = off := by omega
  simp [Mach.writeReg, regSized_eight ha, e, hr]

/-- An aligned 64-bit write of a register that is not an atomic one: into its shadow, or, where the value is legal, into effect. -/
theorem Mach.writeReg_found (ha : off % 8 = 0) (hr : regAt off = some (r, ix)) (hat : r.atomic = false) :
    m.writeReg .priv none off 8 v =
      if r.row.view = .shadow then
        let x := setBits (m.dev.shad.get r ix) 0 64 v
        m.onDev fun d => { d with shad := { d.shad with
          reg := d.shad.reg.put 0 (r.off ix) (BitVec.ofNat 64 (x &&& (x ^^^ r.bitsOf .ro))) } }
      else
        let y := setBits (m.regValue r ix false &&& r.bitsOf .rw) 0 64 v
        if y &&& r.named = y ∧ r.legal m.dev.conf ix y = true then m.regAct r ix y else m.regErr := by
  have e : off / 8 * 8 = off := by omega
  have hp : (View.priv == .mirror) = false ∧ (View.priv == .user) = false := ⟨rfl, rfl⟩
  simp only [Mach.writeReg, regSized_eight ha, e, hr, ha, hat, hp, Reg.legal, Nat.zero_mul, Nat.reduceMul, Bool.not_true, Bool.or_self,
    Bool.false_and, Bool.false_eq_true, if_false, Bool.or_eq_true, bne_iff_ne, ne_eq, Bool.not_eq_true', ← Bool.not_eq_true,
    ← not_and_or, ite_not]
  exact if_congr Iff.rfl rfl (if_congr Iff.rfl rfl rfl)

end

/-- A write of QFE_CTL takes effect exactly in RUN and in DRAIN, with no bit above its three enables set (spec/03 R118). -/
theorem Mach.qfeCtl_eq (m : Mach) (t v : Nat) :
    m.qfeCtl t v = if (m.und.st = .run ∨ m.und.st = .drain) ∧ v < 8 then
      m.onDev fun d => d.setQfe t { d.qfe t with ctl := bitsOf v 0 3 } else m.regErr := by
  simp only [Mach.qfeCtl, Bool.and_eq_true, Bool.or_eq_true, beq_iff_eq, decide_eq_true_eq]

theorem exec_qfeCtlWrite {t : Nat} (ht : t < 2) (v : Word) (s : State) :
    exec (.qfeCtlWrite t v) s = .next (s.withMach (s.mach.qfeCtl t v.toNat)) := by
  show execQfeCtlWrite t v s = _
  simp only [execQfeCtlWrite, State.run_next, ht, if_true]

/-- A write of nxpin in M while a thread runs (spec/12 R377). -/
theorem exec_nxpinWrite {s : State} {q : Sq} {h : Nat} (v : Word) (hr : s.dev.seqReady q = true) (hu : q.user = false)
    (hc : ((s.dev.enter s.now q).core q.core).sq.cur = some h) :
    exec (.nxpinWrite q v) s =
      .next (s.withDev ((s.dev.enter s.now q).modThr h fun x => { x with pin := if bitAt v.toNat 0 then some q.core else none })) := by
  show execNxpinWrite q v s = _
  simp only [execNxpinWrite, State.runAt_next, hr, hu, hc, Bool.not_true, Bool.false_eq_true, if_false]

/-- Settles O18, case by case from the one lemma about each of the three commands: a 64-bit write of the privileged view, a write of
QFE_CTL, and one of nxpin. -/
theorem registerWritesActOrAreCounted : Obligations.RegisterWritesActOrAreCounted := by
  refine ⟨fun s off v hs ha => ⟨fun hr => ?reserved, fun r ix hr hat => ⟨fun hv => ?shadow, fun hv hn hl => ?legal, fun hv hb => ?illegal⟩⟩,
    fun s t v q => ⟨fun ht hst hv => ?enables, fun ht hb => ?dropped, fun h hr hu hc => exec_nxpinWrite v hr hu hc⟩⟩
  case reserved => rw [exec_registerWrite_serves off v hs, Mach.writeReg_reserved ha hr]; rfl
  case shadow => rw [exec_registerWrite_serves off v hs, Mach.writeReg_found ha hr hat, if_pos hv]; rfl
  case legal =>
    rw [exec_registerWrite_serves off v hs, Mach.writeReg_found ha hr hat, if_neg hv]
    exact congrArg (fun m => Host.Outcome.next (s.withMach m)) (if_pos ⟨hn, hl⟩)
  case illegal =>
    rw [exec_registerWrite_serves off v hs, Mach.writeReg_found ha hr hat, if_neg hv]
    refine congrArg (fun m => Host.Outcome.next (s.withMach m)) (if_neg ?_)
    rintro ⟨hn, hl⟩
    exact hb.elim (· hn) fun h => Bool.false_ne_true (h.symm.trans hl)
  case enables => rw [exec_qfeCtlWrite ht, Mach.qfeCtl_eq, if_pos ⟨hst, hv⟩]; rfl
  case dropped =>
    have hno : ¬((s.mach.und.st = .run ∨ s.mach.und.st = .drain) ∧ v.toNat < 8) := by
      rintro ⟨hst, hv⟩
      obtain ⟨hr, hd⟩ | hv' := hb
      · exact hst.elim hr hd
      · omega
    rw [exec_qfeCtlWrite ht, Mach.qfeCtl_eq, if_neg hno]; rfl

end Sys2Proof.Machine

/-! ## Proofs: the family of spec/02_numbers_and_forms.md -/

namespace Sys2Proof.Machine

/-! ### Groups of row requests as they are issued (spec/04 R129, R153) -/

/-- A group whose hold ends is issued, at the earliest at the end of its 100 ns (R153). -/
theorem exec_gatherGroupHoldExpire {s : State} {id since : Nat} {r : Reader} (hr : s.dev.reader? id = some r) (hw : r.st = .wait since) :
    ∃ t, exec (.gatherGroupHoldExpire id) s = .next t ∧ t.dev = s.dev.issueGroup (max s.now (since + 100 * nsT)) r := by
  have e : exec (.gatherGroupHoldExpire id) s = execGatherGroupHoldExpire id s := rfl
  have hr' : s.mach.dev.reader? id = some r := hr
  refine ⟨_, e.trans (State.run_next s _), ?_⟩
  simp only [State.dev, State.withMach_mach, hr', hw]
  rfl

/-- A request none of whose rows is there any more is not issued: it goes, and its lookups are given what a hole gives (R129). -/
theorem Dev.issueRead_gone {d : Dev} {now : Nat} {r : Reader} (h0 : r.rows ≠ []) (hg : ∀ q ∈ r.rows, d.rowGone r q = true) :
    d.issueRead now r = r.rows.foldl (fun d q => d.missing now r q) (d.dropReader r.id) := by
  have hall : r.rows.filter (d.rowGone r) = r.rows := List.filter_eq_self.2 hg
  have hnone : (r.rows.filter fun q => !d.rowGone r q) = [] := List.filter_eq_nil_iff.2 fun q hq => by simp [hg q hq]
  simp [Dev.issueRead, Dev.dropHoles, hall, hnone, h0]

/-! ### A request that takes another's row away (spec/13 R455, spec/14 R474, R491)

Nothing in the statement bounds a state's partition numbers, and MEM_PBYTES counts the bytes of each partition at an offset of its own. For
one number above R474's 16 that offset is the one of CAN_ACTIVE: a read charged to it changes the roles of the slices, and with them which
rows of the rest of its group are still there. -/

/-- The partition number whose bytes would be counted in CAN_ACTIVE. -/
def strayPart : Nat := (Reg.CAN_ACTIVE.off [] - Reg.MEM_PBYTES.off [0]) / 8

/-- A gather of rows of 128 bytes, with zero bytes as their default row, to the base of slice 0 (R122, R147). -/
def strayGather : GCmd := { op := 1, td := leBytes 64 (9 + 4 * 2 ^ 16), ent := { rcd := leBytes 64 (clearBase * 2 ^ 128) } }

/-- A request for a row of that gather, as it waits for companions (R153). -/
def strayRead (id row : Nat) : Reader :=
  { id := id, core := some 0, table := 0, slab := (clearBase + sliceSize) / 256,
    rows := [{ row := 0, loc := { row := row }, lks := [.look 0 0 0] }], st := .wait 0 }

/-- The request for a row of HBM stack 0, and the one for a row of slice 1. -/
def strayFirst : Reader := strayRead 1 0
def straySecond : Reader := strayRead 2 (clearBase + sliceSize)

/-- Slices 0 and 1 are Clearings; both requests wait, of a job of that partition; the byte where their gather writes is 1. -/
def strayDev : Dev :=
  { rg := [(Reg.CAN_ACTIVE.off [], 3)], pres := { cores := 1, clusters := 1, slices := 3, hbms := 1 },
    mem := { bytes := [(clearBase, 1)] }, cores := [(0, { ge := { cmds := [strayGather] } })],
    jobs := [(0, { live := true, part := strayPart, creator := .part 0 })],
    tabs := { readers := [strayFirst, straySecond] } }

def strayState : State := { mach := { dev := strayDev } }

/-- The instant at which the hold of their group ends. -/
def strayNow : Nat := max strayState.now (0 + 100 * nsT)

theorem rowGone_strayDev : ∀ x ∈ strayDev.tabs.readers, ∀ q ∈ x.rows, strayDev.rowGone x q = false := by decide +kernel

theorem storesNothingNow_stray : strayState.dev.storesNothingNow (.gatherGroupHoldExpire 1) :=
  fun _ _ x hx => rowGone_strayDev x (List.mem_filter.1 hx).1

theorem bankGroup_stray : strayDev.bankGroup strayFirst = [strayFirst, straySecond] := by decide +kernel

/-- Once the first request is issued, CAN_ACTIVE holds 3 + 2 for its 128 bytes, and slice 1 is no Clearing. -/
theorem rowGone_straySecond :
    ∀ q ∈ straySecond.rows, (strayDev.issueRead strayNow strayFirst).rowGone straySecond q = true := by decide +kernel

/-- The group's second request finds its row gone, and its lookup the default row. -/
theorem issueGroup_stray : strayDev.issueGroup strayNow strayFirst =
    straySecond.rows.foldl (fun d q => d.missing strayNow straySecond q)
      ((strayDev.issueRead strayNow strayFirst).dropReader straySecond.id) := by
  simp only [Dev.issueGroup, bankGroup_stray, List.take_succ_cons, List.take_nil, List.foldl_cons, List.foldl_nil]
  exact Dev.issueRead_gone (List.cons_ne_nil _ _) rowGone_straySecond

/-- The default row is written over the byte. -/
theorem byte_issueGroup_stray : (strayDev.issueGroup strayNow strayFirst).mem.byte clearBase ≠ strayDev.mem.byte clearBase := by
  rw [issueGroup_stray]
  decide +kernel

/-- Refutes O12: a group that waits, with every row still there, is issued for a job whose partition number is 8131. The bytes of its first
request are counted in CAN_ACTIVE, the row of its second goes with its Clearing, and the default row overwrites a byte. -/
theorem not_storelessCommandsFrame : ¬ Obligations.StorelessCommandsFrame := by
  unfold Obligations.StorelessCommandsFrame
  intro h
  obtain ⟨t, he, ht⟩ := exec_gatherGroupHoldExpire (s := strayState) (id := 1) (r := strayFirst) rfl rfl
  have hd : t.dev = strayDev.issueGroup strayNow strayFirst := ht
  obtain ⟨hb, -⟩ := h _ _ _ (.inr storesNothingNow_stray) he
  exact byte_issueGroup_stray (hd ▸ hb clearBase)

end Sys2Proof.Machine

/-! ## Proofs: the family of spec/03_serving.md -/

namespace Sys2Proof.Machine

/-- A command's answer, its next state written otherwise. -/
theorem exec_next_congr {c : Instr} {s : State} {d e : Dev} (hc : exec c s = .next (s.withDev d)) (h : d = e) :
    exec c s = .next (s.withDev e) := h ▸ hc

/-! ### A query datagram that passes the checks of its frame (spec/03 R81 to R99, spec/15 R498 to R503) -/

/-- The counters are no part of the addresses in force. -/
theorem Dev.ownAddr_bump (d : Dev) (r : Reg) (ix : List Nat) (k n : Nat) (v6 : Bool) (a : Nat) :
    (d.bump r ix k).ownAddr n v6 a = d.ownAddr n v6 a := rfl

/-- The module after a port has met a datagram's frame, and whether the frame passed (R498 to R503). -/
def Dev.meetGram (d : Dev) (g : Dgram) : Dev × Bool :=
  let e := d.bump .ETH_RXFRM [g.port]
  e.admitFrame g.port g.sub g.mac g.tag g.dscp g.occ (dgramLen g) (e.ownAddr g.port g.v6 g.dst)

/-- The key of a query datagram (R83). -/
def gramKey (g : Dgram) : QKey := ⟨true, g.v6, g.src, g.sport, recNum g.payload 4 8⟩

/-- The query that a datagram opens when it is the first of its key (R92). -/
def gramQuery (g : Dgram) (now : Nat) : Query :=
  { key := gramKey g, cls := recNum g.payload 2 1, total := recNum g.payload 16 4, usParam := recNum g.payload 12 4, lastAt := now,
    rxPort := g.port, rxSub := g.sub, dstAddr := g.dst, dscp := g.dscp }

/-- What becomes of a good datagram, by what the front end holds of its key (R92, R95, R98). -/
def Dev.gramByKey (d : Dev) (now t : Nat) (g : Dgram) : Dev :=
  match (d.qfe t).find (gramKey g) with
  | some x => match x.st with
    | .held _ => d.bump .QFE_DROP_STALE [t]
    | _ => d.nextFragment now t g x
  | none => d.firstFragment now t g (gramKey g)

section
variable {d d1 : Dev} {now t : Nat} {g : Dgram} {y : Query}

theorem Dev.gramByKey_held {u : Nat} (hf : (d.qfe t).find (gramKey g) = some y) (hst : y.st = .held u) :
    d.gramByKey now t g = d.bump .QFE_DROP_STALE [t] := by
  simp only [Dev.gramByKey, hf, hst]

theorem Dev.gramByKey_open (hf : (d.qfe t).find (gramKey g) = some y) (hst : y.st = .open_) :
    d.gramByKey now t g = d.nextFragment now t g y := by
  simp only [Dev.gramByKey, hf, hst]

theorem Dev.gramByKey_refused {st : Nat} (hf : (d.qfe t).find (gramKey g) = none) (hr : d.keyRoom t = some d1)
    (ha : (d1.bump .QFE_RXDG [t]).admitQuery t (gramQuery g now).cls (gramQuery g now).total true = .inl st) :
    d.gramByKey now t g = (d1.bump .QFE_RXDG [t]).answer now t (gramQuery g now) st 0 0 [] := by
  simp only [gramQuery] at ha
  simp only [Dev.gramByKey, hf, Dev.firstFragment, hr, ha, gramQuery]

theorem Dev.gramByKey_opens {pgs : List Nat} (hf : (d.qfe t).find (gramKey g) = none) (hr : d.keyRoom t = some d1)
    (ha : (d1.bump .QFE_RXDG [t]).admitQuery t (gramQuery g now).cls (gramQuery g now).total true = .inr pgs) :
    d.gramByKey now t g =
      ((d1.bump .QFE_RXDG [t]).openKey now t pgs (gramQuery g now)).1.putFragment now t
        ((d1.bump .QFE_RXDG [t]).openKey now t pgs (gramQuery g now)).2 (recNum g.payload 20 4) (g.payload.drop 32) := by
  simp only [gramQuery] at ha
  simp only [Dev.gramByKey, hf, Dev.firstFragment, hr, ha, gramQuery]

end

/-- A datagram for the query port of a front end that takes UDP queries: its header is checked first, then its CHK (R84, R87). -/
theorem exec_queryFragment_met {s : State} {g : Dgram} (hp : g.port < 36) (hu : s.dev.ethUp g.port g.sub = true)
    (hm : (s.dev.meetGram g).2 = true) (hd : g.dport = (s.dev.meetGram g).1.cfgF .QFE_UDP [g.port / 18] 0 16)
    (he : bitAt ((s.dev.meetGram g).1.qfe (g.port / 18)).ctl 0 = true)
    (hudp : bitAt ((s.dev.meetGram g).1.qfe (g.port / 18)).ctl 1 = true) :
    exec (.queryFragment g) s = .next (s.withDev (
      if dgramBad g then (s.dev.meetGram g).1.bump .QFE_DROP_FMT [g.port / 18]
      else if !dgramChk g then (s.dev.meetGram g).1.bump .QFE_DROP_CRC [g.port / 18]
      else (s.dev.meetGram g).1.gramByKey s.now (g.port / 18) g)) := by
  show execQueryFragment g s = _
  simp only [Dev.meetGram, Dev.ownAddr_bump] at hm hd he hudp ⊢
  simp only [execQueryFragment, State.runAt_next, Nat.not_le.2 hp, hu, hm, ← hd, he, hudp, decide_false, Bool.not_true, Bool.or_self,
    Bool.false_eq_true, ne_eq, not_true_eq_false, if_false]
  rfl

/-! ### A query message (spec/03 R91, R92, R101) -/

/-- The query of a whole query message. -/
def messageQuery (src tag now : Nat) (body : List Byte) : Query :=
  { key := ⟨false, false, src, 0, recNum body 8 8⟩, cls := recNum body 1 1, total := body.length, usParam := recNum body 16 4,
    lastAt := now, sfxTag := tag }

/-- The status of a message's record against the class that its front end has adopted (R91). -/
def Dev.messageStatus (d : Dev) (t : Nat) (q : Query) (body : List Byte) : Nat :=
  recordStatus body (SMap.get [] (d.qfe t).classes q.cls) q.cls q.key.qid q.usParam

/-- What becomes of a counted message whose key has room: the checks of R92 and R91 together (R101). -/
def Dev.firstMessage (d : Dev) (now t : Nat) (q : Query) (body : List Byte) : Dev :=
  let bad := d.messageStatus t q body
  match d.admitQuery t q.cls q.total false, bad with
  | .inl st, _ => d.answer now t q (refusal [(true, st), (bad != sOk, bad)]) 0 0 []
  | .inr pgs, 0 => (d.openKey now t pgs q).1.putFragment now t (d.openKey now t pgs q).2 0 body
  | .inr _, bad => d.answer now t q bad 0 0 []

section
variable {d : Dev} {now t : Nat} {q : Query} {body : List Byte}

theorem Dev.firstMessage_opens {pgs : List Nat} (ha : d.admitQuery t q.cls q.total false = .inr pgs)
    (hb : d.messageStatus t q body = sOk) :
    d.firstMessage now t q body = (d.openKey now t pgs q).1.putFragment now t (d.openKey now t pgs q).2 0 body := by
  simp only [Dev.firstMessage, ha, hb, sOk]

theorem Dev.firstMessage_bad {pgs : List Nat} (ha : d.admitQuery t q.cls q.total false = .inr pgs)
    (hb : d.messageStatus t q body ≠ sOk) :
    d.firstMessage now t q body = d.answer now t q (d.messageStatus t q body) 0 0 [] := by
  obtain ⟨k, hk⟩ := Nat.exists_eq_succ_of_ne_zero hb
  simp only [Dev.firstMessage, ha, hk]

theorem Dev.firstMessage_refused {st : Nat} (ha : d.admitQuery t q.cls q.total false = .inl st) :
    d.firstMessage now t q body =
      d.answer now t q (refusal [(true, st), (d.messageStatus t q body != sOk, d.messageStatus t q body)]) 0 0 [] := by
  simp only [Dev.firstMessage, ha]

end

/-- A message for a front end that takes Salrex queries, of a key it does not hold and has room for. -/
theorem exec_queryMessage_new {s : State} {t src tag : Nat} {body : List Byte} {d d1 : Dev} (hd : d = s.dev.took (some src) 0x14 tag body)
    (ht : t < 2) (he : bitAt (d.qfe t).ctl 0 = true) (hx : bitAt (d.qfe t).ctl 2 = true)
    (hf : (d.qfe t).find (messageQuery src tag s.now body).key = none) (hr : d.keyRoom t = some d1) :
    exec (.queryMessage t src tag body) s =
      .next (s.withDev ((d1.bump .QFE_RXDG [t]).firstMessage s.now t (messageQuery src tag s.now body) body)) := by
  subst hd
  show execQueryMessage t src tag body s = _
  simp only [messageQuery] at hf
  simp only [execQueryMessage, State.runAt_next, Nat.not_le.2 ht, he, hx, hf, hr, Bool.not_true, Bool.or_self, Bool.false_eq_true,
    if_false]
  rfl

/-! ### The ends of waiting (spec/03 R97, R98) -/

section
variable {s : State} {t : Nat} {key : QKey} {x : Query}

/-- An incomplete reassembly is answered at its deadline, or at once when that has passed. -/
theorem exec_reassemblyExpire_open (hf : (s.dev.qfe t).find key = some x) (hst : x.st = .open_) :
    exec (.reassemblyExpire t key) s =
      .next (s.later x.deadline ((s.dev.bump .QFE_RASM_EXP [t]).answer (max s.now x.deadline) t x eDeadline 0 0 [])) := by
  show execReassemblyExpire t key s = _
  simp only [State.dev] at hf
  simp only [execReassemblyExpire, State.run_next, hf, hst]
  rfl

/-- A held key is released at the end of its hold. -/
theorem exec_keyHoldExpire_held {u : Nat} (hf : (s.dev.qfe t).find key = some x) (hst : x.st = .held u) :
    exec (.keyHoldExpire t key) s =
      .next (s.later u (s.dev.setQfe t { s.dev.qfe t with keys := (s.dev.qfe t).keys.filter fun y => y.key != key })) := by
  show execKeyHoldExpire t key s = _
  simp only [State.dev] at hf
  simp only [execKeyHoldExpire, State.run_next, hf, hst]
  rfl

end

/-- Settles O27: a datagram by its header, its CHK and its key; a message by its admission and its record; the two ends of waiting. -/
theorem queriesAreTakenOrDropped : Obligations.QueriesAreTakenOrDropped := by
  refine ⟨?datagram, fun s t src tag body key x =>
    ⟨fun ht he hx hf d1 hr => ?message, exec_reassemblyExpire_open, fun u => exec_keyHoldExpire_held⟩⟩
  case datagram =>
    intro s g t e a d key x hp hu ha hd he hudp
    have met := exec_queryFragment_met hp hu ha hd he hudp
    refine ⟨fun hb => exec_next_congr met (if_pos hb), fun hb hc => exec_next_congr met ?check, fun hb hc => ?byKey⟩
    case check => rw [hb, hc]; rfl
    case byKey =>
      have good : exec (.queryFragment g) s = .next (s.withDev (d.gramByKey s.now t g)) := exec_next_congr met (by rw [hb, hc]; rfl)
      exact ⟨fun y u hf hst => exec_next_congr good (Dev.gramByKey_held hf hst),
        fun y hf hst => exec_next_congr good (Dev.gramByKey_open hf hst),
        fun d1 st hf hr had => exec_next_congr good (Dev.gramByKey_refused hf hr had),
        fun d1 pgs hf hr had => exec_next_congr good (Dev.gramByKey_opens hf hr had)⟩
  case message =>
    have new := exec_queryMessage_new rfl ht he hx hf hr
    exact ⟨fun pgs had hb => exec_next_congr new (Dev.firstMessage_opens had hb),
      fun pgs had hb => exec_next_congr new (Dev.firstMessage_bad had hb),
      fun st had => exec_next_congr new (Dev.firstMessage_refused had)⟩

end Sys2Proof.Machine

/-! ## Proofs: the family of spec/04_embedding_tables.md -/

namespace Sys2Proof.Machine

/-! ### The steps of a row writer (spec/04 R132, R133, R136) -/

section
variable {s : State} {id : Nat} {w : Writer} (hw : s.dev.writer? id = some w)
include hw

/-- A writer that found its word odd claims again once its 100 ns have passed. -/
theorem exec_rowClaimRetry_retry {t : Nat} (hst : w.st = .retry t) :
    exec (.rowClaimRetry id) s = .next (s.later t (s.dev.tryClaim (max s.now t) w)) := by
  show execRowClaimRetry id s = _
  simp only [State.dev] at hw
  simp only [execRowClaimRetry, State.run_next, hw, hst]
  rfl

/-- A writer that a drain held claims once nothing holds it any more. -/
theorem exec_rowClaimRetry_freed (hst : w.st = .held) (hf : s.dev.writerHeld w = false) :
    exec (.rowClaimRetry id) s = .next (s.withDev (s.dev.tryClaim s.now w)) := by
  show execRowClaimRetry id s = _
  simp only [State.dev] at hw hf
  simp only [execRowClaimRetry, State.run_next, hw, hst, hf, Bool.false_eq_true, if_false]
  rfl

/-- A writer that brought its row with it, or that goes on to the shadow copy, writes the row as it has it. -/
theorem exec_rowClaimComplete_asHeld {fault : Bool} (hst : w.st = .claimed) (hby : ∀ p, w.by_ = .part p → w.sh = true) :
    exec (.rowClaimComplete id fault) s = .next (s.withDev (s.dev.writeRow w fault)) := by
  show execRowClaimComplete id fault s = _
  simp only [State.dev] at hw
  simp only [execRowClaimComplete, State.run_next, hw, hst, if_true]
  cases hb : w.by_ with
  | part p => simp only [hby p hb]; rfl
  | _ => rfl

/-- The main copy of an update's row is computed first, and written as it was computed (R357). -/
theorem exec_rowClaimComplete_computed {fault : Bool} {k : Nat} {p : Part} (hst : w.st = .claimed) (hb : w.by_ = .part k)
    (hsh : w.sh = false) (hp : s.dev.part? k = some p) (hwait : s.dev.spansWait p.mem (s.dev.updSpans p w) = false) :
    exec (.rowClaimComplete id fault) s = .next (s.withDev ((s.dev.updRow s.now p w).1.writeRow
      { w with data := (s.dev.updRow s.now p w).2.1, pm := (s.dev.updRow s.now p w).2.2 } fault)) := by
  show execRowClaimComplete id fault s = _
  simp only [State.dev] at hw hp hwait
  simp only [execRowClaimComplete, State.run_next, hw, hst, hb, hsh, hp, hwait, if_true, Bool.false_eq_true, if_false]
  rfl

/-- A writer whose writes have all completed releases the version word. -/
theorem exec_rowWritesComplete_releases {fault : Bool} (hr : s.dev.mayRelease w = true) :
    exec (.rowWritesComplete id fault) s = .next (s.withDev ((s.dev.releaseRow s.now w fault).settle s.now)) := by
  show execRowWritesComplete id fault s = _
  simp only [State.dev] at hw hr
  simp only [execRowWritesComplete, State.run_next, hw, hr, if_true]
  rfl

end

/-! ### ROW messages (spec/04 R145, spec/05 R161, R176, R178, R183, spec/11 R359, spec/15 R521) -/

section
variable {s : State} {src tag : Nat} {body : List Byte}

theorem exec_rowRead_good (h : rowBad body 0 = false) :
    exec (.rowRead src tag body) s =
      .next (s.withDev ((s.dev.took (some src) 0x10 tag body).rowReq s.now (rowMsg src tag body .read))) :=
  exec_next_congr rfl (if_neg (Bool.eq_false_iff.1 h))

theorem exec_rowRead_bad (h : rowBad body 0 = true) :
    exec (.rowRead src tag body) s = .next (s.withDev ((s.dev.took (some src) 0x10 tag body).badMsg s.now src 0x11 tag true)) :=
  exec_next_congr rfl (if_pos h)

/-- A write whose data are one row of its table, where the table is valid, is a request to replace the row. -/
theorem exec_rowWrite_good {d : Dev} (hd : d = s.dev.took (some src) 0x10 tag body) (h : rowBad body 1 = false)
    (hlen : tdValid (d.tdesc (recNum body 2 2 % 4096)) = true → body.length = 32 + tdB (d.tdesc (recNum body 2 2 % 4096))) :
    exec (.rowWrite src tag body) s = .next (s.withDev
      ((d.rowReq s.now (rowMsg src tag body (.write (body.drop 32) 0 (bitAt (recNum body 1 1) 0)))).settle s.now)) := by
  subst hd
  refine exec_next_congr rfl (if_neg ?_)
  simpa [h, State.dev] using hlen

/-- A merge whose elements lie in a row of its table, where the table is valid, is a request to add them to the row. -/
theorem exec_rowMerge_good {d : Dev} {off n : Nat} (hd : d = s.dev.took (some src) 0x10 tag body) (ho : off = recNum body 4 2)
    (hn : n = recNum body 6 2) (h : rowBad body 2 = false) (h1 : 1 ≤ n) (h1024 : n ≤ 1024) (hlen : body.length = 32 + 4 * n)
    (hfit : tdValid (d.tdesc (recNum body 2 2 % 4096)) = true → off + n ≤ tdElts (d.tdesc (recNum body 2 2 % 4096))) :
    exec (.rowMerge src tag body) s = .next (s.withDev (d.rowReq s.now (rowMsg src tag body
      (.merge (recNum body 16 8) off ((List.range n).map fun i => recNum body (32 + 4 * i) 4) false)))) := by
  subst hd ho hn
  refine exec_next_congr rfl (if_neg ?_)
  have h0 : recNum body 6 2 ≠ 0 := Nat.one_le_iff_ne_zero.1 h1
  simpa [h, h0, h1024, hlen, State.dev] using hfit

/-- A tile row for a layer is added into its bank, and acknowledged to a peer that is up. -/
theorem exec_rowLmerge_good (h : rowBad body 3 = false) (hlen : body.length = 288) (hrow : recNum body 8 8 < 2 ^ 22) :
    let d := s.dev.took (some src) 0x10 tag body
    let x := d.layerMerge (recNum body 2 2) (recNum body 8 2) (recNum body 10 1 % 64) (recNum body 16 8)
      ((List.range 64).map fun i => recNum body (32 + 4 * i) 4) false d.fabPart
    (x.1.peer src).st = .up →
      exec (.rowLmerge src tag body) s = .next (s.withDev (x.1.respond src s.now 0x11 x.2 tag (rowrBody 0 0 0 []))) := by
  intro d x hup
  have hgood : ¬ (rowBad body 3 || body.length != 32 + 256 || decide (2 ^ 22 ≤ recNum body 8 8)) = true := by
    simpa [h, hlen] using hrow
  exact exec_next_congr rfl ((if_neg hgood).trans (if_pos hup))

/-- A response is taken by the request that waits for it, and every core goes on. -/
theorem exec_rowr_good {status : Nat} (h : rowrBad status body = false) :
    exec (.rowr tag status body) s = .next (s.withDev ((s.dev.cores.map (·.1)).foldl
      (fun d c => d.coreAfter s.now c) (((s.dev.took none 0x11 tag body).rowr s.now tag status body).settle s.now))) := by
  show execRowr tag status body s = _
  simp only [execRowr, State.run_next, h, Bool.false_eq_true, if_false]
  rfl

theorem exec_rowr_bad {status : Nat} (h : rowrBad status body = true) :
    exec (.rowr tag status body) s = .next (s.withDev ((s.dev.took none 0x11 tag body).bump .SFX_RXBAD)) := by
  show execRowr tag status body s = _
  simp only [execRowr, State.run_next, h, if_true]
  rfl

end

/-- Settles O28: a row writer by the state it stands in, a ROW message by its layout. -/
theorem rowWritersAndMessagesAct : Obligations.RowWritersAndMessagesAct := by
  refine ⟨fun s id w fault hw => ?writer, fun s src tag status body => ?message⟩
  case writer =>
    exact ⟨fun t => exec_rowClaimRetry_retry hw, exec_rowClaimRetry_freed hw, exec_rowClaimComplete_asHeld hw,
      fun p k => exec_rowClaimComplete_computed hw, exec_rowWritesComplete_releases hw⟩
  case message =>
    exact ⟨exec_rowRead_good, exec_rowRead_bad, exec_rowWrite_good rfl, fun off n => exec_rowMerge_good rfl,
      exec_rowLmerge_good, exec_rowr_good, exec_rowr_bad⟩


/-! ### The gather engine takes its next command (spec/04 R146, R148, spec/10 R323, R328, R330, R331, spec/16 R564) -/

/-- The next place of a queue whose engine may start it: held by a drain of its table, or started with its status. -/
theorem Dev.geStart_ready {d : Dev} {now c : Nat} {ops : Nat → Bool} {status : QEnt → Nat} {mk : QEnt → GCmd} {x : QEnt}
    (hx : nextPlace (d.queue c .ge) = some x) (hm : d.geMayStart c = true) (ho : ops (recNum x.rcd 0 1) = true) :
    d.geStart now c ops status mk =
      if x.bad = 0 ∧ d.heldTable (recNum x.rcd 2 2 % 4096) = true then d.holdTable (recNum x.rcd 2 2 % 4096) (2 ^ 43 + c)
      else (d.startCmd now c x (status x) (mk x)).coreAfter now c := by
  simp only [Dev.geStart, Dev.geNext, hx, hm, ho, Bool.and_self, if_true, Bool.and_eq_true, decide_eq_true_eq]

/-! ### What happens in the gather engine (spec/04 R137, R152, R153) -/

section
variable {s : State}

theorem exec_gatherAdmit_one {c : Nat} {g : GCmd}
    (hg : ((s.dev.core c).ge.cmds.find? fun g => !g.ent.dead && g.op != 0 &&
      (if g.isNbr then !g.want.isEmpty else decide (g.next < g.count))) = some g) :
    exec (.gatherAdmit c) s = .next (s.withDev ((s.dev.admitOne s.now c g).coreAfter s.now c)) := by
  show execGatherAdmit c s = _
  simp only [State.dev] at hg
  simp only [execGatherAdmit, State.run_next, hg]
  rfl

variable {id : Nat} {r : Reader} (hr : s.dev.reader? id = some r)
include hr

/-- A group whose first request has waited is issued at the end of the 100 ns. -/
theorem exec_gatherGroupHoldExpire_waits {t : Nat} (hst : r.st = .wait t) :
    exec (.gatherGroupHoldExpire id) s = .next (s.later (t + 100 * 12) (s.dev.issueGroup (max s.now (t + 100 * 12)) r)) := by
  show execGatherGroupHoldExpire id s = _
  simp only [State.dev] at hr
  simp only [execGatherGroupHoldExpire, State.run_next, hr, hst]
  rfl

theorem exec_versionReadReturn_found {k : Nat} :
    exec (.versionReadReturn id k) s = .next (s.withDev ((s.dev.versionReturn s.now r k).geAfter s.now r)) := by
  show execVersionReadReturn id k s = _
  simp only [State.dev] at hr
  simp only [execVersionReadReturn, State.run_next, hr]
  rfl

/-- The data of a row that its controllers have issued and that no re-home holds. -/
theorem exec_rowReadReturn_issued (hi : s.dev.notIssued (.row id) = false) (hh : s.dev.rowHeld r = false) :
    exec (.rowReadReturn id) s = .next (s.withDev (((s.dev.memDone (.row id)).dataReturn s.now r).geAfter s.now r)) := by
  show execRowReadReturn id s = _
  simp only [State.dev] at hr hi hh
  simp only [execRowReadReturn, State.run_next, hr, hi, hh, Bool.or_self, Bool.false_eq_true, if_false]
  rfl

/-- The next attempt of a row begins at the end of its backoff. -/
theorem exec_lookupBackoffExpire_backoff {t : Nat} {q : RowRd} (hst : r.st = .backoff t) (hq : r.rows.head? = some q) :
    exec (.lookupBackoffExpire id) s = .next (s.later t (s.dev.nextAttempt (max s.now t) r q)) := by
  show execLookupBackoffExpire id s = _
  simp only [State.dev] at hr
  simp only [execLookupBackoffExpire, State.run_next, hr, hst, hq]
  rfl

end

/-! ### What a read meets where nothing is found (spec/13 R430, R440) -/

theorem Dev.meet_clean {d : Dev} (a : Nat) (h : d.findings = []) : d.meet a = (d, false) := by
  simp only [Dev.meet, Dev.takeFind, h]
  split <;> rfl

theorem Dev.meetAll_clean {d : Dev} (a n : Nat) (h : d.findings = []) : d.meetAll a n = (d, false) := by
  unfold Dev.meetAll
  induction lineAddrs a n with
  | nil => rfl
  | cons l ls ih => simpa only [List.foldl_cons, Dev.meet_clean _ h, Bool.or_self] using ih

/-- A request given up, and what waited for its miss register, take nothing of what is still to be found. -/
theorem Dev.memDone_findings (d : Dev) (b : MBy) : (d.memDone b).findings = d.findings := by
  unfold Dev.memDone Dev.memFree
  dsimp only
  induction d.ext.places.filter _ generalizing d with
  | nil => rfl
  | cons p ps ih => exact (ih _).trans (Dev.canopy_pumpUnit p.1 _ _).2

/-! ### An adjacency read returns (spec/10 R327, spec/04 R148, spec/16 R564) -/

/-- A read of several cells with no error to be met ends no job. -/
theorem Dev.foldl_meetAll_clean {d : Dev} (ps : List (Nat × Nat)) (h : d.findings = []) :
    ps.foldl (fun (s : Dev × Option Nat) p => let x := s.1.meetAll p.1 p.2; (x.1, if x.2 then some p.1 else s.2)) (d, none) =
      (d, none) := by
  induction ps with
  | nil => rfl
  | cons p ps ih => simpa [Dev.meetAll_clean _ _ h] using ih

/-- What a command does with cells that have been read: it waits for the read's other requests, or goes on with what the whole brought. -/
def Dev.adjTaken (d : Dev) (now c id n : Nat) (g : GCmd) (r : AdjRd) : Dev :=
  if !r.left.isEmpty then
    (d.modCmd c id fun g => { g with reads := g.reads.map fun y => if y.id = n then { y with own := [] } else y }).coreAfter now c
  else
    let d := if ((g.adjCells r.via r.kind).any fun p => d.poisoned p.1 p.2) = true then d.cmdMark c g else d
    let g := (d.cmd? c id).getD g
    let x := d.adjStep c { g with reads := g.reads.filter fun y => y.id != n } r
    (x.1.modCmd c id fun _ => x.2).coreAfter now c

section
variable {s : State} {c id n : Nat} {g : GCmd} {r : AdjRd} (hg : s.dev.cmd? c id = some g)
  (hr : (g.reads.find? fun r => r.id == n) = some r)
include hg hr

/-- A read into a drained range is held. -/
theorem exec_adjacencyReadReturn_held {p : Nat × Nat}
    (hp : ((g.adjCells r.via r.kind).find? fun p => s.dev.heldRange p.1 p.2) = some p) :
    exec (.adjacencyReadReturn c id n) s =
      .next (s.withDev (s.dev.holdRange p.1 p.2 (2 ^ 46 + c * 2 ^ 32 + id * 2 ^ 12 + n))) := by
  show execAdjacencyReadReturn c id n s = _
  simp only [State.dev] at hg hp
  simp only [execAdjacencyReadReturn, State.run_next, hg, hr, hp]
  rfl

variable (hfree : ∀ p ∈ g.adjCells r.via r.kind, s.dev.heldRange p.1 p.2 = false)
include hfree

/-- A read into a range that has become a hole ends the job. -/
theorem exec_adjacencyReadReturn_hole (hbad : ∃ p ∈ g.adjCells r.via r.kind, s.dev.rangeOk p.1 p.2 = false) :
    exec (.adjacencyReadReturn c id n) s = .next (s.withDev ((s.dev.endJob s.now g.ent.job .fault).memDone (.adj c id n))) := by
  have hnone : ((g.adjCells r.via r.kind).find? fun p => s.mach.dev.heldRange p.1 p.2) = none := by
    simpa [State.dev] using hfree
  have hany : ((g.adjCells r.via r.kind).any fun p => !s.mach.dev.rangeOk p.1 p.2) = true := by
    simpa [State.dev] using hbad
  show execAdjacencyReadReturn c id n s = _
  simp only [State.dev] at hg
  simp only [execAdjacencyReadReturn, State.run_next, hg, hr, hnone, hany, if_true]
  rfl

/-- A read whose requests have issued, at ports where nothing waits and with no error to be met, brings its lines to the command. -/
theorem exec_adjacencyReadReturn_read (hok : ∀ p ∈ g.adjCells r.via r.kind, s.dev.rangeOk p.1 p.2 = true)
    (hi : s.dev.notIssued (.adj c id n) = false)
    (hport : ∀ p ∈ g.adjCells r.via r.kind, s.dev.portWait (s.dev.jobPart g.ent.job) p.1 p.2 = 0) (hf : s.dev.findings = []) :
    exec (.adjacencyReadReturn c id n) s = .next (s.withDev
      ((((g.adjLines r.via r.kind).filter fun l => r.own.contains (l / 256)).foldl
        (fun d l => d.touchLine l 128 { part := d.jobPart g.ent.job, fetched := true })
        (s.dev.memDone (.adj c id n))).adjTaken s.now c id n g r)) := by
  have hnone : ((g.adjCells r.via r.kind).find? fun p => s.mach.dev.heldRange p.1 p.2) = none := by
    simpa [State.dev] using hfree
  have hany : ((g.adjCells r.via r.kind).any fun p => !s.mach.dev.rangeOk p.1 p.2) = false := by
    simpa [State.dev] using hok
  have hwait : ((g.adjCells r.via r.kind).any fun p => s.mach.dev.portWait (s.mach.dev.jobPart g.ent.job) p.1 p.2 != 0) = false := by
    simpa [State.dev] using hport
  have hmet := Dev.foldl_meetAll_clean (g.adjCells r.via r.kind) ((Dev.memDone_findings s.mach.dev (.adj c id n)).trans hf)
  show execAdjacencyReadReturn c id n s = _
  simp only [State.dev] at hg hi
  simp only [execAdjacencyReadReturn, State.run_next, hg, hr, hnone, hany, hi, hwait, hmet, Bool.or_self, Bool.false_eq_true, if_false,
    Dev.adjTaken]
  split <;> rfl

end

/-- Settles O39: the next place of the queue by its OP code; the engine's events by what they find; an adjacency read by whether its
range is held, has become a hole, or is read. -/
theorem gatherEngineActs : Obligations.GatherEngineActs := by
  refine ⟨?start, fun s => ⟨fun c g => exec_gatherAdmit_one,
    fun id r t hr => exec_gatherGroupHoldExpire_waits hr, fun id r k hr => exec_versionReadReturn_found hr,
    fun id r hr => exec_rowReadReturn_issued hr, fun id r t q hr => exec_lookupBackoffExpire_backoff hr,
    fun c id n g r hg hr => ⟨fun p => exec_adjacencyReadReturn_held hg hr, exec_adjacencyReadReturn_hole hg hr, ?adjacency⟩⟩⟩
  case start =>
    intro s c x d op t hx hm go
    have start {ops : Nat → Bool} {status : QEnt → Nat} (ho : ops op = true) {st : Nat} (hs : status x = st) :
        d.geStart s.now c ops status d.mkGather = go st := by
      subst hs
      exact Dev.geStart_ready hx hm ho
    refine ⟨fun ho => exec_next_congr rfl (start ?isGather (if_neg ?checked)),
      fun ho hb => exec_next_congr rfl (start ?isOther (if_pos ?reserved)),
      fun ho => exec_next_congr rfl (start (by simp [ho]) rfl), fun ho => exec_next_congr rfl (start (by simp [ho]) rfl),
      fun ho => exec_next_congr rfl (start (by simp [ho]) rfl), fun ho => exec_next_congr rfl (start (by simp [ho]) rfl)⟩
    case isGather => simp [ho]
    case checked => simpa using fun _ => ho
    case isOther => simpa using (by omega : op ≤ 1 ∨ 5 < op)
    case reserved =>
      have hop : op ≠ 1 := by omega
      simpa [hb] using hop
  case adjacency =>
    intro hfree hok hi hport hf e
    have read := exec_adjacencyReadReturn_read hg hr hfree hok hi hport hf
    exact ⟨fun hl => exec_next_congr read (if_pos (by simpa using hl)), fun hl => exec_next_congr read (if_neg (by simpa using hl))⟩

end Sys2Proof.Machine

/-! ## Proofs: the family of spec/05_shards_and_hot_rows.md -/

namespace Sys2Proof.Machine

/-! ### A slot command that every check passes (spec/16 R552, R668) -/

section
variable {c : Instr} {s : State} {slot opc : Nat} {config : Bool} {checks : HOp → List (Bool × Nat)}
  {res : HOp → List (Nat × Nat × Nat)} {go : Dev → HOp → Dev} {o : HOp}

theorem exec_takeCmd_accepted (hc : exec c s = .next (s.withDev (s.dev.takeCmd s.now slot opc config checks go)))
    (h : s.dev.Accepts slot opc config checks o) : exec c s = .next (s.withDev (go (s.dev.taken s.now o) (o.taken s.now))) :=
  exec_next_congr hc (Dev.takeCmd_accepts h)

theorem exec_takeCmdR_accepted (hc : exec c s = .next (s.withDev (s.dev.takeCmdR s.now slot opc checks res go)))
    (h : s.dev.Accepts slot opc false checks o) : exec c s = .next (s.withDev (go (s.dev.taken s.now o) (o.taken s.now))) :=
  exec_next_congr hc (Dev.takeCmdR_accepts h)

end

/-- Settles O21: each command of the statement starts once its checks pass; then a MASK_SET goes on by where its images lie, and a ROUTE_SET
by whether its image pins the route. -/
theorem tableCommandsAct : Obligations.TableCommandsAct := by
  intro s slot o
  refine ⟨fun h => ?shardSet, fun h => ?migrate, fun h => ?update, fun h hm => ?maskHere, fun h hm => ?maskHost, ?routeSet⟩
  case shardSet => exact exec_next_congr (exec_takeCmd_accepted rfl h) rfl
  case migrate => exact exec_next_congr (exec_takeCmd_accepted rfl h) rfl
  case update => exact exec_next_congr (exec_takeCmd_accepted rfl h) rfl
  case maskHere => exact exec_next_congr (exec_takeCmdR_accepted rfl h) (if_neg (Bool.eq_false_iff.1 hm))
  case maskHost => exact exec_next_congr (exec_takeCmdR_accepted rfl h) (if_pos hm)
  case routeSet =>
    intro h b d k put
    have accepted := exec_takeCmd_accepted (c := .routeSet slot) rfl h
    exact ⟨fun hp => exec_next_congr accepted (congrArg put (if_pos hp)),
      fun hp => exec_next_congr accepted (congrArg put (if_neg (Bool.eq_false_iff.1 hp)))⟩

/-! ### The instant of a timer's command (spec/12 R375) -/

theorem State.later_max (s : State) (t : Nat) (d : Dev) : s.later (max s.now t) d = s.later t d := by
  have h : max s.mach.und.now (max s.mach.und.now t) = max s.mach.und.now t := Nat.max_eq_right (Nat.le_max_left _ _)
  simp only [State.later, State.now, h]

theorem State.later_now (s : State) (d : Dev) : s.later s.now d = s.withDev d := by
  simp only [State.later, State.now, Nat.max_self]
  rfl

/-! ### Entries, load reports, load windows and the copy bucket (spec/05 R163 to R173) -/

section
variable {s : State}

theorem exec_entry_good {body : List Byte} (h : entBad body = false) :
    exec (.entry body) s = .next (s.withDev ((s.dev.took none 0x18 0 body).adopt (Ent.ofBytes body))) :=
  exec_next_congr rfl (if_neg (Bool.eq_false_iff.1 h))

theorem exec_entry_bad {body : List Byte} (h : entBad body = true) :
    exec (.entry body) s = .next (s.withDev ((s.dev.took none 0x18 0 body).bump .SFX_RXBAD)) :=
  exec_next_congr rfl (if_pos h)

theorem exec_loadrep_good {src : Nat} {body : List Byte} (h : loadrepBad body = false) :
    exec (.loadrep src body) s = .next (s.withDev ((s.dev.took (some src) 0x1A 0 body).onTabs fun x => { x with
      peerTot := x.peerTot.put [] src
        ((List.range (recNum body 4 2)).map fun i => (recNum body (8 + 8 * i) 2, recNum body (12 + 8 * i) 4)) })) :=
  exec_next_congr rfl (if_neg (Bool.eq_false_iff.1 h))

theorem exec_loadrep_bad {src : Nat} {body : List Byte} (h : loadrepBad body = true) :
    exec (.loadrep src body) s = .next (s.withDev ((s.dev.took (some src) 0x1A 0 body).bump .SFX_RXBAD)) :=
  exec_next_congr rfl (if_pos h)

/-- The window that has begun closes at its end, or at once when that has passed. -/
theorem exec_loadWindowClose {t : Nat} (ht : t = max s.now (s.dev.tabs.winStart + s.dev.cfgF .TBL_MIGT [] 0 20 * 12000)) :
    exec .loadWindowClose s = .next (s.later t (s.dev.closeWindow t)) := by
  subst ht
  rw [State.later_max]
  rfl

theorem exec_fabShareRefill : exec .fabShareRefill s = .next (s.later (s.now + 12000) (s.dev.refillFab (s.now + 12000))) := by
  have h : max s.mach.und.now (s.mach.und.now + 12000) = s.mach.und.now + 12000 := Nat.max_eq_right (Nat.le_add_right _ _)
  simp only [State.later, State.now, h]
  rfl

end

/-! ### A move at its old home (spec/05 R172, R175 to R178, spec/16 R564) -/

section
variable {s : State} {id : Nat} {v : Move} (hv : s.dev.move? id = some v)
include hv

section
variable (hst : v.st = .wait)
include hst

theorem exec_moveStart_ready (hf : s.dev.heldTable v.table = false) (hr : s.dev.moveReady v = true) :
    exec (.moveStart id) s = .next (s.withDev ((s.dev.startMove v).settle s.now)) := by
  show execMoveStart id s = _
  simp only [State.dev] at hv hf hr
  simp only [execMoveStart, State.run_next, hv, hst, hf, hr, bne_self_eq_false, Bool.false_eq_true, if_false, if_true]
  rfl

/-- A drain of its table holds a move that waits. -/
theorem exec_moveStart_held (hh : s.dev.heldTable v.table = true) :
    exec (.moveStart id) s = .next (s.withDev (s.dev.holdTable v.table (2 ^ 45 + id))) := by
  show execMoveStart id s = _
  simp only [State.dev] at hv hh
  simp only [execMoveStart, State.run_next, hv, hst, hh, bne_self_eq_false, Bool.false_eq_true, if_false, if_true]
  rfl

end

section
variable {fault : Bool}

/-- The copy goes on within the module, or while its fabric share lasts. -/
theorem exec_moveCopyStart_copies (hst : v.st = .moving) (hb : v.dst = none ∨ 0 < s.dev.tabs.fabTok) (hw : s.dev.copyWaits v = false) :
    exec (.moveCopyStart id fault) s = .next (s.withDev ((s.dev.copyMove s.now v fault).settle s.now)) := by
  show execMoveCopyStart id fault s = _
  simp only [State.dev] at hv hb hw
  have go : v.st = .moving ∧ (v.dst.isNone = true ∨ 0 < s.mach.dev.tabs.fabTok) ∧ (!s.mach.dev.copyWaits v) = true :=
    ⟨hst, hb.imp_left Option.isNone_iff_eq_none.2, by rw [hw]; rfl⟩
  simp only [execMoveCopyStart, State.run_next, hv, if_pos go]
  rfl

/-- A copy to another module waits while its fabric share is used up. -/
theorem exec_moveCopyStart_starved (hd : v.dst ≠ none) (hb : s.dev.tabs.fabTok ≤ 0) :
    exec (.moveCopyStart id fault) s = .next s := by
  show execMoveCopyStart id fault s = _
  simp only [State.dev] at hv hb
  have stop : ¬ (v.st = .moving ∧ (v.dst.isNone = true ∨ 0 < s.mach.dev.tabs.fabTok) ∧ (!s.mach.dev.copyWaits v) = true) := by
    rintro ⟨-, h | h, -⟩
    · exact hd (Option.isNone_iff_eq_none.1 h)
    · omega
  simp only [execMoveCopyStart, State.run_next, hv, if_neg stop]
  rfl

end

/-- A snapshot without READY is aborted at the end of MOVE_TMO_US, or at once when that has passed. -/
theorem exec_moveTimeout_snapped {t u : Nat} (hst : v.st = .snapped t) (hu : u = max s.now (t + v.tmo * 12000)) :
    exec (.moveTimeout id) s = .next (s.later u ((s.dev.abortMove u v).settle u)) := by
  subst hu
  show execMoveTimeout id s = _
  simp only [State.dev] at hv
  simp only [execMoveTimeout, State.run_next, hv, hst, State.later_max]
  rfl

end

/-! ### MOVE messages (spec/05 R172, R176, R177, spec/15 R521) -/

/-- A message whose layout is bad changes the volatile part alone. -/
theorem exec_of_badLayout {c : Instr} {s : State} {bad : Bool} {d : Dev} {m : Mach}
    (hc : exec c s = .next (s.withMach (if bad = true then s.mach.onDev fun _ => d else m))) (h : bad = true) :
    exec c s = .next (s.withDev d) := by
  rw [hc, if_pos h]
  rfl

section
variable {s : State} {src : Nat} {body : List Byte} {e : Dev} (he : e = s.dev.took (some src) 0x19 0 body)
include he

/-- A snapshot that is taken in. -/
theorem exec_moveSnap_taken {pm : Nat} {img : List Byte} {g : Dev} (h : moveBad 0 body = false)
    (hg : e.takeSnap s.now src (recNum body 2 2 % 4096) (recNum body 4 1) (recNum body 5 1) (recNum body 8 8) (body.drop 32) pm img
      e.migPart = some g) :
    exec (.moveSnap src body pm img) s = .next (s.withDev (g.settle s.now)) := by
  subst he
  show execMoveSnap src body pm img s = _
  simp only [State.dev, State.now] at hg
  simp only [execMoveSnap, State.run_next, h, hg, Bool.false_eq_true, if_false]
  rfl

/-- A snapshot that cannot be taken in is answered busy. -/
theorem exec_moveSnap_busy {pm : Nat} {img : List Byte} (h : moveBad 0 body = false)
    (hn : e.takeSnap s.now src (recNum body 2 2 % 4096) (recNum body 4 1) (recNum body 5 1) (recNum body 8 8) (body.drop 32) pm img
      e.migPart = none) :
    exec (.moveSnap src body pm img) s = .next (s.withDev ((e.countBusy (recNum body 2 2 % 4096) img).sendMove s.now src
      (recNum body 2 2 % 4096) (recNum body 8 8)
      (moveBody 4 (recNum body 2 2 % 4096) (recNum body 4 1) 0 (recNum body 8 8) (recNum body 16 2) []))) := by
  subst he
  show execMoveSnap src body pm img s = _
  simp only [State.dev, State.now] at hn
  simp only [execMoveSnap, State.run_next, h, hn, Bool.false_eq_true, if_false]
  rfl

section
variable {v : Move} {t : Nat} (h : moveBad 1 body = false) (hv : e.moveFor src body = some v) (hst : v.st = .snapped t)
  (hd : v.dst.isSome = true)
include h hv hst hd

/-- READY of another module commits the move within MOVE_TMO_US of the snapshot. -/
theorem exec_moveReady_inTime (hin : s.now ≤ t + v.tmo * 12000) :
    exec (.moveReady src body) s = .next (s.withDev ((e.commitMove s.now v).settle s.now)) := by
  subst he
  show execMoveReady src body s = _
  simp only [State.dev, State.now] at hv hin
  simp only [execMoveReady, State.run_next, h, hv, hst, hd, usT, hin, decide_true, Bool.true_or, Bool.true_and, Bool.false_eq_true,
    if_false, if_true]
  rfl

/-- A later READY does nothing. -/
theorem exec_moveReady_late (hlate : t + v.tmo * 12000 < s.now) : exec (.moveReady src body) s = .next (s.withDev e) := by
  subst he
  show execMoveReady src body s = _
  simp only [State.dev, State.now] at hv hlate
  simp only [execMoveReady, State.run_next, h, hv, hst, hd, usT, Nat.not_le.2 hlate, decide_false, Bool.and_false, Bool.false_eq_true,
    if_false]
  rfl

end

section
variable {i : Incoming} (hi : e.incomingFor src body = some i)
include hi

theorem exec_moveCommit_good (h : moveBad 2 body = false) :
    exec (.moveCommit src body) s = .next (s.withDev ((e.commitIn s.now i (recNum body 16 2)).settle s.now)) := by
  subst he
  show execMoveCommit src body s = _
  simp only [State.dev] at hi
  simp only [execMoveCommit, State.run_next, Mach.onDev_dev, h, hi, Bool.false_eq_true, if_false]
  rfl

theorem exec_moveDiscard_good (h : moveBad 3 body = false) :
    exec (.moveDiscard src body) s = .next (s.withDev ((e.discard s.now i).settle s.now)) := by
  subst he
  show execMoveDiscard src body s = _
  simp only [State.dev] at hi
  simp only [execMoveDiscard, State.run_next, Mach.onDev_dev, h, hi, Bool.false_eq_true, if_false]
  rfl

end

/-- A busy answer aborts the move whose snapshot was turned away. -/
theorem exec_moveBusy_snapped {v : Move} {t : Nat}
    (hv : (e.tabs.moves.find? fun v => v.table == recNum body 2 2 % 4096 && v.rows.contains (recNum body 8 8) && v.dst == some src) =
      some v)
    (h : moveBad 4 body = false) (hst : v.st = .snapped t) :
    exec (.moveBusy src body) s = .next (s.withDev (((e.countTurned v).abortMove s.now v).settle s.now)) := by
  subst he
  show execMoveBusy src body s = _
  simp only [State.dev] at hv
  simp only [execMoveBusy, State.run_next, Mach.onDev_dev, h, hv, hst, Bool.false_eq_true, if_false]
  rfl

end

/-! ### The end of a lease (spec/05 R179, R180) -/

section
variable {s : State} {t row : Nat}

theorem exec_leaseEnd_gone (h : s.dev.rowEnt? t row = none) : exec (.leaseEnd t row) s = .next (s.withDev (s.dev.freeOld s.now)) := by
  show execLeaseEnd t row s = _
  simp only [State.dev] at h
  simp only [execLeaseEnd, State.run_next, h]
  rfl

/-- A row's shard has its home where an entry points. -/
def Dev.rowIsHome (d : Dev) (t row : Nat) (e : Ent) : Bool :=
  match d.shardEnt (d.tdesc t) t row with
  | some x => x.module == e.module
  | none => false

/-- The ticks that a lease up to that tick has still to run, modulo 2^32. -/
def leaseLeft (now lease : Nat) : Nat := (lease + 2 ^ 32 - now / 12000 % 2 ^ 32) % 2 ^ 32

/-- The instant at which such a lease ends: with 2^31 ticks or more left it has passed, and ends at once. -/
def leaseInstant (now lease : Nat) : Nat :=
  if leaseLeft now lease < 2 ^ 31 then max now ((now / 12000 + leaseLeft now lease) * 12000) else now

/-- The storage that a FORWARD entry kept is freed; the entry of a row back at its shard's home goes. -/
theorem exec_leaseEnd_forward {a : Nat} (ha : s.dev.rowEnt? t row = some a) (h3 : (s.dev.entAt a).state = 3) :
    exec (.leaseEnd t row) s = .next (s.later (leaseInstant s.now (s.dev.entAt a).lease)
      ((if s.dev.rowIsHome t row (s.dev.entAt a) = true then s.dev.delRent t row else s.dev).freeOld
        (leaseInstant s.now (s.dev.entAt a).lease))) := by
  show execLeaseEnd t row s = _
  simp only [State.dev] at ha h3 ⊢
  by_cases hl : leaseLeft s.mach.und.now (s.mach.dev.entAt a).lease < 2 ^ 31
  case pos =>
    simp only [leaseInstant, State.now, hl, if_true]
    simp only [leaseLeft] at hl
    simp only [execLeaseEnd, State.run_next, ha, h3, Mach.tick, usT, hl, if_true]
    exact congrArg Host.Outcome.next (State.later_max ..).symm
  case neg =>
    simp only [leaseInstant, State.now, hl, if_false]
    simp only [leaseLeft] at hl
    simp only [execLeaseEnd, State.run_next, ha, h3, Mach.tick, usT, hl, if_true, if_false]
    exact congrArg Host.Outcome.next (State.later_now ..).symm

end

/-- Settles O46: an entry and a load report by their layout, the window and the bucket at their instants; a move by the state it stands in,
a MOVE message by its layout and what it finds of its move, a lease's end by whether its entry is there. -/
theorem shardsAndMovesAct : Obligations.ShardsAndMovesAct := by
  refine ⟨fun s src body => ⟨?entry, exec_loadWindowClose rfl, ?loadrep, exec_fabShareRefill⟩,
    fun s => ⟨fun id v hv hst => exec_moveStart_ready hv hst, fun id v hv hst => exec_moveStart_held hv hst,
      fun id v fault hv hst => ⟨exec_moveCopyStart_copies hv hst, exec_moveCopyStart_starved hv⟩, ?snap, ?ready, ?ends, ?bad, ?busy,
      fun id v t hv hst => exec_moveTimeout_snapped hv hst rfl, fun t row => exec_leaseEnd_gone, fun t row a => exec_leaseEnd_forward⟩⟩
  case entry =>
    split
    case isTrue h => exact exec_entry_good h
    case isFalse h => exact exec_entry_bad (Bool.eq_true_of_not_eq_false h)
  case loadrep =>
    intro n e
    split
    case isTrue h => exact exec_loadrep_good h
    case isFalse h => exact exec_loadrep_bad (Bool.eq_true_of_not_eq_false h)
  case snap =>
    intro src body pm img h e t row
    split
    case h_1 g hg => exact exec_moveSnap_taken rfl h hg
    case h_2 hn => exact exec_moveSnap_busy rfl h hn
  case ready =>
    intro src body v t e h hv hst hd
    exact ⟨exec_moveReady_inTime rfl h hv hst hd, exec_moveReady_late rfl h hv hst hd⟩
  case ends =>
    intro src body i e hi
    exact ⟨exec_moveCommit_good rfl hi, exec_moveDiscard_good rfl hi⟩
  case bad =>
    intro src body e
    exact ⟨fun pm img => exec_of_badLayout rfl, exec_of_badLayout rfl, exec_of_badLayout rfl, exec_of_badLayout rfl,
      exec_of_badLayout rfl⟩
  case busy =>
    intro src body v t e hv h hst
    exact exec_moveBusy_snapped rfl hv h hst

end Sys2Proof.Machine

/-! ## Proofs: the family of spec/06_matrix_engine.md -/

namespace Sys2Proof.Machine

/-! ### The next instruction of an engine's queue (spec/06 R192, R198, spec/08 R259, R279, spec/19 R637) -/

/-- An instruction starts: it neither waits, nor is refused, nor meets a fault. -/
def EngOut.Starts (o : EngOut) : Prop := ∃ d area occ, o = .done d area occ

/-- With no power cap in force, or none of its window used, nothing holds an instruction back (R637). -/
theorem Dev.capHolds_of_turn {d : Dev} {c : Nat} {ve : Bool} {x : QEnt} (h : d.Turn c ve x) (occ : Nat) : d.capHolds c ve occ = false := by
  obtain ⟨-, -, -, hcap | hcap⟩ := h <;> simp [Dev.capHolds, hcap]

section
variable {m : Mach} {c : Nat} {ve : Bool} {mine : QEnt → Bool} {f : Dev → QEnt → EngOut} {x : QEnt}
  (hx : nextPlace (m.dev.queue c (if ve = true then .ve else .me)) = some x) (hm : mine x = true)
  (hv : ve = true → (m.dev.queue c (if ve = true then .ve else .me)).any (·.started) = false) (hc : m.dev.chainWaits c ve x = false)
include hx hm hv hc

theorem Mach.runInsn_done {d : Dev} {area : List (Nat × Nat)} {occ : Nat} (hf : f m.dev x = .done d area occ)
    (hcap : m.dev.capHolds c ve occ = false) :
    m.runInsn c ve .none mine f = { m with dev := (EngOut.done d area occ).begun m.dev m.und.now c ve } := by
  simp only [Mach.runInsn, hx, hm, Bool.and_eq_false_imp.2 hv, hc, hf, hcap, Dev.detect, Bool.not_true, Bool.or_self, Bool.false_eq_true,
    if_false]
  cases ve <;> rfl

theorem Mach.runInsn_refuse {st : Nat} (hf : f m.dev x = .refuse st) :
    m.runInsn c ve .none mine f = { m with
      dev := (m.dev.refuseInsn m.und.now c (if ve = true then .ve else .me) x st).stallEnd m.und.now c (if ve = true then 1 else 0) } := by
  simp only [Mach.runInsn, hx, hm, Bool.and_eq_false_imp.2 hv, hc, hf, Bool.not_true, Bool.or_self, Bool.false_eq_true, if_false]

theorem Mach.runInsn_stop {d : Dev} {st : Nat} (hf : f m.dev x = .stop d st) :
    m.runInsn c ve .none mine f = { m with
      dev := (d.stopInsn m.und.now c (if ve = true then .ve else .me) x st).stallEnd m.und.now c (if ve = true then 1 else 0) } := by
  simp only [Mach.runInsn, hx, hm, Bool.and_eq_false_imp.2 hv, hc, hf, Bool.not_true, Bool.or_self, Bool.false_eq_true, if_false]

end

/-! ### The instructions by their rows (spec/06 R193, spec/08 R261) -/

/-- The command of a row works the next instruction of its engine's queue by what the row says that it comes to. -/
def InsnRow.Works (row : InsnRow) : Prop :=
  ∃ mine : QEnt → Bool, (∀ x, row.mine x = true → mine x = true) ∧ ∀ c s,
    exec (row.cmd c .none) s = s.run fun m => m.runInsn c row.ve .none mine (row.start m.und.now c .none)

theorem meRow_works {cmd : Nat → Det → Instr} {mine has : QEnt → Bool} {start : Nat → Nat → Det → Dev → QEnt → EngOut}
    (hm : ∀ x, mine x = true → has x = true)
    (h : ∀ c s, exec (cmd c .none) s = s.run fun m => m.runInsn c false .none has (start m.und.now c .none)) :
    (meRow cmd mine start).Works := ⟨has, hm, h⟩

/-- MMA's command meets the instructions of reserved codes too (R193). -/
theorem meRows_work (lq : Nat) : ∀ row ∈ meRows lq, row.Works := by
  simp only [meRows, List.forall_mem_cons]
  refine ⟨meRow_works (has := fun x => x.opc = 1 ∨ x.opc = 0 ∨ 5 < x.opc) (fun x h => ?_) fun _ _ => rfl,
    meRow_works (fun x h => ?_) fun _ _ => rfl, meRow_works (fun x h => ?_) fun _ _ => rfl, meRow_works (fun x h => ?_) fun _ _ => rfl,
    meRow_works (fun x h => ?_) fun _ _ => rfl, meRow_works (fun x h => ?_) fun _ _ => rfl, List.forall_mem_nil _⟩
  all_goals simp_all

theorem veRow_works {cmd : Nat → Det → Instr} {opc : Nat} {start : Nat → Nat → Det → Dev → QEnt → EngOut}
    (h : ∀ c s, exec (cmd c .none) s = vRun opc c .none start s) : (veRow cmd opc start).Works :=
  ⟨fun x => x.opc = opc, fun x hx => by simpa [veRow] using hx, h⟩

/-- VE_ADD's command meets the instructions of reserved codes too (R279). -/
theorem veAdd_works : (veRow .veAdd 0x10 vElem).Works :=
  ⟨fun x => x.opc = 0x10 ∨ (vclass x.opc).isNone, fun x hx => by simp_all [veRow], fun _ _ => rfl⟩

theorem veRows_work : ∀ row ∈ veRows, row.Works := by
  simp only [veRows, elemRows, List.map_cons, List.map_nil, List.cons_append, List.nil_append, List.forall_mem_cons, List.not_mem_nil,
    false_imp_iff, implies_true, and_true]
  refine ⟨veAdd_works, ?_⟩
  and_intros
  all_goals exact veRow_works fun _ _ => rfl

section
variable {s : State} {c lq : Nat} {x : QEnt} {row : InsnRow} (hrow : row ∈ meRows lq ++ veRows) (hm : row.mine x = true)
include hrow hm

/-- A row's command leaves what its working of the next instruction leaves, whatever else the command is about. -/
theorem exec_insn {d : Dev} (h : ∀ mine : QEnt → Bool, mine x = true →
      s.mach.runInsn c row.ve .none mine (row.start s.now c .none) = { s.mach with dev := d }) :
    exec (row.cmd c .none) s = .next (s.withDev d) := by
  obtain ⟨mine, hmine, he⟩ := (List.mem_append.1 hrow).elim (meRows_work lq row) (veRows_work row)
  exact (he c s).trans (congrArg (fun m => Host.Outcome.next (s.withMach m)) (h mine (hmine x hm)))

variable (hx : nextPlace (s.dev.queue c (if row.ve = true then .ve else .me)) = some x)
  (hv : row.ve = true → (s.dev.queue c (if row.ve = true then .ve else .me)).any (·.started) = false)
  (hc : s.dev.chainWaits c row.ve x = false)
include hx hv hc

/-- An instruction whose start succeeds begins. -/
theorem exec_insn_done {d : Dev} {area : List (Nat × Nat)} {occ : Nat} (hf : row.start s.now c .none s.dev x = .done d area occ)
    (hcap : s.dev.capHolds c row.ve occ = false) :
    exec (row.cmd c .none) s = .next (s.withDev ((EngOut.done d area occ).begun s.dev s.now c row.ve)) :=
  exec_insn hrow hm fun _ hmine => Mach.runInsn_done hx hmine hv hc hf hcap

theorem exec_insn_refuse {st : Nat} (hf : row.start s.now c .none s.dev x = .refuse st) :
    exec (row.cmd c .none) s = .next (s.withDev
      ((s.dev.refuseInsn s.now c (if row.ve = true then .ve else .me) x st).stallEnd s.now c (if row.ve = true then 1 else 0))) :=
  exec_insn hrow hm fun _ hmine => Mach.runInsn_refuse hx hmine hv hc hf

theorem exec_insn_stop {d : Dev} {st : Nat} (hf : row.start s.now c .none s.dev x = .stop d st) :
    exec (row.cmd c .none) s = .next (s.withDev
      ((d.stopInsn s.now c (if row.ve = true then .ve else .me) x st).stallEnd s.now c (if row.ve = true then 1 else 0))) :=
  exec_insn hrow hm fun _ hmine => Mach.runInsn_stop hx hmine hv hc hf

end

/-- An instruction whose turn has come and whose start succeeds begins. -/
theorem exec_insn_starts {s : State} {c lq : Nat} {x : QEnt} {row : InsnRow} {o : EngOut} (hrow : row ∈ meRows lq ++ veRows)
    (ht : s.dev.Turn c row.ve x) (hm : row.mine x = true) (ho : row.start s.now c .none s.dev x = o) (hs : o.Starts) :
    exec (row.cmd c .none) s = .next (s.withDev (o.begun s.dev s.now c row.ve)) := by
  obtain ⟨d, area, occ, rfl⟩ := hs
  have hcap := Dev.capHolds_of_turn ht occ
  obtain ⟨hx, hv, hc, -⟩ := ht
  exact exec_insn_done hrow hm hx (fun h => by simpa [h] using hv h) hc ho hcap

/-! ### Conditions that refuse an instruction (spec/00 R668) -/

theorem refusal_congr {as bs : List (Bool × Nat)} (h : as.filter (·.1) = bs.filter (·.1)) : refusal as = refusal bs := by
  rw [refusal, refusal, h]

/-- Where no condition is met, nothing is refused. -/
theorem refusal_unmet {cs : List (Bool × Nat)} (h : ∀ p ∈ cs, p.1 = false) : refusal cs = sOk :=
  refusal_congr (bs := []) (List.filter_eq_nil_iff.2 fun p hp => by simp [h p hp])

/-- Where nothing is refused, no condition with a status of R668 is met. -/
theorem unmet_of_refusal {cs : List (Bool × Nat)} {b : Bool} {st : Nat} (h : refusal cs = sOk) (hp : (b, st) ∈ cs)
    (ho : st ∈ refusalOrder) : b = false := by
  by_contra hb
  have hmet : st ∈ refusalOrder.filter fun s => ((cs.filter (·.1)).map (·.2)).contains s := by
    simp only [List.mem_filter, ho, true_and, List.contains_iff_mem, List.mem_map]
    exact ⟨(b, st), by simp_all, rfl⟩
  obtain ⟨a, l, hl⟩ := List.exists_cons_of_ne_nil (List.ne_nil_of_mem hmet)
  have ha : a ∈ refusalOrder := List.mem_of_mem_filter (hl ▸ List.mem_cons_self)
  have h0 : a = sOk := by simpa only [refusal, hl, List.head?_cons, Option.getD_some] using h
  exact absurd (h0 ▸ ha) (by decide)

/-! ### Operand tiles that are there (spec/06 R194, R196, R197, spec/09 R285, R286) -/

section
variable {d : Dev} {now c src off : Nat} {bs : List Byte}

theorem Dev.clmTile_there (h : d.TileThere c 0 off bs) : d.clmTile c off = (d, .tile bs (d.tileHurt c 0 off bs)) := by
  obtain ⟨hgood, hclm, -⟩ := h
  obtain ⟨rfl, hhdr, hfit⟩ := hclm rfl
  simp [Dev.clmTile, Dev.tileHurt, hgood, Nat.not_lt.2 hhdr, Nat.not_lt.2 hfit]

theorem Dev.ringTile_there (hs : src ≠ 0) (h : d.TileThere c src off bs) :
    d.ringTile now c (src - 1) .none = (d, .tile bs (d.tileHurt c src off bs)) := by
  obtain ⟨hgood, -, hring⟩ := h
  obtain ⟨hmode, hhead, hbs, hfit⟩ := hring hs
  have hmode' : ¬((d.ring c (src - 1)).mode ≠ 1 ∧ (d.ring c (src - 1)).mode ≠ 2) := by tauto
  have hfit' : ¬bs.length > (d.ring c (src - 1)).slot64 * 64 := Nat.not_lt.2 hfit
  unfold Dev.ringTile
  simp only [hmode', hhead, ← hbs, hgood, hfit', if_false, Bool.not_true, Bool.false_eq_true, decide_false, Bool.or_self]
  rw [Dev.tileHurt, if_neg hs]

theorem Dev.operand_there (h : d.TileThere c src off bs) :
    d.operand now c src off .none = (d, .tile bs (d.tileHurt c src off bs)) := by
  unfold Dev.operand
  split
  case isTrue hs => subst hs; exact Dev.clmTile_there h
  case isFalse hs => exact Dev.ringTile_there hs h

end

/-! ### The matrix engine's starts (spec/06 R194 to R223, R242 to R247) -/

theorem mmaRun_starts (d : Dev) (c : Nat) (x : QEnt) (t : Take) (xs ws : List Byte) (xp wp : Bool) (lq : Nat) :
    (mmaRun d c x t xs ws xp wp lq).Starts := ⟨_, _, _, rfl⟩

theorem predict_starts (d : Dev) (c : Nat) (x : QEnt) (v1 v2 : List Byte) (p1 p2 : Bool) : (predict d c x v1 v2 p1 p2).Starts :=
  ⟨_, _, _, rfl⟩

section
variable {d : Dev} {now c : Nat} {x : QEnt}

/-- The formats of an MMA whose fields keep the rules are a pair. -/
theorem pairOf_of_mmaBad (hbad : mmaBad x = false) :
    ∃ xt wt p, DType.ofCode (x.f0 16 4) = some xt ∧ DType.ofCode (x.f0 20 4) = some wt ∧ pairOf xt wt = some p := by
  simp only [mmaBad, Bool.or_eq_false_iff] at hbad
  obtain ⟨⟨⟨⟨-, hpair⟩, -⟩, -⟩, -⟩ := hbad
  cases hxt : DType.ofCode (x.f0 16 4) with
  | none => simp [hxt] at hpair
  | some xt =>
    cases hwt : DType.ofCode (x.f0 20 4) with
    | none => simp [hxt, hwt] at hpair
    | some wt => simpa [hxt, hwt, Option.isSome_iff_exists, ← Option.not_isSome] using hpair

theorem mmaStart_eq_mmaRun {lq : Nat} {xs ws : List Byte} (hbad : mmaBad x = false) (hbusy : d.accBusy c (x.f0 8 5) = false)
    (hX : d.TileThere c (x.f0 32 2) (x.f1 0 17 * 32) xs) (hW : d.TileThere c (x.f0 34 2) (x.f1 32 17 * 32) ws)
    (hxt : (TileHdr.parse xs).dtype = x.f0 16 4) (hwt : (TileHdr.parse ws).dtype = x.f0 20 4)
    (htake : takeOf (bitAt x.w0.toNat 29) x.cfg xs ws ≠ .refuse)
    (hadd : bitAt x.w0.toNat 13 = true → (mmaArgs x 0).fp = (d.acc c (x.f0 8 5)).fp) :
    mmaStart .none c now lq d x = mmaRun d c x (takeOf (bitAt x.w0.toNat 29) x.cfg xs ws) xs ws
      (d.tileHurt c (x.f0 32 2) (x.f1 0 17 * 32) xs) (d.tileHurt c (x.f0 34 2) (x.f1 32 17 * 32) ws) lq := by
  have hok (xp wp : Bool) : mmaRefusal d c x (.tile xs xp) (.tile ws wp) = sOk := by
    obtain ⟨xt, wt, p, hx, hw, hp⟩ := pairOf_of_mmaBad hbad
    have hfp : (mmaArgs x 0).fp = p.2 := by simp [mmaArgs, hx, hw, hp]
    refine refusal_unmet ?_
    simp only [List.forall_mem_cons]
    refine ⟨hbad, ?_, by simpa using hxt, by simpa using hwt, by simpa using htake, rfl, rfl, List.forall_mem_nil _⟩
    simpa [hx, hw, hp, hfp] using hadd
  simp [mmaStart, hbad, hbusy, Dev.operand_there hX, Dev.operand_there hW, hok]

theorem predictStart_eq_predict {v1 v2 : List Byte} (hbad : mpredBad x = false) (hbusy : d.accBusy c (x.f0 8 5) = false)
    (hbusy2 : decide (64 < x.f0 16 7 + 1) = true → d.accBusy c (x.f0 8 5 + 1) = false) (h1 : d.TileThere c 0 (x.f1 0 17 * 32) v1)
    (h2 : if decide (64 < x.f0 16 7 + 1) = true then d.TileThere c 0 (x.f1 17 17 * 32) v2 else v2 = v1)
    (ht1 : (TileHdr.parse v1).dt = .bf16) (ht2 : (TileHdr.parse v2).dt = .bf16) :
    predictStart now c .none d x = predict d c x v1 v2 (d.tileHurt c 0 (x.f1 0 17 * 32) v1)
      (decide (64 < x.f0 16 7 + 1) && d.tileHurt c 0 (x.f1 17 17 * 32) v2) := by
  have hok : refusal [(false, eArg), (false, eArg), (false, sOk), (false, sOk)] = sOk := rfl
  by_cases htwo : 64 ≤ x.f0 16 7
  case pos =>
    have hlt : decide (64 < x.f0 16 7 + 1) = true := decide_eq_true (Nat.lt_succ_of_le htwo)
    rw [if_pos hlt] at h2
    simp [predictStart, hbad, hbusy, hbusy2 hlt, htwo, Dev.clmTile_there h1, Dev.clmTile_there h2, ht1, ht2, hok]
  case neg =>
    have hlt : ¬decide (64 < x.f0 16 7 + 1) = true := by simpa using htwo
    rw [if_neg hlt] at h2
    subst h2
    simp [predictStart, hbad, hbusy, htwo, Dev.clmTile_there h1, ht1, hok]

theorem observeStart_starts {bs : List Byte} (hbad : mpredBad x = false) (h : d.TileThere c 0 (x.f1 0 17 * 32) bs) :
    (observeStart now c .none d x).Starts := by
  simp only [observeStart, hbad, Bool.false_eq_true, if_false, Dev.clmTile_there h]
  split
  · exact ⟨_, _, _, rfl⟩
  · split <;> exact ⟨_, _, _, rfl⟩

end

/-! ### The length of an output tile (spec/02 R57, R65, spec/07 R238) -/

theorem TileHdr.build_length (h : TileHdr) : h.build.length = 32 := by simp [TileHdr.build, leBytes_length]

theorem padTo_length (n : Nat) (bs : List Byte) : (padTo n bs).length = n := by
  simp only [padTo, List.length_take, List.length_append, List.length_replicate]
  omega

theorem sealTile_length (h : TileHdr) (body : List Byte) : (sealTile h body).length = 32 + (h.bytes - 32) := by
  simp only [sealTile, List.length_append, TileHdr.build_length, padTo_length]

theorem buildTile_length (f : Form) (t : DType) (flags rows cols : Nat) (m : Nat → Nat → Nat) :
    (buildTile f t flags rows cols m).length = 32 + (canonSize f t rows cols (nonZero t rows cols m).length - 32) := by
  cases f <;> simp only [buildTile, sealTile_length]

theorem header_le_denseSize (t : DType) (rows cols : Nat) : 32 ≤ denseSize t rows cols := by
  simp only [denseSize, roundUp, ceilDiv]
  omega

theorem buildTile_dense_length (t : DType) (flags rows cols : Nat) (m : Nat → Nat → Nat) :
    (buildTile .dense t flags rows cols m).length = denseSize t rows cols := by
  rw [buildTile_length, canonSize, Nat.add_sub_cancel' (header_le_denseSize t rows cols)]

/-- The Chisel compressor leaves a tile dense rather than make it longer (R238). -/
theorem chisel_length_le (t : DType) (poison pred : Bool) (rows cols : Nat) (m : Nat → Nat → Nat) :
    (chisel t poison pred rows cols m).1.length ≤ denseSize t rows cols := by
  have hhdr := header_le_denseSize t rows cols
  unfold chisel
  extract_lets es ok flags f
  split_ifs with hzero hint hpays
  · rw [buildTile_length, canonSize]; exact hhdr
  · rw [buildTile_dense_length]
  · have : canonSize f t rows cols (nonZero t rows cols m).length < denseSize t rows cols := hpays
    rw [buildTile_length]; omega
  · rw [buildTile_dense_length]

theorem Dev.outTile_length_le (d : Dev) (c : Nat) (ch : Bool) (t : DType) (poison pred : Bool) (rows cols : Nat) (m : Nat → Nat → Nat) :
    (d.outTile c ch t poison pred rows cols m).2.length ≤ denseSize t rows cols := by
  cases ch
  case true => exact chisel_length_le t poison pred rows cols m
  case false => exact (buildTile_dense_length ..).le

/-! ### The ends of a matrix instruction's data: MOUT and MLOAD (spec/06 R206, R219 to R223) -/

section
variable {d : Dev} {now c : Nat} {x : QEnt}

/-- MOUT starts where its output, its bias and its statistics lie in CLM, or its ring has a slot for the output. -/
theorem moutStart_starts (hbad : moutBad x = false) (hbusy : d.accBusy c (x.f0 8 5) = false) {size : Nat} {r : Ring}
    (hsize : size = denseSize ((DType.ofCode (x.f0 16 4)).getD .int8) (d.acc c (x.f0 8 5)).rows (d.acc c (x.f0 8 5)).cols)
    (hr : r = d.ring c (x.f0 24 2 - 1)) (hclm : x.f0 24 2 = 0 → x.f1 0 17 * 32 + size ≤ clmSize)
    (hring : x.f0 24 2 ≠ 0 → (r.mode = 2 ∨ r.mode = 3) ∧ r.room = true ∧ size ≤ r.slot64 * 64)
    (hbias : bitAt x.w0.toNat 20 = true → x.f1 17 17 * 32 + 256 ≤ clmSize)
    (hstats : bitAt x.w0.toNat 21 = true ∨ bitAt x.w0.toNat 22 = true → x.f1 34 17 * 32 + 512 ≤ clmSize) :
    (moutStart now c .none d x).Starts := by
  subst hr
  unfold moutStart
  rw [if_neg (by simp [hbad]), if_neg (by simp [hbusy])]
  extract_lets st t d1 res pb pa o at_ rs
  have hlen : o.2.length ≤ size := hsize ▸ Dev.outTile_length_le ..
  have hok : rs = sOk := by
    refine refusal_unmet ?_
    simp only [List.forall_mem_cons, decide_eq_false_iff_not, Bool.or_eq_true, not_and]
    exact ⟨fun h0 => by have := hclm h0; omega, fun hb => Nat.not_lt.2 (hbias hb), fun hs => Nat.not_lt.2 (hstats hs),
      fun h0 h2 h3 => (hring h0).1.elim h2 h3, List.forall_mem_nil _⟩
  have hfits : ¬(x.f0 24 2 ≠ 0 ∧ (!(d.ring c (x.f0 24 2 - 1)).fits o.2) = true) := by
    rintro ⟨h0, hf⟩
    have := (hring h0).2.2
    simp [Ring.fits] at hf
    omega
  have hroom : ¬(x.f0 24 2 ≠ 0 ∧ (!(d.ring c (x.f0 24 2 - 1)).room) = true) := fun ⟨h0, hf⟩ => by simp [(hring h0).2.1] at hf
  rw [if_neg (not_not.2 hok), if_neg hfits, if_neg hroom]
  exact ⟨_, _, _, rfl⟩

theorem mloadStart_done {bs : List Byte} (hbad : mloadBad x = false) (hbusy : d.accBusy c (x.f0 8 5) = false)
    (h : d.TileThere c (x.f0 32 2) (x.f1 0 17 * 32) bs) (htake : mloadTakes bs = true) {p : Bool} {w e : Dev}
    (hp : p = d.tileHurt c (x.f0 32 2) (x.f1 0 17 * 32) bs)
    (hw : w = (d.writeAcc c (x.f0 8 5) (fun m n => ((tileAt bs m n).head?).getD 0) (some p)).setAcc c (x.f0 8 5)
      { fp := (TileHdr.parse bs).dt == .fp32, rows := (TileHdr.parse bs).rows, cols := (TileHdr.parse bs).cols, sat := false })
    (he : e = ((w.bump .CORE_BADIDX [c] (tileDropped bs)).releaseSrc c (x.f0 32 2) (bitAt x.w0.toNat 36)).consumed c x.job [p]) :
    mloadStart now c .none d x = .done e [(accAt c (x.f0 8 5), 0x4000)] 0 := by
  subst hp hw he
  simp [mloadStart, hbad, hbusy, Dev.operand_there h, htake]

end

/-! ### A core that is at work -/

/-- A value other than what an unlisted key reads as is read back, whatever was listed before. -/
theorem SMap.get_put_listed {α : Type} [DecidableEq α] {d v : α} (m : SMap α) (k : Nat) (h : v ≠ d) : (m.put d k v).get d k = v := by
  rw [SMap.put, if_neg h, SMap.get_ins_same]

/-- A core whose vector queue holds an instruction is listed, and so is read back as it was set. -/
theorem Dev.core_modCore_of_veQ {d : Dev} {c : Nat} {f : Core → Core} (h : (f (d.core c)).ve.q ≠ []) :
    (d.modCore c f).core c = f (d.core c) :=
  SMap.get_put_listed d.cores c fun e => h (e ▸ rfl)

theorem Dev.ve_q_of_turn {d : Dev} {c : Nat} {x : QEnt} (h : d.Turn c true x) : (d.core c).ve.q ≠ [] := fun e => by
  have hx : nextPlace (d.core c).ve.q = some x := h.1
  simp [e, nextPlace] at hx

theorem Dev.ring_advance {d : Dev} {c : Nat} (s : Nat) (h : (d.core c).ve.q ≠ []) : (d.advance c).ring c s = d.ring c s := by
  have hcore : (d.advance c).core c = _ := Dev.core_modCore_of_veQ h
  rw [Dev.ring, Dev.se, hcore]
  rfl

/-! ### The slots of ring sources are released (spec/06 R196, spec/08 R263) -/

@[simp] theorem Dev.num_releaseSrc (d : Dev) (c src : Nat) (keep : Bool) (a n : Nat) : (d.releaseSrc c src keep).num a n = d.num a n := by
  unfold Dev.releaseSrc
  split <;> rfl

@[simp] theorem Dev.num_releaseTens (d : Dev) (c : Nat) (ts : List Tens) (a n : Nat) : (d.releaseTens c ts).num a n = d.num a n := by
  simp only [Dev.releaseTens, List.foldl_cons, List.foldl_nil]
  split_ifs <;> simp

/-- The release of a slot leaves the matrix and the vector engine alone. -/
theorem Dev.engines_releaseSrc {d : Dev} {c : Nat} (src : Nat) (keep : Bool) (h : (d.core c).ve.q ≠ []) :
    ((d.releaseSrc c src keep).core c).me = (d.core c).me ∧ ((d.releaseSrc c src keep).core c).ve = (d.core c).ve := by
  unfold Dev.releaseSrc
  split
  case isTrue => exact ⟨rfl, rfl⟩
  case isFalse =>
    have hset (k : Core) (s : Nat) (e : SeEng) : (k.setSe s e).me = k.me ∧ (k.setSe s e).ve = k.ve := by
      unfold Core.setSe; split <;> exact ⟨rfl, rfl⟩
    rw [Dev.modRing, Dev.modSe, Dev.core_modCore_of_veQ (by rwa [(hset _ _ _).2])]
    exact hset _ _ _

theorem Dev.engines_releaseTens {d : Dev} {c : Nat} (ts : List Tens) (h : (d.core c).ve.q ≠ []) :
    ((d.releaseTens c ts).core c).me = (d.core c).me ∧ ((d.releaseTens c ts).core c).ve = (d.core c).ve := by
  refine List.foldlRecOn (motive := fun e : Dev => (e.core c).me = (d.core c).me ∧ (e.core c).ve = (d.core c).ve) _ _ ⟨rfl, rfl⟩
    fun e he s _ => ?_
  dsimp only
  split
  case isTrue => exact he
  case isFalse =>
    obtain ⟨hme, hve⟩ := Dev.engines_releaseSrc (s + 1) ((ts.filter fun t => t.kind == 2 && t.ringNo == s).all Tens.keep)
      (he.2.symm ▸ h : (e.core c).ve.q ≠ [])
    exact ⟨hme.trans he.1, hve.trans he.2⟩

theorem Dev.accBusy_releaseTens {d : Dev} {c : Nat} (ts : List Tens) (a : Nat) (h : (d.core c).ve.q ≠ []) :
    (d.releaseTens c ts).accBusy c a = d.accBusy c a := by
  rw [Dev.accBusy, (Dev.engines_releaseTens ts h).1, Dev.accBusy]

theorem Dev.selected_releaseTens (d : Dev) (c : Nat) (ts : List Tens) (x : QEnt) (rows len : Nat) :
    (d.releaseTens c ts).selected c x rows len = d.selected c x rows len := by
  simp only [Dev.selected, Dev.bitmapBit, Dev.num_releaseTens]

/-! ### Source tensors that are there (spec/08 R262, R263, R279) -/

section
variable {d : Dev} {now c : Nat}

/-- An operand tile in the format that its descriptor names, without repeats, is a source. -/
theorem tileSrc_ok {t : Tens} {bs : List Byte} (hdt : (TileHdr.parse bs).dtype = t.dtype) (hm : multiEntry bs = false) (p : Bool)
    (area : List (Nat × Nat)) : ∃ y, tileSrc t bs p area = .ok y :=
  ⟨_, if_neg (by simp [hdt, hm])⟩

theorem Dev.source_there {t : Tens} (h : d.SourceThere c t) : ∃ y, d.source now c t .none = (d, .ok y) := by
  obtain ⟨hbad, hmis, hpast, hkind⟩ := h
  unfold Dev.source
  simp only [hbad, hmis, hpast, Bool.false_eq_true, if_false]
  obtain h0 | ⟨h3, hbusy, hcls, hdt⟩ | ⟨bs, h12, hthere, hdt, hm⟩ := hkind
  case inl => exact ⟨_, if_pos h0⟩
  case inr.inl =>
    have hcls' : ¬((t.dt == .fp32) != (d.acc c t.acc).fp || t.dt != .fp32 && t.dt != .int32) = true := by
      simp only [hcls, bne_self_eq_false, Bool.false_or, Bool.and_eq_true, bne_iff_ne]
      tauto
    simp only [h3, hbusy, hcls']
    exact ⟨_, rfl⟩
  case inr.inr =>
    obtain h1 | h2 := h12
    case inl =>
      rw [if_pos h1] at hthere
      obtain ⟨y, hy⟩ := tileSrc_ok hdt hm (d.tileHurt c 0 t.base bs) [(clmAt c t.base, bs.length)]
      simp [h1, Dev.clmTile_there hthere, Dev.slotErr, hy]
    case inr =>
      rw [if_neg (by omega)] at hthere
      have htile := Dev.ringTile_there (now := now) (Nat.succ_ne_zero t.ringNo) hthere
      rw [Nat.succ_sub_one] at htile
      obtain ⟨y, hy⟩ := tileSrc_ok hdt hm (d.tileHurt c (t.ringNo + 1) t.base bs)
        [((d.ring c t.ringNo).at c (d.ring c t.ringNo).head, bs.length)]
      simp [h2, htile, Dev.slotErr, hy]

/-- The operands fetched so far are all there: nothing of the core has changed, and each descriptor has its source. -/
structure VIn.Good (d : Dev) (v : VIn) : Prop where
  same : v.d = d
  bad : v.bad = []
  wait : v.wait = false
  fault : v.fault = none
  all : v.srcs.length = v.ts.length

theorem VIn.fetch_good {v : VIn} {t : Tens} (hv : v.Good d) (ht : d.SourceThere c t) :
    (v.fetch now c .none t).Good d ∧ (v.fetch now c .none t).ts = v.ts ++ [t] := by
  obtain ⟨y, hy⟩ := Dev.source_there (now := now) ht
  obtain ⟨rfl, hbad, hwait, hfault, hall⟩ := hv
  unfold VIn.fetch
  simp only [hy]
  exact ⟨⟨rfl, hbad, hwait, hfault, by simp [hall]⟩, trivial⟩

theorem VIn.foldl_fetch_good (ts : List Tens) {v : VIn} (hv : v.Good d) (ht : ∀ t ∈ ts, d.SourceThere c t) :
    (ts.foldl (VIn.fetch now c .none) v).Good d ∧ (ts.foldl (VIn.fetch now c .none) v).ts = v.ts ++ ts := by
  induction ts generalizing v with
  | nil => exact ⟨hv, (List.append_nil _).symm⟩
  | cons t ts ih =>
    obtain ⟨hgood, hts⟩ := VIn.fetch_good (now := now) hv (ht t List.mem_cons_self)
    obtain ⟨hall, hall'⟩ := ih hgood fun u hu => ht u (List.mem_cons_of_mem t hu)
    exact ⟨hall, by rw [List.foldl_cons, hall', hts, List.append_assoc, List.singleton_append]⟩

theorem Dev.fetchAll_good {offs : List Nat} (h : ∀ o ∈ offs, d.SourceThere c (d.tens c o)) :
    (d.fetchAll now c .none offs).Good d ∧ (d.fetchAll now c .none offs).srcs.length = offs.length := by
  obtain ⟨hgood, hts⟩ := VIn.foldl_fetch_good (now := now) (offs.map (d.tens c)) (v := { d := d }) ⟨rfl, rfl, rfl, rfl, rfl⟩
    (List.forall_mem_map.2 h)
  exact ⟨hgood, hgood.all.trans ((congrArg List.length hts).trans (List.length_map ..))⟩

/-- An instruction whose operands are there and that no condition refuses goes on. -/
theorem vWith_good {v : VIn} {pre : List (Bool × Nat)} {chk : List VSrc → List (Bool × Nat)} {k : Dev → List VSrc → EngOut}
    (hv : v.Good d) (hok : refusal (pre ++ chk v.srcs) = sOk) : vWith d c v pre chk k = k (d.releaseTens c v.ts) v.srcs := by
  obtain ⟨hd, hbad, hwait, hfault, hall⟩ := hv
  simp [vWith, hd, hbad, hwait, hfault, hall, hok]

end

/-! ### Results are written (spec/08 R263, R264, spec/09 R286, R287) -/

theorem Tens.kind_le {t : Tens} {b : Bool} (h : t.bad b = false) : t.kind ≤ 3 :=
  Nat.not_lt.1 fun hk => by simp [Tens.bad, hk] at h

/-- What a vector instruction's checks say of its destination. -/
theorem Dev.dst_kind_le {d : Dev} {c : Nat} {x : QEnt} {offs : List Nat} {typed : Bool} {chk : List (Bool × Nat)}
    (h : refusal (d.vPre c x offs typed true ++ chk) = sOk) : (d.tens c x.dst).kind ≤ 3 := by
  refine Tens.kind_le (b := true) (unmet_of_refusal (st := eArg) h ?_ (by decide))
  simp [Dev.vPre]

/-- A result is written into a plain tensor, an accumulator or a tile of CLM, or into the free slot of a ring that holds it. -/
theorem Dev.dstWrite_ok {d : Dev} {c : Nat} {t : Tens} {rows len : Nat} (hk : t.kind ≤ 3)
    (hring : t.kind = 2 → (d.ring c t.ringNo).room = true ∧ denseSize t.dt rows len ≤ (d.ring c t.ringNo).slot64 * 64)
    (f : Nat → Nat → Option Nat) (span : Nat → Nat) (poison pred : Bool) :
    ∃ e area, d.dstWrite c t rows len f span poison pred = .ok e area := by
  unfold Dev.dstWrite
  split
  case isTrue => exact ⟨_, _, rfl⟩
  case isFalse hflat =>
    extract_lets o r
    split
    case isTrue => exact ⟨_, _, rfl⟩
    case isFalse h1 =>
      obtain ⟨hroom, hsize⟩ := hring (by omega)
      have hfits : r.fits o.2 = true := decide_eq_true ((Dev.outTile_length_le ..).trans hsize)
      have hroom' : r.room = true := hroom
      simp [hfits, hroom']

theorem vFinish_starts {d0 : Dev} {c : Nat} {x : QEnt} {out : VOut} {same : Bool} {srcs : List VSrc} {ps : List Bool} {ls : List LaneR}
    {occ : Nat} (h : ∃ e area, out = .ok e area) : (vFinish d0 c x out same srcs ps ls occ).Starts := by
  obtain ⟨e, area, rfl⟩ := h
  exact ⟨_, _, _, rfl⟩

/-! ### The vector engine's starts (spec/08 R261 to R277) -/

section
variable {d : Dev} {now c : Nat} {x : QEnt}

/-- A ring that has a slot free for the result has it in any state that leaves the ring alone. -/
theorem Dev.ring_room_of_destFree {t : Tens} {rows len : Nat} (h : d.DestFree c t rows len) (e : Dev)
    (he : e.ring c t.ringNo = d.ring c t.ringNo) (hk : t.kind = 2) :
    (e.ring c t.ringNo).room = true ∧ denseSize t.dt rows len ≤ (e.ring c t.ringNo).slot64 * 64 := he ▸ h.2 hk

/-- An accumulator that is free for the result where the sources have been released was free before. -/
theorem Dev.acc_free_of_destFree {t : Tens} {rows len : Nat} {e : Dev} (h : e.DestFree c t rows len)
    (he : e.accBusy c t.acc = d.accBusy c t.acc) : ¬(t.kind = 3 ∧ d.accBusy c t.acc = true) :=
  fun ⟨h3, hb⟩ => Bool.false_ne_true ((h.1 h3).symm.trans (he.trans hb))

/-- An elementwise operation whose operands have been read starts where its destination is free. -/
theorem vElemRun_starts {e : Dev} {k : VClass} {y : VSrc} {rest : List VSrc} (hq : (e.core c).ve.q ≠ [])
    (hbusy : e.accBusy c (d.tens c x.dst).acc = d.accBusy c (d.tens c x.dst).acc) (hk : (d.tens c x.dst).kind ≤ 3)
    (hfree : e.DestFree c (d.tens c x.dst) y.rows y.len) : (vElemRun d e c x k (y :: rest)).Starts := by
  unfold vElemRun
  simp only [Dev.acc_free_of_destFree hfree hbusy, if_false]
  refine vFinish_starts (Dev.dstWrite_ok hk ?_ ..)
  split
  case isTrue => exact Dev.ring_room_of_destFree hfree _ (Dev.ring_advance _ hq)
  case isFalse => exact Dev.ring_room_of_destFree hfree _ rfl

theorem vElem_starts {k : VClass} {y : VSrc} (hq : (d.core c).ve.q ≠ []) (hbad : vBad x = false) (hk : vclass x.opc = some k)
    (hsrc : ∀ o ∈ vOffs x k, d.SourceThere c (d.tens c o)) {v : VIn} (hv : v = d.fetchAll now c .none (vOffs x k))
    (hy : v.srcs.head? = some y) (hok : refusal (d.vPre c x (vOffs x k) (k != .cvt) true ++ vElemChk d c x k v.srcs) = sOk)
    (hfree : (d.releaseTens c v.ts).DestFree c (d.tens c x.dst) y.rows y.len) :
    vElem now c .none d x = vElemRun d (d.releaseTens c v.ts) c x k v.srcs ∧ (vElemRun d (d.releaseTens c v.ts) c x k v.srcs).Starts := by
  subst hv
  constructor
  · simp only [vElem, hk, hbad, Bool.false_eq_true, if_false]
    exact vWith_good (Dev.fetchAll_good hsrc).1 hok
  · obtain ⟨rest, hrest⟩ := List.head?_eq_some_iff.1 hy
    rw [hrest]
    refine vElemRun_starts ?_ (Dev.accBusy_releaseTens _ _ hq) (Dev.dst_kind_le hok) hfree
    rwa [(Dev.engines_releaseTens _ hq).2]

/-- A compare starts once its operands are there. -/
theorem vCompare_starts (hbad : vBad x = false) (hsrc : ∀ o ∈ vOffs x .cmp, d.SourceThere c (d.tens c o))
    (hok : refusal (d.vPre c x (vOffs x .cmp) true false ++ vCmpChk x (d.fetchAll now c .none (vOffs x .cmp)).srcs) = sOk) :
    (vCompare now c .none d x).Starts := by
  obtain ⟨hgood, hlen⟩ := Dev.fetchAll_good (now := now) hsrc
  unfold vCompare
  rw [if_neg (by simp [hbad]), vWith_good hgood hok]
  cases hs : (d.fetchAll now c .none (vOffs x .cmp)).srcs with
  | nil =>
    rw [hs] at hlen
    simp [vOffs] at hlen
  | cons y rest => exact vFinish_starts ⟨_, _, rfl⟩

/-- The sources of an instruction of one operand are one. -/
theorem Dev.fetchAll_one {o : Nat} (h : d.SourceThere c (d.tens c o)) :
    (d.fetchAll now c .none [o]).Good d ∧ ∃ y, (d.fetchAll now c .none [o]).srcs = [y] := by
  obtain ⟨hgood, hlen⟩ := Dev.fetchAll_good (now := now) (offs := [o]) (by simpa using h)
  exact ⟨hgood, List.length_eq_one_iff.1 hlen⟩

theorem vRed_starts (hbad : vBad x = false) (hsrc : d.SourceThere c (d.tens c x.aOff)) (hplain : (d.tens c x.dst).kind = 0)
    (hsoft : x.opc = 0x32 → (d.tens c x.dst).dt = .fp32)
    (hok : refusal (d.vPre c x [x.aOff] true true ++ vRedChk d c x (d.fetchAll now c .none [x.aOff]).srcs) = sOk) :
    (vRed now c .none d x).Starts := by
  obtain ⟨hgood, y, hy⟩ := Dev.fetchAll_one (now := now) hsrc
  have hfmt : ((d.tens c x.dst).kind != 0 || (x.opc == 0x32 && (d.tens c x.dst).dt != .fp32)) = false := by
    simpa [hplain] using hsoft
  unfold vRed
  rw [if_neg (by simp [hbad]), hfmt, vWith_good (pre := (false, eArg) :: d.vPre c x [x.aOff] true true) hgood hok, hy]
  exact vFinish_starts (Dev.dstWrite_ok (hplain.trans_le (Nat.zero_le 3)) (fun h2 => absurd (hplain.symm.trans h2) (by decide)) ..)

theorem vTop_starts (hbad : vBad x = false) (hsrc : d.SourceThere c (d.tens c x.aOff))
    (hok : refusal (d.vPre c x [x.aOff] true false ++ vTopChk x (d.fetchAll now c .none [x.aOff]).srcs) = sOk) :
    (vTop now c .none d x).Starts := by
  obtain ⟨hgood, y, hy⟩ := Dev.fetchAll_one (now := now) hsrc
  unfold vTop
  rw [if_neg (by simp [hbad]), vWith_good hgood hok, hy]
  exact vFinish_starts ⟨_, _, rfl⟩

/-- COMPRESS starts where the elements that its bitmap selects have room in its destination, and their count in CLM (R273). -/
theorem vCompress_starts {y : VSrc} {n : Nat} {v : VIn} (hq : (d.core c).ve.q ≠ []) (hbad : vBad x = false)
    (hsrc : d.SourceThere c (d.tens c x.aOff)) (hv : v = d.fetchAll now c .none [x.aOff]) (hy : v.srcs.head? = some y)
    (halign : x.imm % 4 = 0) (himm : x.imm + 4 ≤ clmSize)
    (hok : refusal (d.vPre c x [] false true ++ vCompChk d c x v.srcs) = sOk) (hn : n = (d.selected c x y.rows y.len).length)
    (hroom : n ≤ (d.compShape c x y n).2.2)
    (hfree : (d.releaseTens c v.ts).DestFree c (d.tens c x.dst) (d.compShape c x y n).1 (d.compShape c x y n).2.1) :
    (vCompress now c .none d x).Starts := by
  subst hv hn
  obtain ⟨hgood, z, hz⟩ := Dev.fetchAll_one (now := now) hsrc
  obtain rfl : z = y := by simpa [hz] using hy
  have hpre : refusal ((d.vPre c x [] false true ++ [(x.imm % 4 != 0, eAlign), (decide (clmSize < x.imm + 4), eRange)]) ++
      vCompChk d c x (d.fetchAll now c .none [x.aOff]).srcs) = sOk := by
    refine (refusal_congr ?_).trans hok
    simp [halign, Nat.not_lt.2 himm]
  have hacc := Dev.acc_free_of_destFree hfree (Dev.accBusy_releaseTens _ _ hq)
  unfold vCompress
  rw [if_neg (by simp [hbad]), vWith_good hgood hpre, hz]
  simp only [Dev.selected_releaseTens, hacc, if_false, Nat.not_lt.2 hroom]
  split
  case h_1 => exact vFinish_starts ⟨_, _, rfl⟩
  case h_2 =>
    refine vFinish_starts ?_
    split
    case isTrue => exact ⟨_, _, rfl⟩
    case isFalse => exact Dev.dstWrite_ok (Dev.dst_kind_le hok) (Dev.ring_room_of_destFree hfree _ rfl) ..

/-- EXPAND starts where its source has an element for each place that its bitmap selects, and its destination is free (R274). -/
theorem vExpand_starts {y : VSrc} {v : VIn} (hq : (d.core c).ve.q ≠ []) (hbad : vBad x = false)
    (hsrc : d.SourceThere c (d.tens c x.aOff)) (hv : v = d.fetchAll now c .none [x.aOff]) (hy : v.srcs.head? = some y)
    (hok : refusal (d.vPre c x [] false true ++ vExpChk d c x v.srcs) = sOk)
    (hhave : x.imm + (d.selected c x (d.expShape c x y).1 (d.expShape c x y).2).length ≤
      (if x.gran = true then y.rows else y.rows * y.len))
    (hfree : (d.releaseTens c v.ts).DestFree c (d.tens c x.dst) (d.expShape c x y).1 (d.expShape c x y).2) :
    (vExpand now c .none d x).Starts := by
  subst hv
  obtain ⟨hgood, z, hz⟩ := Dev.fetchAll_one (now := now) hsrc
  obtain rfl : z = y := by simpa [hz] using hy
  have hacc := Dev.acc_free_of_destFree hfree (Dev.accBusy_releaseTens _ _ hq)
  unfold vExpand
  rw [if_neg (by simp [hbad]), vWith_good hgood hok, hz]
  simp only [Dev.selected_releaseTens, hacc, if_false, Nat.not_lt.2 hhave]
  exact vFinish_starts (Dev.dstWrite_ok (Dev.dst_kind_le hok) (Dev.ring_room_of_destFree hfree _ rfl) ..)

/-- The address of VE_MLD and VE_MST is eight aligned bytes of CLM. -/
theorem mask_unrefused (hbad : vBad x = false) (halign : x.imm % 8 = 0) (himm : x.imm + 8 ≤ clmSize) :
    refusal [(vBad x, eArg), (x.imm % 8 != 0, eAlign), (decide (clmSize < x.imm + 8), eRange)] = sOk :=
  refusal_unmet (by simp [hbad, halign, Nat.not_lt.2 himm])

theorem vMst_done (hbad : vBad x = false) (halign : x.imm % 8 = 0) (himm : x.imm + 8 ≤ clmSize) :
    vMst now c .none d x =
      .done (d.store (clmAt c x.imm) (leBytes 8 (SMap.get 0 (d.core c).ve.vm x.mreg))) [(clmAt c x.imm, 8)] 4 := by
  unfold vMst
  simp only [mask_unrefused hbad halign himm, ne_eq, not_true_eq_false, if_false]

theorem vMld_done (hbad : vBad x = false) (halign : x.imm % 8 = 0) (himm : x.imm + 8 ≤ clmSize) :
    vMld now c .none d x = .done ((d.setVm c x.mreg (d.num (clmAt c x.imm) 8)).consumed c x.job [d.poisoned (clmAt c x.imm) 8]) [] 4 := by
  unfold vMld
  simp only [mask_unrefused hbad halign himm, ne_eq, not_true_eq_false, if_false]

theorem vMpfx_done (hbad : vBad x = false) : vMpfx now c .none d x = .done (d.setVm c x.mreg (2 ^ x.imm - 1)) [] 4 :=
  if_neg (by simp [hbad])

end

/-! ### An instruction retires (spec/06 R192, R194, spec/08 R259, R281, spec/12 R380) -/

section
variable {s : State} {c : Nat} {x : QEnt}

theorem exec_meRetire {i : Nat} (hx : (s.dev.queue c .me)[i]? = some x) (hs : x.started = true) :
    exec (.meRetire c i) s = .next (s.withDev
      (((((((s.dev.setQueue c .me ((s.dev.queue c .me).take i ++ (s.dev.queue c .me).drop (i + 1))).landAcm.bump .CORE_ME_INSN
        [c]).chainRetired c .me x).complete s.now x 0).feedChains c).reap (cluOfCore c)).seAfter s.now c)) := by
  show execMeRetire c i s = _
  simp only [State.dev] at hx
  simp only [execMeRetire, State.run_next, Mach.onDev, Dev.retireAt, hx, hs, if_true, dropAt]
  rfl

/-- The mask register that lands leaves the vector queue as it is. -/
theorem Dev.queue_landVm {d : Dev} (h : d.queue c .ve ≠ []) : (d.landVm c).queue c .ve = d.queue c .ve := by
  unfold Dev.landVm
  split
  case h_1 => rw [Dev.queue, Dev.core_modCore_of_veQ h]; rfl
  case h_2 => rfl

theorem exec_veRetire {r : List QEnt} (hq : s.dev.queue c .ve = x :: r) (hs : x.started = true) :
    exec (.veRetire c) s = .next (s.withDev
      ((((((((s.dev.landVm c).setQueue c .ve r).landAcm.bump .CORE_VE_INSN [c]).chainRetired c .ve x).complete s.now x 0).feedChains
        c).reap (cluOfCore c)).seAfter s.now c)) := by
  have hland : (s.mach.dev.landVm c).queue c .ve = x :: r := (Dev.queue_landVm (hq ▸ List.cons_ne_nil x r)).trans hq
  show execVeRetire c s = _
  simp only [State.dev] at hq
  simp only [execVeRetire, State.run_next, Mach.onDev, hq, List.findIdx_cons, hs, cond_true, List.length_cons, Nat.zero_lt_succ, if_true,
    Dev.retireAt, hland, List.getElem?_cons_zero, dropAt, List.take_zero, List.nil_append, List.drop_succ_cons, List.drop_zero]
  rfl

end

/-! ### Each instruction starts -/

section
variable {s : State} {c : Nat} {x : QEnt} {cmd : Nat → Det → Instr} {start : Nat → Nat → Det → Dev → QEnt → EngOut} {o : EngOut}

theorem exec_me_starts {lq : Nat} {mine : QEnt → Bool} (hrow : meRow cmd mine start ∈ meRows lq) (ht : s.dev.Turn c false x)
    (hm : mine x = true) (ho : start s.now c .none s.dev x = o) (hs : o.Starts) :
    exec (cmd c .none) s = .next (s.withDev (o.begun s.dev s.now c false)) :=
  exec_insn_starts (row := meRow cmd mine start) (List.mem_append_left veRows hrow) ht hm ho hs

theorem exec_ve_starts {opc : Nat} (hrow : veRow cmd opc start ∈ veRows) (ht : s.dev.Turn c true x) (hm : x.opc = opc)
    (ho : start s.now c .none s.dev x = o) (hs : o.Starts) :
    exec (cmd c .none) s = .next (s.withDev (o.begun s.dev s.now c true)) :=
  exec_insn_starts (lq := 0) (row := veRow cmd opc start) (List.mem_append_right _ hrow) ht (beq_iff_eq.2 hm) ho hs

end

theorem elemRow_mem {p : (Nat → Det → Instr) × Nat} (h : p ∈ elemRows) : veRow p.1 p.2 vElem ∈ veRows :=
  List.mem_append_left _ (List.mem_map_of_mem (f := fun p => veRow p.1 p.2 vElem) h)

theorem compareRow_mem {p : (Nat → Det → Instr) × Nat}
    (h : p ∈ [(Instr.veCmpeq, 0x20), (Instr.veCmpne, 0x21), (Instr.veCmplt, 0x22), (Instr.veCmple, 0x23)]) :
    veRow p.1 p.2 vCompare ∈ veRows := by
  simp only [List.mem_cons, List.not_mem_nil, or_false] at h
  obtain rfl | rfl | rfl | rfl := h <;> simp [veRows]

theorem reductionRow_mem {p : (Nat → Det → Instr) × Nat}
    (h : p ∈ [(Instr.veRsum, 0x30), (Instr.veRmax, 0x31), (Instr.veSmxs, 0x32)]) : veRow p.1 p.2 vRed ∈ veRows := by
  simp only [List.mem_cons, List.not_mem_nil, or_false] at h
  obtain rfl | rfl | rfl := h <;> simp [veRows]

/-- Settles O40: each instruction by what makes it start, every instruction by what its start comes to, and the two retirements. -/
theorem engineInstructionsStartAndRetire : Obligations.EngineInstructionsStartAndRetire := by
  refine ⟨?matrix, ?vector, ?rows, fun s c x => ⟨fun i => exec_meRetire, fun r => exec_veRetire⟩⟩
  case matrix =>
    intro s c x d a ht
    refine ⟨?mma, ?predict, ?observe, ?mout, ?mload⟩
    case mma =>
      intro lq xs ws hopc hbad hbusy hX hW hxt hwt htake hadd
      exact exec_me_starts (lq := lq) (cmd := fun c det => .mma c det lq) (.head _) ht (beq_iff_eq.2 hopc)
        (mmaStart_eq_mmaRun hbad hbusy hX hW hxt hwt htake hadd) (mmaRun_starts ..)
    case predict =>
      intro v1 v2 hopc hmode hbad two hbusy hbusy2 h1 h2 ht1 ht2
      exact exec_me_starts (lq := 0) (cmd := .mpredPredict) (.tail _ (.head _)) ht (by simp [hopc, hmode])
        (predictStart_eq_predict hbad hbusy hbusy2 h1 h2 ht1 ht2) (predict_starts ..)
    case observe =>
      intro bs hopc hmode hbad h
      exact exec_me_starts (lq := 0) (cmd := .mpredObserve) (.tail _ (.tail _ (.head _))) ht (by simp [hopc, hmode]) rfl
        (observeStart_starts hbad h)
    case mout =>
      intro hopc hbad hbusy size r hclm hring hbias hstats
      exact exec_me_starts (lq := 0) (cmd := .mout) (.tail _ (.tail _ (.tail _ (.head _)))) ht (beq_iff_eq.2 hopc) rfl
        (moutStart_starts hbad hbusy rfl rfl hclm hring hbias hstats)
    case mload =>
      intro bs hopc hbad hbusy h htake hdr p w e
      exact exec_me_starts (lq := 0) (cmd := .mload) (.tail _ (.tail _ (.tail _ (.tail _ (.head _))))) ht (beq_iff_eq.2 hopc)
        (mloadStart_done hbad hbusy h htake rfl rfl rfl) ⟨_, _, _, rfl⟩
  case vector =>
    intro s c x d st e t ht hbad
    have hq := Dev.ve_q_of_turn ht
    refine ⟨?elem, ?compare, ?reduce, ?topk, fun y hy hsrc => ⟨?compress, ?expand⟩, ?mst⟩
    case elem =>
      intro p hp k y hopc hk hsrc hy hok hfree
      obtain ⟨hrun, hs⟩ := vElem_starts hq hbad hk hsrc rfl hy hok hfree
      exact exec_ve_starts (elemRow_mem hp) ht hopc hrun hs
    case compare =>
      intro p hp hopc hsrc hok
      exact exec_ve_starts (compareRow_mem hp) ht hopc rfl (vCompare_starts hbad hsrc hok)
    case reduce =>
      intro p hp hopc hsrc hplain hsoft hok
      exact exec_ve_starts (reductionRow_mem hp) ht hopc rfl (vRed_starts hbad hsrc hplain hsoft hok)
    case topk =>
      intro hopc hsrc hok
      exact exec_ve_starts (by simp [veRows]) ht hopc rfl (vTop_starts hbad hsrc hok)
    case compress =>
      intro hopc halign himm hok n hroom hfree
      exact exec_ve_starts (by simp [veRows]) ht hopc rfl (vCompress_starts hq hbad hsrc rfl hy halign himm hok rfl hroom hfree)
    case expand =>
      intro hopc hok hhave hfree
      exact exec_ve_starts (by simp [veRows]) ht hopc rfl (vExpand_starts hq hbad hsrc rfl hy hok hhave hfree)
    case mst =>
      intro hopc halign himm w
      exact exec_ve_starts (by simp [veRows]) ht hopc (vMst_done hbad halign himm) ⟨_, _, _, rfl⟩
  case rows =>
    intro s c lq x row hrow d e n hx hm hv hc
    exact ⟨fun d' area occ => exec_insn_done hrow hm hx hv hc, fun st => exec_insn_refuse hrow hm hx hv hc,
      fun d' st => exec_insn_stop hrow hm hx hv hc⟩

/-! ### What a started instruction leaves of its core (spec/06 R216, spec/08 R259, R281) -/

section
variable {d e : Dev} {c : Nat}

theorem Dev.core_modCore {f : Core → Core} (h : SMap.wf {} d.cores = true) : (d.modCore c f).core c = f (d.core c) :=
  SMap.get_put_same _ d.cores c _ h

/-- The cores are in the canonical form, and one of them holds a state of its LFSR and a mask register that is to land. -/
structure Dev.Holds (d : Dev) (c lfsr : Nat) (vmNew : Option (Nat × Nat)) : Prop where
  wf : SMap.wf {} d.cores = true
  lfsr : (d.core c).me.lfsr = lfsr
  vmNew : (d.core c).ve.vmNew = vmNew

/-- The LFSR and the mask register to land, which the bookkeeping of queues, chains and stalls leaves alone. -/
def Core.SameUnits (k k' : Core) : Prop := k'.me.lfsr = k.me.lfsr ∧ k'.ve.vmNew = k.ve.vmNew

theorem Core.sameUnits_setSe (k : Core) (s : Nat) (e : SeEng) : k.SameUnits (k.setSe s e) := by
  unfold Core.setSe
  split <;> exact ⟨rfl, rfl⟩

theorem Core.sameUnits_setQueue (k : Core) (e : Eng) (q : List QEnt) : k.SameUnits (k.setQueue e q) := by
  cases e
  case se s => exact Core.sameUnits_setSe ..
  all_goals exact ⟨rfl, rfl⟩

variable {l : Nat} {v : Option (Nat × Nat)}

theorem Dev.Holds.of_cores (h : d.Holds c l v) (he : e.cores = d.cores) : e.Holds c l v := by
  obtain ⟨hwf, hl, hv⟩ := h
  exact ⟨he ▸ hwf, by rw [Dev.core, he]; exact hl, by rw [Dev.core, he]; exact hv⟩

theorem Dev.Holds.modCore {f : Core → Core} (h : d.Holds c l v) (hf : ∀ k : Core, k.SameUnits (f k)) : (d.modCore c f).Holds c l v := by
  obtain ⟨hwf, hl, hv⟩ := h
  have hcore : (d.modCore c f).core c = f (d.core c) := Dev.core_modCore hwf
  exact ⟨SMap.wf_put _ _ _ _ hwf, by rw [hcore, (hf _).1, hl], by rw [hcore, (hf _).2, hv]⟩

theorem Dev.Holds.setQueue (h : d.Holds c l v) (e : Eng) (q : List QEnt) : (d.setQueue c e q).Holds c l v :=
  h.modCore fun k => k.sameUnits_setQueue e q

theorem Dev.Holds.modChain (h : d.Holds c l v) (id : Nat) (f : ChainSt → ChainSt) : (d.modChain c id f).Holds c l v :=
  h.modCore fun k => k.sameUnits_setSe ..

/-- A chain queues one instruction of a block, or waits for a place. -/
theorem Dev.Holds.queueChained (h : d.Holds c l v) (e : Eng) (x : QEnt) (id : Nat) (f : ChainSt → ChainSt) :
    (if d.hasPlace c e then (d.place c e x).modChain c id f else d).Holds c l v := by
  split
  · exact (h.setQueue _ _).modChain _ _
  · exact h

theorem Dev.Holds.feedOne (h : d.Holds c l v) : (d.feedOne c).Holds c l v := by
  unfold Dev.feedOne
  extract_lets hs d'
  have hd : d'.Holds c l v := by
    unfold d'
    split
    · exact h.queueChained ..
    · exact h
  split
  · exact hd.queueChained ..
  · exact hd

theorem Dev.Holds.feed (h : d.Holds c l v) (n : Nat) : (d.feed c n).Holds c l v := by
  induction n generalizing d with
  | zero => exact h
  | succ n ih => exact ih h.feedOne

theorem Dev.Holds.feedChains (h : d.Holds c l v) : (d.feedChains c).Holds c l v := h.feed 32

theorem Dev.Holds.stallEnd (h : d.Holds c l v) (now e : Nat) : (d.stallEnd now c e).Holds c l v := by
  unfold Dev.stallEnd
  split
  case h_1 => exact Dev.Holds.modCore (by split <;> exact h.of_cores rfl) fun k => ⟨rfl, rfl⟩
  case h_2 => exact h

/-- What starts an instruction beyond its own effect leaves its core's LFSR, and the mask register to land, as that effect has them. -/
theorem EngOut.holds_begun (h : e.Holds c l v) (area : List (Nat × Nat)) (occ now : Nat) (ve : Bool) :
    ((EngOut.done e area occ).begun d now c ve).Holds c l v := by
  unfold EngOut.begun
  refine Dev.Holds.stallEnd (Dev.Holds.feedChains ?_) _ _
  exact (h.setQueue _ _).of_cores rfl

theorem Dev.cores_consumed (d : Dev) (c j : Nat) (ps : List Bool) : (d.consumed c j ps).cores = d.cores :=
  List.foldlRecOn (motive := fun e : Dev => e.cores = d.cores) _ _ rfl fun _ he _ _ => he

theorem Dev.holds_setVm (h : SMap.wf {} d.cores = true) (i w : Nat) : (d.setVm c i w).Holds c (d.core c).me.lfsr (some (i, w)) := by
  have hcore : (d.setVm c i w).core c = _ := Dev.core_modCore h
  exact ⟨SMap.wf_put _ _ _ _ h, by rw [hcore], by rw [hcore]⟩

/-- The mask register takes the value that was to land. -/
theorem Dev.vm_landVm {i w : Nat} (h : SMap.wf {} d.cores = true) (hvm : SMap.wf 0 (d.core c).ve.vm = true)
    (hnew : (d.core c).ve.vmNew = some (i, w)) : SMap.get 0 ((d.landVm c).core c).ve.vm i = w := by
  simp only [Dev.landVm, hnew, Dev.core_modCore h]
  exact SMap.get_put_same 0 _ i w hvm

end

/-! ### MSEED, VE_MPFX and VE_MLD (spec/06 R216, spec/08 R261) -/

section
variable {s : State} {c : Nat} {x : QEnt} (hwf : SMap.wf {} s.dev.cores = true)
include hwf

theorem exec_mseed_lfsr (ht : s.dev.Turn c false x) (hopc : x.opc = 5) (h0 : x.f0 8 23 = 0) (h1 : x.w1 = 0) :
    ∃ t, exec (.mseed c .none) s = .next t ∧ (t.dev.core c).me.lfsr = if x.f0 32 32 = 0 then 1 else x.f0 32 32 := by
  have hseed : mseedStart s.now c .none s.dev x =
      .done (s.dev.modCore c fun k => { k with me := { k.me with lfsr := max 1 (x.f0 32 32) } }) [] 0 := if_neg (by simp [h0, h1])
  refine ⟨_, exec_me_starts (lq := 0) (cmd := .mseed) (.tail _ (.tail _ (.tail _ (.tail _ (.tail _ (.head _)))))) ht (beq_iff_eq.2 hopc)
    hseed ⟨_, _, _, rfl⟩, ?_⟩
  have hholds : (s.dev.modCore c fun k => { k with me := { k.me with lfsr := max 1 (x.f0 32 32) } }).Holds c (max 1 (x.f0 32 32)) _ :=
    ⟨SMap.wf_put _ _ _ _ hwf, by rw [Dev.core_modCore hwf], rfl⟩
  rw [State.withDev_dev, (EngOut.holds_begun hholds ..).lfsr]
  split <;> omega

end

/-- A vector instruction that starts and whose effect leaves a mask register to land. -/
theorem exec_ve_vmNew {s : State} {c : Nat} {x : QEnt} {cmd : Nat → Det → Instr} {opc occ l : Nat}
    {start : Nat → Nat → Det → Dev → QEnt → EngOut} {e : Dev} {v : Option (Nat × Nat)} (hrow : veRow cmd opc start ∈ veRows)
    (ht : s.dev.Turn c true x) (hopc : x.opc = opc) (hstart : start s.now c .none s.dev x = .done e [] occ) (he : e.Holds c l v) :
    ∃ t, exec (cmd c .none) s = .next t ∧ (t.dev.core c).ve.vmNew = v := by
  refine ⟨_, exec_ve_starts hrow ht hopc hstart ⟨_, _, _, rfl⟩, ?_⟩
  rw [State.withDev_dev, (EngOut.holds_begun he ..).vmNew]

/-- Settles O41: MSEED and the two mask instructions start, and what they left of their core stands; the retirement lands it. -/
theorem seedAndMaskInstructions : Obligations.SeedAndMaskInstructions := by
  intro s c x d hwf hvm
  refine ⟨exec_mseed_lfsr hwf, fun ht hbad => ⟨?mpfx, ?mld⟩, fun r i v hq hs hnew => ?retire⟩
  case mpfx =>
    intro hopc
    exact exec_ve_vmNew (start := vMpfx) (by simp [veRows]) ht hopc (vMpfx_done hbad) (Dev.holds_setVm hwf ..)
  case mld =>
    intro hopc halign himm
    exact exec_ve_vmNew (start := vMld) (by simp [veRows]) ht hopc (vMld_done hbad halign himm)
      ((Dev.holds_setVm hwf ..).of_cores (Dev.cores_consumed ..))
  case retire => exact ⟨_, exec_veRetire hq hs, Dev.vm_landVm hwf hvm hnew, State.withDev_dev ..⟩

end Sys2Proof.Machine

/-! ## Proofs: the family of spec/09_streams.md -/

namespace Sys2Proof.Machine

/-- A command on the volatile part alone, by what the rest of the module says. -/
theorem State.run_onDev (s : State) (f : Mach → Dev → Dev) :
    (s.run fun m => m.onDev (f m)) = .next (s.withDev (f s.mach s.dev)) := rfl

/-! ### The command at the front of a stream engine's queue (spec/09 R282 to R288, R300 to R304) -/

section
variable {s : State} {c k : Nat} {x : QEnt} {rest : List QEnt} (hq : s.dev.queue c (.se k) = x :: rest)
  (hcl : (s.dev.se c k).closing = false)
include hq hcl

theorem Dev.seHead_front {p : Nat → Bool} (hp : p x.cmd = true) : s.dev.seHead c k p = some x := by
  simp only [Dev.seHead, hq, hp, hcl, Bool.not_false, Bool.and_self, if_true]

/-- What an ARM meets (R284, R288): its record's status, then the ring's state. -/
theorem exec_arm_front (hcmd : x.cmd = 1) (hbad : x.bad = 0) : exec (.arm c k) s = .next (s.withDev (
    if s.dev.armBad c x.rcd ≠ sOk then (s.dev.seRefuse s.now c k x (s.dev.armBad c x.rcd)).seAfter s.now c
    else if (s.dev.ring c k).mode ≠ 0 then (s.dev.seRefuse s.now c k x eState).seAfter s.now c
    else ((s.dev.modRing c k fun _ => s.dev.armRing c x.job 0 x.rcd).seOk s.now c k x).seAfter s.now c)) := by
  have hhead := Dev.seHead_front hq hcl (p := fun n => n != 2 && n != 3 && (n != 4 || k != 0)) (by simp [hcmd])
  show execArm c k s = _
  simp only [execArm, State.run_onDev, hhead, hcmd, hbad, ne_eq, not_true_eq_false, if_false]
  by_cases hrec : s.dev.armBad c x.rcd = sOk
  case neg => simp only [hrec, not_false_eq_true, if_true]; rfl
  by_cases hmode : (s.dev.ring c k).mode = 0
  case neg => simp only [hrec, hmode, not_true_eq_false, not_false_eq_true, if_true, if_false]; rfl
  simp only [hrec, hmode, not_true_eq_false, if_false]; rfl

/-- What a REARM whose record is right meets (R300). -/
theorem exec_rearm_front (hcmd : x.cmd = 2) (hbad : x.bad = 0) (hidx : recNum x.rcd 32 1 < 16) (h33 : recNum x.rcd 33 31 = 0)
    (h7 : recNum x.rcd 7 1 = 0) (h15 : recNum x.rcd 15 1 = 0) (h23 : recNum x.rcd 23 1 = 0) (h31 : recNum x.rcd 31 1 = 0) :
    exec (.rearm c k) s = .next (s.withDev (
      if (s.dev.ring c k).mode ≠ 1 ∧ (s.dev.ring c k).mode ≠ 3 then s.dev.seRefuse s.now c k x eState
      else if 2 ≤ (s.dev.ring c k).rearms.length then s.dev
      else
        let a := (s.dev.modRing c k fun r => { r with rearms := r.rearms ++ [x.rcd] }).seOk s.now c k x
        if (s.dev.ring c k).ended = true then a.rearmNow c k else a)) := by
  have hhead := Dev.seHead_front hq hcl (p := (· == 2)) (by simp [hcmd])
  show execRearm c k s = _
  simp only [execRearm, State.run_onDev, hhead, hbad, Nat.not_le.2 hidx, h33, h7, h15, h23, h31, ne_eq, not_true_eq_false, or_self,
    if_false]
  by_cases hmode : (s.dev.ring c k).mode ≠ 1 ∧ (s.dev.ring c k).mode ≠ 3
  case pos => simp only [hmode, not_false_eq_true, and_self, if_true]; rfl
  case neg => simp only [ne_eq] at hmode; simp only [hmode, not_true_eq_false, if_false]; rfl

theorem exec_disarm_front (hcmd : x.cmd = 3) :
    exec (.disarm c k) s = .next (s.withDev (((((s.dev.disarm s.now c k).modSe c k fun e => { e with closing := true }).modChain c
      (s.dev.ring c k).chain (·.setOff k)).geAll s.now c).seAfter s.now c)) := by
  have hhead := Dev.seHead_front hq hcl (p := (· == 3)) (by simp [hcmd])
  show execDisarm c k s = _
  simp only [execDisarm, State.run_onDev, hhead]
  rfl

end

/-- What a CHAIN meets: it waits behind two others, and else runs or is refused with its status (R303, R304). -/
theorem exec_chain_front {s : State} {c : Nat} {x : QEnt} {rest : List QEnt} (hq : s.dev.queue c (.se 0) = x :: rest)
    (hcl : (s.dev.se c 0).closing = false) (hcmd : x.cmd = 4) :
    exec (.chain c) s = .next (s.withDev (
      if 2 ≤ (s.dev.se c 0).chains.length then s.dev
      else if s.dev.chainStatus c x ≠ sOk then s.dev.seRefuse s.now c 0 x (s.dev.chainStatus c x)
      else ((s.dev.setQueue c (.se 0) rest).modSe c 0 fun e =>
        { e with chains := e.chains ++ [{ id := e.nextChain, rcd := x.rcd, ent := x }], nextChain := e.nextChain + 1 }).seAfter
          s.now c)) := by
  have hhead := Dev.seHead_front hq hcl (p := (· == 4)) (by simp [hcmd])
  have hdrop : dropAt 0 (x :: rest) = rest := rfl
  show execChain c s = _
  simp only [execChain, State.run_onDev, hhead, hq, hdrop]
  rfl

/-- Settles O42: each command by what it meets at the front of its queue, case by case of the conditions there. -/
theorem streamCommandsAct : Obligations.StreamCommandsAct := by
  intro s c k x rest d r f hq hcl
  refine ⟨?arm, ?armHeld, ?armBad, ?rearm, fun hcmd => exec_disarm_front hq hcl hcmd, ?chain⟩
  case arm =>
    intro hcmd hbad hrec hmode
    rw [exec_arm_front hq hcl hcmd hbad, if_neg (not_not.2 hrec), if_neg (not_not.2 hmode)]
  case armHeld =>
    intro hcmd hbad hrec hmode
    rw [exec_arm_front hq hcl hcmd hbad, if_neg (not_not.2 hrec), if_pos hmode]
  case armBad =>
    intro hcmd hbad hrec
    rw [exec_arm_front hq hcl hcmd hbad, if_pos hrec]
  case rearm =>
    intro hcmd hbad hidx h33 h7 h15 h23 h31
    rw [exec_rearm_front hq hcl hcmd hbad hidx h33 h7 h15 h23 h31]
    refine ⟨fun h1 h3 => by rw [if_pos ⟨h1, h3⟩], fun hmode => ?_⟩
    rw [if_neg fun ⟨h1, h3⟩ => hmode.elim h1 h3]
    refine ⟨fun hlen => ?waits, fun hlen => ?starts⟩
    case waits => rw [if_pos hlen]; rfl
    case starts => rw [if_neg (Nat.not_le.2 hlen)]
  case chain =>
    rintro rfl hcmd
    rw [exec_chain_front hq hcl hcmd]
    refine ⟨fun hlen => ?waits, fun hlen => ⟨fun hst => ?refused, fun hst => ?runs⟩⟩
    case waits => rw [if_pos hlen]; rfl
    case refused => rw [if_neg (Nat.not_le.2 hlen), if_pos hst]
    case runs => rw [if_neg (Nat.not_le.2 hlen), if_neg (not_not.2 hst)]

/-! ### The program of a ring: loops, transfers and slots (spec/09 R289 to R292, R296, R297) -/

section
variable {s : State} {c k : Nat} {w : Word}

theorem exec_streamLoop_now (h : s.dev.armNow c k 1 = some w) :
    exec (.streamLoop c k) s = .next (s.withDev (s.dev.modRing c k fun r =>
      { r with loops := ⟨armF w 4 3, r.pc, 0, armF w 8 24, sext 32 (armF w 32 32)⟩ :: r.loops, pc := r.pc + 1 })) := by
  show execStreamLoop c k s = _
  simp only [execStreamLoop, State.run_onDev, h]

/-- A ring's program at a NEXT: round again while the count of its LOOP is not spent, else on (R291). -/
def Ring.goRound (r : Ring) : Ring :=
  match r.loops with
  | [] => { r with pc := r.pc + 1 }
  | l :: rest =>
    if l.i + 1 < l.count then { r with loops := { l with i := l.i + 1 } :: rest, pc := l.pc + 1 }
    else { r with loops := rest, pc := r.pc + 1 }

theorem exec_streamNext_now (h : s.dev.armNow c k 2 = some w) :
    exec (.streamNext c k) s = .next (s.withDev (s.dev.modRing c k Ring.goRound)) := by
  show execStreamNext c k s = _
  simp only [execStreamNext, State.run_onDev, h]
  rfl

/-- A LOAD with a free slot and room for a transfer begins, a remote one where its route sends (R287, R292, R299). -/
theorem exec_streamLoad_begins {a : Nat} (h : s.dev.armNow c k 3 = some w)
    (ha : (s.dev.ring c k).addr (armF w 4 2) (armOff w) = a) (halign : a % 32 = 0)
    (hslot : (s.dev.ring c k).mayLoad = true) (hroom : s.dev.mayFetch c k = true)
    (hroute : ∀ y, s.dev.remoteOf a = some y → s.dev.routeCheck y = .send) :
    let i := (s.dev.ring c k).tail
    let e := (s.dev.stallEnd s.now c (2 + k)).modSe c k fun e =>
      { e with xfers := e.xfers.map fun x => if !x.store && x.slot == i then { x with slot := 16 } else x }
    exec (.streamLoad c k) s = .next (s.withDev
      (((e.modRing c k fun r => r.setSlot i { st := 1, kind := 0, src := [a, armF w 6 1] }).startLoad s.now c k i a).armNext c k)) := by
  show execStreamLoad c k s = _
  simp only [execStreamLoad, State.run_onDev, h, ha, halign, hslot, hroom, ne_eq, not_true_eq_false, Bool.not_true, Bool.false_eq_true,
    if_false]
  cases hr : s.dev.remoteOf a with
  | none => rfl
  | some y => simp only [hroute y hr]; rfl

theorem exec_streamLoad_misaligned (h : s.dev.armNow c k 3 = some w)
    (halign : (s.dev.ring c k).addr (armF w 4 2) (armOff w) % 32 ≠ 0) :
    exec (.streamLoad c k) s = .next (s.withDev (s.dev.refuseJob s.now (s.dev.ring c k).job eAlign)) := by
  show execStreamLoad c k s = _
  simp only [execStreamLoad, State.run_onDev, h, halign, ne_eq, not_false_eq_true, if_true]
  rfl

end

section
variable {d : Dev} {c k : Nat}

/-- A good head slot, with no detected error, is left as it is (R296, R306). -/
theorem Dev.headSlot_good (hgood : tileGood (d.tileBytes ((d.ring c k).at c (d.ring c k).head)) = true)
    (hfits : (d.ring c k).fits (d.tileBytes ((d.ring c k).at c (d.ring c k).head)) = true) :
    d.headSlot c k .none = (d, true) := by
  simp only [Dev.headSlot, hgood, hfits]
  rfl

/-- A head tile that is not poisoned and is not put through Chisel goes out as it lies (R296). -/
theorem Dev.headTile_clean {bs : List Byte}
    (hbs : (d.tileBytes ((d.ring c k).at c (d.ring c k).head)).take ((d.ring c k).slot64 * 64) = bs)
    (hslot : d.poisoned ((d.ring c k).at c (d.ring c k).head) ((d.ring c k).slot64 * 64) = false)
    (htile : d.tilePoisoned ((d.ring c k).at c (d.ring c k).head) bs = false) : d.headTile c k false = (d, bs, false) := by
  simp only [Dev.headTile, hbs, hslot, htile, Bool.false_and, Bool.or_self, Bool.false_eq_true, if_false]

/-- A STORE whose tile goes out, to a place that is there (R296). -/
theorem Dev.storeStep_begins {now a : Nat} {bs : List Byte} (hslot : d.headSlot c k .none = (d, true))
    (htile : d.headTile c k false = (d, bs, false)) (hhere : d.remoteOf a = none → d.rangeOk (dlaOf a) bs.length = true)
    (hroute : ∀ y, d.remoteOf a = some y → d.routeCheck y = .send) :
    d.storeStep now c k a false .none = (d.startStore now c k a bs false).armNext c k := by
  simp only [Dev.storeStep, hslot, htile, Bool.false_and, Bool.false_eq_true, if_false]
  cases hr : d.remoteOf a with
  | none => simp [hhere hr]
  | some y => simp [hroute y hr]

end

section
variable {s : State} {c k : Nat} {w : Word}

/-- A STORE with its head slot there and room for a transfer takes its step (R296). -/
theorem exec_streamStore_steps {a : Nat} {det : Det} (h : s.dev.armNow c k 6 = some w)
    (ha : (s.dev.ring c k).addr (armF w 4 2) (armOff w) = a) (halign : a % 32 = 0)
    (hhead : (s.dev.ring c k).headReady = true) (hroom : (s.dev.se c k).room = true) :
    exec (.streamStore c k det) s =
      .next (s.withDev ((s.dev.stallEnd s.now c (2 + k)).storeStep s.now c k a (bitAt w.toNat 6) det)) := by
  show execStreamStore c k det s = _
  simp only [execStreamStore, State.run_onDev, h, ha, halign, hhead, hroom, ne_eq, not_true_eq_false, Bool.not_true, Bool.or_self,
    Bool.false_eq_true, if_false]
  rfl

/-- ADV publishes a filled tail slot of a FETCH ring, and counts its tile (R297, R311). -/
theorem exec_streamAdv_publishes {x : Slot} (h : s.dev.armNow c k 7 = some w) (hmode : (s.dev.ring c k).mode = 1)
    (hx : (s.dev.ring c k).slot (s.dev.ring c k).tail = x) (hst : x.st = 2) (hadv : x.adv = false) :
    exec (.streamAdv c k) s = .next (s.withDev (((s.dev.bump .CORE_SE_TILES [c]).modRing c k fun r =>
      { r.setSlot r.tail { x with adv := true } with tail := r.nextSlot r.tail }).armNext c k)) := by
  show execStreamAdv c k s = _
  simp only [execStreamAdv, State.run_onDev, h, hmode, hx, hst, hadv, if_true, OfNat.ofNat_ne_zero, Bool.false_eq_true, or_self, if_false]

/-- ADV frees the head slot of a ring of another mode once none of its STOREs is outstanding (R297). -/
theorem exec_streamAdv_releases (h : s.dev.armNow c k 7 = some w) (hmode : (s.dev.ring c k).mode ≠ 1)
    (hhead : (s.dev.ring c k).headReady = true)
    (hdone : (s.dev.se c k).xfers.any (fun x => x.store && x.slot == (s.dev.ring c k).head) = false) :
    exec (.streamAdv c k) s =
      .next (s.withDev ((((s.dev.stallEnd s.now c (2 + k)).modRing c k Ring.release).armNext c k).coreAfter s.now c)) := by
  show execStreamAdv c k s = _
  simp only [execStreamAdv, State.run_onDev, h, hmode, hhead, hdone, Bool.not_true, Bool.or_self, Bool.false_eq_true, if_false]
  rfl

/-! ### Lookups for the gather engine (spec/09 R293, R295) -/

theorem exec_streamGath_hands {a t n : Nat} (h : s.dev.armNow c k 4 = some w)
    (ha : (s.dev.ring c k).addr (armF w 4 2) (armOff w) = a) (ht : armF w 8 12 = t) (hn : armF w 20 7 = n) (halign : a % 8 = 0)
    (hlist : s.dev.listOk a (n * (if armF w 6 1 = 1 then 4 else 6)) = true) (htd : tdValid (s.dev.tdesc t) = true)
    (hheld : s.dev.heldTable t = false) :
    exec (.streamGath c k) s = .next (s.withDev (((s.dev.addCmd c
      (gathCmd s.dev { job := (s.dev.ring c k).job } k a (armF w 6 1) t n)).armNext c k).coreAfter s.now c)) := by
  show execStreamGath c k s = _
  simp only [execStreamGath, State.run_onDev, h, ha, ht, hn, halign, hlist, htd, hheld, ne_eq, not_true_eq_false, Bool.not_true,
    Bool.false_eq_true, if_false]
  rfl

/-- The neurons that a GBMP's bitmap of `words` words selects (R295). -/
def Dev.bitmapNeurons (d : Dev) (c bm words : Nat) : List Nat :=
  (List.range words).flatMap fun t => (bitList 64 (d.num (clmAt c (bm + 8 * t)) 8)).map (64 * t + ·)

theorem exec_streamGbmp_hands {a kt : Nat} (h : s.dev.armNow c k 5 = some w)
    (ha : (s.dev.ring c k).addr (armF w 4 2) 0 = a) (hkt : (s.dev.ring c k).index (armF w 8 3) = kt) (halign : a % 256 = 0)
    (hcol : 64 * kt < armF w 24 16) (hclm : armF w 40 19 * 8 + 8 * armF w 12 12 ≤ clmSize) (hhere : s.dev.remoteOf a = none)
    (hclean : s.dev.poisoned (clmAt c (armF w 40 19 * 8)) (8 * armF w 12 12) = false) :
    let ns := s.dev.bitmapNeurons c (armF w 40 19 * 8) (armF w 12 12)
    exec (.streamGbmp c k) s = .next (s.withDev (((if ns.isEmpty = true then s.dev else s.dev.addCmd c
      (gbmpCmd { job := (s.dev.ring c k).job } k a (if armF w 6 2 = 0 then 1 else 2 + armF w 6 2) (min 64 (armF w 24 16 - 64 * kt))
        ns)).armNext c k).coreAfter s.now c)) := by
  show execStreamGbmp c k s = _
  simp only [execStreamGbmp, State.run_onDev, h, ha, hkt, halign, Nat.not_le.2 hcol, Nat.not_lt.2 hclm, hhere, hclean,
    Option.isSome_none, ne_eq, not_true_eq_false, Bool.false_eq_true, or_self, if_false]
  rfl

/-! ### Sync objects and the end of a program (spec/09 R298, R300) -/

/-- A WAIT's monitor has been met, and the program goes on (R298, R403). -/
def Dev.waitOver (d : Dev) (now c k : Nat) : Dev :=
  ((d.modSe c k fun e => { e with waiting := false, waitDone := false, waitTick := none }).armNext c k).stallEnd now c (2 + k)

/-- A WAIT that has been reached for the first time, its monitor armed (R298). -/
def Dev.waitArmed (d : Dev) (now c k : Nat) (w : Word) : Dev :=
  ((d.modSe c k fun e => { e with waiting := true, waitDone := false, waitTick := some (d.watchTick now e.ring.job) }).syncWait now
    ⟨armF w 4 17, bitAt w.toNat 21, BitVec.ofNat 64 (armF w 32 32), .stream c k, now⟩).stallOn now c (2 + k) 6

/-- What a change of a stream engine leaves rests on what it makes of that engine alone. -/
theorem Dev.modSe_congr {d : Dev} {c k : Nat} {f g : SeEng → SeEng} (h : f (d.se c k) = g (d.se c k)) :
    d.modSe c k f = d.modSe c k g := by
  have h' : f ((d.core c).se k) = g ((d.core c).se k) := h
  simp only [Dev.modSe, Dev.modCore, h']

theorem Dev.waitArmed_eq (d : Dev) (now c k : Nat) (w : Word) : d.waitArmed now c k w =
  ((d.modSe c k fun e => { e with waiting := true, waitDone := false, waitTick := some (d.watchTick now (d.ring c k).job) }).syncWait now
    ⟨armF w 4 17, bitAt w.toNat 21, BitVec.ofNat 64 (armF w 32 32), .stream c k, now⟩).stallOn now c (2 + k) 6 := by
  unfold Dev.waitArmed
  rw [Dev.modSe_congr]
  rfl

theorem exec_streamWait_arms (h : s.dev.armNow c k 8 = some w) (hidle : (s.dev.se c k).waiting = false)
    (hobj : s.dev.syncBroken (armF w 4 17) = false) :
    let g := s.dev.waitArmed s.now c k w
    exec (.streamWait c k) s = .next (s.withDev (if (g.se c k).waitDone = true then g.waitOver s.now c k else g)) := by
  show execStreamWait c k s = _
  simp only [execStreamWait, State.run_onDev, h, hidle, hobj, Bool.false_eq_true, if_false]
  rfl

theorem exec_streamWait_waits (h : s.dev.armNow c k 8 = some w) (hwait : (s.dev.se c k).waiting = true) :
    exec (.streamWait c k) s = .next (s.withDev (if (s.dev.se c k).waitDone = true then s.dev.waitOver s.now c k else s.dev)) := by
  show execStreamWait c k s = _
  simp only [execStreamWait, State.run_onDev, h, hwait, if_true]
  rfl

/-- When a SIGNAL's condition on the slots of its ring is met: a DRAIN ring, or each slot free or filled and published (R298). -/
theorem Ring.fillsDone_iff {r : Ring} :
    (r.mode == 3 || !(List.range r.nslots).any fun i => (r.slot i).st != 0 && ((r.slot i).st == 1 || !(r.slot i).adv)) = true ↔
      r.mode = 3 ∨ ∀ i, i < r.nslots → (r.slot i).st = 0 ∨ ((r.slot i).st ≠ 1 ∧ (r.slot i).adv = true) := by
  simp only [Bool.or_eq_true, beq_iff_eq, Bool.not_eq_true', List.any_eq_false, List.mem_range, Bool.and_eq_true, bne_iff_ne, ne_eq,
    not_and_or, not_not, not_or, Bool.not_eq_false]

/-- SIGNAL adds to its object once no transfer is outstanding and, in a FETCH ring, each slot begun is filled and published (R298). -/
theorem exec_streamSignal_adds (h : s.dev.armNow c k 9 = some w) (hx : (s.dev.se c k).xfers = [])
    (hdone : (s.dev.ring c k).mode = 3 ∨ ∀ i, i < (s.dev.ring c k).nslots →
      ((s.dev.ring c k).slot i).st = 0 ∨ (((s.dev.ring c k).slot i).st ≠ 1 ∧ ((s.dev.ring c k).slot i).adv = true))
    (hobj : s.dev.syncBroken (armF w 4 17) = false) :
    exec (.streamSignal c k) s = .next (s.withDev (((s.dev.stallEnd s.now c (2 + k)).armNext c k).syncAdd s.now (armF w 4 17)
      (BitVec.ofInt 64 (sext 32 (armF w 32 32))))) := by
  have hready := (Ring.fillsDone_iff (r := (s.dev.se c k).ring)).2 hdone
  show execStreamSignal c k s = _
  simp only [execStreamSignal, State.run_onDev, h, hx, hready, hobj, List.isEmpty_nil, Bool.and_self, Bool.false_eq_true, if_true, if_false]
  rfl

theorem exec_streamEnd_now (h : s.dev.armNow c k 0 = some w) :
    exec (.streamEnd c k) s = .next (s.withDev ((s.dev.rearmNow c k).seAfter s.now c)) := by
  show execStreamEnd c k s = _
  simp only [execStreamEnd, State.run_onDev, h]
  rfl

end

/-! ### A transfer completes (spec/09 R296, R299) -/

/-- With no error detected, the read of a LOAD outside the cores' windows finds nothing. -/
theorem Mach.loadDetect_none {m : Mach} {a : Nat} (c k : Nat) (h : ∀ j off, m.dev.target a ≠ .core j off) :
    m.loadDetect c k a .none = (m, false) := by
  unfold Mach.loadDetect
  split
  case h_1 j off hcore => exact absurd hcore (h j off)
  case h_2 => rfl

/-- The engine goes on where it stalled on the transfer's place. -/
def Dev.placeFree (d : Dev) (now c k : Nat) : Dev := if d.stalled c (2 + k) 2 = true then d.stallEnd now c (2 + k) else d

/-- A local transfer of a ring that nothing holds back completes with no error detected (R296, R299). -/
theorem exec_streamTransferComplete_clean {s : State} {c k id : Nat} {x : Xfer} (hx : s.dev.xfer? c k id = some x)
    (hhere : s.dev.remoteOf x.addr = none) (hph : x.ph = 0 ∨ x.ph = 2) (hheld : s.dev.heldRange x.span.1 x.span.2 = false)
    (hwait : s.dev.xferWait c k x = 0) (hbusy : s.dev.spanBusy x.span.1 x.span.2 = false)
    (hload : x.store = false → ∀ j off, (s.dev.placeFree s.now c k).target x.span.1 ≠ .core j off) :
    let e := s.dev.placeFree s.now c k
    exec (.streamTransferComplete c k (32 * id)) s = .next (s.withDev (
      (if x.store = true then e.storeDone c k x else if (s.dev.ring c k).mode = 0 ∨ x.slot = 16 then e.dropXfer c k id
        else e.loadArrives s.now c k x).seAfter s.now c)) := by
  have hid : 32 * id / 32 = id := Nat.mul_div_cancel_left id (by decide)
  have hcode : Det.ofCode (32 * id % 32) = .none := by rw [Nat.mul_mod_right]; rfl
  have hphase : (x.ph != 0 && x.ph != 2) = false := by rcases hph with h | h <;> simp [h]
  have hfree : (s.mach.onDev fun d => if d.stalled c (seNum k) 2 = true then d.stallEnd s.mach.und.now c (seNum k) else d) =
      (s.withDev (s.dev.placeFree s.now c k)).mach := rfl
  have hdev : s.mach.dev = s.dev := rfl
  show execStreamTransferComplete c k (32 * id) s = _
  simp only [execStreamTransferComplete, State.run_next, hdev, hid, hx, hhere, hphase, hheld, hwait, hbusy, hcode, hfree,
    Option.isSome_none, or_self, bne_self_eq_false, Bool.false_eq_true, if_false, Bool.or_eq_true, decide_eq_true_eq]
  by_cases hstore : x.store = true
  case pos => simp only [hstore, if_true]; rfl
  have hdet := Mach.loadDetect_none (m := (s.withDev (s.dev.placeFree s.now c k)).mach) c k (hload (Bool.eq_false_of_not_eq_true hstore))
  simp only [hstore, hdet, Bool.false_eq_true, if_false]
  by_cases hgone : (s.dev.ring c k).mode = 0 ∨ x.slot = 16
  case pos => rw [if_pos hgone, if_pos hgone]; rfl
  case neg => rw [if_neg hgone, if_neg hgone]; rfl

/-- A producer that waited goes on: its stall ends where its ring has room (R287). -/
theorem exec_ringProducerResume (s : State) (c k : Nat) : exec (.ringProducerResume c k) s = .next (s.withDev
    ((if (s.dev.ring c k).room = true then s.dev.stallEnd s.now c (2 + k) else s.dev).coreAfter s.now c)) := rfl

/-- Settles O43: each step by what its instruction does where its conditions hold, and the two commands that serve a ring's transfers
and its producers. -/
theorem armatureStepsAct : Obligations.ArmatureStepsAct := by
  intro s c k w d r a
  refine ⟨exec_streamLoop_now, exec_streamNext_now, ?load, exec_streamLoad_misaligned, ?gath, ?gbmp, ?store, ?publish, ?release, ?arms,
    ?waits, exec_streamSignal_adds, exec_streamEnd_now, ?transfer, exec_ringProducerResume s c k⟩
  case load =>
    intro h halign hslot hroom hroute
    exact exec_streamLoad_begins h rfl halign hslot hroom hroute
  case gath =>
    intro h t n halign hlist htd hheld
    exact exec_streamGath_hands h rfl rfl rfl halign hlist htd hheld
  case gbmp =>
    intro h b kt bm ns halign hcol hclm hhere hclean
    exact exec_streamGbmp_hands h rfl rfl halign hcol hclm hhere hclean
  case store =>
    intro h halign hhead hroom hchisel e q bs hgood hfits hslot htile hhere hroute
    rw [exec_streamStore_steps h rfl halign hhead hroom, hchisel,
      Dev.storeStep_begins (Dev.headSlot_good hgood hfits) (Dev.headTile_clean rfl hslot htile) hhere hroute]
  case publish =>
    intro h hmode hst hadv
    exact exec_streamAdv_publishes h hmode rfl hst hadv
  case release =>
    intro h hmode hhead hdone
    exact exec_streamAdv_releases h (by simp [show (s.dev.ring c k).mode = 3 from hmode]) hhead hdone
  case arms =>
    intro h hidle hobj
    rw [exec_streamWait_arms h hidle hobj, Dev.waitArmed_eq]
    rfl
  case waits =>
    intro h hwait
    rw [exec_streamWait_waits h hwait]
    exact ⟨fun hdone => by rw [if_neg (Bool.eq_false_iff.1 hdone)]; rfl, fun hdone => by rw [if_pos hdone]; rfl⟩
  case transfer =>
    intro id x b hx hhere hph hheld hwait hbusy e hload
    exact exec_streamTransferComplete_clean hx hhere hph hheld hwait hbusy hload

end Sys2Proof.Machine

/-! ## Proofs: the family of spec/11_parameter_update.md -/

namespace Sys2Proof.Machine

/-! ### The merge queue takes its head descriptor (spec/11 R342 to R344, R346) -/

section
variable {d : Dev} {now c op : Nat} {entry : Dev → QEnt → Nat → Dev} {x : QEnt} {rest : List QEnt}
  (hq : (d.core c).mq.q = x :: rest) (hs : x.started = false)
include hq hs

/-- A descriptor that a check refuses completes with its status and leaves the queue (R344). -/
theorem Dev.gmStart_refused (hop : x.g 0 1 = op) (hst : d.gmStatus c x ≠ sOk) : d.gmStart now c op entry =
    ((d.modCore c fun k => { k with mq := { k.mq with q := rest } }).complete now x
      (BitVec.ofNat 64 (d.gmStatus c x * 2 ^ 56))).reap (cluOfCore c) := by
  simp only [Dev.gmStart, hq, hs, hop, bne_self_eq_false, bne_iff_ne.2 hst, Bool.and_false, Bool.false_and, Bool.or_self,
    Bool.false_eq_true, if_false, if_true]

/-- A good descriptor starts with no outcome yet, takes on the mark of its list, and sends its entries (R77, R345, R346). -/
theorem Dev.gmStart_good (hop : x.g 0 1 = op) (hf : d.findings = []) (hst : d.gmStatus c x = sOk) :
    let a := d.modCore c fun k => { k with mq := { q := { x with started := true } :: rest, next := 0, outs := [] } }
    d.gmStart now c op entry =
      ((a.gmPoison c x (a.poisoned (x.g 16 8) (x.g 4 4 * x.gIdx))).gmPump c entry (x.g 4 4)).gmEnd now c := by
  intro a
  have hlist : a.meetAll (x.g 16 8) (x.g 4 4 * x.gIdx) = (a, false) := Dev.meetAll_clean _ _ hf
  simp only [Dev.gmStart, hq, hs, hop, hst, bne_self_eq_false, Bool.and_false, Bool.false_and, Bool.or_self, Bool.false_eq_true, if_false]
  rw [hlist]
  rfl

end

/-! ### The entries of a descriptor (spec/11 R345, R346) -/

/-- The pad index merges nothing. -/
theorem Dev.gmRow_pad {now c i : Nat} {d : Dev} {x : QEnt}
    (hpad : d.num (x.g 16 8 + i * x.gIdx) x.gIdx = 2 ^ (8 * x.gIdx) - 1) : Dev.gmRow now c d x i = d.gmOut c i sOk := by
  simp only [Dev.gmRow, hpad, if_true]

theorem Dev.gmTile_range {now c i : Nat} {d : Dev} {x : QEnt} (hf : d.findings = [])
    (hnt : ldNt (d.layerOf (x.g 2 2 % 4096)) ≤ d.num (x.g 16 8 + 2 * i) 2) : Dev.gmTile now c d x i = d.gmOut c i eRange := by
  simp only [Dev.gmTile, Dev.gmTileNo, Dev.meetAll_clean _ _ hf, hnt, if_true]

/-- The next entry of a live descriptor goes, and those after it unless it waits for a header. -/
theorem Dev.gmPump_entry {d : Dev} {c : Nat} {y : QEnt} {ys : List QEnt} (entry : Dev → QEnt → Nat → Dev) (i : Nat)
    (hq : (d.core c).mq.q = y :: ys) (hhdr : (d.core c).mq.hdr = false) (hdead : y.dead = false) (hs : y.started = true)
    (hnext : (d.core c).mq.next < y.g 4 4) :
    let g := entry d y (d.core c).mq.next
    d.gmPump c entry (i + 1) =
      if (g.core c).mq.hdr = true then g
      else (g.modCore c fun k => { k with mq := { k.mq with next := k.mq.next + 1 } }).gmPump c entry i := by
  have hmore : ¬ y.g 4 4 ≤ (d.core c).mq.next := Nat.not_le.2 hnext
  rw [Dev.gmPump]
  simp only [hq, hhdr, hdead, hs, hmore, Bool.not_true, decide_false, Bool.or_self, Bool.false_eq_true, if_false]

/-- Settles O44: the start of the head by its status, for either operation, then one entry of each and the step from an entry to the
next. -/
theorem mergeDescriptorsStart : Obligations.MergeDescriptorsStart := by
  intro s c x rest d hq hs hbad hf n a b out
  have start {op : Nat} {entry : Dev → QEnt → Nat → Dev} (hop : x.g 0 1 = op) : d.gmStart s.now c op entry = out entry := by
    by_cases hst : d.gmStatus c x = sOk
    case pos => exact (Dev.gmStart_good hq hs hop hf hst).trans (if_neg (not_not.2 hst)).symm
    case neg => exact (Dev.gmStart_refused hq hs hop hst).trans (if_pos hst).symm
  exact ⟨fun hop => exec_next_congr rfl (start hop), fun hop => exec_next_congr rfl (start hop), fun e i => Dev.gmRow_pad,
    fun e i => Dev.gmTile_range, fun e y ys => Dev.gmPump_entry⟩

/-! ### A part starts, and a layer's part writes its new copy (spec/11 R361, R366, R367) -/

section
variable {s : State} {id : Nat} {p : Part} (hp : s.dev.part? id = some p)
include hp

theorem exec_updatePartStart_part :
    exec (.updatePartStart id) s = .next (s.withDev ((s.dev.startPart s.now p).settle s.now)) := by
  show execUpdatePartStart id s = _
  simp only [State.dev] at hp
  simp only [execUpdatePartStart, State.run_next, hp]
  rfl

section
variable (hlayer : p.layer = true) (hstarted : p.started = true) (hreaders : p.readers = true)
include hlayer hstarted hreaders

/-- CANCEL and SUSPEND take effect before the first write (R367). -/
theorem exec_layerReadersZero_stopped {st : Nat} (hstop : s.dev.partStop p = some st) :
    exec (.layerReadersZero id) s = .next (s.withDev (s.dev.partEnd s.now p st)) := by
  show execLayerReadersZero id s = _
  simp only [State.dev] at hp hstop
  simp only [execLayerReadersZero, State.run_next, hp, hlayer, hstarted, hreaders, hstop, Bool.and_self, if_true]
  rfl

theorem exec_layerReadersZero_writes (hstop : s.dev.partStop p = none) (hwait : s.dev.spansWait p.mem (s.dev.layerSpans p) = false) :
    exec (.layerReadersZero id) s = .next (s.withDev (s.dev.updLayer s.now p)) := by
  show execLayerReadersZero id s = _
  simp only [State.dev] at hp hstop hwait
  simp only [execLayerReadersZero, State.run_next, hp, hlayer, hstarted, hreaders, hstop, hwait, Bool.and_self, Bool.false_eq_true,
    if_false, if_true]
  rfl

end

end

/-! ### UPDPART asks for parts of this module (spec/11 R364, R365, spec/15 R521) -/

/-- The outcomes of a request of another module: one for each of its `n` shards. -/
def Dev.outsOf (d : Dev) (key n : Nat) (u : UOut) : Dev :=
  d.onTabs fun x => { x with uouts := x.uouts.put [] key (List.replicate n u) }

section
variable {s : State} {src tag : Nat} {body : List Byte}

/-- A request whose layout, kind or count of shards is wrong is answered and counted. -/
theorem exec_updpart_bad (h : body.length ≠ 40 ∨ recNum body 0 1 ≠ 0 ∨ recNum body 24 4 = 0 ∨ 65536 < recNum body 24 4) :
    exec (.updpart src tag body) s =
      .next (s.withDev ((s.dev.took (some src) 0x1B tag body).badMsg s.now src 0x1C tag true)) :=
  exec_next_congr rfl (if_pos (by simpa [or_assoc] using h))

variable {p : Part} {t n : Nat} {g : Dev} (ht : t = recNum body 2 2 % 4096) (hn : n = recNum body 24 4)
  (hp : p = partOf (.inr (src, tag)) body 0 (recNum body 17 1 % 8) (recNum body 18 2))
  (hg : g = (s.dev.took (some src) 0x1B tag body).outsOf p.outKey n {})
  (hlen : body.length = 40) (hkind : recNum body 0 1 = 0) (h0 : 0 < n) (hmax : n ≤ 65536)
include ht hn hp hg hlen hkind h0 hmax

/-- A good request has E_STATE for each of its shards where no sharded table with a binding stands, and else adds its parts. -/
theorem exec_updpart_good : exec (.updpart src tag body) s = .next (s.withDev (
    if (tdValid (g.tdesc t) && tdSharded (g.tdesc t) && bdValid (g.bindOf t)) = false then
      (g.outsOf p.outKey n { sts := [eState], parts := 1 }).remoteEnd s.now src tag
    else (g.addParts p (recNum body 20 4) n).remoteEnd s.now src tag)) := by
  subst ht hn hp hg
  have hgood : ¬ (body.length != 40 || recNum body 0 1 != 0 || recNum body 24 4 == 0 || decide (65536 < recNum body 24 4)) = true := by
    simp [hlen, hkind, Nat.pos_iff_ne_zero.1 h0, hmax]
  refine exec_next_congr rfl ((if_neg hgood).trans ?_)
  simp only [← Bool.not_and, Bool.not_eq_true']
  rfl

end

/-! ### UPDOUT brings a holder's outcomes (spec/11 R365, R368, spec/15 R521) -/

/-- Of what request `o` asked for, `n` outcomes have come: it waits on under its tag, or ends with the last of them (R365). -/
def Dev.outcomesCame (d : Dev) (tag n : Nat) (o : Outst) : Dev :=
  d.onNet fun t => { t with
    outst := if n < o.op then t.outst.map fun x => if x.tag = tag then { x with op := x.op - n } else x
      else t.outst.filter fun x => x.tag != tag }

/-- The outcomes of a message of holder `k` join those of the shards of UPDATE `q`, operation `h` (R368). -/
def Dev.joinOutcomes (d : Dev) (h k : Nat) (q : HOp) (body : List Byte) : Dev :=
  (List.range (recNum body 4 4)).foldl (fun d i =>
    let b := (body.drop (8 + 16 * i)).take 16
    if recNum b 1 1 = 0 then d
    else d.modOut h (recNum body 0 4 + i) fun u =>
      u.join b (d.shardAt (q.f 34 2 % 4096) (q.f 52 4 + recNum body 0 4 + i) k)) d

section
variable {s : State} {tag : Nat} {body : List Byte}

theorem exec_updout_bad (h : body.length ≠ 8 + 16 * recNum body 4 4) :
    exec (.updout tag sOk body) s = .next (s.withDev ((s.dev.took none 0x1C tag body).bump .SFX_RXBAD)) := by
  show execUpdout tag sOk body s = _
  have hbad : body.length < 8 ∨ body.length ≠ 8 + 16 * recNum body 4 4 := .inr h
  simp only [execUpdout, State.run_next, true_and, if_pos hbad]
  rfl

variable {e g : Dev} {h : Nat} {o : Outst} {q : HOp} (he : e = s.dev.took none 0x1C tag body)
  (ho : (e.net.outst.find? fun o => o.tag == tag) = some o) (hwho : o.who = .part h) (hq : g.handleOp h = some q)
include he ho hwho hq

/-- A holder that failed has E_STATE for each shard it holds. -/
theorem exec_updout_lost {st : Nat} (hg : g = e.onNet fun t => { t with outst := t.outst.filter fun x => x.tag != tag })
    (hst : st ≠ sOk) :
    exec (.updout tag st body) s = .next (s.withDev ((g.holderLost q o.dst).updEnd s.now h)) := by
  subst he hg
  show execUpdout tag st body s = _
  simp only [State.dev] at ho hq
  simp only [execUpdout, State.run_next, Mach.onDev_dev, ho, hwho, hst, hq, false_and, decide_false, Bool.false_and,
    Bool.false_eq_true, if_false, List.range_zero, List.foldl_nil]
  rfl

theorem exec_updout_joins (hg : g = e.outcomesCame tag (recNum body 4 4) o) (hlen : body.length = 8 + 16 * recNum body 4 4) :
    exec (.updout tag sOk body) s = .next (s.withDev ((g.joinOutcomes h o.dst q body).updEnd s.now h)) := by
  subst he hg
  show execUpdout tag sOk body s = _
  have hgood : ¬ (body.length < 8 ∨ body.length ≠ 8 + 16 * recNum body 4 4) := by omega
  have hcount : min (recNum body 4 4) ((body.length - 8) / 16) = recNum body 4 4 := by omega
  simp only [State.dev, Dev.outcomesCame] at ho hq
  simp only [execUpdout, State.run_next, Mach.onDev_dev, true_and, if_neg hgood, hcount, ho, hwho, decide_true, Bool.true_and,
    decide_eq_true_eq, hq, Option.elim_some, if_true]
  rfl

end

/-! ### A merge that waited is added (spec/11 R339, R342) -/

section
variable {s : State}

theorem exec_gradientSpaceWaitEnd_none (h : s.dev.tabs.gwait.findIdx? s.dev.mergeReady = none) :
    exec .gradientSpaceWaitEnd s = .next s := by
  show execGradientSpaceWaitEnd s = _
  simp only [State.dev] at h
  simp only [execGradientSpaceWaitEnd, State.run_next, h]
  rfl

/-- The merge is added with those before it alone in the queue, and those behind it come back in their order. -/
theorem exec_gradientSpaceWaitEnd_ready {i : Nat} {r : RowReq} (h : s.dev.tabs.gwait.findIdx? s.dev.mergeReady = some i)
    (hr : s.dev.tabs.gwait[i]? = some r) :
    exec .gradientSpaceWaitEnd s = .next (s.withDev
      ((((s.dev.onTabs fun x => { x with gwait := x.gwait.take i }).rowReq s.now r).onTabs fun x =>
        { x with gwait := x.gwait ++ s.dev.tabs.gwait.drop (i + 1) }).settle s.now)) := by
  show execGradientSpaceWaitEnd s = _
  simp only [State.dev] at h hr
  simp only [execGradientSpaceWaitEnd, State.run_next, h, hr]
  rfl

end

/-- Settles O45: a part by what its command is to do, UPDPART and UPDOUT by the layout of the message and what it finds, and the wait for
gradient space by the first merge that may be added. -/
theorem updatePartsAct : Obligations.UpdatePartsAct := by
  intro s d
  refine ⟨fun id p => exec_updatePartStart_part, ?layer, ?updpart, ?updoutLost, ?updoutJoins, fun tag body => exec_updout_bad,
    exec_gradientSpaceWaitEnd_none, fun i r => exec_gradientSpaceWaitEnd_ready⟩
  case layer =>
    intro id p hp hlayer hstarted hreaders
    exact ⟨fun st => exec_layerReadersZero_stopped hp hlayer hstarted hreaders,
      exec_layerReadersZero_writes hp hlayer hstarted hreaders⟩
  case updpart =>
    intro src tag body e t n p
    refine ⟨exec_updpart_bad, fun hlen hkind h0 hmax => ?_⟩
    intro g
    have hgood := exec_updpart_good (t := t) (n := n) (p := p) (g := g) rfl rfl rfl rfl hlen hkind h0 hmax
    refine ⟨fun hvalid hsharded hbound => ?added, fun hnone => ?unbound⟩
    case added => rw [hgood, if_neg (by simp [hvalid, hsharded, hbound])]
    case unbound => rw [hgood, if_pos hnone]; rfl
  case updoutLost =>
    intro tag st body h o q e ho hwho hst g hq
    exact exec_updout_lost rfl ho hwho hq rfl hst
  case updoutJoins =>
    intro tag body h o q e n first hlen ho hwho g hq
    exact exec_updout_joins rfl ho hwho hq rfl hlen

end Sys2Proof.Machine

/-! ## Proofs: the family of spec/12_cores_and_scheduling.md -/

namespace Sys2Proof.Machine

/-! ### The module's time (spec/12 R375) -/

theorem Mach.foldl_now {α : Type} {f : Mach → α → Mach} (hf : ∀ m x, (f m x).und.now = m.und.now) (l : List α) (m : Mach) :
    (l.foldl f m).und.now = m.und.now :=
  List.foldlRecOn (motive := fun n : Mach => n.und.now = m.und.now) l f rfl fun n hn x _ => (hf n x).trans hn

@[simp] theorem Mach.emit_now (m : Mach) (o : Out) : (m.emit o).und.now = m.und.now := rfl
@[simp] theorem Mach.alertEdge_now (a b : Mach) : (a.alertEdge b).und.now = b.und.now := congrArg Und.now (Mach.alertEdge_und a b)
@[simp] theorem Mach.leaveUnits_now (m : Mach) (u : Units) : (m.leaveUnits u).und.now = m.und.now := rfl
@[simp] theorem Mach.regErr_now (m : Mach) : m.regErr.und.now = m.und.now := rfl
@[simp] theorem Mach.mrecClear_now (m : Mach) : m.mrecClear.und.now = m.und.now := rfl
@[simp] theorem Mach.onRcv_now (m : Mach) (f : Rcv → Rcv) : (m.onRcv f).und.now = m.und.now := rfl
@[simp] theorem Mach.onMgmt_now (m : Mach) (f : Mgmt → Mgmt) : (m.onMgmt f).und.now = m.und.now := rfl
@[simp] theorem Mach.fuseRegs_now (m : Mach) (f : Fuse) : (m.fuseRegs f).und.now = m.und.now := rfl
@[simp] theorem Mach.adoptImage_now (m : Mach) (f : Fuse) (src : Nat) : (m.adoptImage f src).und.now = m.und.now := rfl
@[simp] theorem Mach.startDrain_now (m : Mach) (dst : DrainTo) : (m.startDrain dst).und.now = m.und.now := rfl
@[simp] theorem Mach.portsDown_now (m : Mach) (p : Nat → Bool) : (m.portsDown p).und.now = m.und.now := rfl
@[simp] theorem Mach.goOn_now (m : Mach) : m.goOn.und.now = m.und.now := rfl

/-! #### Faults -/

@[simp] theorem Mach.mapOutCore_now (m : Mach) (c : Nat) : (m.mapOutCore c).und.now = m.und.now := by
  unfold Mach.mapOutCore
  dsimp only
  split_ifs <;> simp

@[simp] theorem Mach.countFault_now (m : Mach) (c : Nat) : (m.countFault c).und.now = m.und.now := by
  unfold Mach.countFault
  dsimp only
  split_ifs <;> simp

@[simp] theorem Mach.coreFault_now (m : Mach) (c j k : Nat) : (m.coreFault c j k).und.now = m.und.now := by
  simp [Mach.coreFault]

@[simp] theorem Mach.sliceFault_now (m : Mach) (k a : Nat) : (m.sliceFault k a).und.now = m.und.now := by
  unfold Mach.sliceFault
  dsimp only
  split_ifs <;> simp

@[simp] theorem Mach.reportErr_now (m : Mach) (p : Nat × Nat) : (m.reportErr p).und.now = m.und.now := by
  unfold Mach.reportErr
  split_ifs <;> simp

@[simp] theorem Mach.flushReports_now (m : Mach) : m.flushReports.und.now = m.und.now :=
  (Mach.foldl_now Mach.reportErr_now _ _).trans rfl

@[simp] theorem Mach.faultInsn_now (m : Mach) (c : Nat) (e : Eng) (x : QEnt) (k : Nat) : (m.faultInsn c e x k).und.now = m.und.now := by
  simp [Mach.faultInsn, Mach.engFault]

@[simp] theorem Mach.canopyDetect_now (m : Mach) (a : Nat) : (m.canopyDetect a).1.und.now = m.und.now := by simp [Mach.canopyDetect]

@[simp] theorem Mach.breakSync_now (m : Mach) (n : Nat) : (m.breakSync n).und.now = m.und.now := by simp [Mach.breakSync]

@[simp] theorem Mach.mbError_now (m : Mach) (c : Nat) (e : MbEnt) : (m.mbError c e).und.now = m.und.now := by simp [Mach.mbError]

@[simp] theorem Mach.loadDetect_now (m : Mach) (c s a : Nat) (det : Det) : (m.loadDetect c s a det).1.und.now = m.und.now := by
  unfold Mach.loadDetect
  dsimp only
  split
  case h_1 => split_ifs <;> simp
  case h_2 =>
    split
    case h_3 => rfl
    all_goals split_ifs <;> simp

@[simp] theorem Mach.portFails_now (m : Mach) (n : Nat) : (m.portFails n).und.now = m.und.now := by
  unfold Mach.portFails
  split_ifs <;> simp

@[simp] theorem Mach.lossHold_now (m : Mach) (area : Option Nat) : (m.lossHold area).und.now = m.und.now := by
  unfold Mach.lossHold
  split_ifs
  · rfl
  · simp
  · split <;> simp

/-! #### Registers -/

@[simp] theorem Mach.undCtl_now (m : Mach) (v : Nat) : (m.undCtl v).und.now = m.und.now := by
  unfold Mach.undCtl
  split
  case h_3 => rfl
  all_goals split_ifs <;> simp

@[simp] theorem Mach.qfeCtl_now (m : Mach) (t v : Nat) : (m.qfeCtl t v).und.now = m.und.now := by
  unfold Mach.qfeCtl
  split_ifs <;> rfl

@[simp] theorem Mach.evFlagWrite_now (m : Mach) (v : Nat) : (m.evFlagWrite v).und.now = m.und.now := by
  simp [Mach.evFlagWrite, Mach.onUnd]

@[simp] theorem Mach.readClears_now (m : Mach) (r : Reg) (ix : List Nat) (lo n : Nat) : (m.readClears r ix lo n).und.now = m.und.now := by
  unfold Mach.readClears
  dsimp only
  split
  case h_4 => rfl
  all_goals split_ifs <;> rfl

@[simp] theorem Mach.readReg_now (m : Mach) (vw : View) (by_ : Option Nat) (o size : Nat) :
    (m.readReg vw by_ o size).1.und.now = m.und.now := by
  unfold Mach.readReg
  split_ifs
  · rfl
  · split
    · rfl
    · split_ifs <;> simp

@[simp] theorem Mach.regAct_now (m : Mach) (r : Reg) (ix : List Nat) (v : Nat) : (m.regAct r ix v).und.now = m.und.now := by
  unfold Mach.regAct
  dsimp only
  split
  case h_2 => split_ifs <;> simp
  case h_13 => split_ifs <;> simp
  all_goals simp

@[simp] theorem Mach.writeReg_now (m : Mach) (vw : View) (by_ : Option Nat) (o size v : Nat) :
    (m.writeReg vw by_ o size v).und.now = m.und.now := by
  unfold Mach.writeReg
  split_ifs
  · rfl
  · split
    · rfl
    · dsimp only
      split_ifs <;> simp

@[simp] theorem Mach.readLine_now (m : Mach) (vw : View) (off : Nat) : (m.readLine vw off).1.und.now = m.und.now :=
  List.foldlRecOn (motive := fun p : Mach × List Byte => p.1.und.now = m.und.now) _ _ rfl fun p hp i _ => by
    dsimp only
    split_ifs
    · exact (Mach.readReg_now ..).trans hp
    · exact hp

@[simp] theorem Mach.writeLaneReg_now (m : Mach) (vw : View) (off en : Nat) (bs : List Byte) :
    (m.writeLaneReg vw off en bs).und.now = m.und.now := by
  unfold Mach.writeLaneReg
  split_ifs <;> simp

@[simp] theorem Mach.writeLine_now (m : Mach) (vw : View) (off mask : Nat) (bs : List Byte) :
    (m.writeLine vw off mask bs).und.now = m.und.now :=
  Mach.foldl_now (fun _ _ => Mach.writeLaneReg_now ..) _ _

@[simp] theorem Mach.telWrite_now (m : Mach) (r : Reg) (ix : List Nat) (v : Nat) : (m.telWrite r ix v).und.now = m.und.now := by
  unfold Mach.telWrite
  split_ifs <;> simp

@[simp] theorem Mach.i3cWrite_now (m : Mach) (o v : Nat) : (m.i3cWrite o v).und.now = m.und.now := by
  unfold Mach.i3cWrite
  split <;> simp

@[simp] theorem Mach.i3cRegs_now (m : Mach) (n : Nat) : (m.i3cRegs n).1.und.now = m.und.now := by
  induction n generalizing m with
  | zero => rfl
  | succ n ih => exact (ih _).trans (by simp [Mach.i3cReg])

@[simp] theorem Mach.i3cStd_now (m : Mach) (addr k n : Nat) : (m.i3cStd addr k n).und.now = m.und.now := by
  unfold Mach.i3cStd
  split <;> simp

/-! #### Memory controllers -/

@[simp] theorem Mach.qualify_now (m : Mach) (u c : Nat) : (m.qualify u c).und.now = m.und.now := by
  unfold Mach.qualify
  dsimp only
  split_ifs <;> simp

@[simp] theorem Mach.decodeAt_now (m : Mach) (u b a : Nat) (res : Decoded) : (m.decodeAt u b a res).und.now = m.und.now := by
  unfold Mach.decodeAt
  dsimp only
  split <;> split_ifs <;> simp

@[simp] theorem Mach.decodeRead_now (m : Mach) (a : Nat) (res : Decoded) : (m.decodeRead a res).und.now = m.und.now := by
  unfold Mach.decodeRead
  split <;> simp

@[simp] theorem Mach.returnReads_now (m : Mach) (u : Nat) : (m.returnReads u).und.now = m.und.now :=
  Mach.foldl_now (fun _ _ => by simp) _ _

@[simp] theorem Mach.unitIssues_now (m : Mach) (u : Nat) : (m.unitIssues u).und.now = m.und.now := by
  have pump (n : Nat) (m : Mach) : (m.pumpReads u n).und.now = m.und.now := by
    induction n generalizing m with
    | zero => rfl
    | succ n ih => exact (ih _).trans (by simp)
  exact pump _ m

@[simp] theorem Mach.lastReads_now (m : Mach) (u : Nat) : (m.lastReads u).und.now = m.und.now :=
  (Mach.foldl_now (fun _ _ => by simp) _ _)

@[simp] theorem Mach.scrubLine_now (m : Mach) (det : Det) (a b : Nat) : (m.scrubLine det a b).und.now = m.und.now := by
  unfold Mach.scrubLine
  split <;> (dsimp only; split_ifs <;> simp)

@[simp] theorem Mach.scrubBlock_now (m : Mach) (o : HOp) (bad : List (Nat × Nat)) : (m.scrubBlock o bad).und.now = m.und.now := by
  unfold Mach.scrubBlock
  dsimp only
  rw [Mach.onDev_und, Mach.foldl_now]
  · split <;> rfl
  · intro m p
    split_ifs <;> simp

/-! #### Start-up and COMMIT -/

@[simp] theorem Mach.railsDone_now (m : Mach) : m.railsDone.und.now = m.und.now := by
  unfold Mach.railsDone
  split_ifs <;> simp

@[simp] theorem Mach.outEvents_now (m : Mach) (n mask code kind data : Nat) : (m.outEvents n mask code kind data).und.now = m.und.now :=
  Mach.foldl_now (fun _ _ => by simp) _ _

@[simp] theorem Mach.testFail_now (m : Mach) (u : Units) : (m.testFail u).und.now = m.und.now := by simp [Mach.testFail]

@[simp] theorem Mach.trained_now (m : Mach) (built : Units) (cf sf : Nat) (quals : List Nat) :
    (m.trained built cf sf quals).und.now = m.und.now := by simp [Mach.trained]

@[simp] theorem Mach.enterLinkup_now (m : Mach) (portFail : Nat) : (m.enterLinkup portFail).und.now = m.und.now := by
  simp [Mach.enterLinkup]

@[simp] theorem Mach.afterTrain_now (m : Mach) (ports portFail : Nat) : (m.afterTrain ports portFail).und.now = m.und.now := by
  unfold Mach.afterTrain
  split
  · simp
  · split
    · simp
    · split <;> simp

theorem Mach.mailbox_now {m : Mach} {f : Mach → Mach} (hf : ∀ m : Mach, (f m).und.now = m.und.now) :
    (m.mailbox f).und.now = m.und.now := by
  unfold Mach.mailbox
  split_ifs
  · rfl
  · rfl
  · exact hf m

@[simp] theorem Mach.rcvArg_now (m : Mach) (v : Word) : (m.rcvArg v).und.now = m.und.now := by
  unfold Mach.rcvArg
  split_ifs <;> rfl

@[simp] theorem Mach.extend7_now (m : Mach) (l : List (Nat × List Byte)) : (m.extend7 l).und.now = m.und.now := by
  unfold Mach.extend7
  split_ifs <;> rfl

@[simp] theorem Mach.commitCheck_now (m : Mach) (c : Commit) : (m.commitCheck c).und.now = m.und.now := by
  unfold Mach.commitCheck
  dsimp only
  split
  · rfl
  · split <;> simp

@[simp] theorem Mach.commitNext_now (m : Mach) (n : Nat) : (m.commitNext n).und.now = m.und.now := by
  induction n generalizing m with
  | zero => rfl
  | succ n ih =>
    unfold Mach.commitNext
    split
    · split_ifs
      · rfl
      · simp [ih]
    · rfl

@[simp] theorem Mach.commitEnd_now (m : Mach) (c : Commit) : (m.commitEnd c).und.now = m.und.now := Mach.commitNext_now _ _

@[simp] theorem Mach.takeSensor_now (m : Mach) (t i : Nat) : (m.takeSensor t i).und.now = m.und.now := by
  unfold Mach.takeSensor
  dsimp only
  split_ifs <;> simp [Mach.onUnd]

/-! #### Sequencers, engines and the host -/

@[simp] theorem Mach.nxSync_now (m : Mach) (q : Sq) (w : BitVec 32) (rs1 : Word) (op : Nat) (bad : Bool)
    (f : Dev → Nat → Nat → Option Nat → Nat → Dev) : (m.nxSync q w rs1 op bad f).und.now = m.und.now := by
  unfold Mach.nxSync
  split_ifs
  · rfl
  · dsimp only
    rw [Mach.onDev_und]
    split <;> simp

@[simp] theorem Mach.syncMsg_now (m : Mach) (src tag : Nat) (body : List Byte) (op : Nat) (noresp bad : Bool)
    (f : Dev → Nat → Word → Dev) : (m.syncMsg src tag body op noresp bad f).und.now = m.und.now := by
  unfold Mach.syncMsg
  dsimp only
  split_ifs <;> simp

@[simp] theorem Mach.loadCached_now (m : Mach) (c rd size : Nat) (sgn : Bool) (a : Nat) (det : Det) :
    (m.loadCached c rd size sgn a det).und.now = m.und.now := by
  unfold Mach.loadCached
  dsimp only
  split_ifs <;> simp

@[simp] theorem Mach.loadWin_now (m : Mach) (q : Sq) (rd size : Nat) (sgn : Bool) (k off : Nat) (det : Det) :
    (m.loadWin q rd size sgn k off det).und.now = m.und.now := by
  unfold Mach.loadWin
  dsimp only
  split
  · rfl
  · split
    · rfl
    · split
      · rfl
      · split
        case isTrue => split <;> simp
        case isFalse => rfl

@[simp] theorem Mach.loadReg_now (m : Mach) (q : Sq) (rd size : Nat) (sgn : Bool) (vw : View) (off : Nat) :
    (m.loadReg q rd size sgn vw off).und.now = m.und.now := by
  unfold Mach.loadReg
  dsimp only
  split
  · rfl
  · split
    · split_ifs <;> simp
    · simp

@[simp] theorem Mach.loadHere_now (m : Mach) (q : Sq) (rd size : Nat) (sgn : Bool) (a : Nat) (det : Det) :
    (m.loadHere q rd size sgn a det).und.now = m.und.now := by
  unfold Mach.loadHere
  dsimp only
  split
  case h_1 | h_2 => split_ifs <;> simp
  case h_3 => split_ifs <;> simp
  all_goals simp

@[simp] theorem Mach.storeDirect_now (m : Mach) (q : Sq) (size a v : Nat) : (m.storeDirect q size a v).und.now = m.und.now := by
  unfold Mach.storeDirect
  dsimp only
  split_ifs
  · rfl
  · split
    case h_1 => split_ifs <;> simp
    all_goals simp

@[simp] theorem Mach.storeHere_now (m : Mach) (q : Sq) (size ga v : Nat) : (m.storeHere q size ga v).und.now = m.und.now := by
  unfold Mach.storeHere
  dsimp only
  split
  case h_1 | h_2 | h_4 | h_5 => split_ifs <;> simp
  case h_3 =>
    split
    case h_2 => split_ifs <;> rfl
    all_goals rfl
  all_goals simp

@[simp] theorem Mach.runInsn_now (m : Mach) (c : Nat) (ve : Bool) (det : Det) (mine : QEnt → Bool) (f : Dev → QEnt → EngOut) :
    (m.runInsn c ve det mine f).und.now = m.und.now := by
  unfold Mach.runInsn
  dsimp only
  generalize (if ve = true then Eng.ve else Eng.me) = e
  split
  case h_1 => rfl
  case h_2 x _ =>
    generalize (if ve = true then 1 else 0) = n
    split
    · rfl
    · split
      · rfl
      · split
        case h_4 => exact Mach.faultInsn_now _ c e x _
        case h_5 =>
          split
          · rfl
          · split
            · split
              · exact Mach.faultInsn_now _ c e x _
              · rfl
            · rfl
        all_goals rfl

@[simp] theorem Mach.hostData_now (m : Mach) (bs : List Byte) (poison flag : Bool) : (m.hostData bs poison flag).und.now = m.und.now := by
  unfold Mach.hostData
  split <;> rfl

@[simp] theorem Mach.hostHole_now (m : Mach) : m.hostHole.und.now = m.und.now := by simp [Mach.hostHole]

@[simp] theorem Mach.hostMemRead_now (m : Mach) (a : Nat) (det : Det) : (m.hostMemRead a det).und.now = m.und.now := by
  unfold Mach.hostMemRead
  dsimp only
  split_ifs <;> simp

@[simp] theorem Mach.hostWinRead_now (m : Mach) (c off : Nat) (det : Det) : (m.hostWinRead c off det).und.now = m.und.now := by
  unfold Mach.hostWinRead
  dsimp only
  split
  · simp
  · split
    · simp
    · split
      · rfl
      · split
        · split_ifs <;> simp
        · split_ifs <;> simp

@[simp] theorem Mach.monitor_now (m : Mach) (slot v : Nat) (whole : Bool) : (m.monitor slot v whole).und.now = m.und.now := by
  unfold Mach.monitor
  split_ifs <;> rfl

@[simp] theorem Mach.cxlDown_now (m : Mach) : m.cxlDown.und.now = m.und.now := by
  unfold Mach.cxlDown
  split_ifs <;> rfl

@[simp] theorem Mach.nxSyncWrite_now (m : Mach) (q : Sq) (w : BitVec 32) (a v : Word) (op : Nat) (bad : Bool) :
    (m.nxSyncWrite q w a v op bad).und.now = m.und.now :=
  Mach.nxSync_now ..

@[simp] theorem Mach.nxSyncWait_now (m : Mach) (q : Sq) (w : BitVec 32) (a v : Word) (op : Nat) (bad : Bool) :
    (m.nxSyncWait q w a v op bad).und.now = m.und.now :=
  Mach.nxSync_now ..

theorem Mach.unitIssues_foldl_now (l : List Nat) (m : Mach) : (l.foldl Mach.unitIssues m).und.now = m.und.now :=
  Mach.foldl_now Mach.unitIssues_now l m

theorem Mach.takeSensors_now (t : Nat → Nat) (l : List Nat) (m : Mach) :
    (l.foldl (fun n i => n.takeSensor (t i) i) m).und.now = m.und.now :=
  Mach.foldl_now (fun n i => Mach.takeSensor_now n (t i) i) l m

/-! #### The commands -/

/-- An outcome's state, when there is one, is no earlier than `s`. -/
def State.Onward (s : State) (o : Out1) : Prop := ∀ t, o = .next t → s.now ≤ t.now

theorem State.onward_run {s : State} {f : Mach → Mach} (hf : ∀ m : Mach, m.und.now ≤ (f m).und.now) : s.Onward (s.run f) := by
  intro t h
  cases h
  exact hf s.mach

theorem State.onward_runDev (s : State) (f : Dev → Dev) : s.Onward (s.runDev f) := by
  intro t h
  cases h
  exact le_rfl

theorem State.onward_runAt (s : State) (f : Nat → Dev → Dev) : s.Onward (s.runAt f) := by
  intro t h
  cases h
  exact le_rfl

theorem State.onward_runThen {s : State} {f : Mach → Mach} (hf : ∀ m : Mach, m.und.now ≤ (f m).und.now) : s.Onward (s.runThen f) := by
  intro t h
  cases h
  refine (hf s.mach).trans ?_
  unfold State.tryRun
  split <;> exact le_rfl

theorem vRun_onward (opc c : Nat) (det : Det) (f : Nat → Nat → Det → Dev → QEnt → EngOut) (s : State) :
    s.Onward (vRun opc c det f s) := by
  unfold vRun
  exact State.onward_run fun m => (Mach.runInsn_now m c true det _ _).ge

theorem seqLoad_onward (q : Sq) (rd size : Nat) (sgn : Bool) (a : Nat) (det : Det) (s : State) :
    s.Onward (execSeqLoad q rd size sgn a det s) := by
  refine State.onward_run fun m => ?_
  dsimp only
  (repeat' split) <;> simp

theorem seqStore_onward (q : Sq) (size a : Nat) (v : Word) (det : Det) (s : State) : s.Onward (execSeqStore q size a v det s) := by
  refine State.onward_run fun m => ?_
  dsimp only
  (repeat' split) <;> simp

theorem adjacencyReadReturn_onward (c id rd : Nat) (s : State) : s.Onward (execAdjacencyReadReturn c id rd s) := by
  refine State.onward_run fun m => ?_
  dsimp only
  (repeat' split) <;> simp

theorem updout_onward (tag status : Nat) (body : List Byte) (s : State) : s.Onward (execUpdout tag status body s) := by
  refine State.onward_run fun m => ?_
  dsimp only
  (repeat' split) <;> simp

theorem streamTransferComplete_onward (c s ref : Nat) (st : State) : st.Onward (execStreamTransferComplete c s ref st) := by
  refine State.onward_run fun m => ?_
  dsimp only
  (repeat' split) <;> simp

/-- No command takes the time back. The cases are grouped by what a command's body acts on: the volatile part alone, an instruction of an
engine, a sync operation, or the whole module by the operations above, which keep the time, and `Mach.atTime`, which takes the later of two
instants. -/
theorem exec_onward (c : Instr) (s : State) : s.Onward (exec c s) := by
  cases c
  all_goals dsimp only [exec]
  case entry | loadrep | ethFrameRx | arpRequest | neighborSolicitation | icmpEchoRequest | answer | direct | hostSnoop
      | cdatRequest | ideCheckFail | hdmDecoderEnable | arpReply | neighborAdvertisement | prefetchFill =>
    exact State.onward_runDev _ _
  case drain | drainComplete | suspend | resume | cancel | jobSuspended | job | copy | tblLoad | tileLoad | scrub | erase
      | classSet | progLoad | maskSet | routeSet | queryFragment | queryMessage | nxIssueGe | engineQueueSpace | nxIssueMe
      | nxIssueVe | nxIssueMq | updpart | nxPark | nxTget | nxTgetPoll | nxSpawn | nxSend | nxDelay | nxEndThread | nxEndJob
      | jobEndDrained | amoadd | amoand | amoor | amoxor | amomin | amomax | amominu | amomaxu | amoswap | lr | sc | fence
      | fenceI | ecall | ebreak | atomAdd | atomFadd32 | atomFadd16 | atomMin | atomMax | atomMinu | atomMaxu | atomFmin32
      | atomFmax32 | atomAnd | atomOr | atomXor | atomSwap | atomCas | atomRma | pfcFrameRx | salrexData | salrexAck
      | salrexReset | rdr | wra | atomic | atr | rowRead | rowWrite | rowMerge | rowLmerge | syncr | nxIssueSe
      | illegalInstruction | nxpinWrite | cxlCacheResponse =>
    exact State.onward_runAt _ _
  case replaceRows | tblSet | shardSet | migrate | graphSet | update | updProgSet | updBindSet | layerSet | gather | nbr1
      | nbr2 | nseg | nlist | meRetire | veRetire | arm | rearm | disarm | chain | streamLoop | streamNext | streamLoad
      | streamGath | streamGbmp | streamStore | streamAdv | streamWait | streamSignal | streamEnd | ringProducerResume
      | gmergeRows | gmergeTiles | clusterSleep | clusterWake | clusterWakeComplete | sdclkLoss | refclkReturn =>
    exact State.onward_run fun m => le_rfl
  case mma | mpredPredict | mpredObserve | mout | mload | mseed | veAdd =>
    exact State.onward_run fun m => (Mach.runInsn_now m ..).ge
  case veSub | veMul | veFma | veMin | veMax | veAnd | veOr | veXor | veShl | veShr | veSra | veSel | veCvt | veExp2 | veRcp
      | veCmpeq | veCmpne | veCmplt | veCmple | veRsum | veRmax | veSmxs | veTopk | veCompress | veExpand | veMld | veMst
      | veMpfx =>
    exact vRun_onward _ _ _ _ _
  case nxSyncAdd | nxSyncSet =>
    exact State.onward_run fun m => (Mach.nxSyncWrite_now m ..).ge
  case nxSyncWaitGe | nxSyncWaitEq =>
    exact State.onward_run fun m => (Mach.nxSyncWait_now m ..).ge
  case commit | loadWindowClose | nxSyncDecl | syncMsgAdd | syncMsgSet | syncMsgWaitGe | syncMsgWaitEq | cxlLinkDown
      | pwrEnRise | rstNHigh | undShutdown | undReboot | undRecover | capWindow | hlatchGo | marginGo | getpid | getbcr
      | getdcr | refclkLoss | fabShareRefill =>
    refine State.onward_run fun m => ?_
    simp
  case gatherAdmit | rehomeComplete | spdmRequest | pwrEnFall | rstNLow | mapoutRecordWrite | sdclkReturn =>
    refine State.onward_run fun m => ?_
    dsimp only
    split <;> exact le_rfl
  case rcvFlashComplete | tapInstruction | cprsNChange =>
    refine State.onward_run fun m => ?_
    dsimp only
    split_ifs <;> exact le_rfl
  case registerWrite | armWordWrite | drainTimeout | qfeCtlWrite | versionReadReturn | updatePartStart | monitorRetry
      | delayFire | deadlineFire | watchdogExpire | lrHoldExpire | unitMapoutComplete | errorWindowEnd | requestAgeLimit
      | lpdTempRead | neighborRevalidate | ackTimer | peerLost | pathPenaltyEnd | helloTimer | rowr | cxlLinkUp
      | railPgTimeout | moduleDrainTimeout | rcvWindowWrite | remoteMonitorAge | faultWindowEnd | mrecClear | powerCapStep
      | hlatchDone | mtgReadBw | mtgWriteCheck | ptgLanePrbs | ptgFrames | i3cPrivateRead | entdaa | setdasa | rstdaa
      | getstatus | vauxOvercurrent | railFault | cIntN =>
    refine State.onward_run fun m => ?_
    split <;> simp
  case clusterOff | coreAtomResRead | hello | rtoExpire | kernelWatchdogExpire | marginDwellEnd | mtgRunEnd | ptgRunEnd =>
    refine State.onward_run fun m => ?_
    dsimp only
    split <;> simp
  case railPowerGood | i3cPrivateWrite =>
    refine State.onward_run fun m => ?_
    split_ifs <;> simp
  case hbmTempRead | portLinkDown | imageReadComplete =>
    refine State.onward_run fun m => ?_
    dsimp only
    split_ifs <;> simp
  case suspendTimeout | reassemblyExpire | keyHoldExpire | rowClaimRetry | rowWritesComplete | gatherGroupHoldExpire
      | rowReadReturn | lookupBackoffExpire | moveCopyStart | moveTimeout | layerReadersZero | mbDrainTimeout | memReadDecode =>
    refine State.onward_run fun m => ?_
    (repeat' split) <;> simp
  case hostMemRead | hostMemWrite | commitAdopt | longOpBlockDone | rowClaimComplete | moveStart | moveSnap | moveReady
      | moveCommit | moveDiscard | moveBusy | leaseEnd | gradientSpaceWaitEnd | nxFnext | rd | wr | moduleDrainEnd
      | patrolScrubRead | threadBecomesUrgent =>
    refine State.onward_run fun m => ?_
    dsimp only
    (repeat' split) <;> simp
  case updout => exact updout_onward _ _ _ _
  case adjacencyReadReturn => exact adjacencyReadReturn_onward _ _ _ _
  case streamTransferComplete => exact streamTransferComplete_onward _ _ _ _
  case seqLoad => exact seqLoad_onward _ _ _ _ _ _ _
  case seqStore => exact seqStore_onward _ _ _ _ _ _
  case linkupWaitExpire | memtrainComplete =>
    refine State.onward_runThen fun m => ?_
    split <;> simp
  case assign => exact State.onward_runThen fun m => le_refl m.und.now
  case portLinkUp =>
    refine State.onward_runThen fun m => ?_
    dsimp only
    split <;> exact le_rfl
  case vinInRange =>
    refine State.onward_run fun m => ?_
    split
    · exact le_rfl
    · simp [Und.bare]
  case vinOutOfRange =>
    refine State.onward_run fun m => ?_
    split <;> exact le_rfl
  case powerSample =>
    refine State.onward_run fun m => ?_
    split
    · exact le_rfl
    · exact le_max_left _ _
  case sensorRead =>
    refine State.onward_run fun m => ?_
    dsimp only
    split
    · exact le_rfl
    · split <;> simp [Mach.takeSensors_now]
  case regulatorRefill =>
    refine State.onward_run fun m => ?_
    dsimp only
    split
    · exact le_rfl
    · simp [Mach.unitIssues_foldl_now]
  case rcvChunk =>
    refine State.onward_run fun m => ?_
    split
    · exact le_rfl
    · rw [Mach.mailbox_now]
      · simp
      · intro n
        rfl
  case rcvBoot | rcvFlash =>
    refine State.onward_run fun m => ?_
    rw [Mach.mailbox_now]
    intro n
    split <;> rfl
  case rcvVerify =>
    refine State.onward_run fun m => ?_
    rw [Mach.mailbox_now]
    intro n
    dsimp only
    split <;> rfl

/-- Settles O5: a step is the tick, which takes the time to a later one, or the command at the head of the queue. -/
theorem timeNeverRunsBack : Obligations.TimeNeverRunsBack := by
  unfold Obligations.TimeNeverRunsBack
  intro s t h
  unfold step at h
  split at h
  case h_1 =>
    cases h
    exact le_max_left _ _
  case h_2 c rest _ => exact exec_onward c { s with pending := rest } t h

end Sys2Proof.Machine

namespace Sys2Proof.Machine

/-! ### Responses at the requester (R374, R408, R436, R438, R517, R522, R523) -/

section
variable {s : State} {tag : Nat} {body : List Byte} {o : Outst} {c rd size : Nat}

theorem exec_rdr_dropped (h : (s.dev.answered 0x01 tag sOk body).2 = none) :
    exec (.rdr tag sOk body) s = .next (s.withDev (s.dev.answered 0x01 tag sOk body).1) := by
  show execRdr _ _ _ _ = _
  simp only [execRdr, State.runAt_next, h]

theorem exec_rdr_load {sgn : Bool} (h : (s.dev.answered 0x01 tag sOk body).2 = some o) (hwho : o.who = .load c rd size sgn)
    (hwait : (s.dev.answered 0x01 tag sOk body).1.stillWaits c o = true) :
    exec (.rdr tag sOk body) s = .next (s.withDev ((((s.dev.answered 0x01 tag sOk body).1.unstall c).loadDone c rd size sgn
      (recNum body (8 + o.op) size) (recNum body 0 8 != 0)).afterReply s.now)) := by
  show execRdr _ _ _ _ = _
  simp [execRdr, State.runAt_next, h, hwho, Dev.loadReply, hwait]

theorem exec_wra_store (h : (s.dev.answered 0x03 tag sOk []).2 = some o) (hwho : o.who = .store c) :
    exec (.wra tag sOk) s = .next (s.withDev ((s.dev.answered 0x03 tag sOk []).1.afterReply s.now)) := by
  show execWra _ _ _ = _
  simp [execWra, State.runAt_next, h, hwho]

theorem exec_atr_amo (h : (s.dev.answered 0x05 tag sOk body).2 = some o) (hwho : o.who = .amo c rd size)
    (hwait : (s.dev.answered 0x05 tag sOk body).1.stillWaits c o = true) (hclean : recNum body 8 8 = 0) :
    exec (.atr tag sOk body) s = .next (s.withDev ((((s.dev.answered 0x05 tag sOk body).1.unstall c).setX c rd
      (BitVec.ofInt 64 (sext (8 * size) (recNum body 0 8)))).afterReply s.now)) := by
  show execAtr _ _ _ _ = _
  simp [execAtr, State.runAt_next, h, hwho, hwait, hclean]

theorem exec_atr_sc (h : (s.dev.answered 0x05 tag sOk body).2 = some o) (hwho : o.who = .sc c rd)
    (hwait : (s.dev.answered 0x05 tag sOk body).1.stillWaits c o = true) :
    exec (.atr tag sOk body) s = .next (s.withDev ((((s.dev.answered 0x05 tag sOk body).1.unstall c).setX c rd
      (BitVec.ofNat 64 (recNum body 0 8))).afterReply s.now)) := by
  show execAtr _ _ _ _ = _
  simp [execAtr, State.runAt_next, h, hwho, hwait]

/-- The answer to a launched atomic of a job that still lives goes to CORE_ATOM_RES. -/
theorem exec_atr_atom {j : Nat} (h : (s.dev.answered 0x05 tag sOk body).2 = some o) (hwho : o.who = .atom c) (hjob : o.job = some j)
    (hclean : recNum body 8 8 = 0) (hlive : (((s.dev.answered 0x05 tag sOk body).1.atomOver c).job j).live = true)
    (hending : (((s.dev.answered 0x05 tag sOk body).1.atomOver c).job j).ending = none) :
    exec (.atr tag sOk body) s = .next (s.withDev ((((s.dev.answered 0x05 tag sOk body).1.atomOver c).modSq c fun k =>
      { k with atomRes := BitVec.ofNat 64 (recNum body 0 8) }).afterReply s.now)) := by
  show execAtr _ _ _ _ = _
  simp [execAtr, State.runAt_next, h, hwho, hjob, hclean, hlive, hending]

theorem exec_syncr_value (h : (s.dev.answered 0x12 tag sOk body).2 = some o) (hwho : o.who = .sync c rd)
    (hwait : (s.dev.answered 0x12 tag sOk body).1.stillWaits c o = true) :
    exec (.syncr tag sOk body) s = .next (s.withDev ((((s.dev.answered 0x12 tag sOk body).1.unstall c).setX c rd
      (BitVec.ofNat 64 (recNum body 0 8))).afterReply s.now)) := by
  show execSyncr _ _ _ _ = _
  simp [execSyncr, State.runAt_next, h, hwho, hwait]

theorem exec_syncr_token {t k : Nat} (h : (s.dev.answered 0x12 tag sOk body).2 = some o) (hwho : o.who = .wait t k) :
    exec (.syncr tag sOk body) s = .next (s.withDev ((((s.dev.answered 0x12 tag sOk body).1.token s.now t k
      (BitVec.ofNat 64 (recNum body 0 8)) true).wakeWire (cluOf t) 1 false).afterReply s.now)) := by
  show execSyncr _ _ _ _ = _
  simp [execSyncr, State.runAt_next, h, hwho]

end

/-- Settles O53: a response by the requester that its tag names. -/
theorem responsesAct : Obligations.ResponsesAct := by
  intro s tag body o ans
  refine ⟨exec_rdr_dropped, fun c rd size sgn => exec_rdr_load, fun c => exec_wra_store, fun c rd size => exec_atr_amo,
    fun c rd => exec_atr_sc, fun c j h hwho hjob hclean => ?atom, fun c rd => exec_syncr_value, fun h k => exec_syncr_token⟩
  case atom => exact exec_atr_atom h hwho hjob hclean

end Sys2Proof.Machine

namespace Sys2Proof.Machine

/-! ### SYNC messages at the home, ANSWER and DIRECT (R402, R408, R521, R529) -/

section
variable {m : Mach} {src tag op : Nat} {body : List Byte} {noresp bad : Bool} {f : Dev → Nat → Word → Dev}

/-- A SYNC message whose layout is right, whose object the slice does not hold and whose code stands, acts on the object it names. -/
theorem Mach.syncMsg_runs (hlayout : syncMsgBad op body = false) (hheld : m.dev.heldRange (syncBase + 64 * recNum body 4 4) 64 = false)
    (hbroken : op = 1 ∨ (m.dev.took (some src) 0x12 tag body).syncBroken (recNum body 4 4) = false) :
    m.syncMsg src tag body op noresp false f = m.onDev fun d =>
      f (d.took (some src) 0x12 tag body) (recNum body 4 4) (BitVec.ofNat 64 (recNum body 8 8)) := by
  rcases hbroken with rfl | hbroken <;> simp [Mach.syncMsg, Mach.onDev, *]

theorem Mach.syncMsg_bad (hlayout : syncMsgBad op body = true) :
    m.syncMsg src tag body op noresp bad f = m.onDev fun d => (d.took (some src) 0x12 tag body).badMsg m.und.now src 0x13 tag (!noresp) := by
  simp only [Mach.syncMsg, hlayout, if_true]

end

section
variable {s : State} {src tag : Nat} {body : List Byte}

/-- An ANSWER of a right form ends the query of its tag that went to its sender (R521). -/
theorem exec_answer_wellFormed (hmin : 32 ≤ body.length) (hlen : body.length = 32 + 8 * recNum body 12 1) :
    exec (.answer src tag body) s = .next (s.withDev ((s.dev.took (some src) 0x15 tag body).onNet fun n => { n with
      outst := n.outst.filter fun o => !(o.tag == tag && o.dst == src && match o.who with | .query _ => true | _ => false) })) := by
  show execAnswer _ _ _ _ = _
  rw [execAnswer, State.runDev_next]
  exact congrArg (fun d => Host.Outcome.next (s.withDev d)) (if_neg (by omega))

/-- The entry of a DIRECT's list at a place. -/
def directEntry (body : List Byte) (i : Nat) : List Byte := (body.drop (8 + 32 * i)).take 32

theorem exec_direct_list (hmin : 1 ≤ recNum body 0 2) (hmax : recNum body 0 2 ≤ 255) (hlen : body.length = 8 + 32 * recNum body 0 2)
    (hzero : recNum body 2 6 = 0) (hentries : ∀ i, i < recNum body 0 2 → recNum (directEntry body i) 0 2 < 4096 ∧
      recNum (directEntry body i) 2 1 < 4 ∧ recNum (directEntry body i) 3 5 = 0) :
    exec (.direct src body) s = .next (s.withDev ((List.range (recNum body 0 2)).foldl (fun d i =>
      if bitAt (recNum (directEntry body i) 2 1) 1 = true then d.delDir (recNum (directEntry body i) 0 2)
      else d.setDir ⟨recNum (directEntry body i) 0 2, bitAt (recNum (directEntry body i) 2 1) 0, recNum (directEntry body i) 8 8,
        recNum (directEntry body i) 16 16⟩) (s.dev.took (some src) 0x22 0 body))) := by
  show execDirect _ _ _ = _
  rw [execDirect, State.runDev_next]
  refine congrArg (fun d => Host.Outcome.next (s.withDev d)) (if_neg ?_)
  rintro (h | h | h | h | h)
  · omega
  · omega
  · exact h hlen
  · exact h hzero
  · obtain ⟨i, hi, hbad⟩ := List.any_eq_true.1 h
    obtain ⟨hmod, hflags, hres⟩ := hentries i (List.mem_range.1 hi)
    simp only [directEntry] at hmod hflags hres
    simp [hres, Nat.not_le.2 hmod, Nat.not_le.2 hflags] at hbad

theorem exec_direct_bad (h : recNum body 0 2 = 0 ∨ 255 < recNum body 0 2 ∨ body.length ≠ 8 + 32 * recNum body 0 2 ∨ recNum body 2 6 ≠ 0) :
    exec (.direct src body) s = .next (s.withDev ((s.dev.took (some src) 0x22 0 body).bump .SFX_RXBAD)) := by
  show execDirect _ _ _ = _
  rw [execDirect, State.runDev_next]
  exact congrArg (fun d => Host.Outcome.next (s.withDev d)) (if_pos (by tauto))

end

/-- Settles O52: a SYNC message by its operation, the others by their layout. -/
theorem syncMessagesAct : Obligations.SyncMessagesAct := by
  intro s src tag body noresp d i v old
  refine ⟨fun hheld => ⟨fun hlayout hbroken => ?add, fun hlayout => ?set, fun hlayout hbroken => ?waitGe, fun hlayout hbroken => ?waitEq⟩,
    fun hlayout => ?bad, exec_answer_wellFormed, exec_direct_list, exec_direct_bad⟩
  case add => exact congrArg (fun m => Host.Outcome.next (s.withMach m)) (Mach.syncMsg_runs hlayout hheld (.inr hbroken))
  case set => exact congrArg (fun m => Host.Outcome.next (s.withMach m)) (Mach.syncMsg_runs hlayout hheld (.inl rfl))
  case waitGe => exact congrArg (fun m => Host.Outcome.next (s.withMach m)) (Mach.syncMsg_runs hlayout hheld (.inr hbroken))
  case waitEq => exact congrArg (fun m => Host.Outcome.next (s.withMach m)) (Mach.syncMsg_runs hlayout hheld (.inr hbroken))
  case bad => exact congrArg (fun m => Host.Outcome.next (s.withMach m)) (Mach.syncMsg_bad hlayout)

end Sys2Proof.Machine

namespace Sys2Proof.Machine

/-! ### What a thread does to itself and to others (R382 to R387, R399, R419) -/

/-- A spawn word that sets PIN only with AFF, and no reserved bit, is legal (R382). -/
theorem spawnWord_legal {v : Nat} (hpin : bitAt v 7 = true → bitAt v 11 = true) (hword : v < 2 ^ 12) :
    (bitAt v 7 && !bitAt v 11 || v / 2 ^ 12 != 0) = false := by
  have hzero : (v / 2 ^ 12 != 0) = false := by simpa using hword
  cases hb : bitAt v 7
  · rw [hzero]
    rfl
  · rw [hpin hb, hzero]
    rfl

section
variable {s : State} {q : Sq} {w : BitVec 32} {rs1 rs2 : Word} {h : Nat} (hr : s.dev.seqReady q = true)
  (hcur : ((s.dev.enter s.now q).core q.core).sq.cur = some h)
include hr hcur

section
variable (hw : nxIs w 0x2B 0 = true) (ho : nxOk w 0 false true true = true)
include hw ho

theorem exec_nxPark_goesOn (hmet : { (s.dev.enter s.now q).thr h with need := bitsOf rs1.toNat 0 4 : Thread }.met = true) :
    exec (.nxPark q w rs1) s = .next (s.withDev ((s.dev.enter s.now q).modThr h fun _ =>
      { (s.dev.enter s.now q).thr h with need := bitsOf rs1.toNat 0 4 })) := by
  show execNxPark _ _ _ _ = _
  simp only [execNxPark, State.runAt_next, Dev.nx_runs hr hw ho, hcur, hmet, if_true]

/-- A thread that parks with an operand missing leaves once its stores have completed, watched unless its delay entry brings one. -/
theorem exec_nxPark_waits {t : Thread} (ht : t = { (s.dev.enter s.now q).thr h with need := bitsOf rs1.toNat 0 4 }) (hmet : t.met = false) :
    exec (.nxPark q w rs1) s = .next (s.withDev ((s.dev.enter s.now q).afterStores s.now q.core fun d =>
      (d.modThr h fun _ => { t with st := .wait, watch := if t.watched then some (d.watchTick s.now t.job) else none }).trapCore
        s.now q.core 24)) := by
  subst ht
  show execNxPark _ _ _ _ = _
  simp only [execNxPark, State.runAt_next, Dev.nx_runs hr hw ho, hcur, hmet, Bool.false_eq_true, if_false]

end

section
variable (hw : nxIs w 0x2B 1 = true) (ho : nxOk w 7 true true false = true)
include hw ho

theorem exec_nxTgetPoll (hpoll : bitAt w.toNat 27 = true) :
    exec (.nxTgetPoll q w) s =
      .next (s.withDev ((s.dev.enter s.now q).setX q.core (nxRd w) (BitVec.ofNat 64 ((s.dev.enter s.now q).thr h).arr))) := by
  show execNxTgetPoll _ _ _ = _
  simp only [execNxTgetPoll, State.runAt_next, Dev.nx_runs hr hw ho, hcur, hpoll, Bool.not_true, Bool.false_eq_true, if_false]

section
variable (hpoll : bitAt w.toNat 27 = false)
include hpoll

theorem exec_nxTget_missing (harr : bitAt ((s.dev.enter s.now q).thr h).arr (nxF w 25 2) = false) :
    exec (.nxTget q w) s = .next (s.withDev ((s.dev.enter s.now q).setX q.core (nxRd w) 0)) := by
  show execNxTget _ _ _ = _
  simp only [execNxTget, State.runAt_next, Dev.nx_runs hr hw ho, hcur, hpoll, harr, Bool.false_eq_true, if_false]

theorem exec_nxTget_arrived (harr : bitAt ((s.dev.enter s.now q).thr h).arr (nxF w 25 2) = true) :
    exec (.nxTget q w) s = .next (s.withDev (((if bitAt ((s.dev.enter s.now q).thr h).tokSrc (nxF w 25 2) then
      (s.dev.enter s.now q).l1Clear q.core else s.dev.enter s.now q).modThr h fun t =>
        { t with arr := setBits t.arr (nxF w 25 2) 1 0, tokSrc := setBits t.tokSrc (nxF w 25 2) 1 0 }).setX q.core (nxRd w)
          (((s.dev.enter s.now q).thr h).op (nxF w 25 2)))) := by
  show execNxTget _ _ _ = _
  simp only [execNxTget, State.runAt_next, Dev.nx_runs hr hw ho, hcur, hpoll, harr, Bool.false_eq_true, if_false, if_true]

end

end

section
variable (hw : nxIs w 0x2B 2 = true) (ho : nxOk w 0 false false false = true) (hmode : q.user = false)
  (hpin : bitAt rs2.toNat 7 = true → bitAt rs2.toNat 11 = true) (hword : rs2.toNat < 2 ^ 12)
include hw ho hmode hpin hword

theorem exec_nxSpawn_full (hslot : (s.dev.enter s.now q).freeSlot (cluOfCore q.core) = none) :
    exec (.nxSpawn q w rs1 rs2) s = .next (s.withDev (((s.dev.enter s.now q).bump .FOR_SLOTFULL [cluOfCore q.core]).setX q.core
      (nxRd w) (BitVec.ofNat 64 (2 ^ 63)))) := by
  show execNxSpawn _ _ _ _ _ = _
  have hlegal : (nxOk w 0 false false false && !q.user) = true := by simp [ho, hmode]
  simp only [execNxSpawn, State.runAt_next, Dev.nx_runs hr hw hlegal, hcur, spawnWord_legal hpin hword, hslot, Bool.false_eq_true, if_false]

theorem exec_nxSpawn_slot {g : Nat} (hslot : (s.dev.enter s.now q).freeSlot (cluOfCore q.core) = some g) {t : Thread}
    (ht : t = { st := if bitsOf rs2.toNat 0 4 = 0 then .ready else .wait, job := ((s.dev.enter s.now q).thr h).job,
                need := bitsOf rs2.toNat 0 4, prio := bitsOf rs2.toNat 4 3,
                pin := if bitAt rs2.toNat 7 then some (cluOfCore q.core * 8 + bitsOf rs2.toNat 8 3) else none,
                last := if bitAt rs2.toNat 11 then some (cluOfCore q.core * 8 + bitsOf rs2.toNat 8 3) else none, ctx := rs1,
                readyAt := s.now,
                watch := if bitsOf rs2.toNat 0 4 = 0 then none
                  else some ((s.dev.enter s.now q).watchTick s.now ((s.dev.enter s.now q).thr h).job) }) :
    exec (.nxSpawn q w rs1 rs2) s = .next (s.withDev ((((s.dev.enter s.now q).modThr g fun _ => t).setX q.core (nxRd w)
      (BitVec.ofNat 64 g)).schedule s.now (cluOfCore q.core))) := by
  subst ht
  show execNxSpawn _ _ _ _ _ = _
  have hlegal : (nxOk w 0 false false false && !q.user) = true := by simp [ho, hmode]
  simp only [execNxSpawn, State.runAt_next, Dev.nx_runs hr hw hlegal, hcur, spawnWord_legal hpin hword, hslot, Bool.false_eq_true, if_false]

end

theorem exec_nxDelay_entry (hw : nxIs w 0x2B 5 = true) (ho : nxOk w 0x30 false true true = true) :
    exec (.nxDelay q w rs1) s = .next (s.withDev ((s.dev.enter s.now q).modThr h fun t =>
      { t with delay := some (max rs1.toNat (s.now / usT + 1), nxK w) })) := by
  show execNxDelay _ _ _ _ = _
  simp only [execNxDelay, State.runAt_next, Dev.nx_runs hr hw ho, hcur]

end

section
variable {s : State} {q : Sq} {w : BitVec 32} {rs1 rs2 : Word} {j : Nat} (hr : s.dev.seqReady q = true)
  (hjob : (s.dev.enter s.now q).curJob q.core = some j)
include hr hjob

/-- A token goes to a thread of the sender's job in its cluster, once the sender's stores have completed; to any other it is an error. -/
theorem exec_nxSend (hw : nxIs w 0x2B 3 = true) (ho : nxOk w 0 false false true = true) (hword : rs1.toNat < 2 ^ 18) :
    exec (.nxSend q w rs1 rs2) s = .next (s.withDev ((s.dev.enter s.now q).afterStores s.now q.core fun d =>
      if d.ofJob (bitsOf rs1.toNat 0 16) j && cluOf (bitsOf rs1.toNat 0 16) == cluOfCore q.core then
        d.token s.now (bitsOf rs1.toNat 0 16) (bitsOf rs1.toNat 16 2) rs2 true
      else (d.bump .FOR_TOKERR [cluOfCore q.core]).refuseJob s.now j eState)) := by
  show execNxSend _ _ _ _ _ = _
  have hzero : ¬ rs1.toNat / 2 ^ 18 ≠ 0 := fun hne => hne (Nat.div_eq_of_lt hword)
  simp only [execNxSend, State.runAt_next, Dev.nx_runs hr hw ho, hjob, if_neg hzero]

theorem exec_nxEndJob (hw : nxIs w 0x2B 7 = true) (ho : nxOk w 1 false true true = true) (hbit : bitAt w.toNat 25 = true) :
    exec (.nxEndJob q w rs1) s = .next (s.withDev (((s.dev.enter s.now q).trapCore s.now q.core 25).endJob s.now j
      (if jobStatusOk (bitsOf rs1.toNat 0 8) then .program (bitsOf rs1.toNat 0 8) else .refusal eArg))) := by
  show execNxEndJob _ _ _ _ = _
  simp only [execNxEndJob, State.runAt_next, Dev.nx_runs hr hw ho, hjob, hbit, Bool.not_true, Bool.false_eq_true, if_false]

end

/-- Settles O30: each instruction of the running thread by its operands. -/
theorem threadInstructionsAct : Obligations.ThreadInstructionsAct := by
  intro s q w rs1 rs2 h hr d c j hcur
  refine ⟨fun hw ho => ⟨exec_nxPark_goesOn hr hcur hw ho, exec_nxPark_waits hr hcur hw ho rfl⟩, fun hw ho => ?tget,
    fun hw ho hmode hpin hword => ?spawn, fun hw ho hword hjob => exec_nxSend hr hjob hw ho hword, exec_nxDelay_entry hr hcur,
    fun hw ho hbit hjob => ⟨fun hst => ?ends, fun hst => ?refused⟩⟩
  case tget => exact ⟨exec_nxTgetPoll hr hcur hw ho, exec_nxTget_missing hr hcur hw ho, exec_nxTget_arrived hr hcur hw ho⟩
  case spawn =>
    exact ⟨exec_nxSpawn_full hr hcur hw ho hmode hpin hword, fun g hg => exec_nxSpawn_slot hr hcur hw ho hmode hpin hword hg rfl⟩
  case ends => rw [exec_nxEndJob hr hjob hw ho hbit, if_pos hst]
  case refused => rw [exec_nxEndJob hr hjob hw ho hbit, if_neg (by simp [hst])]

end Sys2Proof.Machine

namespace Sys2Proof.Machine

/-! ### END with JOB 0, and what falls due (R386, R397 to R399, R407, R410, R416) -/

/-- The monitors that a thread waits by. -/
def Mon.ofThread (h : Nat) (o : Mon) : Bool := match o.dst with | .thread g _ => g == h | _ => false

/-- A thread's slot drains: nothing of it is watched or due, and no monitor, WAIT or remote wait of it stands. -/
def Dev.threadLeaves (d : Dev) (h : Nat) : Dev :=
  ((d.modThr h fun t => { t with st := .drain, watch := none, delay := none }).onSync fun x =>
    { x with mons := x.mons.filter fun o => !o.ofThread h, retry := x.retry.filter fun o => !o.ofThread h }).onNet fun t =>
      { t with outst := t.outst.filter fun o => !(match o.who with | .wait g _ => g == h | _ => false) }

theorem exec_nxEndThread {s : State} {q : Sq} {w : BitVec 32} {h : Nat} (hr : s.dev.seqReady q = true) (hw : nxIs w 0x2B 7 = true)
    (ho : nxOk w 0 true true true = true) (hbit : bitAt w.toNat 25 = false) (hcur : ((s.dev.enter s.now q).core q.core).sq.cur = some h) :
    exec (.nxEndThread q w) s = .next (s.withDev (((((((s.dev.enter s.now q).trapCore s.now q.core 25).threadLeaves h).lastExit s.now
      ((s.dev.enter s.now q).thr h).job).reap (cluOf h)).schedule s.now (cluOf h)))) := by
  show execNxEndThread _ _ _ = _
  simp only [execNxEndThread, State.runAt_next, Dev.nx_runs hr hw ho, hcur, hbit, Bool.false_eq_true, if_false]
  rfl

section
variable {s : State}

/-- A WAIT that found no monitor is tried again at the tick after its last try. -/
theorem exec_monitorRetry {i : Nat} {o : Mon} (hi : s.dev.sync.retry[i]? = some o) (hbroken : s.dev.syncBroken o.obj = false) :
    exec (.monitorRetry i) s = .next (s.later ((o.at_ / 12000 + 1) * 12000)
      ((s.dev.onSync fun x => { x with retry := s.dev.sync.retry.take i ++ s.dev.sync.retry.drop (i + 1) }).syncWait
        (max s.now ((o.at_ / 12000 + 1) * 12000)) o)) := by
  simp only [State.dev] at hi
  show execMonitorRetry _ _ = _
  simp only [execMonitorRetry, State.run_next, hi]
  exact congrArg (fun d => Host.Outcome.next (s.later _ d)) (if_neg (Bool.eq_false_iff.1 hbroken))

theorem exec_delayFire {h t k : Nat} (hd : (s.dev.thr h).delay = some (t, k)) :
    exec (.delayFire h) s = .next (s.later (t * 12000)
      ((((s.dev.modThr h fun t => { t with delay := none }).token (max s.now (t * 12000)) h k
        (BitVec.ofNat 64 (max s.now (t * 12000) / 12000)) false).watchWait (max s.now (t * 12000)) h).wakeWire (cluOf h) 2 false)) := by
  simp only [State.dev] at hd
  show execDelayFire _ _ = _
  simp only [execDelayFire, State.run_next, hd]
  rfl

/-- A deadline ends its job, and a query that the job serves is answered at once, from its buffer when its class allows it. -/
theorem exec_deadlineFire {j t : Nat} (hd : (s.dev.job j).deadTick = some t) (hlive : (s.dev.job j).live = true)
    (hending : (s.dev.job j).ending = none) :
    exec (.deadlineFire j) s = .next (s.later (t * 12000)
      (match (s.dev.endJob (max s.now (t * 12000)) j .deadline).queryOf j with
      | some (tl, x) => if clsPartial x.desc
          then (s.dev.endJob (max s.now (t * 12000)) j .deadline).answerPub (max s.now (t * 12000)) tl x eDeadline
          else (s.dev.endJob (max s.now (t * 12000)) j .deadline).answer (max s.now (t * 12000)) tl x eDeadline 0 0 []
      | none => s.dev.endJob (max s.now (t * 12000)) j .deadline)) := by
  simp only [State.dev] at hd
  show execDeadlineFire _ _ = _
  simp only [execDeadlineFire, State.run_next, hd]
  refine congrArg (fun d => Host.Outcome.next (s.later _ d)) (if_neg ?_)
  simpa [Mach.atTime] using ⟨hlive, hending⟩

/-- What an expired watched wait does to its job: counted while the job lives and has no end yet, and the job ends (R410, R416). -/
def Dev.watchdogEnds (d : Dev) (now j : Nat) : Dev :=
  ((if (d.job j).live = true ∧ (d.job j).ending = none then d.bump .FOR_WDOG [j / 4096] else d).endJob now j .watchdog).settle now

theorem Dev.watchdogEnds_eq (d : Dev) (now j : Nat) : ((if (d.job j).live && (d.job j).ending.isNone then
    d.bump .FOR_WDOG [j / 4096] else d).endJob now j .watchdog).settle now = d.watchdogEnds now j := by
  simp only [Dev.watchdogEnds, Bool.and_eq_true, Option.isNone_iff_eq_none]

theorem exec_watchdogExpire {w : Wait} {j t : Nat} (hw : s.dev.waitOf w = some (j, t)) (hmerge : ∀ i, w ≠ .merge i)
    (hsent : ∀ g, w ≠ .sent g) :
    exec (.watchdogExpire w) s = .next (s.later (t * 12000) (s.dev.watchdogEnds (max s.now (t * 12000)) j)) := by
  simp only [State.dev] at hw
  show execWatchdogExpire _ _ = _
  simp only [execWatchdogExpire, State.run_next, hw]
  cases w with
  | merge i => exact absurd rfl (hmerge i)
  | sent g => exact absurd rfl (hsent g)
  | _ => exact congrArg (fun d => Host.Outcome.next (s.later _ d)) (Dev.watchdogEnds_eq ..)

/-- A merge that waited for space takes the outcome of the wait that expired. -/
theorem exec_watchdogExpire_merge {i j t : Nat} {r : RowReq} (hw : s.dev.waitOf (.merge i) = some (j, t))
    (hi : s.dev.tabs.gwait[i]? = some r) :
    exec (.watchdogExpire (.merge i)) s = .next (s.later (t * 12000)
      (((s.dev.onTabs fun x => { x with gwait := x.gwait.take i ++ x.gwait.drop (i + 1) }).rowAnswer (max s.now (t * 12000)) r
        eWatchdog).watchdogEnds (max s.now (t * 12000)) j)) := by
  simp only [State.dev] at hw hi
  show execWatchdogExpire _ _ = _
  simp only [execWatchdogExpire, State.run_next, hw, Mach.onDev, Mach.atTime_dev, hi]
  exact congrArg (fun d => Host.Outcome.next (s.later _ d)) (Dev.watchdogEnds_eq ..)

end

/-- Settles O33: the end of a thread, and each thing that falls due at its instant. -/
theorem threadEndsAndTimersAct : Obligations.ThreadEndsAndTimersAct := by
  refine ⟨fun s q w h hr hw ho hbit => exec_nxEndThread hr hw ho hbit, fun s => ?_⟩
  refine ⟨fun i o => exec_monitorRetry, fun h t k => exec_delayFire, fun j t hd hlive hending hquery => ?deadline,
    fun j t tl x hd hlive hending hquery => ?query, fun w j t => exec_watchdogExpire, fun i j t r => exec_watchdogExpire_merge,
    fun j => rfl⟩
  case deadline =>
    rw [exec_deadlineFire hd hlive hending]
    simp only [hquery]
    rfl
  case query =>
    rw [exec_deadlineFire hd hlive hending]
    simp only [hquery]
    rfl

end Sys2Proof.Machine

namespace Sys2Proof.Machine

/-! ### FNEXT, waiting issues, fences, traps and power states (R376, R379, R387, R389, R392, R411 to R413, R444 to R448) -/

section
variable {s : State} {q : Sq} {w : BitVec 32}

/-- The core as FNEXT finds it: the thread that ran has left it, and Copse's time begins anew. -/
def Dev.fnextEnters (d : Dev) (now : Nat) (q : Sq) : Dev :=
  ((d.enter now q).leaveCore now q.core).modSq q.core fun k => { k with mAt := now }

/-- FNEXT with no error detected runs the thread of the local slot, or gates the core while there is none. -/
theorem exec_nxFnext (hr : s.dev.seqReady q = true) (hw : nxIs w 0x2B 6 = true) (ho : nxOk w 0 true true false = true)
    (hmode : q.user = false) :
    exec (.nxFnext q w .none) s = .next (s.withDev
      (if (((s.dev.fnextEnters s.now q).core q.core).sq.loc).isSome
        then ((s.dev.fnextEnters s.now q).fnextTake s.now q.core (nxRd w)).schedule s.now (cluOfCore q.core)
        else ((s.dev.fnextEnters s.now q).modSq q.core fun k => k.gate s.now (nxRd w)).schedule s.now (cluOfCore q.core))) := by
  show execNxFnext q w .none s = _
  have hlegal : (nxOk w 0 true true false && !q.user) = true := by simp [ho, hmode]
  simp only [State.dev] at hr
  simp only [execNxFnext, State.run_next, Bool.false_and, Bool.false_eq_true, if_false]
  split <;> simp only [Mach.onDev, Dev.nx_runs hr hw hlegal] <;> rfl

section
variable (hr : s.dev.seqReady q = true)
include hr

theorem exec_fenceI : exec (.fenceI q) s = .next (s.withDev ((s.dev.enter s.now q).modSq q.core fun k => { k with ibuf := false })) := by
  show execFenceI _ _ = _
  simp only [execFenceI, State.runAt_next, hr, if_true]

theorem exec_ecall :
    exec (.ecall q) s = .next (s.withDev ((s.dev.enter s.now q).toCopse s.now q.core (if q.user then 8 else 11))) := by
  show execEcall _ _ = _
  simp only [execEcall, State.runAt_next, hr, if_true]

theorem exec_ebreak : exec (.ebreak q) s = .next (s.withDev ((s.dev.enter s.now q).exc s.now q 3 eArg)) := by
  show execEbreak _ _ = _
  simp only [execEbreak, State.runAt_next, hr, if_true, excBreak]

theorem exec_illegalInstruction : exec (.illegalInstruction q) s = .next (s.withDev ((s.dev.enter s.now q).exc s.now q 2 eArg)) := by
  show execIllegalInstruction _ _ = _
  simp only [execIllegalInstruction, State.runAt_next, hr, if_true, excIllegal]

/-- W before a FENCE waits for the stores, I before and R after it invalidate the L1. -/
theorem exec_fence (pred succ : Nat) :
    exec (.fence q pred succ) s = .next (s.withDev (if bitAt pred 0
      then (s.dev.enter s.now q).afterStores s.now q.core fun d => if bitAt pred 3 && bitAt succ 1 then d.l1Clear q.core else d
      else if bitAt pred 3 && bitAt succ 1 then (s.dev.enter s.now q).l1Clear q.core else s.dev.enter s.now q)) := by
  show execFence _ _ _ _ = _
  simp only [execFence, State.runAt_next, hr, Bool.not_true, Bool.false_eq_true, if_false]

end

end

theorem Dev.meetRecord_zero (d : Dev) (c : Nat) (x : QEnt) : d.meetRecord c 0 x = (d, false) := if_pos (.inl rfl)

section
variable {s : State} {n : Nat}

/-- A waiting issue whose record has been copied already, or that has none, takes the place that frees. -/
theorem exec_engineQueueSpace {st : Nat} {x : QEnt} (hstall : (s.dev.core n).sq.stall = some (st, x))
    (hplace : s.dev.hasPlace n (Eng.ofNum (st % 8)) = true) (hrec : st / 8 = 0) :
    exec (.engineQueueSpace n) s = .next (s.withDev ((((s.dev.modSq n fun k => { k with stall := none }).bump .CORE_SQ_ISSUE [n]).place n
      (Eng.ofNum (st % 8)) x).coreAfter s.now n)) := by
  show execEngineQueueSpace _ _ = _
  simp only [execEngineQueueSpace, State.runAt_next, hstall, hplace, hrec, Nat.mul_zero, Dev.meetRecord_zero, if_true, Bool.false_eq_true,
    if_false]

theorem exec_threadBecomesUrgent {D : Nat} (hdead : s.dev.deadOf n = some D) (hready : (s.dev.thr n).st = .ready) :
    exec (.threadBecomesUrgent n) s = .next (s.later ((D - s.dev.cfgF .FOR_CFG [cluOf n] 0 32) * 12000)
      (s.dev.schedule (max s.now ((D - s.dev.cfgF .FOR_CFG [cluOf n] 0 32) * 12000)) (cluOf n))) := by
  simp only [State.dev] at hdead hready
  show execThreadBecomesUrgent _ _ = _
  simp only [execThreadBecomesUrgent, State.run_next, hdead, hready]
  rfl

theorem exec_clusterSleep (hhere : s.dev.cluHere n = true) (hrun : (s.dev.clu n).pst = 0) (hmay : s.dev.maySleep (s.now / 12000) n = true) :
    exec (.clusterSleep n) s =
      .next (s.withDev ((s.dev.modClu n fun x => { x with pst := 1, sleptAt := s.now, waking := false }).bump .CLU_SLEEPS [n])) := by
  show execClusterSleep _ _ = _
  rw [execClusterSleep, State.run_onDev]
  exact congrArg (fun d => Host.Outcome.next (s.withDev d)) (if_pos (by
    simp only [hhere, hrun, beq_self_eq_true, Bool.true_and]
    exact hmay))

theorem exec_clusterWake (hdue : s.dev.dueWithin (s.now / 12000) n (s.dev.cfgF .CLU_PWR [n] 0 16) = true) :
    exec (.clusterWake n) s = .next (s.withDev (s.dev.wakeWire n 2 false)) := by
  show execClusterWake _ _ = _
  rw [execClusterWake, State.run_onDev]
  exact congrArg (fun d => Host.Outcome.next (s.withDev d)) (if_pos hdue)

/-- A cluster that wakes from SLEEP keeps its cores' state. -/
theorem exec_clusterWakeComplete (hwaking : (s.dev.clu n).waking = true) (hsleep : (s.dev.clu n).pst = 1) :
    exec (.clusterWakeComplete n) s =
      .next (s.withDev ((s.dev.modClu n fun x => { x with pst := 0, waking := false }).schedule s.now n)) := by
  show execClusterWakeComplete _ _ = _
  rw [execClusterWakeComplete, State.run_onDev]
  refine congrArg (fun d => Host.Outcome.next (s.withDev d)) ?_
  simp [hwaking, hsleep]
  rfl

theorem exec_clusterOff (hsleep : (s.dev.clu n).pst = 1) (hwaking : (s.dev.clu n).waking = false)
    (hoff : s.dev.cfgF .CLU_PWR [n] 16 1 = 1) (hslots : (s.dev.slotsOf n).isEmpty = true) (hdelays : s.dev.noDelays n = true) :
    exec (.clusterOff n) s = .next (s.later ((s.dev.clu n).sleptAt + s.dev.cfgF .CLU_PWR [n] 20 24 * 12000)
      ((s.dev.modClu n fun x => { x with pst := 2 }).bump .CLU_OFFS [n])) := by
  simp only [State.dev] at hsleep hwaking hoff hslots hdelays
  show execClusterOff _ _ = _
  simp only [execClusterOff, State.run_next, hsleep, hwaking, hoff, hslots, hdelays]
  rfl

end

/-- Settles O34: FNEXT by the local slot, FENCE by its two sets, each of the others by the state that it needs. -/
theorem coreAndClusterCommandsAct : Obligations.CoreAndClusterCommandsAct := by
  intro s q w n d c up
  refine ⟨fun hr hw ho hmode => ⟨fun hloc => ?runs, fun hloc => ?gates⟩, fun st x => exec_engineQueueSpace,
    fun D => exec_threadBecomesUrgent,
    fun hr => ⟨exec_fenceI hr, exec_ecall hr, exec_ebreak hr, exec_illegalInstruction hr, fun pred succ hw hir => ?none,
      fun pred succ hw hir => ?stores, fun pred succ hw hi hrd => ?l1, fun pred succ hw hi hrd => ?both⟩,
    exec_clusterSleep, exec_clusterWake, exec_clusterWakeComplete, exec_clusterOff⟩
  case runs => exact (exec_nxFnext hr hw ho hmode).trans (congrArg (fun d => Host.Outcome.next (s.withDev d)) (if_pos hloc))
  case gates =>
    exact (exec_nxFnext hr hw ho hmode).trans
      (congrArg (fun d => Host.Outcome.next (s.withDev d)) (if_neg (Bool.eq_false_iff.1 hloc)))
  case none =>
    have hinv : (bitAt pred 3 && bitAt succ 1) = false := Bool.and_eq_false_iff.2 hir
    simp only [exec_fence hr, hw, hinv, Bool.false_eq_true, if_false]
    rfl
  case stores =>
    have hinv : (bitAt pred 3 && bitAt succ 1) = false := Bool.and_eq_false_iff.2 hir
    simp only [exec_fence hr, hw, hinv, Bool.false_eq_true, if_false, if_true]
    rfl
  case l1 =>
    simp only [exec_fence hr, hw, hi, hrd, Bool.and_self, Bool.false_eq_true, if_false, if_true]
    rfl
  case both =>
    simp only [exec_fence hr, hw, hi, hrd, Bool.and_self, if_true]
    rfl

end Sys2Proof.Machine

namespace Sys2Proof.Machine

/-! ### Engine issue (R378, R379, R419, R440) -/

theorem Dev.meetRecord_clean {d : Dev} (h : d.findings = []) (c n : Nat) (x : QEnt) : d.meetRecord c n x = (d, false) := by
  unfold Dev.meetRecord
  split
  · rfl
  · exact Dev.meetAll_clean _ _ h

section
variable {d : Dev} {now c h : Nat} {e : Eng} (x : QEnt) (hcur : (d.core c).sq.cur = some h)
include hcur

theorem Dev.issue_waits (n : Nat) (hplace : d.hasPlace c e = false) : d.issue now c e n x =
    d.modSq c fun k => { k with stall := some (e.num + 8 * n, { x with thr := h, job := (d.thr h).job }) } := by
  simp only [Dev.issue, hcur, hplace, Bool.not_false, if_true]

/-- An issue with a place free and no error met takes it, with a copy of the record that its engine's commands have. -/
theorem Dev.issue_takes (n : Nat) (hplace : d.hasPlace c e = true) (hclean : d.findings = []) : d.issue now c e n x =
    ((d.bump .CORE_SQ_ISSUE [c]).place c e (if n = 0 then { x with thr := h, job := (d.thr h).job }
      else d.copyRecord c (64 * n) { x with thr := h, job := (d.thr h).job })).coreAfter now c := by
  simp only [Dev.issue, hcur, hplace, Dev.meetRecord_clean hclean, Bool.not_true, Bool.false_eq_true, if_false]

end

/-- A stream command's record: DISARM (3) has none, CHAIN (4) one of 128 bytes, the others one of 64 (R282). -/
theorem copyRecord_seRecord (d : Dev) (c cmd : Nat) (x : QEnt) :
    (if seRecord cmd = 0 then x else d.copyRecord c (64 * seRecord cmd) x) =
      if cmd = 3 then x else if cmd = 4 then d.copyRecord c 128 x else d.copyRecord c 64 x := by
  unfold seRecord
  split_ifs <;> simp_all

/-- The funct3 of a stream issue names its engine. -/
theorem streamOfWord {w : BitVec 32} {e : Nat} (he : e < 2) (hw : nxIs w 0x0B (3 + e) = true) : (if nxIs w 0x0B 3 then 0 else 1) = e := by
  obtain rfl | rfl : e = 0 ∨ e = 1 := by omega
  · rw [if_pos hw]
  · simp only [nxIs, Bool.and_eq_true, beq_iff_eq] at hw ⊢
    rw [if_neg (by omega)]

section
variable {s : State} {q : Sq} {w : BitVec 32} (hr : s.dev.seqReady q = true)
include hr

theorem exec_nxIssueMe (rs1 rs2 : Word) (hw : nxIs w 0x0B 0 = true) (ho : nxOk w 0x30 false false true = true) :
    exec (.nxIssueMe q w rs1 rs2) s = .next (s.withDev ((s.dev.enter s.now q).issue s.now q.core .me 0
      { w0 := rs1, w1 := rs2, tok := bitAt rs1.toNat 31, k := nxK w })) := by
  show execNxIssueMe _ _ _ _ _ = _
  rw [execNxIssueMe, State.runAt_next, Dev.nx_runs hr hw ho]

theorem exec_nxIssueVe (rs1 rs2 : Word) (hw : nxIs w 0x0B 1 = true) (ho : nxOk w 0x30 false false true = true) :
    exec (.nxIssueVe q w rs1 rs2) s = .next (s.withDev ((s.dev.enter s.now q).issue s.now q.core .ve 0
      { w0 := rs1, w1 := rs2, tok := bitAt rs1.toNat 31, k := nxK w })) := by
  show execNxIssueVe _ _ _ _ _ = _
  rw [execNxIssueVe, State.runAt_next, Dev.nx_runs hr hw ho]

theorem exec_nxIssueGe (rs1 : Word) (hw : nxIs w 0x0B 2 = true) (ho : nxOk w 0x70 false true true = true) :
    exec (.nxIssueGe q w rs1) s = .next (s.withDev ((s.dev.enter s.now q).issue s.now q.core .ge 1
      { off := rs1.toNat, tok := bitAt w.toNat 31, k := nxK w })) := by
  show execNxIssueGe _ _ _ _ = _
  rw [execNxIssueGe, State.runAt_next, Dev.nx_runs hr hw ho]

theorem exec_nxIssueMq (rs1 : Word) (hw : nxIs w 0x0B 5 = true) (ho : nxOk w 0x70 false true true = true) :
    exec (.nxIssueMq q w rs1) s = .next (s.withDev ((s.dev.enter s.now q).issue s.now q.core .mq 1
      { off := rs1.toNat, tok := bitAt w.toNat 31, k := nxK w })) := by
  show execNxIssueMq _ _ _ _ = _
  rw [execNxIssueMq, State.runAt_next, Dev.nx_runs hr hw ho]

theorem exec_nxIssueSe (rs1 : Word) {e : Nat} (he : e < 2) (hw : nxIs w 0x0B (3 + e) = true) (hlow : 1 ≤ nxF w 25 4)
    (hhigh : nxF w 25 4 ≤ 4) (ho : nxOk w 0x7F (nxF w 25 4 == 3) true true = true) :
    exec (.nxIssueSe q w rs1) s = .next (s.withDev ((s.dev.enter s.now q).issue s.now q.core (.se e) (seRecord (nxF w 25 4))
      { cmd := nxF w 25 4, off := rs1.toNat, tok := bitAt w.toNat 31, k := nxK w })) := by
  show execNxIssueSe _ _ _ _ = _
  have hok : (nxOk w 0x7F (nxF w 25 4 == 3) true true && decide (1 ≤ nxF w 25 4) && decide (nxF w 25 4 ≤ 4)) = true := by
    simp [ho, hlow, hhigh]
  rw [execNxIssueSe, State.runAt_next]
  simp only [streamOfWord he hw, Dev.nx_runs hr hw hok]

end

/-- Settles O29: each engine's issue is one of the forms of `Dev.issue`, with the record that its commands have. -/
theorem issueTakesAPlaceOrWaits : Obligations.IssueTakesAPlaceOrWaits := by
  intro s q w rs1 rs2 h hr d j c hcur hclean
  refine ⟨⟨fun hw ho => ?me, fun hw ho => ?ve⟩, ⟨fun hw ho => ?ge, fun hw ho => ?mq⟩, fun e cmd he hw hcmd hlow hhigh ho => ?se⟩
  case me =>
    rw [exec_nxIssueMe hr rs1 rs2 hw ho]
    exact ⟨fun hplace => by rw [Dev.issue_takes _ hcur 0 hplace hclean, if_pos rfl],
      fun hplace => by rw [Dev.issue_waits _ hcur 0 hplace]; rfl⟩
  case ve =>
    rw [exec_nxIssueVe hr rs1 rs2 hw ho]
    exact ⟨fun hplace => by rw [Dev.issue_takes _ hcur 0 hplace hclean, if_pos rfl],
      fun hplace => by rw [Dev.issue_waits _ hcur 0 hplace]; rfl⟩
  case ge =>
    rw [exec_nxIssueGe hr rs1 hw ho]
    exact ⟨fun hplace => by rw [Dev.issue_takes _ hcur 1 hplace hclean, if_neg one_ne_zero],
      fun hplace => by rw [Dev.issue_waits _ hcur 1 hplace]; rfl⟩
  case mq =>
    rw [exec_nxIssueMq hr rs1 hw ho]
    exact ⟨fun hplace => by rw [Dev.issue_takes _ hcur 1 hplace hclean, if_neg one_ne_zero],
      fun hplace => by rw [Dev.issue_waits _ hcur 1 hplace]; rfl⟩
  case se =>
    subst hcmd
    intro x
    rw [exec_nxIssueSe hr rs1 he hw hlow hhigh ho]
    exact ⟨fun hplace => by rw [Dev.issue_takes _ hcur _ hplace hclean, copyRecord_seRecord],
      fun hplace => by rw [Dev.issue_waits _ hcur _ hplace]; rfl⟩

end Sys2Proof.Machine

namespace Sys2Proof.Machine

/-! ### NX.SYNC of this module's objects (R400, R402 to R408) -/

/-- An NX.SYNC of the running thread that names an object of this module, whose code does not fail, acts on that object. -/
theorem Mach.nxSync_runs {m : Mach} {q : Sq} {w : BitVec 32} {rs1 : Word} {op h n : Nat} {f : Dev → Nat → Nat → Option Nat → Nat → Dev}
    (hr : m.dev.seqReady q = true) (hw : nxIs w 0x2B 4 = true) (ho : nxOk w 0x37 false false false = true)
    (hcur : ((m.dev.enter m.und.now q).core q.core).sq.cur = some h) (haddr : m.dev.syncAddr rs1.toNat = .inr (none, n))
    (haddrM : (m.dev.enter m.und.now q).syncAddr rs1.toNat = .inr (none, n)) (hop : nxF w 25 3 = op) :
    m.nxSync q w rs1 op false f = m.onDev fun _ =>
      f (m.dev.enter m.und.now q) h ((m.dev.enter m.und.now q).thr h).job none n := by
  simp only [Mach.nxSync, hop, ne_eq, not_true_eq_false, haddr, Bool.false_and, Bool.false_eq_true, if_false, Mach.onDev,
    Dev.nx_runs hr hw ho, hcur, haddrM]

theorem Dev.afterStores_now {d : Dev} {now c : Nat} {f : Dev → Dev} (h : (d.drainMb now c).storesOut c = false) :
    d.afterStores now c f = f (d.drainMb now c) := by
  simp only [Dev.afterStores, h, Bool.false_eq_true, if_false]

section
variable {s : State} {q : Sq} {w : BitVec 32} {rs1 rs2 : Word} {h n : Nat} (hr : s.dev.seqReady q = true) (hw : nxIs w 0x2B 4 = true)
  (ho : nxOk w 0x37 false false false = true) (hcur : ((s.dev.enter s.now q).core q.core).sq.cur = some h)
  (haddr : s.dev.syncAddr rs1.toNat = .inr (none, n)) (haddrM : (s.dev.enter s.now q).syncAddr rs1.toNat = .inr (none, n))
include hr hw ho hcur haddr haddrM

/-- ADD, once the thread's stores have completed; rd takes the value before. -/
theorem exec_nxSyncAdd (hop : nxF w 25 3 = 0) (hout : ((s.dev.enter s.now q).drainMb s.now q.core).storesOut q.core = false)
    (hbroken : ((s.dev.enter s.now q).drainMb s.now q.core).syncBroken n = false) :
    exec (.nxSyncAdd q w rs1 rs2 false) s = .next (s.withDev ((((s.dev.enter s.now q).drainMb s.now q.core).syncAdd s.now n rs2).setX
      q.core (nxRd w) (((s.dev.enter s.now q).drainMb s.now q.core).syncVal n))) := by
  refine congrArg (fun m => Host.Outcome.next (s.withMach m)) ((Mach.nxSync_runs hr hw ho hcur haddr haddrM hop).trans ?_)
  refine congrArg (fun d => s.mach.onDev fun _ => d) ((Dev.afterStores_now hout).trans ?_)
  exact if_neg (by simp [hbroken])

theorem exec_nxSyncSet (hop : nxF w 25 3 = 1) (hout : ((s.dev.enter s.now q).drainMb s.now q.core).storesOut q.core = false) :
    exec (.nxSyncSet q w rs1 rs2 false) s = .next (s.withDev ((((s.dev.enter s.now q).drainMb s.now q.core).syncSet s.now n rs2).setX
      q.core (nxRd w) (((s.dev.enter s.now q).drainMb s.now q.core).syncVal n))) := by
  refine congrArg (fun m => Host.Outcome.next (s.withMach m)) ((Mach.nxSync_runs hr hw ho hcur haddr haddrM hop).trans ?_)
  exact congrArg (fun d => s.mach.onDev fun _ => d) (Dev.afterStores_now hout)

section
variable (hbroken : ((s.dev.enter s.now q).setX q.core (nxRd w) 0).syncBroken n = false)
include hbroken

theorem exec_nxSyncWaitGe (hop : nxF w 25 3 = 2) :
    exec (.nxSyncWaitGe q w rs1 rs2 false) s = .next (s.withDev (((s.dev.enter s.now q).setX q.core (nxRd w) 0).syncWait s.now
      ⟨n, false, rs2, .thread h (nxK w), s.now⟩)) := by
  refine congrArg (fun m => Host.Outcome.next (s.withMach m)) ((Mach.nxSync_runs hr hw ho hcur haddr haddrM hop).trans ?_)
  exact congrArg (fun d => s.mach.onDev fun _ => d) (if_neg (Bool.eq_false_iff.1 hbroken))

theorem exec_nxSyncWaitEq (hop : nxF w 25 3 = 3) :
    exec (.nxSyncWaitEq q w rs1 rs2 false) s = .next (s.withDev (((s.dev.enter s.now q).setX q.core (nxRd w) 0).syncWait s.now
      ⟨n, true, rs2, .thread h (nxK w), s.now⟩)) := by
  refine congrArg (fun m => Host.Outcome.next (s.withMach m)) ((Mach.nxSync_runs hr hw ho hcur haddr haddrM hop).trans ?_)
  exact congrArg (fun d => s.mach.onDev fun _ => d) (if_neg (Bool.eq_false_iff.1 hbroken))

end

/-- DECL of an object that the job has not declared yet, with room for it. -/
theorem exec_nxSyncDecl {l : List (Nat × Word)} (hop : nxF w 25 3 = 4) (hbroken : (s.dev.enter s.now q).syncBroken n = false)
    (hl : ((s.dev.enter s.now q).job ((s.dev.enter s.now q).thr h).job).decl = l) (hroom : l.length < 16) (hnew : ∀ p ∈ l, p.1 ≠ n) :
    exec (.nxSyncDecl q w rs1 false) s = .next (s.withDev ((((s.dev.enter s.now q).modJob ((s.dev.enter s.now q).thr h).job fun b =>
      { b with decl := l ++ [(n, (s.dev.enter s.now q).syncVal n)] }).bump .SYN_OPS [syncHome n]).setX q.core (nxRd w)
        ((s.dev.enter s.now q).syncVal n))) := by
  have hkept : l.filter (fun p => p.1 != n) = l := List.filter_eq_self.2 fun p hp => by simpa using hnew p hp
  refine congrArg (fun m => Host.Outcome.next (s.withMach m)) ((Mach.nxSync_runs hr hw ho hcur haddr haddrM hop).trans ?_)
  refine congrArg (fun d => s.mach.onDev fun _ => d) ?_
  simp only [Option.isSome_none, Bool.false_eq_true, if_false, State.dev, State.now] at hbroken hl ⊢
  simp only [hbroken, hl, hkept, Bool.false_eq_true, if_false]
  exact if_neg (by simp [hroom])

end

/-- Settles O32: one operation's rule each. -/
theorem syncInstructionsAct : Obligations.SyncInstructionsAct := by
  intro s q w rs1 rs2 h n hr hw ho d c j hcur haddr haddrM
  exact ⟨exec_nxSyncAdd hr hw ho hcur haddr haddrM, exec_nxSyncSet hr hw ho hcur haddr haddrM,
    fun hop hbroken => exec_nxSyncWaitGe hr hw ho hcur haddr haddrM hbroken hop,
    fun hop hbroken => exec_nxSyncWaitEq hr hw ho hcur haddr haddrM hbroken hop,
    fun hop hbroken hroom hnew => exec_nxSyncDecl hr hw ho hcur haddr haddrM hop hbroken rfl hroom hnew⟩

end Sys2Proof.Machine

namespace Sys2Proof.Machine

/-! ### Aligned loads and stores of a sequencer (R374, R444, R445, R451) -/

/-- An access in U is to a privileged view of this module only where its target is one. -/
theorem Dev.privAccess_of_ext {d : Dev} {q : Sq} {a u b : Nat} (h : d.target (dlaOf a) = .ext u b) : d.privAccess q a = false := by
  simp [Dev.privAccess, h]

theorem Dev.privAccess_of_syncObj {d : Dev} {q : Sq} {a n o : Nat} (h : d.target (dlaOf a) = .syncObj n o) : d.privAccess q a = false := by
  simp [Dev.privAccess, h]

theorem Dev.privAccess_of_remote {d : Dev} {q : Sq} {a k : Nat} (h : d.remoteOf a = some k) : d.privAccess q a = false := by
  simp [Dev.privAccess, h]

/-- A load's bytes are in the merging buffer only where an entry of its block stands there. -/
theorem Dev.entry_of_mbHit {d : Dev} {c a size y : Nat} (h : d.mbHit c a size = .all y) :
    ∃ e, ((d.core c).sq.mb.find? fun e => e.block == d.mbKey a) = some e := by
  unfold Dev.mbHit at h
  split at h
  case h_1 => cases h
  case h_2 e he => exact ⟨e, he⟩

/-- A sequencer that is ready and an access of a size that it has. -/
theorem seqAccess_runs {s : State} {q : Sq} {size : Nat} (hr : s.dev.seqReady q = true)
    (hsize : size = 1 ∨ size = 2 ∨ size = 4 ∨ size = 8) : (!s.mach.dev.seqReady q || !([1, 2, 4, 8].contains size)) = false := by
  have hlist : [1, 2, 4, 8].contains size = true := by simpa using hsize
  rw [hlist, ← State.dev, hr]
  rfl

section
variable {s : State} {q : Sq} {rd size a : Nat} {sgn : Bool} {v : Word} (hr : s.dev.seqReady q = true)
  (hsize : size = 1 ∨ size = 2 ∨ size = 4 ∨ size = 8) (halign : a % size = 0) (hrange : a < 2 ^ 56)
include hr hsize halign hrange

section
variable (hpriv : (s.dev.enter s.now q).privAccess q a = false)
include hpriv

/-- A load whose bytes the merging buffer holds takes them from there. -/
theorem exec_seqLoad_buffered {y : Nat} (hhit : (s.dev.enter s.now q).mbHit q.core a size = .all y) :
    exec (.seqLoad q rd size sgn a .none) s = .next (s.withDev ((s.dev.enter s.now q).loadDone q.core rd size sgn y false)) := by
  obtain ⟨e, he⟩ := Dev.entry_of_mbHit hhit
  simp only [State.dev, State.now] at hpriv hhit he
  show execSeqLoad q rd size sgn a .none s = _
  simp only [execSeqLoad, State.run_next, seqAccess_runs hr hsize, Bool.false_eq_true, if_false, Mach.regFileHit, Mach.onDev, hpriv, halign,
    ne_eq, not_true_eq_false, Nat.not_le.2 hrange, hhit, he, detIs]
  rfl

/-- A load of this module of which the merging buffer holds nothing goes where its address leads. -/
theorem exec_seqLoad_here (hmiss : (s.dev.enter s.now q).mbHit q.core a size = .none) (hhere : (s.dev.enter s.now q).remoteOf a = none) :
    exec (.seqLoad q rd size sgn a .none) s =
      .next (s.withMach ((s.mach.onDev fun d => d.enter s.now q).loadHere q rd size sgn (dlaOf a) .none)) := by
  simp only [State.dev, State.now] at hpriv hmiss hhere
  show execSeqLoad q rd size sgn a .none s = _
  simp only [execSeqLoad, State.run_next, seqAccess_runs hr hsize, Bool.false_eq_true, if_false, Mach.regFileHit, Mach.onDev, hpriv, halign,
    ne_eq, not_true_eq_false, Nat.not_le.2 hrange, hmiss, hhere, reduceCtorEq]
  rfl

theorem exec_seqStore_here (hhere : (s.dev.enter s.now q).remoteOf a = none) :
    exec (.seqStore q size a v .none) s =
      .next (s.withMach ((s.mach.onDev fun d => d.enter s.now q).storeHere q size a (v.toNat % 2 ^ (8 * size)))) := by
  simp only [State.dev, State.now] at hpriv hhere
  show execSeqStore q size a v .none s = _
  simp only [execSeqStore, State.run_next, seqAccess_runs hr hsize, Bool.false_eq_true, if_false, Mach.regFileHit, Mach.onDev, hpriv, halign,
    ne_eq, not_true_eq_false, Nat.not_le.2 hrange, hhere]
  rfl

end

theorem exec_seqStore_far {k : Nat} (hfar : (s.dev.enter s.now q).remoteOf a = some k) (hroute : (s.dev.enter s.now q).routeCheck k = .send) :
    exec (.seqStore q size a v .none) s = .next (s.withDev ((s.dev.enter s.now q).mbStore s.now q.core a
      (((s.dev.enter s.now q).curJob q.core).getD 0) (leBytes size (v.toNat % 2 ^ (8 * size))))) := by
  have hpriv : (s.dev.enter s.now q).privAccess q a = false := Dev.privAccess_of_remote hfar
  simp only [State.dev, State.now] at hpriv hfar hroute
  show execSeqStore q size a v .none s = _
  simp only [execSeqStore, State.run_next, seqAccess_runs hr hsize, Bool.false_eq_true, if_false, Mach.regFileHit, Mach.onDev, hpriv, halign,
    ne_eq, not_true_eq_false, Nat.not_le.2 hrange, hfar, hroute]
  rfl

end

section
variable {m : Mach} {q : Sq} {rd size a : Nat} {sgn : Bool}

/-- A load of external memory that the L1 data cache does not cache reads the memory, unless it must wait. -/
theorem Mach.loadHere_ext {u b : Nat} (ht : m.dev.target a = .ext u b) (hl1 : m.dev.l1Caches a = false)
    (hheld : m.dev.heldRange a size = false) :
    m.loadHere q rd size sgn a .none = if m.dev.loadWaits q.core a size then m else m.onDev fun d =>
      (d.touch a size { part := d.corePart q.core, alloc := false }).loadDone q.core rd size sgn (d.num a size) (d.poisoned a size) := by
  simp only [Mach.loadHere, ht, hl1, hheld, Bool.false_eq_true, if_false]

theorem Mach.loadHere_syncObj {n o : Nat} (ht : m.dev.target a = .syncObj n o) (hbroken : m.dev.syncBroken n = false) :
    m.loadHere q rd size sgn a .none = m.onDev fun d => d.loadDone q.core rd size sgn (recNum (d.syncBytes n) o size) false := by
  have hclean : (Det.none == .twice .syncUnit) = false := rfl
  simp only [Mach.loadHere, ht, hclean, Bool.false_and, Mach.onDev, hbroken, Bool.false_eq_true, if_false]

theorem Mach.storeHere_ext {ga v u b : Nat} (ht : m.dev.target (dlaOf ga) = .ext u b) (hheld : m.dev.heldRange (dlaOf ga) size = false) :
    m.storeHere q size ga v =
      m.onDev fun d => d.mbStore m.und.now q.core ga ((d.curJob q.core).getD 0) (leBytes size v) := by
  simp only [Mach.storeHere, ht, hheld, Bool.false_eq_true, if_false]

end

/-- A load of external memory that the L1 data cache does not cache, of which the merging buffer holds nothing. -/
theorem exec_seqLoad_ext {s : State} {q : Sq} {rd size a u b : Nat} {sgn : Bool} (hr : s.dev.seqReady q = true)
    (hsize : size = 1 ∨ size = 2 ∨ size = 4 ∨ size = 8) (halign : a % size = 0) (hrange : a < 2 ^ 56)
    (hmiss : (s.dev.enter s.now q).mbHit q.core a size = .none) (hhere : (s.dev.enter s.now q).remoteOf a = none)
    (ht : (s.dev.enter s.now q).target (dlaOf a) = .ext u b) (hl1 : (s.dev.enter s.now q).l1Caches (dlaOf a) = false)
    (hheld : (s.dev.enter s.now q).heldRange (dlaOf a) size = false) :
    exec (.seqLoad q rd size sgn a .none) s = .next (s.withDev
      (if (s.dev.enter s.now q).loadWaits q.core (dlaOf a) size then s.dev.enter s.now q
      else ((s.dev.enter s.now q).touch (dlaOf a) size { part := (s.dev.enter s.now q).corePart q.core, alloc := false }).loadDone q.core rd
        size sgn ((s.dev.enter s.now q).num (dlaOf a) size) ((s.dev.enter s.now q).poisoned (dlaOf a) size))) := by
  rw [exec_seqLoad_here hr hsize halign hrange (Dev.privAccess_of_ext ht) hmiss hhere,
    Mach.loadHere_ext (m := s.mach.onDev fun d => d.enter s.now q) ht hl1 hheld]
  show Host.Outcome.next (s.withMach (if (s.dev.enter s.now q).loadWaits q.core (dlaOf a) size then _ else _)) = _
  split <;> rfl

/-- Settles O35: each access by where the merging buffer, the routes and the target send it. -/
theorem loadsAndStoresAct : Obligations.LoadsAndStoresAct := by
  intro s q rd size a sgn v hr hsize halign hrange d c x
  refine ⟨fun y hpriv hhit => exec_seqLoad_buffered hr hsize halign hrange hpriv hhit,
    fun u b hmiss hhere ht hl1 hwait hheld => ?memory, fun n o hmiss hhere ht hbroken => ?object,
    fun u b hhere ht hheld => ?store, fun k hfar hroute => exec_seqStore_far hr hsize halign hrange hfar hroute⟩
  case memory => rw [exec_seqLoad_ext hr hsize halign hrange hmiss hhere ht hl1 hheld, if_neg (Bool.eq_false_iff.1 hwait)]
  case object =>
    refine (exec_seqLoad_here hr hsize halign hrange (Dev.privAccess_of_syncObj ht) hmiss hhere).trans ?_
    exact congrArg (fun m => Host.Outcome.next (s.withMach m)) (Mach.loadHere_syncObj ht hbroken)
  case store =>
    refine (exec_seqStore_here hr hsize halign hrange (Dev.privAccess_of_ext ht) hhere).trans ?_
    exact congrArg (fun m => Host.Outcome.next (s.withMach m)) (Mach.storeHere_ext ht hheld)

end Sys2Proof.Machine

namespace Sys2Proof.Machine

/-! ### The frame of a load (R374, R444, R445) -/

/-- A read that allocates no line leaves every byte, every mark and every core as they are: no line is evicted for it. -/
theorem Dev.touchLine_noAlloc (d : Dev) (a n part : Nat) :
    (d.touchLine a n { part := part, alloc := false }).mem = d.mem ∧
      (d.touchLine a n { part := part, alloc := false }).cores = d.cores := by
  have hbytes (e : Dev) (u k : Nat) : (e.memBytes u part k).mem = e.mem ∧ (e.memBytes u part k).cores = e.cores := by
    unfold Dev.memBytes
    dsimp only
    split <;> exact ⟨rfl, rfl⟩
  have hkeeps (attr : Nat) : ({ part := part, alloc := false } : Access).keeps attr = false := by simp [Access.keeps]
  unfold Dev.touchLine
  simp only [hkeeps, Bool.false_eq_true, if_false]
  split
  case h_1 => exact ⟨rfl, rfl⟩
  case h_2 =>
    split
    · exact hbytes ..
    · split
      · exact hbytes ..
      · split_ifs
        · exact ⟨rfl, rfl⟩
        · exact hbytes ..
  case h_3 => exact ⟨rfl, rfl⟩

theorem Dev.touch_noAlloc (d : Dev) (a n part : Nat) :
    (d.touch a n { part := part, alloc := false }).mem = d.mem ∧ (d.touch a n { part := part, alloc := false }).cores = d.cores := by
  unfold Dev.touch
  refine List.foldlRecOn (motive := fun e : Dev => e.mem = d.mem ∧ e.cores = d.cores) _ _ ⟨rfl, rfl⟩ fun e he l _ => ?_
  obtain ⟨hmem, hcores⟩ := Dev.touchLine_noAlloc e (overlap a n l 128).1 (overlap a n l 128).2 part
  exact ⟨hmem.trans he.1, hcores.trans he.2⟩

/-- `e` has the memory of `d`, the other cores of `d`, and of core `c` every register but `rd`. -/
structure Dev.OnlyRd (d : Dev) (c rd : Nat) (e : Dev) : Prop where
  wf : SMap.wf {} e.cores = true
  mem : e.mem = d.mem
  other : ∀ k, k ≠ c → e.core k = d.core k
  own : ∀ r, r ≠ rd → SMap.get 0 (e.core c).sq.x r = SMap.get 0 (d.core c).sq.x r

namespace Dev.OnlyRd

variable {d e e' : Dev} {c rd : Nat}

theorem refl (h : SMap.wf {} d.cores = true) : d.OnlyRd c rd d := ⟨h, rfl, fun _ _ => rfl, fun _ _ => rfl⟩

theorem of_eq (h : d.OnlyRd c rd e) (hmem : e'.mem = e.mem) (hcores : e'.cores = e.cores) : d.OnlyRd c rd e' := by
  have hcore (k : Nat) : e'.core k = e.core k := by rw [Dev.core, hcores, Dev.core]
  exact ⟨hcores ▸ h.wf, hmem.trans h.mem, fun k hk => (hcore k).trans (h.other k hk), fun r hr => by rw [hcore c, h.own r hr]⟩

theorem modSq {f : Machine.Seq → Machine.Seq} (h : d.OnlyRd c rd e) (hf : ∀ k r, r ≠ rd → SMap.get 0 (f k).x r = SMap.get 0 k.x r) :
    d.OnlyRd c rd (e.modSq c f) where
  wf := SMap.wf_put _ _ _ _ h.wf
  mem := h.mem
  other k hk := (SMap.get_put_other _ _ _ _ _ hk).trans (h.other k hk)
  own r hr := by
    have hcore : (e.modSq c f).core c = _ := Dev.core_modCore h.wf
    rw [hcore]
    exact (hf _ r hr).trans (h.own r hr)

theorem enter {q : Sq} (h : d.OnlyRd q.core rd e) (now : Nat) : d.OnlyRd q.core rd (e.enter now q) :=
  h.modSq fun _ _ _ => rfl

theorem setX (h : d.OnlyRd c rd e) (v : Word) : d.OnlyRd c rd (e.setX c rd v) := by
  unfold Dev.setX
  split
  · exact h
  · exact h.modSq fun k r hr => SMap.get_put_other 0 k.x rd r v hr

theorem loadDone (h : d.OnlyRd c rd e) (size : Nat) (sgn : Bool) (v : Nat) (poison : Bool) :
    d.OnlyRd c rd (e.loadDone c rd size sgn v poison) := by
  unfold Dev.loadDone
  refine OnlyRd.setX ?_ _
  split
  · split
    · exact h.of_eq rfl rfl
    · exact h
  · exact h

end Dev.OnlyRd

/-- Settles O15: a load that the merging buffer answers, one that reads the memory, and one that waits, leave all but rd as it is. -/
theorem loadsChangeOnlyTheirRegister : Obligations.LoadsChangeOnlyTheirRegister := by
  intro s t q rd size a sgn hwf hr hsize halign hrange d hcase ht
  have hd : s.dev.OnlyRd q.core rd d := (Dev.OnlyRd.refl hwf).enter s.now
  have hframe : ∃ e, t = s.withDev e ∧ s.dev.OnlyRd q.core rd e := by
    obtain ⟨hpriv, y, hhit⟩ | ⟨hmiss, hhere, ⟨u, b, htgt⟩, hl1, hheld⟩ := hcase
    case inl =>
      rw [exec_seqLoad_buffered hr hsize halign hrange hpriv hhit] at ht
      exact ⟨_, (Host.Outcome.next.inj ht).symm, hd.loadDone ..⟩
    case inr =>
      rw [exec_seqLoad_ext hr hsize halign hrange hmiss hhere htgt hl1 hheld] at ht
      refine ⟨_, (Host.Outcome.next.inj ht).symm, ?_⟩
      split
      · exact hd
      · obtain ⟨hmem, hcores⟩ := Dev.touch_noAlloc d (dlaOf a) size (d.corePart q.core)
        exact (hd.of_eq hmem hcores).loadDone ..
  obtain ⟨e, rfl, he⟩ := hframe
  exact ⟨he.mem, he.other, he.own, rfl⟩

end Sys2Proof.Machine

namespace Sys2Proof.Machine

/-! ### What leaves the sync units alone

A monitor that fires sends a token, and a token can end a job: its cores drain their stores, its requests to other modules go, its cluster
schedules. None of that writes a sync unit but for the monitors of the job, which R397 removes. -/

theorem Dev.foldl_sync {α : Type} {f : Dev → α → Dev} (hf : ∀ d x, (f d x).sync = d.sync) (l : List α) (d : Dev) :
    (l.foldl f d).sync = d.sync :=
  List.foldlRecOn (motive := fun e : Dev => e.sync = d.sync) l f rfl fun e he x _ => (hf e x).trans he

/-! #### Memory: controllers, slices and writes -/

@[simp] theorem Dev.setPlace_sync (d : Dev) (p : Nat) (x : Place) : (d.setPlace p x).sync = d.sync := rfl
@[simp] theorem Dev.bumpHi_sync (d : Dev) (r : Reg) (ix : List Nat) (n : Nat) : (d.bumpHi r ix n).sync = d.sync := rfl
@[simp] theorem Dev.bump64_sync (d : Dev) (r : Reg) (ix : List Nat) (n : Nat) : (d.bump64 r ix n).sync = d.sync := rfl
@[simp] theorem Dev.charge_sync (d : Dev) (p part n : Nat) : (d.charge p part n).sync = d.sync := rfl
@[simp] theorem Dev.queueReq_sync (d : Dev) (now u : Nat) (q : MReq) : (d.queueReq now u q).sync = d.sync := rfl
@[simp] theorem Dev.lineWritten_sync (d : Dev) (a n : Nat) : (d.lineWritten a n).sync = d.sync := rfl

@[simp] theorem Dev.memBytes_sync (d : Dev) (u part n : Nat) : (d.memBytes u part n).sync = d.sync := by
  unfold Dev.memBytes
  dsimp only
  split <;> rfl

@[simp] theorem Dev.issueAll_sync (u n : Nat) (d : Dev) : (d.issueAll u n).sync = d.sync := by
  induction n generalizing d with
  | zero => rfl
  | succ n ih =>
    unfold Dev.issueAll
    split
    · simp [ih, Dev.issueReq]
    · rfl

@[simp] theorem Dev.pumpUnit_sync (d : Dev) (u : Nat) : (d.pumpUnit u).sync = d.sync := Dev.issueAll_sync u _ d

@[simp] theorem Dev.takeFind_sync (d : Dev) : d.takeFind.1.sync = d.sync := by
  unfold Dev.takeFind
  split <;> rfl

@[simp] theorem Dev.wbLine_sync (d : Dev) (b : Nat) (x : Det) : (d.wbLine b x).sync = d.sync := by
  unfold Dev.wbLine
  split
  · rfl
  · simp only [Dev.pumpUnit_sync, Dev.queueReq_sync]
    split
    · split <;> rfl
    · rfl

@[simp] theorem Dev.unveil_sync (d : Dev) (l : Nat × CanLine) : (d.unveil l).sync = d.sync :=
  Dev.foldl_sync (f := fun (d : Dev) g => d.spoil (l.1 * 128 + g * 64)) (fun _ _ => rfl) _ d

@[simp] theorem Dev.evict_sync (d : Dev) (l : Nat × CanLine) : (d.evict l).sync = d.sync := by
  unfold Dev.evict
  dsimp only
  split <;> simp [Dev.writeBack]

@[simp] theorem Dev.makeRoom_sync (d : Dev) (b : Nat) : (d.makeRoom b).sync = d.sync := by
  unfold Dev.makeRoom
  dsimp only
  split
  · rfl
  · split
    · simp
    · rfl

@[simp] theorem Dev.touchLine_sync (d : Dev) (a n : Nat) (x : Access) : (d.touchLine a n x).sync = d.sync := by
  have ask (e : Dev) (u k : Nat) : (if x.fetched = true then e else e.memBytes u x.part k).sync = e.sync := by split <;> simp
  unfold Dev.touchLine
  dsimp only
  split
  case h_1 => rfl
  case h_2 =>
    split
    · exact ask ..
    · split
      · exact ask ..
      · split
        · rfl
        · split
          · refine (Dev.makeRoom_sync ..).trans ?_
            split
            · rfl
            · exact ask ..
          · exact ask ..
  case h_3 => rfl

@[simp] theorem Dev.touch_sync (d : Dev) (a n : Nat) (x : Access) : (d.touch a n x).sync = d.sync :=
  Dev.foldl_sync (fun d _ => Dev.touchLine_sync d ..) _ _

@[simp] theorem Dev.store_sync (d : Dev) (a : Nat) (bs : List Byte) (poison : Bool) (by_ part : Option Nat) (force : Bool) :
    (d.store a bs poison by_ part force).sync = d.sync := by
  unfold Dev.store
  split
  · simp [Dev.storeNow]
  · rfl

/-! #### Requests to other modules -/

@[simp] theorem Dev.setPeer_sync (d : Dev) (k : Nat) (p : Peer) : (d.setPeer k p).sync = d.sync := rfl
@[simp] theorem Dev.setTx_sync (d : Dev) (k chan : Nat) (f : TxFlow) : (d.setTx k chan f).sync = d.sync := rfl
@[simp] theorem Dev.startPeer_sync (d : Dev) (k inc : Nat) : (d.startPeer k inc).sync = d.sync := rfl

@[simp] theorem Dev.sendFrame_sync (d : Dev) (n s prio : Nat) (o : Out) : (d.sendFrame n s prio o).sync = d.sync := by
  unfold Dev.sendFrame
  dsimp only
  split <;> rfl

@[simp] theorem Dev.sendRaw_sync (d : Dev) (k port e ptype chan flags dinc psn : Nat) (payload : List Byte) :
    (d.sendRaw k port e ptype chan flags dinc psn payload).sync = d.sync := by
  unfold Dev.sendRaw
  split
  · unfold Dev.askHop Dev.askNbr
    dsimp only
    split <;> simp
  · simp

@[simp] theorem Dev.sendPkt_sync (d : Dev) (k chan : Nat) (p : Pkt) (retx : Bool) (path : Option (Nat × Nat)) :
    (d.sendPkt k chan p retx path).sync = d.sync := by
  unfold Dev.sendPkt
  split
  · dsimp only
    split <;> simp
  · rfl

@[simp] theorem Dev.pumpOne_sync (d : Dev) (k chan now : Nat) : (d.pumpOne k chan now).sync = d.sync := by
  unfold Dev.pumpOne
  dsimp only
  split
  · rfl
  · split
    · simp
    · rfl

@[simp] theorem Dev.pump_sync (k chan now n : Nat) (d : Dev) : (d.pump k chan now n).sync = d.sync := by
  induction n generalizing d with
  | zero => rfl
  | succ n ih => exact (ih _).trans (Dev.pumpOne_sync ..)

@[simp] theorem Dev.sendMsg_sync (d : Dev) (k chan now : Nat) (g : Msg) : (d.sendMsg k chan now g).sync = d.sync := by
  unfold Dev.sendMsg
  dsimp only
  split
  · rfl
  · simp only [Dev.pump_sync, Dev.setTx_sync]
    split <;> rfl

@[simp] theorem Dev.request_sync (d : Dev) (k now mtype flags olane op : Nat) (body : List Byte) (job : Option Nat) (who : Who) :
    (d.request k now mtype flags olane op body job who).sync = d.sync :=
  Dev.sendMsg_sync ..

@[simp] theorem Dev.respond_sync (d : Dev) (k now mtype status tag : Nat) (body : List Byte) :
    (d.respond k now mtype status tag body).sync = d.sync :=
  Dev.sendMsg_sync ..

/-! #### The merging buffer and the engines of a core -/

@[simp] theorem Dev.putLocal_sync (d : Dev) (core job a : Nat) (bs : List Byte) : (d.putLocal core job a bs).sync = d.sync := by
  unfold Dev.putLocal
  split
  case h_1 | h_2 => simp
  case h_3 => split_ifs <;> rfl
  case h_4 => rfl

@[simp] theorem Dev.writeEntry_sync (d : Dev) (now core : Nat) (e : MbEnt) : (d.writeEntry now core e).sync = d.sync := by
  unfold Dev.writeEntry
  dsimp only
  split
  · exact Dev.foldl_sync (fun d _ => by simp [Dev.l1Write]) _ _
  · refine Dev.foldl_sync (fun d r => ?_) _ _
    split
    · simp
    · rfl

@[simp] theorem Dev.drainEntry_sync (d : Dev) (now core : Nat) (e : MbEnt) : (d.drainEntry now core e).sync = d.sync := by
  unfold Dev.drainEntry
  dsimp only
  split <;> simp

@[simp] theorem Dev.drainMb_sync (d : Dev) (now core : Nat) : (d.drainMb now core).sync = d.sync :=
  Dev.foldl_sync (fun d _ => Dev.drainEntry_sync d ..) _ _

@[simp] theorem Dev.stallEnd_sync (d : Dev) (now c e : Nat) : (d.stallEnd now c e).sync = d.sync := by
  unfold Dev.stallEnd
  split
  · dsimp only
    split <;> rfl
  · rfl

@[simp] theorem Dev.leaveCore_sync (d : Dev) (now core : Nat) : (d.leaveCore now core).sync = d.sync := by
  unfold Dev.leaveCore
  dsimp only
  split <;> rfl

@[simp] theorem Dev.trapCore_sync (d : Dev) (now core cause : Nat) : (d.trapCore now core cause).sync = d.sync := by
  have hwait : (d.acmWaitEnd now core).sync = d.sync := Dev.foldl_sync (fun d k => Dev.stallEnd_sync d now k _) _ _
  simp [Dev.trapCore, hwait]

@[simp] theorem Dev.landAcm_sync (d : Dev) : d.landAcm.sync = d.sync := by
  refine Dev.foldl_sync (fun d x => ?_) _ _
  split <;> rfl

@[simp] theorem Dev.dropWork_sync (d : Dev) (now c j : Nat) : (d.dropWork now c j).sync = d.sync := by
  unfold Dev.dropWork
  dsimp only
  rw [Dev.landAcm_sync, Dev.foldl_sync (f := fun (d : Dev) (a : Nat × Nat) => d.scramble a.1 a.2) (fun _ _ => rfl), Dev.modCore_sync,
    Dev.foldl_sync fun d e => Dev.stallEnd_sync d now c e]

/-! #### The Forester -/

@[simp] theorem Dev.fnextTake_sync (d : Dev) (now core rd : Nat) : (d.fnextTake now core rd).sync = d.sync := by
  unfold Dev.fnextTake
  split <;> rfl

@[simp] theorem Dev.fillSlot_sync (d : Dev) (now core : Nat) : (d.fillSlot now core).sync = d.sync := by
  unfold Dev.fillSlot
  dsimp only
  split
  case h_1 => rfl
  case h_2 h rule _ =>
    split
    case isTrue => rfl
    case isFalse =>
      (repeat' split) <;> simp

@[simp] theorem Dev.fillSlots_sync (now n k : Nat) (d : Dev) : (d.fillSlots now n k).sync = d.sync := by
  induction k generalizing d with
  | zero => rfl
  | succ k ih =>
    have hround : ((List.range 8).foldl (fun d i => d.fillSlot now (n * 8 + i)) d).sync = d.sync :=
      Dev.foldl_sync (fun d i => Dev.fillSlot_sync ..) _ _
    unfold Dev.fillSlots
    dsimp only
    split
    · exact hround
    · exact (ih _).trans hround

@[simp] theorem Dev.schedule_sync (d : Dev) (now n : Nat) : (d.schedule now n).sync = d.sync := by
  unfold Dev.schedule
  split
  · simp
  · rfl

@[simp] theorem Dev.wakeWire_sync (d : Dev) (n cause : Nat) (fromOff : Bool) : (d.wakeWire n cause fromOff).sync = d.sync := by
  unfold Dev.wakeWire
  dsimp only
  split <;> rfl

@[simp] theorem Dev.onSync_sync (d : Dev) (f : Sync → Sync) : (d.onSync f).sync = f d.sync := rfl

/-! #### Job ends and tokens keep the values -/

@[simp] theorem Dev.endJob_syncVals (d : Dev) (now j : Nat) (cause : EndCause) : (d.endJob now j cause).sync.vals = d.sync.vals := by
  unfold Dev.endJob
  extract_lets b n hs cores runs streams gone marked trapped drained dropped left unwatched answered counted
  split
  case isTrue =>
    have htrapped : trapped.sync = d.sync := (Dev.foldl_sync (fun e c => by simp) _ _).trans rfl
    have hdrained : drained.sync = trapped.sync := Dev.foldl_sync (fun e c => by split <;> simp) _ _
    have hdropped : dropped.sync = drained.sync := Dev.foldl_sync (fun e c => by simp) _ _
    have hleft : left.sync = dropped.sync := Dev.foldl_sync (fun e h => Dev.modThr_sync e h _) _ _
    have hcounted : counted.sync.vals = left.sync.vals := by unfold counted; split <;> rfl
    rw [Dev.schedule_sync, hcounted, hleft, hdropped, hdrained, htrapped]
  case isFalse => rfl

@[simp] theorem Dev.token_syncVals (d : Dev) (now h k : Nat) (v : Word) (src : Bool) : (d.token now h k v src).sync.vals = d.sync.vals := by
  unfold Dev.token
  dsimp only
  split
  · rfl
  · split
    · simp [Dev.refuseJob]
    · split <;> simp

theorem Dev.fire_syncVals (d : Dev) (now : Nat) (o : Mon) (v : Word) : (d.fire now o v).sync.vals = d.sync.vals := by
  unfold Dev.fire
  dsimp only
  split
  case h_1 => simp
  case h_2 => rfl
  case h_3 => rfl
  case h_4 => simp

/-- The monitors that fire after an operation change no object's value. -/
theorem Dev.testMons_syncVals (d : Dev) (now n : Nat) : (d.testMons now n).sync.vals = d.sync.vals :=
  List.foldlRecOn (motive := fun e : Dev => e.sync.vals = d.sync.vals) _ _ rfl fun e he o _ => (Dev.fire_syncVals e now o _).trans he

/-! ### ADD and SET (R402) -/

theorem Dev.syncAdd_vals {d : Dev} {n : Nat} (h : d.syncBroken n = false) (now : Nat) (v : Word) :
    (d.syncAdd now n v).sync.vals = d.sync.vals.put 0 n (d.syncVal n + v) := by
  rw [Dev.syncAdd, if_neg (Bool.eq_false_iff.1 h), Dev.testMons_syncVals]
  rfl

theorem Dev.syncAdd_broken {d : Dev} {n : Nat} (h : d.syncBroken n = true) (now : Nat) (v : Word) : d.syncAdd now n v = d := if_pos h

theorem Dev.syncSet_vals (d : Dev) (now n : Nat) (v : Word) : (d.syncSet now n v).sync.vals = d.sync.vals.put 0 n v := by
  rw [Dev.syncSet, Dev.testMons_syncVals]
  rfl

theorem Dev.syncVal_syncAdd_other {d : Dev} {n m : Nat} (hm : m ≠ n) (now : Nat) (v : Word) :
    (d.syncAdd now n v).syncVal m = d.syncVal m := by
  cases hb : d.syncBroken n
  case false => rw [Dev.syncVal, Dev.syncAdd_vals hb, SMap.get_put_other _ _ _ _ _ hm, Dev.syncVal]
  case true => rw [Dev.syncAdd_broken hb]

/-- Settles O31: an ADD and a SET put one value, and what their monitors do puts none. -/
theorem syncAddAndSetValues : Obligations.SyncAddAndSetValues := by
  intro d now n m v hwf
  refine ⟨fun hb => ?add, ?set, fun hm => ⟨Dev.syncVal_syncAdd_other hm now v, ?other⟩⟩
  case add => rw [Dev.syncVal, Dev.syncAdd_vals hb, SMap.get_put_same _ _ _ _ hwf]
  case set => rw [Dev.syncVal, Dev.syncSet_vals, SMap.get_put_same _ _ _ _ hwf]
  case other => rw [Dev.syncVal, Dev.syncSet_vals, SMap.get_put_other _ _ _ _ _ hm, Dev.syncVal]

end Sys2Proof.Machine

/-! ## Proofs: the family of spec/13_canopy_and_caches.md -/

namespace Sys2Proof.Machine

/-! ### The integer codes on 64-bit words (R431) -/

theorem sext_toNat (v : BitVec 64) : sext 64 v.toNat = v.toInt := by
  have hbit : bitAt v.toNat (64 - 1) = v.msb := (BitVec.msb_eq_getLsbD_last v).symm
  rw [sext, hbit, BitVec.toInt_eq_msb_cond, Nat.mod_eq_of_lt v.isLt]

theorem ofNat_ite_toNat (p : Prop) [Decidable p] (x y : BitVec 64) :
    BitVec.ofNat 64 (if p then x.toNat else y.toNat) = if p then x else y := by
  split <;> simp

/-- Settles O37: a target of 8 bytes takes every operand whole, and its signed reading is the word's own. -/
theorem atomicCodesCompute : Obligations.AtomicCodesCompute := by
  intro v a b new
  have hwhole (x : BitVec 64) : x.toNat % 2 ^ (8 * 8) = x.toNat := Nat.mod_eq_of_lt x.isLt
  have hsigned (x : BitVec 64) : sext (8 * 8) x.toNat = x.toInt := sext_toNat x
  refine ⟨?add, ?and, ?or, ?xor, ?swap, ?cas, ?min, ?max, ?minu, ?maxu⟩ <;> simp only [new, atomNew, hwhole, hsigned]
  case add | and | or | xor | swap => exact BitVec.eq_of_toNat_eq (by simp)
  case cas => simp only [BitVec.toNat_inj, ofNat_ite_toNat]
  case min => simp only [BitVec.sle_iff_toInt_le, ofNat_ite_toNat]
  case max => simp only [BitVec.sle_iff_toInt_le, ofNat_ite_toNat]
  case minu => simp only [min_def, BitVec.ule_iff_toNat_le, ofNat_ite_toNat]
  case maxu => simp only [max_comm v.toNat, max_def, BitVec.ule_iff_toNat_le, ofNat_ite_toNat]

end Sys2Proof.Machine

namespace Sys2Proof.Machine

/-! ### AMOs, LR and SC of this module (R431, R433, R436, R437) -/

theorem exec_amo {p : (Sq → Nat → Nat → Nat → Word → Instr) × Nat} (hp : p ∈ amoRows) (s : State) (q : Sq) (rd size a : Nat) (v : Word) :
    exec (p.1 q rd size a v) s = .next (s.withDev (s.dev.amoOp s.now q rd size a p.2 v)) := by
  simp only [amoRows, List.mem_cons, List.not_mem_nil, or_false] at hp
  obtain rfl | rfl | rfl | rfl | rfl | rfl | rfl | rfl | rfl := hp <;> rfl

/-- The codes of the AMOs are scalar ones, and neither LR's nor SC's. -/
theorem amoRows_code : ∀ p ∈ amoRows, p.2 < 0x10 := by simp [amoRows]

/-- The Canopy atomic of an AMO (R436). -/
def amoAtom (size a code : Nat) (v : Word) : AtomOp := ⟨code, size, 0, dlaOf a, v.toNat % 2 ^ (8 * size), 0, [], false, 0⟩

section
variable {d : Dev} {now rd size a code : Nat} {q : Sq} {v : Word} {here : Dev → AtomOut}

/-- An operation of this module that nothing refuses or holds back, and that meets neither an error nor poison: its effect, and the old value
in rd. -/
theorem Dev.amo_here {e : Dev} {r : AtomOut} (he : e = (d.enter now q).drainMb now q.core) (hr : d.seqReady q = true) (hsize : size = 4 ∨ size = 8)
    (hok : e.amoRefusal a size = sOk) (hhere : e.remoteOf a = none)
    (hread : code = 0x11 → e.readWait (e.corePart q.core) (dlaOf a) size = 0)
    (hwrite : code ≠ 0x11 → e.atomWait (dlaOf a) size (some q.core) = 0)
    (hheld : e.heldRange (dlaOf a) size = false) (hclean : e.findings = []) (heffect : here e = r)
    (hpoison : r.poison = false) : d.amo now q rd size a code v here = r.d.setX q.core rd
      (if code = 0x12 then BitVec.ofNat 64 r.old else BitVec.ofInt 64 (sext (8 * size) r.old)) := by
  have hruns : (!d.seqReady q || (size != 4 && size != 8)) = false := by
    obtain rfl | rfl := hsize <;> simp [hr]
  have hstatus : ¬ sOk = eAlign := by decide
  have hwait : (if (code == 0x11) = true then e.readWait (e.corePart q.core) (dlaOf a) size
      else e.atomWait (dlaOf a) size (some q.core)) = 0 := by
    split
    · next h => exact hread (by simpa using h)
    · next h => exact hwrite (by simpa using h)
  simp only [Dev.amo, hruns, ← he, hok, hstatus, hhere, hwait, hheld, Dev.meetAll_clean _ _ hclean, heffect, hpoison, ne_eq, not_true_eq_false,
    bne_self_eq_false, Bool.false_eq_true, if_false]

theorem Dev.amoOp_here {e : Dev} (he : e = (d.enter now q).drainMb now q.core) (hcode : code < 0x10) (hr : d.seqReady q = true)
    (hsize : size = 4 ∨ size = 8) (hok : e.amoRefusal a size = sOk) (hhere : e.remoteOf a = none)
    (hwait : e.atomWait (dlaOf a) size (some q.core) = 0) (hclean : e.findings = []) (hheld : e.heldRange (dlaOf a) size = false)
    (hpoison : (e.l1Drop q.core (dlaOf a / 128)).poisoned (dlaOf a) size = false) :
    d.amoOp now q rd size a code v =
      ((e.l1Drop q.core (dlaOf a / 128)).scalarAtom (amoAtom size a code v) (some q.core)).d.setX q.core rd
        (BitVec.ofInt 64 (sext (8 * size) ((e.l1Drop q.core (dlaOf a / 128)).num (dlaOf a) size))) := by
  have hscalar : (e.l1Drop q.core (dlaOf a / 128)).atomAt (amoAtom size a code v) (some q.core) =
      (e.l1Drop q.core (dlaOf a / 128)).scalarAtom (amoAtom size a code v) (some q.core) := if_neg (Nat.ne_of_lt hcode)
  have hsc : code ≠ 0x12 := by omega
  refine (Dev.amo_here he hr hsize hok hhere (by omega) (fun _ => hwait) hheld hclean hscalar hpoison).trans ?_
  rw [if_neg hsc]
  rfl

end

section
variable {s : State} {q : Sq} {rd size a : Nat} {v : Word} {e : Dev}

theorem exec_lr (he : e = (s.dev.enter s.now q).drainMb s.now q.core) (hr : s.dev.seqReady q = true) (hsize : size = 4 ∨ size = 8)
    (hok : e.amoRefusal a size = sOk) (hhere : e.remoteOf a = none) (hheld : e.heldRange (dlaOf a) size = false)
    (hpoison : e.poisoned (dlaOf a) size = false) (hclean : e.findings = [])
    (hwait : e.readWait (e.corePart q.core) (dlaOf a) size = 0) :
    exec (.lr q rd size a) s = .next (s.withDev (((e.lrAt s.now q.core (dlaOf a) size).d.setX q.core rd
      (BitVec.ofInt 64 (sext (8 * size) (e.num (dlaOf a) size)))).releaseHeld s.now)) := by
  show execLr q rd size a s = _
  rw [execLr, State.runAt_next, Dev.amo_here he hr hsize hok hhere (fun _ => hwait) (absurd rfl) hheld hclean rfl hpoison]
  rfl

theorem exec_sc (he : e = (s.dev.enter s.now q).drainMb s.now q.core) (hr : s.dev.seqReady q = true) (hsize : size = 4 ∨ size = 8)
    (hok : e.amoRefusal a size = sOk) (hhere : e.remoteOf a = none) (hheld : e.heldRange (dlaOf a) size = false)
    (hclean : e.findings = []) (hwait : e.atomWait (dlaOf a) size (some q.core) = 0) :
    exec (.sc q rd size a v) s = .next (s.withDev
      ((((e.l1Drop q.core (dlaOf a / 128)).scAt q.core (dlaOf a) size v.toNat).d.setX q.core rd
        (BitVec.ofNat 64 ((e.l1Drop q.core (dlaOf a / 128)).scAt q.core (dlaOf a) size v.toNat).old)).releaseHeld s.now)) := by
  show execSc q rd size a v s = _
  rw [execSc, State.runAt_next, Dev.amo_here he hr hsize hok hhere (by omega) (fun _ => hwait) hheld hclean rfl rfl]
  rfl

end

/-- What an LR's slice held back goes on 64 ns after it (R437). -/
theorem exec_lrHoldExpire {s : State} {c l t : Nat} (hc : c < 128) (hresv : (s.dev.core c).sq.resv = some (l, t, true)) :
    exec (.lrHoldExpire c) s = .next (s.later (t + 768)
      ((s.dev.modSq c fun k => { k with resv := some (l, t, false) }).releaseHeld (max s.now (t + 768)))) := by
  have hheld : s.mach.dev.resvOf c = some (l, t, true) := by rw [Dev.resvOf, if_pos hc]; exact hresv
  show execLrHoldExpire c s = _
  simp only [execLrHoldExpire, State.run_next, hheld, if_pos hc]
  rfl

/-! ### Launched atomics (R431, R438) -/

theorem exec_atom {p : (Nat → Instr) × Nat} (hp : p ∈ atomRows) (c : Nat) (s : State) :
    exec (p.1 c) s = .next (s.withDev (s.dev.runAtom s.now c p.2)) := by
  simp only [atomRows, List.mem_cons, List.not_mem_nil, or_false] at hp
  obtain rfl | rfl | rfl | rfl | rfl | rfl | rfl | rfl | rfl | rfl | rfl | rfl | rfl | rfl | rfl := hp <;> rfl

/-- A launched atomic of a live job that nothing refuses or holds back, and that meets no error. -/
theorem Dev.runAtom_live {d : Dev} {c : Nat} {o : AtomOp} (now : Nat) (ho : (d.core c).sq.atom = some o)
    (hwait : d.atomWait o.addr o.len (some c) = 0) (hclean : d.findings = []) (hheld : d.heldRange o.addr o.len = false)
    (hlive : (d.job o.job).live = true) (hend : (d.job o.job).ending = none) (hok : d.atomRefusal o = sOk) :
    d.runAtom now c o.code =
      let r := (d.modSq c fun k => { k with atom := none }).atomAt o (some c)
      (if r.poison then r.d.poisonIn c o.job else r.d).modSq c fun k => { k with atomRes := BitVec.ofNat 64 r.old } := by
  have hmet := Dev.meetAll_clean (d := d.modSq c fun k => { k with atom := none }) o.addr o.len hclean
  simp only [Dev.runAtom, ho, hwait, hheld, hlive, hend, hok, hmet, ne_eq, not_true_eq_false, decide_false, bne_self_eq_false,
    Option.isNone_none, Bool.or_self, Bool.and_self, Bool.false_and, Bool.false_eq_true, if_false, if_true]

/-- Settles O36: the AMOs, LR and SC by what they share, the launched atomics by their one run, the end of an LR's hold by itself. -/
theorem atomicsAct : Obligations.AtomicsAct := by
  refine ⟨?amo, fun s c o p hp ho hcode hwait hclean hheld hlive hend hok => ?launched,
    fun s q rd size a v hr hsize => ⟨fun hok hhere hheld hpoison hclean => ⟨?lr, ?sc⟩, fun c l t hc hresv => exec_lrHoldExpire hc hresv⟩⟩
  case amo =>
    intro s q rd size a v p hp hr hsize d t e e1 old hok hhere hwait hclean hheld hpoison
    rw [exec_amo (p := p) hp, Dev.amoOp_here rfl (amoRows_code p hp) hr hsize hok hhere hwait hclean hheld hpoison]
    rfl
  case launched =>
    rw [exec_atom (p := p) hp, ← hcode, Dev.runAtom_live s.now ho hwait hclean hheld hlive hend hok]
  case lr => exact exec_lr rfl hr hsize hok hhere hheld hpoison hclean
  case sc => exact exec_sc rfl hr hsize hok hhere hheld hclean

end Sys2Proof.Machine

namespace Sys2Proof.Machine

/-! ### What an access to a line changes (R424, R428, R476)

It counts, charges, moves lines and writes them back: of the volatile part it changes the registers, memory with its lines and controllers,
and the inputs that detection and free choice take. -/

/-- `e` is `d` but for what an access to a line may change. -/
def Dev.Accessed (d e : Dev) : Prop := ∃ rg mem canopy ext findings reports fresh,
  e = { d with rg := rg, mem := mem, canopy := canopy, ext := ext, findings := findings, reports := reports, fresh := fresh }

namespace Dev.Accessed

variable {d e f : Dev}

theorem refl (d : Dev) : d.Accessed d := ⟨_, _, _, _, _, _, _, rfl⟩

theorem trans (h : d.Accessed e) (h' : e.Accessed f) : d.Accessed f := by
  obtain ⟨_, _, _, _, _, _, _, rfl⟩ := h
  obtain ⟨_, _, _, _, _, _, _, rfl⟩ := h'
  exact ⟨_, _, _, _, _, _, _, rfl⟩

theorem cores (h : d.Accessed e) : e.cores = d.cores := by
  obtain ⟨_, _, _, _, _, _, _, rfl⟩ := h
  rfl

theorem foldl {α : Type} {g : Dev → α → Dev} (hg : ∀ (d : Dev) x, d.Accessed (g d x)) (l : List α) (d : Dev) : d.Accessed (l.foldl g d) :=
  List.foldlRecOn (motive := d.Accessed) l g (refl d) fun e he x _ => he.trans (hg e x)

theorem memBytes (d : Dev) (u part n : Nat) : d.Accessed (d.memBytes u part n) := by
  unfold Dev.memBytes
  dsimp only
  split <;> exact ⟨_, _, _, _, _, _, _, rfl⟩

theorem issueAll (u n : Nat) (d : Dev) : d.Accessed (d.issueAll u n) := by
  induction n generalizing d with
  | zero => exact refl d
  | succ n ih =>
    unfold Dev.issueAll
    split
    · exact (trans ⟨_, _, _, _, _, _, _, rfl⟩ (memBytes _ _ _ _)).trans (ih _)
    · exact refl d

theorem wbLine (d : Dev) (b : Nat) (x : Det) : d.Accessed (d.wbLine b x) := by
  unfold Dev.wbLine
  split
  · exact refl d
  · refine trans ?_ (issueAll _ _ _)
    dsimp only
    split
    · split <;> exact ⟨_, _, _, _, _, _, _, rfl⟩
    · exact ⟨_, _, _, _, _, _, _, rfl⟩

theorem takeFind (d : Dev) : d.Accessed d.takeFind.1 := by
  unfold Dev.takeFind
  split <;> exact ⟨_, _, _, _, _, _, _, rfl⟩

theorem evict (d : Dev) (l : Nat × CanLine) : d.Accessed (d.evict l) := by
  have hleft : d.Accessed (if l.2.dirty then d.writeBack (l.1 * 128) else d.unveil l) := by
    split
    · exact (takeFind d).trans (wbLine _ _ _)
    · exact foldl (fun _ _ => ⟨_, _, _, _, _, _, _, rfl⟩) _ d
  exact hleft.trans ⟨_, _, _, _, _, _, _, rfl⟩

theorem makeRoom (d : Dev) (b : Nat) : d.Accessed (d.makeRoom b) := by
  unfold Dev.makeRoom
  dsimp only
  split
  · exact refl d
  · split
    · exact trans ⟨_, _, _, _, _, _, _, rfl⟩ (evict _ _)
    · exact refl d

theorem touchLine (d : Dev) (a n : Nat) (x : Access) : d.Accessed (d.touchLine a n x) := by
  have ask (e : Dev) (u k : Nat) : e.Accessed (if x.fetched = true then e else e.memBytes u x.part k) := by
    split
    · exact refl e
    · exact memBytes ..
  have counted (p : Prop) [Decidable p] (k : Nat) :
      d.Accessed ((if p then d.bump .CAN_HIT [k] else d.bumpHi .CAN_HIT [k]).charge (64 + k) x.part n) := by
    split <;> exact ⟨_, _, _, _, _, _, _, rfl⟩
  unfold Dev.touchLine
  dsimp only
  split
  case h_1 => exact ⟨_, _, _, _, _, _, _, rfl⟩
  case h_2 =>
    split
    · exact ask ..
    · split
      · exact ask ..
      · generalize hd1 : Dev.charge _ (64 + _) x.part n = d1
        have h1 : d.Accessed d1 := hd1 ▸ counted ..
        split
        · exact h1.trans ⟨_, _, _, _, _, _, _, rfl⟩
        · split
          · refine h1.trans (trans (trans ?_ (makeRoom ..)) ⟨_, _, _, _, _, _, _, rfl⟩)
            split
            · exact refl d1
            · exact ask ..
          · exact h1.trans (ask ..)
  case h_3 => exact refl d

theorem touch (d : Dev) (a n : Nat) (x : Access) : d.Accessed (d.touch a n x) := foldl (fun e _ => touchLine e ..) _ d

end Dev.Accessed

/-! ### The registers of the sequencers at a write (R429, R437)

A write ends reservations, and a core of which nothing else was left is then listed as its default: its list of cores keeps the order of its
keys, and not the whole canonical form. -/

/-- The keys of sparse data rise. -/
def SMap.Rises {α : Type} (m : SMap α) : Prop := m.Pairwise fun p q => p.1 < q.1

theorem SMap.rises_of_wf {α : Type} [DecidableEq α] {d : α} {m : SMap α} (h : m.wf d = true) : m.Rises := by
  induction m with
  | nil => exact .nil
  | cons p r ih =>
    simp only [SMap.wf, Bool.and_eq_true, decide_eq_true_eq] at h
    obtain ⟨⟨-, habove⟩, hr⟩ := h
    exact .cons (by simpa [SMap.above] using habove) (ih hr)

theorem SMap.get_del_same_of_rises {α : Type} (d : α) {m : SMap α} (k : Nat) (h : m.Rises) : (m.del k).get d k = d := by
  induction m with
  | nil => rfl
  | cons p r ih =>
    obtain ⟨j, w⟩ := p
    obtain ⟨hj, hr⟩ := List.pairwise_cons.1 h
    have habove : SMap.above j r = true := by simpa [SMap.above] using hj
    obtain hlt | rfl | hgt := Nat.lt_trichotomy j k
    · simp [SMap.del, SMap.get, hlt.ne, hlt.not_gt, ih hr]
    · simpa [SMap.del] using SMap.get_above d r j habove
    · simpa [SMap.del, SMap.get, hgt, hgt.ne'] using SMap.get_above d r k (SMap.above_trans r k j hgt.le habove)

theorem SMap.get_put_same_of_rises {α : Type} [DecidableEq α] (d : α) {m : SMap α} (k : Nat) (v : α) (h : m.Rises) :
    (m.put d k v).get d k = v := by
  unfold SMap.put
  split
  · next hv => rw [SMap.get_del_same_of_rises d k h, hv]
  · exact SMap.get_ins_same d m k v

/-- A map over the entries that keeps their keys and relates their values relates what is read. -/
theorem SMap.get_map_of_rel {α : Type} {R : α → α → Prop} {d : α} {f : Nat × α → Nat × α} (hd : R d d) (hkey : ∀ p, (f p).1 = p.1)
    (hval : ∀ p, R p.2 (f p).2) (m : SMap α) (k : Nat) : R (m.get d k) (SMap.get d (m.map f) k) := by
  induction m with
  | nil => exact hd
  | cons p r ih =>
    simp only [List.map_cons, SMap.get, hkey]
    split
    · exact hval p
    · exact ih

section
variable (d : Dev) (a n k : Nat) (bs : List Byte) (poison : Bool) (part : Option Nat) (force : Bool)

theorem Dev.lineWritten_x : ((d.lineWritten a n).core k).sq.x = (d.core k).sq.x := by
  refine SMap.get_map_of_rel (R := fun u v : Core => v.sq.x = u.sq.x) rfl ?key ?value d.cores k
  case key => exact fun _ => rfl
  case value => exact fun _ => rfl

variable {d} in
theorem Dev.lineWritten_rises (h : d.cores.Rises) : (d.lineWritten a n).cores.Rises := List.pairwise_map.2 h

theorem Dev.storeNow_x : ((d.storeNow a bs poison part force).core k).sq.x = (d.core k).sq.x := by
  rw [Dev.storeNow, Dev.lineWritten_x, Dev.core, (Dev.Accessed.touch ..).cores]
  rfl

variable {d} in
theorem Dev.storeNow_rises (h : d.cores.Rises) : (d.storeNow a bs poison part force).cores.Rises :=
  Dev.lineWritten_rises _ _ (by rw [(Dev.Accessed.touch ..).cores]; exact h)

variable {d} in
theorem Dev.l1Drop_x (h : SMap.wf {} d.cores = true) (c line : Nat) : ((d.l1Drop c line).core k).sq.x = (d.core k).sq.x := by
  by_cases hk : k = c
  · rw [hk, Dev.l1Drop, Dev.modSq, Dev.core_modCore h]
  · exact congrArg (fun u : Core => u.sq.x) (SMap.get_put_other _ _ _ _ _ hk)

theorem Dev.setX_mem (c rd : Nat) (v : Word) : (d.setX c rd v).mem = d.mem := by unfold Dev.setX; split <;> rfl

variable {d} in
/-- A result changes no register but rd of its own core. -/
theorem Dev.setX_x_other (h : d.cores.Rises) {c rd r : Nat} (v : Word) (hother : k ≠ c ∨ r ≠ rd) :
    SMap.get 0 ((d.setX c rd v).core k).sq.x r = SMap.get 0 (d.core k).sq.x r := by
  unfold Dev.setX
  split
  · rfl
  · by_cases hk : k = c
    · subst hk
      have hcore : (d.modSq k fun s => { s with x := s.x.put 0 rd v }).core k = _ := SMap.get_put_same_of_rises _ k _ h
      rw [hcore]
      exact SMap.get_put_other _ _ _ _ _ (hother.resolve_left (absurd rfl))
    · exact congrArg (fun u : Core => SMap.get 0 u.sq.x r) (SMap.get_put_other _ _ _ _ _ hk)

end

/-- Settles O14: the AMO is one write at its slice and one result; the write leaves the other bytes, both leave the other registers. -/
theorem amosChangeOnlyTheirTarget : Obligations.AmosChangeOnlyTheirTarget := by
  intro s t p q rd size a v hp hr hsize d hwf e e1 hok hhere hwait hlines hheld hpoison ht
  have hstep := atomicsAct.1 s q rd size a v p hp hr hsize hok hhere hwait hlines.1 hheld hpoison
  obtain rfl := Host.Outcome.next.inj (hstep.symm.trans ht)
  have hmem : e1.mem = d.mem := by simp only [e1]; split <;> rfl
  have hcores : e1.cores = e.cores := by simp only [e1]; split <;> rfl
  have hclean : e1.linesClean := by simp only [e1]; split <;> exact hlines
  have hrises : e1.cores.Rises := hcores ▸ SMap.rises_of_wf (SMap.wf_put _ _ _ _ hwf)
  have hx (c : Nat) : (e1.core c).sq.x = (d.core c).sq.x := by
    rw [Dev.core, hcores]
    exact Dev.l1Drop_x c hwf q.core (dlaOf a / 128)
  refine ⟨fun c hc => ?byte, fun c r hother => ?register, fun hm => ?form, rfl, rfl, rfl⟩
  case byte =>
    rw [State.withDev_dev, Dev.setX_mem, ← hmem]
    exact Dev.byte_storeNow_other e1 (dlaOf a) _ _ _ _ c hclean (by simpa only [leBytes_length] using hc)
  case register =>
    refine (Dev.setX_x_other c (Dev.storeNow_rises _ _ _ _ _ hrises) _ hother).trans ?_
    exact congrArg (SMap.get 0 · r) ((Dev.storeNow_x e1 ..).trans (hx c))
  case form =>
    rw [State.withDev_dev, Dev.setX_mem]
    exact Dev.wf_storeNow _ _ _ _ _ (hmem ▸ hm)

end Sys2Proof.Machine

namespace Sys2Proof.Machine

/-! ### Events of merging buffers, side buffers and Canopy sides (R426, R438, R444, R448) -/

section
variable {s : State} {c : Nat}

/-- The oldest entry of a merging buffer drains 32 clk after it was opened, unless a drain holds the range of its block (R444, R564). -/
theorem exec_mbDrainTimeout {e : MbEnt} {r : List MbEnt} (hmb : (s.dev.core c).sq.mb = e :: r)
    (hheld : (decide (e.block < farBlock) && s.dev.heldRange (e.block % farBlock * 128) 128) = false) :
    exec (.mbDrainTimeout c .none) s =
      .next (s.later (e.openAt + 160) (s.dev.drainEntry (max s.now (e.openAt + 160)) c e)) := by
  rw [State.dev] at hmb hheld
  have hclean : detIs .mergeBuf .none = false := rfl
  show execMbDrainTimeout c .none s = _
  simp only [execMbDrainTimeout, State.run_next, hmb, hclean, Mach.onDev, Mach.atTime_dev, hheld, Bool.false_eq_true, if_false]
  rfl

theorem exec_prefetchFill {line : Nat} {d : Dev} (hd : d = s.dev.modSq c fun k => { k with pfOut := k.pfOut.filter (· != line) })
    (hout : (s.dev.core c).sq.pfOut.contains line = true) (hwait : s.dev.readWait (s.dev.corePart c) (line * 128) 128 = 0)
    (hcached : d.l1Caches (line * 128) = true) :
    exec (.prefetchFill c line) s =
      .next (s.withDev ((d.touch (line * 128) 128 { part := d.corePart c }).sideFill c (d.lineNow line 0))) := by
  show execPrefetchFill c line s = _
  rw [execPrefetchFill, State.runDev_next]
  simp only [hout, hwait, ← hd, hcached, beq_self_eq_true, Bool.and_self, if_true]

theorem exec_coreAtomResRead {rd : Nat} (hr : s.dev.seqReady ⟨c, true⟩ = true) (hatom : (s.dev.core c).sq.atom = none) :
    exec (.coreAtomResRead c rd) s =
      .next (s.withMach ((s.mach.readReg .user (some c) (Reg.CORE_ATOM_RES.off [c]) 8).1.onDev fun d =>
        d.loadDone c rd 8 false (s.mach.readReg .user (some c) (Reg.CORE_ATOM_RES.off [c]) 8).2 false)) := by
  rw [State.dev] at hr hatom
  have huser : (View.user != .user) = false := rfl
  show execCoreAtomResRead c rd s = _
  simp only [execCoreAtomResRead, State.run_next, Mach.loadReg, hr, hatom, huser, Bool.not_true, Bool.and_false, Bool.false_eq_true,
    if_false]

end

/-- A re-home of side 0 that is not a new longest one ends. -/
theorem exec_rehomeComplete_zero {s : State} {t : Nat} {d : Dev} (hd : d = s.dev.bump .CAN_REHOME []) (ht : s.dev.canopy.rehome0 = some t)
    (hlong : (s.now - t) / 12000 ≤ bitsOf (d.rd .CAN_REHOME) 32 32) :
    exec (.rehomeComplete 0) s = .next (s.withDev { d with canopy := { d.canopy with rehome0 := none } }) := by
  subst hd
  rw [State.dev] at ht
  have hnot : ¬ bitsOf ((s.mach.dev.bump .CAN_REHOME []).rd .CAN_REHOME) 32 32 < (s.mach.und.now - t) / usT := Nat.not_lt.2 hlong
  show execRehomeComplete 0 s = _
  simp only [execRehomeComplete, State.run_next, if_true, ht, Mach.onDev, if_neg hnot]
  rfl

/-! ### Events of the memory controllers and their regulators (R472 to R476) -/

theorem exec_memReadDecode {s : State} {dla res part u b : Nat} (hs : s.mach.und.st.serves = true) (hpart : part < 16)
    (ht : s.dev.target dla = .ext u b) :
    exec (.memReadDecode dla res part) s = .next (s.withMach ((s.mach.onDev fun d =>
      d.queueReq s.now u { dla := dla, cell := b, res := res, part := part, bytes := 64 }).unitIssues u)) := by
  rw [State.dev] at ht
  have hgoes : (!s.mach.und.st.serves || decide (16 ≤ part)) = false := by simp [hs, hpart]
  show execMemReadDecode dla res part s = _
  simp only [execMemReadDecode, State.run_next, hgoes, ht, Bool.false_eq_true, if_false]
  rfl

/-- 10 ns end: what they have held back is counted, and what the refill lets go goes on. -/
theorem exec_regulatorRefill {s : State} (hs : s.mach.und.st.serves = true) {d : Dev}
    (hd : d = (s.dev.places.foldl Dev.refillPlace s.dev.countWaits).onExt fun e => { e with clock := max s.now (roundUp s.now 120) }) :
    exec .regulatorRefill s = .next (s.withMach
      (((List.range 40).filter d.unitHere).foldl Mach.unitIssues (s.later (roundUp s.now 120) d).mach).goOn.flushReports) := by
  subst hd
  show execRegulatorRefill s = _
  simp only [execRegulatorRefill, State.run_next, hs, Bool.not_true, Bool.false_eq_true, if_false]
  rfl

theorem exec_requestAgeLimit {s : State} {u id : Nat} {x : MReq} (hx : ((s.dev.memPlace u).reqs.find? fun q => q.id == id) = some x) :
    exec (.requestAgeLimit u id) s = .next (s.withMach ((s.later (x.at_ + 48000) (s.dev.setPlace u { s.dev.memPlace u with
      reqs := (s.dev.memPlace u).reqs.map fun r => if r.id = id then { r with aged := true } else r })).mach.unitIssues u)) := by
  rw [State.dev] at hx
  show execRequestAgeLimit u id s = _
  simp only [execRequestAgeLimit, State.run_next, hx]
  rfl

/-! ### Temperatures, error windows and units that leave (R479 to R487) -/

/-- A stack's temperature is taken, and its level follows; a change of level is counted and reported (R479). -/
theorem exec_hbmTempRead {s : State} {k temp : Nat} (hs : s.mach.und.st.serves = true) (hk : k < 8) (hhere : bitAt s.dev.pres.hbms k = true)
    {x : MUnit} (hx : x = SMap.get {} s.dev.ext.units k) {l : Nat} (hl : l = nextLevel (s.dev.cfgF .HBM_THR [k] 0 8) temp x.level)
    {m : Mach} (hm : m = (s.later (roundUp s.now 384000) (s.dev.onExt fun e =>
      { e with units := e.units.put {} k { x with temp := temp, level := l } })).mach) :
    exec (.hbmTempRead k temp) s = .next (s.withMach ((if l = x.level then m else
      (m.onDev fun d => d.bump .HBM_TSTEP [k]).event 0x0104 1 (evUnit 4 k) (l + x.level * 2 ^ 8 + temp % 256 * 2 ^ 16)).unitIssues k)) := by
  subst hm hl hx
  rw [State.dev] at hhere
  show execHbmTempRead k temp s = _
  simp only [execHbmTempRead, State.run_next, hs, hhere, Nat.not_le.2 hk, decide_false, Bool.not_true, Bool.or_self, Bool.false_eq_true,
    if_false]
  rfl

theorem exec_lpdTempRead {s : State} {p temp : Nat} (hs : s.mach.und.st.serves = true) (hp : p < 32)
    (hhere : bitAt s.dev.pres.lpds p = true) :
    exec (.lpdTempRead p temp) s = .next (s.later (roundUp s.now 384000) (s.dev.onExt fun e =>
      { e with units := e.units.mod {} (8 + p) fun x => { x with temp := temp } })) := by
  rw [State.dev] at hhere
  show execLpdTempRead p temp s = _
  simp only [execLpdTempRead, State.run_next, hs, hhere, Nat.not_le.2 hp, decide_false, Bool.not_true, Bool.or_self, Bool.false_eq_true,
    if_false]
  rfl

theorem exec_errorWindowEnd {s : State} {c : Nat} (hs : s.mach.und.st.serves = true) (hc : c < 384) {x : Chan}
    (hx : x = SMap.get {} s.dev.ext.chans c) {t : Nat} (ht : t = x.at_ + s.dev.cfgF .MEM_ERRCFG [] 20 12 * 12000000) :
    exec (.errorWindowEnd c) s = .next (s.later t (s.dev.onExt fun e =>
      { e with chans := e.chans.put {} c { x with ce := 0, ue := 0, at_ := max s.now t } })) := by
  subst ht hx
  show execErrorWindowEnd c s = _
  simp only [execErrorWindowEnd, State.run_next, hs, Nat.not_le.2 hc, decide_false, Bool.not_true, Bool.or_self, Bool.false_eq_true,
    if_false]
  rfl

/-- What a leaving unit does once its reads have been decoded (R487). -/
def Mach.unitLeft (m : Mach) (u : Nat) : Mach :=
  (m.onDev fun d => ((d.discardLines fun b => unitOf b == some u).setPlace u {}).onExt fun e => { e with units := e.units.del u }).leaveUnits
    (if u < 8 then { hbms := 2 ^ u } else { lpds := 2 ^ (u - 8) })

theorem exec_unitMapoutComplete {s : State} {u : Nat} (hu : u < 40) (hleaving : (SMap.get {} s.dev.ext.units u).leaving = true) :
    exec (.unitMapoutComplete u) s = .next (s.withMach ((((s.mach.lastReads u).unitLeft u).event 0x0103 1
      (if u < 8 then evUnit 4 u else evUnit 5 (u - 8)) (if u < 8 then 24 else 32)).lossHold s.dev.lostArea)) := by
  rw [State.dev] at hleaving
  show execUnitMapoutComplete u s = _
  simp only [execUnitMapoutComplete, State.run_next, hleaving, Nat.not_le.2 hu, decide_false, Bool.not_true, Bool.or_self,
    Bool.false_eq_true, if_false]
  rfl

/-- Settles O38, event by event. -/
theorem memoryEventsAct : Obligations.MemoryEventsAct := by
  intro s up
  refine ⟨fun c e r hmb hfar => exec_mbDrainTimeout hmb (by simp [hfar]), fun c e r hmb _ hheld => exec_mbDrainTimeout hmb (by simp [hheld]),
    ?fill, fun c rd hr hatom => exec_coreAtomResRead hr hatom, fun t ht hlong => exec_rehomeComplete_zero rfl ht hlong, ?decode, ?refill,
    fun u id x hx => exec_requestAgeLimit hx, ?stack, fun p temp hs hp hhere => exec_lpdTempRead hs hp hhere,
    fun c hs hc => exec_errorWindowEnd hs hc rfl rfl, fun u hu hleaving => exec_unitMapoutComplete hu hleaving⟩
  case fill =>
    intro c line d hout hwait hcached
    exact exec_prefetchFill rfl hout hwait hcached
  case decode =>
    intro dla res part u b hs hpart ht x
    exact exec_memReadDecode hs hpart ht
  case refill =>
    intro hs t d m
    exact exec_regulatorRefill hs rfl
  case stack =>
    intro k temp hs hk hhere x l m
    have hread := exec_hbmTempRead (temp := temp) hs hk hhere rfl rfl rfl
    exact ⟨fun hl => hread.trans (by rw [if_pos hl]; rfl), fun hl => hread.trans (by rw [if_neg hl]; rfl)⟩

end Sys2Proof.Machine

/-! ## Proofs: the family of spec/15_salrex_fabric.md -/

namespace Sys2Proof.Machine

/-! ### Requests at their target (spec/15 R517 to R523, spec/13 R437) -/

section
variable {s : State} {src tag : Nat} {body : List Byte}

theorem exec_rd_bad (hbad : s.dev.rdBad body = true) :
    exec (.rd src tag body .none false) s =
      .next (s.withDev ((s.dev.took (some src) 0x01 tag body).badMsg s.now src 0x02 tag true)) := by
  rw [State.dev] at hbad
  show execRd src tag body .none false s = _
  simp only [execRd, State.run_next, hbad, if_true]
  rfl

theorem exec_rd_hole (hlayout : s.dev.rdBad body = false) (ht : s.dev.target (recNum body 0 8) = .hole) :
    exec (.rd src tag body .none false) s =
      .next (s.withDev ((s.dev.took (some src) 0x01 tag body).respond src s.now 0x02 eRange tag [])) := by
  rw [State.dev] at hlayout ht
  show execRd src tag body .none false s = _
  simp only [execRd, State.run_next, hlayout, ht, Bool.false_eq_true, if_false]
  rfl

/-- A RD of memory that nothing holds back answers the marks and the bytes of its range, as they stand (R423, R523). -/
theorem exec_rd_memory {a n : Nat} (ha : a = recNum body 0 8) (hn : n = recNum body 8 4) (hlayout : s.dev.rdBad body = false)
    (ht : (∃ u b, s.dev.target a = .ext u b) ∨ ∃ k, s.dev.target a = .clearing k) (hgoes : s.dev.rdWaits a n = false) :
    exec (.rd src tag body .none false) s = .next (s.withDev
      (((s.dev.took (some src) 0x01 tag body).touch a n { part := s.dev.fabPart }).respond src s.now 0x02 sOk tag
        (leBytes 8 (s.dev.pmOf a n) ++ s.dev.bytes a n))) := by
  subst ha hn
  simp only [State.dev] at hlayout ht hgoes
  show execRd src tag body .none false s = _
  obtain ⟨u, b, ht⟩ | ⟨k, ht⟩ := ht
  all_goals
    simp only [execRd, State.run_next, hlayout, ht, hgoes, Bool.false_eq_true, if_false]
    rfl

theorem exec_wr_bad (hbad : s.dev.wrBad body = true) :
    exec (.wr src tag body) s = .next (s.withDev ((s.dev.took (some src) 0x03 tag body).badMsg s.now src 0x04 tag true)) := by
  rw [State.dev] at hbad
  show execWr src tag body s = _
  simp only [execWr, State.run_next, hbad, if_true]
  rfl

theorem exec_wr_hole (hlayout : s.dev.wrBad body = false) (ht : s.dev.target (recNum body 0 8) = .hole) :
    exec (.wr src tag body) s = .next (s.withDev ((s.dev.took (some src) 0x03 tag body).respond src s.now 0x04 eRange tag [])) := by
  rw [State.dev] at hlayout ht
  show execWr src tag body s = _
  simp only [execWr, State.run_next, hlayout, ht, Bool.false_eq_true, if_false]
  rfl

/-- A WR of memory that nothing holds back stores its bytes with their marks, and answers after (R523). -/
theorem exec_wr_memory {a n : Nat} (ha : a = recNum body 0 8) (hn : n = recNum body 8 4) (hlayout : s.dev.wrBad body = false)
    (ht : (∃ u b, s.dev.target a = .ext u b) ∨ ∃ k, s.dev.target a = .clearing k) (hgoes : s.dev.wrWaits a n = false) :
    exec (.wr src tag body) s = .next (s.withDev
      (((s.dev.took (some src) 0x03 tag body).storePmNow a (body.drop 24) (recNum body 16 8) (some s.dev.fabPart)).respond
        src s.now 0x04 sOk tag [])) := by
  subst ha hn
  simp only [State.dev] at hlayout ht hgoes
  show execWr src tag body s = _
  obtain ⟨u, b, ht⟩ | ⟨k, ht⟩ := ht
  all_goals
    simp only [execWr, State.run_next, hlayout, ht, hgoes, Bool.false_eq_true, if_false]
    rfl

theorem exec_atomic_bad (hbad : atBad body = true) :
    exec (.atomic src tag body) s = .next (s.withDev ((s.dev.took (some src) 0x05 tag body).badMsg s.now src 0x06 tag true)) :=
  exec_next_congr rfl (if_pos hbad)

/-- A message's leaving the inbox changes nothing that an AT waits for. -/
theorem Dev.atWait_took (d : Dev) (k : Option Nat) (mtype tag src : Nat) (b body : List Byte) :
    (d.took k mtype tag b).atWait src body = d.atWait src body := rfl

/-- An AT that neither a drain nor a reservation holds back is executed, and what its line held back goes on (R437, R523). -/
theorem exec_atomic_serves (hlayout : atBad body = false) (hheld : s.dev.heldRange (atOp body).addr (max (atOp body).len 1) = false)
    (hgoes : s.dev.atWait src body = 0) :
    exec (.atomic src tag body) s = .next (s.withDev
      (((s.dev.took (some src) 0x05 tag body).serveAt s.now src tag body).releaseHeld s.now)) := by
  show execAt src tag body s = _
  simp only [execAt, State.runAt_next, hlayout, hheld, Dev.atWait_took, hgoes, bne_self_eq_false, Bool.false_eq_true, if_false]

end

/-- Settles O51: each request by its layout, and then by what it is for. -/
theorem memoryRequestsAct : Obligations.MemoryRequestsAct := by
  intro s src tag body d a n r w
  exact ⟨exec_rd_bad, exec_rd_hole, exec_rd_memory rfl rfl, exec_wr_bad, exec_wr_memory rfl rfl, exec_wr_hole, exec_atomic_bad,
    exec_atomic_serves⟩

/-! ### The transport's timers (spec/15 R510 to R514, R527, R532, R534) -/

section
variable {s : State} {k c : Nat}

/-- An acknowledgement falls due ACK_US after the first packet that none has followed, or at once when that has passed (R510). -/
theorem exec_ackTimer {t u : Nat} (hc : c < 2) (ht : (s.dev.rxFlow k c).firstAt = some t)
    (hu : u = max s.now (t + s.dev.cfgF .SFX_TMO [] 32 8 * 12000)) :
    exec (.ackTimer k c) s = .next (s.later u (s.dev.sendAck u k c)) := by
  subst hu
  rw [State.dev] at ht
  rw [State.later_max]
  show execAckTimer k c s = _
  simp only [execAckTimer, State.run_next, Nat.mod_eq_of_lt hc, ht]
  rfl

/-- A packet's RTO passes: the window falls to one packet, and the packet is sent again (R511, R514). -/
theorem exec_rtoExpire {psn u : Nat} {p : Pkt} {e : Dev} (hc : c < 2)
    (hp : ((s.dev.txFlow k c).unacked.find? fun p => p.psn == psn) = some p)
    (hu : u = max s.now (p.lastAt + s.dev.cfgF .SFX_TMO [] 0 16 * 12000 * min 8 (2 ^ p.tries))) (he : e = s.dev.bump .SFX_RTO) :
    exec (.rtoExpire k c psn) s =
      .next (s.later u ((e.setTx k c { e.txFlow k c with w := ((e.payloadMax : Nat) : Rat) }).resend u k c psn)) := by
  subst hu he
  rw [State.dev] at hp
  rw [State.later_max]
  show execRtoExpire k c psn s = _
  simp only [execRtoExpire, State.run_next, Nat.mod_eq_of_lt hc, hp]
  rfl

/-- A peer whose oldest packet has waited LOST_MS is lost, and recorded after its loss actions (R511, R532, R534). -/
theorem exec_peerLost {t u : Nat} (hup : (s.dev.peer k).st = .up) (ht : (s.dev.peer k).oldest = some t)
    (hu : u = max s.now (t + s.dev.cfgF .SFX_TMO [] 16 16 * 12000000)) :
    exec (.peerLost k) s = .next (s.withMach ((s.later u
      (((s.dev.bump .SFX_LOST).lossActions u k).peerState k .lost (s.dev.peer k).inc)).mach.event 0x0402 1 (evUnit 8 k)
        (s.dev.peer k).inc)) := by
  subst hu
  rw [State.dev] at hup ht
  rw [State.later_max]
  show execPeerLost k s = _
  simp only [execPeerLost, State.run_next, hup, ht]
  rfl

theorem exec_pathPenaltyEnd {i : Nat} {q : Nat × Nat} (hq : s.dev.net.penal[i]? = some q) :
    exec (.pathPenaltyEnd i) s =
      .next (s.later q.2 (s.dev.onNet fun n => { n with penal := n.penal.take i ++ n.penal.drop (i + 1) })) := by
  rw [State.dev] at hq
  show execPathPenaltyEnd i s = _
  simp only [execPathPenaltyEnd, State.run_next, hq]
  rfl

/-- The hello timer's hellos go to the manager too unless this module is the manager, or has its ID and the count is no hundredth
(R527). -/
theorem exec_helloTimer {u : Nat} {e : Dev} (hs : s.mach.und.st.serves = true)
    (hu : u = max s.now (s.dev.net.helloAt + s.dev.cfgF .SFX_TMO [] 48 16 * 12000000))
    (he : e = (s.dev.onNet fun n => { n with helloAt := u, helloN := n.helloN + 1 }).hellosNative s.dev.helloFlags) :
    exec .helloTimer s = .next (s.later u
      (if s.dev.isMgr = true ∨ (s.dev.net.id.isSome = true ∧ (s.dev.net.helloN + 1) % 100 ≠ 0) then e
       else e.hellosMgr s.dev.helloFlags)) := by
  subst he hu
  rw [State.later_max]
  simp only [← bne_iff_ne, ← Bool.and_eq_true, ← Bool.or_eq_true]
  show execHelloTimer s = _
  simp only [execHelloTimer, State.run_next, hs, Bool.not_true, Bool.false_eq_true, if_false]
  rfl

end

/-- Settles O50, timer by timer. -/
theorem transportTimersAct : Obligations.TransportTimersAct := by
  intro s k d
  refine ⟨fun c t hc ht => ?ack, fun c psn p hc hp => ?rto, fun t hup ht => ?lost, fun i q => exec_pathPenaltyEnd, fun hs => ?hello⟩
  case ack => exact exec_ackTimer hc ht rfl
  case rto => exact exec_rtoExpire hc hp rfl rfl
  case lost => exact exec_peerLost hup ht rfl
  case hello => exact exec_helloTimer hs rfl rfl

/-! ### Salrex packets (spec/15 R499 to R510, R527, R528, R532, R533) -/

section
variable {d : Dev} {x : Rx} {ptype : Nat} {f : Dev → Hdr → Dev} (hhere : d.rxHere x = true) (hframe : (d.rxFrame x).2 = true)
include hhere hframe

theorem Dev.packetRx_bad (hbad : (d.rxFrame x).1.pktBad ptype x.bytes = true) :
    d.packetRx ptype x f = (d.rxFrame x).1.bump .SFX_RXBAD := by
  simp only [Dev.packetRx, hhere, hframe, hbad, Bool.not_true, Bool.false_eq_true, if_false, if_true]

theorem Dev.packetRx_good (hgood : (d.rxFrame x).1.pktBad ptype x.bytes = false) :
    d.packetRx ptype x f = f (d.rxFrame x).1 (Hdr.of x.bytes) := by
  simp only [Dev.packetRx, hhere, hframe, hgood, Bool.not_true, Bool.false_eq_true, if_false]

/-- A good DATA or ACK of a peer that is not lost with its incarnation acts when it is for this incarnation of the module, and is
answered with a RESET when it is for another (R507, R533). -/
theorem Dev.flowRx_good {now : Nat} {e : Dev} (he : e = (d.rxFrame x).1) {h : Hdr} (hh : h = Hdr.of x.bytes)
    (hgood : e.pktBad ptype x.bytes = false) (hmeet : (e.meetPeer now h.src h.sinc).2 = false) :
    d.flowRx now ptype x f = if h.dinc ≠ e.net.inc then (e.meetPeer now h.src h.sinc).1.sendReset now h.src h.dinc
      else f (e.meetPeer now h.src h.sinc).1 h := by
  subst he hh
  exact (Dev.packetRx_good hhere hframe hgood).trans (if_neg (Bool.eq_false_iff.1 hmeet))

end

section
variable {s : State} {x : Rx} (hhere : s.dev.rxHere x = true) (hframe : (s.dev.rxFrame x).2 = true)
  {d : Dev} (hd : d = (s.dev.rxFrame x).1) {h : Hdr} (hh : h = Hdr.of x.bytes)
include hhere hframe hd

/-- A packet that breaks a rule of its header is counted as bad, whatever its type (R507). -/
theorem exec_packet_bad {c : Instr} {ptype : Nat} {f : Dev → Hdr → Dev} (hc : exec c s = .next (s.withDev (s.dev.packetRx ptype x f)))
    (hbad : d.pktBad ptype x.bytes = true) : exec c s = .next (s.withDev (d.bump .SFX_RXBAD)) := by
  subst hd
  exact exec_next_congr hc (Dev.packetRx_bad hhere hframe hbad)

include hh

theorem exec_salrexData_good (hgood : d.pktBad 1 x.bytes = false) (hmeet : (d.meetPeer s.now h.src h.sinc).2 = false) :
    exec (.salrexData x) s = .next (s.withDev (if h.dinc ≠ d.net.inc then (d.meetPeer s.now h.src h.sinc).1.sendReset s.now h.src h.dinc
      else (d.meetPeer s.now h.src h.sinc).1.data s.now h.src x h)) :=
  exec_next_congr rfl (Dev.flowRx_good hhere hframe hd hh hgood hmeet)

theorem exec_salrexAck_good {b : List Byte} (hb : b = x.bytes.drop 32) (hgood : d.pktBad 2 x.bytes = false)
    (hmeet : (d.meetPeer s.now h.src h.sinc).2 = false) (hinc : h.dinc = d.net.inc) (hlen : b.length = 24) (hres : recNum b 6 2 = 0) :
    exec (.salrexAck x) s = .next (s.withDev ((d.meetPeer s.now h.src h.sinc).1.ack s.now h.src h.chan b)) := by
  subst hb
  refine exec_next_congr rfl (((Dev.flowRx_good hhere hframe hd hh hgood hmeet).trans (if_neg (not_not.2 hinc))).trans (if_neg ?_))
  simp only [hlen, hres, ne_eq, not_true_eq_false, or_self, not_false_eq_true]

/-- A RESET of a peer's incarnation in force that names this module's applies the loss actions, and the flows start afresh (R533). -/
theorem exec_salrexReset_named {b : List Byte} (hb : b = x.bytes.drop 32) (hgood : d.pktBad 4 x.bytes = false) (hlen : b.length = 8)
    (hres : recNum b 4 4 = 0) (hmeet : (d.meetPeer s.now h.src h.sinc).2 = false) (hup : (d.peer h.src).st = .up)
    (hinc : (d.peer h.src).inc = h.sinc) (hnamed : recNum b 0 4 = d.net.inc) :
    exec (.salrexReset x) s = .next (s.withDev ((d.lossActions s.now h.src).startPeer h.src h.sinc)) := by
  subst hd hh hb
  rw [State.now] at hmeet
  refine exec_next_congr rfl ((Dev.packetRx_good hhere hframe hgood).trans ?_)
  simp only [State.now, hlen, hres, hmeet, hup, hinc, hnamed, ne_eq, not_true_eq_false, or_self, bne_self_eq_false, Bool.or_self,
    Bool.false_eq_true, if_false, true_or, if_true]

end

/-- DATA that has been received before, above what is received in order, is counted and acknowledged again (R509). -/
theorem Dev.data_again {d : Dev} {now k : Nat} {x : Rx} {h : Hdr} (hgot : (d.rxFlow k h.chan).got.contains h.psn = true) :
    d.data now k x h = (d.bump .SFX_DUP).sendAck now k h.chan := if_pos (.inr hgot)

section
variable {s : State} {x : Rx} (hhere : s.dev.rxHere x = true) (hframe : (s.dev.rxFrame x).2 = true)
  {d : Dev} (hd : d = (s.dev.rxFrame x).1) {g : Hello} (hg : g = Hello.of (x.bytes.drop 32))
include hhere hframe hd

theorem exec_hello_bad (hbad : d.pktBad 3 x.bytes = true) : exec (.hello x) s = .next (s.withDev (d.bump .SFX_RXBAD)) := by
  subst hd
  rw [State.dev] at hhere hframe hbad
  show execHello x s = _
  simp only [execHello, State.run_next, Mach.onDev, Dev.packetRx_bad hhere hframe hbad, hbad, Bool.not_true, Bool.and_false, Bool.false_and,
    Bool.false_eq_true, if_false]
  rfl

include hg

/-- A good HELLO announces its sender, a manager manages it, and a claim on another's ID is recorded (R528, R530, R532, R627). -/
theorem exec_hello_good {e : Dev} (he : e = (d.neighbour x g).announced s.now g.module (Hdr.of x.bytes).sinc) {t : State}
    (ht : t = s.withDev (if e.isMgr = true ∧ g.ident ≠ e.ident then e.manage s.now x g (Hdr.of x.bytes).src else e))
    (hgood : d.pktBad 3 x.bytes = false) (hlayout : helloBad 0 (x.bytes.drop 32) = false) :
    exec (.hello x) s =
      .next (if s.dev.idClash g = true then s.withMach (t.mach.event 0x0403 1 (evUnit 8 g.module) g.ident) else t) := by
  subst ht he hg hd
  simp only [State.dev] at hhere hframe hgood ⊢
  simp only [← bne_iff_ne, ← Bool.and_eq_true]
  show execHello x s = _
  simp only [execHello, State.run_next, Mach.onDev, Dev.packetRx_good hhere hframe hgood, hhere, hframe, hgood, hlayout, Bool.not_false,
    Bool.true_and, Bool.false_eq_true, if_false]
  exact congrArg Host.Outcome.next (apply_ite s.withMach _ _ _)

/-- The manager's ASSIGN gives a module without an ID the one it carries for the module's identity, and RUN may be entered (R528). -/
theorem exec_assign_gives {e : Dev} (he : e = d.announced s.now (Hdr.of x.bytes).src (Hdr.of x.bytes).sinc)
    (hgood : d.pktBad 3 x.bytes = false) (hlayout : helloBad 1 (x.bytes.drop 32) = false) (hmgr : bitAt g.flags 0 = true)
    (hident : g.ident = e.ident) (hid : e.net.id = none) (hmodule : g.module ≠ 0xFFF) :
    exec (.assign x) s = .next (s.withDev (e.onNet fun n => { n with id := some g.module, helloN := 0 })).tryRun := by
  subst he hg hd
  simp only [State.now] at hident hid
  refine congrArg (fun d => Host.Outcome.next (s.withDev d).tryRun) ((Dev.packetRx_good hhere hframe hgood).trans ?_)
  simp only [State.now, hlayout, hmgr, hident, hid, bne_iff_ne.2 hmodule, Option.isNone_none, beq_self_eq_true, Bool.and_self,
    Bool.false_eq_true, if_false, if_true]

end

/-- Settles O49: a packet that breaks a header rule is counted, and a good one acts by its type. -/
theorem salrexPacketsAct : Obligations.SalrexPacketsAct := by
  intro s x d h b g hhere hframe
  refine ⟨exec_packet_bad hhere hframe rfl rfl, exec_packet_bad hhere hframe rfl rfl, exec_hello_bad hhere hframe rfl,
    exec_packet_bad hhere hframe rfl rfl, fun hgood hmeet => ?data, exec_salrexAck_good hhere hframe rfl rfl rfl,
    exec_salrexReset_named hhere hframe rfl rfl rfl, fun hgood hlayout => exec_hello_good hhere hframe rfl rfl rfl rfl hgood hlayout,
    fun hgood hlayout => exec_assign_gives hhere hframe rfl rfl rfl hgood hlayout⟩
  case data =>
    have met := exec_salrexData_good hhere hframe rfl rfl hgood hmeet
    refine ⟨fun hinc => exec_next_congr met (if_pos hinc), fun hinc => ?_⟩
    have received := exec_next_congr met (if_neg (not_not.2 hinc))
    exact ⟨received, fun hgot => exec_next_congr received (Dev.data_again hgot)⟩

/-! ### ARP, Neighbor Discovery and echo (spec/15 R501) -/

section
variable {s : State} {n sub : Nat} (hn : n < 36) (hup : s.dev.ethUp n sub = true) {e : Dev} (he : e = s.dev.bump .ETH_RXFRM [n])
include hn hup he

theorem exec_arpRequest (mac src dst : Nat) :
    exec (.arpRequest n sub mac src dst) s = .next (s.withDev (if e.ownAddr n false dst = true then
      e.sendFrame n sub (e.dscpPrio 0) (.frame n sub mac etArp none (arpBytes 2 (e.macOf n sub) dst mac src)) else e)) := by
  subst he
  show execArpRequest n sub mac src dst s = _
  simp only [execArpRequest, State.runDev_next, Nat.not_le.2 hn, hup, decide_false, Bool.not_true, Bool.or_self, Bool.false_eq_true,
    if_false]

theorem exec_neighborSolicitation {src : Nat} (hsrc : src ≠ 0) (mac dst : Nat) :
    exec (.neighborSolicitation n sub mac src dst) s = .next (s.withDev (if e.ownAddr n true dst = true then
      e.sendFrame n sub (e.dscpPrio 0) (.frame n sub mac (etIp true) none (naBytes dst (e.macOf n sub) src true)) else e)) := by
  subst he
  show execNeighborSolicitation n sub mac src dst s = _
  simp only [execNeighborSolicitation, State.runDev_next, Nat.not_le.2 hn, hup, hsrc, bne_iff_ne.2 hsrc, decide_false, Bool.not_true,
    Bool.or_self, Bool.false_eq_true, if_false]

theorem exec_icmpEchoRequest_v6 (mac src dst : Nat) (body : List Byte) :
    exec (.icmpEchoRequest n sub true mac src dst body) s = .next (s.withDev (if e.ownAddr n true dst = true then
      e.sendFrame n sub (e.dscpPrio 0) (.frame n sub mac (etIp true) none (icmp6Bytes 129 dst src body)) else e.bump .ETH_RXDROP [n])) := by
  subst he
  show execIcmpEchoRequest n sub true mac src dst body s = _
  simp only [execIcmpEchoRequest, State.runDev_next, Nat.not_le.2 hn, hup, decide_false, Bool.not_true, Bool.or_self, Bool.false_eq_true,
    if_false, if_true]

end

/-- A port of which one sub-port has link in an Ethernet mode. -/
theorem Dev.ethAny_of_ethUp {d : Dev} {n sub : Nat} (hn : n < 36) (hsub : sub < 4) (hup : d.ethUp n sub = true) : d.ethAny n = true :=
  Bool.and_eq_true_iff.2 ⟨decide_eq_true hn, List.any_eq_true.2 ⟨sub, List.mem_range.2 hsub, hup⟩⟩

section
variable {s : State} {n : Nat} (hany : s.dev.ethAny n = true)
include hany

theorem exec_arpReply (src mac : Nat) :
    exec (.arpReply n src mac) s = .next (s.withDev ((s.dev.bump .ETH_RXFRM [n]).learn s.now n (addrKey false src) mac)) :=
  exec_next_congr rfl (if_pos hany)

theorem exec_neighborAdvertisement (dst mac : Nat) :
    exec (.neighborAdvertisement n dst mac) s = .next (s.withDev ((s.dev.bump .ETH_RXFRM [n]).learn s.now n (addrKey true dst) mac)) :=
  exec_next_congr rfl (if_pos hany)

end

section
variable {s : State} {t i : Nat} {x : Nbr} (hx : (s.dev.nbrs t)[i]? = some x)
include hx

/-- A neighbour that was asked again and has not answered leaves the cache (R501). -/
theorem exec_neighborRevalidate_asked (hasked : x.asked = true) :
    exec (.neighborRevalidate t i) s =
      .next (s.later (x.at_ + 30000 * 12000000) (s.dev.setNbrs t ((s.dev.nbrs t).take i ++ (s.dev.nbrs t).drop (i + 1)))) := by
  rw [State.dev] at hx
  show execNeighborRevalidate t i s = _
  simp only [execNeighborRevalidate, State.run_next, hx, hasked, if_true]
  rfl

/-- A neighbour's entry that is 30 s old stays, marked, and the neighbour is asked for on a port of its Treeline that can ask (R501). -/
theorem exec_neighborRevalidate_asks (hasked : x.asked = false) {u : Nat} (hu : u = max s.now (x.at_ + 30000 * 12000000)) {g : Dev}
    (hg : g = s.dev.setNbrs t ((s.dev.nbrs t).take i ++ [{ x with asked := true, at_ := u }] ++ (s.dev.nbrs t).drop (i + 1))) :
    exec (.neighborRevalidate t i) s = .next (s.later u (match g.askFrom t (decide (2 ^ 128 ≤ x.addr)) with
      | some (p, y, b) => g.askNbr p y b (x.addr % 2 ^ 128)
      | none => g)) := by
  subst hg hu
  rw [State.dev] at hx
  rw [State.later_max]
  show execNeighborRevalidate t i s = _
  simp only [execNeighborRevalidate, State.run_next, hx, hasked, Bool.false_eq_true, if_false]
  rfl

end

/-- Settles O48, frame by frame, and the two ages of a neighbour's entry. -/
theorem neighboursAreServed : Obligations.NeighboursAreServed := by
  intro s n sub mac src dst body d e hn hup hsub
  have hany := Dev.ethAny_of_ethUp hn hsub hup
  exact ⟨exec_arpRequest hn hup rfl mac src dst, fun hsrc => exec_neighborSolicitation hn hup rfl hsrc mac dst,
    exec_icmpEchoRequest_v6 hn hup rfl mac src dst body, exec_arpReply hany src mac, exec_neighborAdvertisement hany dst mac,
    fun t i x hx hasked => exec_neighborRevalidate_asked hx hasked, fun t i x hx hasked => exec_neighborRevalidate_asks hx hasked rfl rfl⟩

/-! ### Ports gain and lose link (spec/15 R497, R501, spec/18 R619) -/

section
variable {s : State} {n sub : Nat} (hn : n < 36)
include hn

/-- The last sub-port of a training port ends the training; on an Ethernet port the module's addresses are announced (R497, R501). -/
theorem exec_portLinkUp (hmay : s.mach.portMay n = true) (hsub : sub < subPorts (s.dev.portMode n))
    (hdown : bitAt (s.dev.port n).up sub = false) (htrains : (s.dev.port n).training = true) {d : Dev}
    (hd : d = s.dev.modPort n fun p =>
      { p with up := p.up ||| 2 ^ sub, training := (p.up ||| 2 ^ sub) != 2 ^ subPorts (s.dev.portMode n) - 1 }) :
    exec (.portLinkUp n sub) s = .next (s.withDev (if s.dev.portMode n = 4 then d else d.announce n sub)).tryRun := by
  subst hd
  simp only [State.dev] at hsub hdown htrains
  show execPortLinkUp n sub s = _
  simp only [execPortLinkUp, State.runThen, Nat.not_le.2 hn, Nat.not_le.2 hsub, hmay, hdown, htrains, decide_false, Bool.not_true,
    Bool.or_self, Bool.false_eq_true, if_false]
  rfl

/-- A sub-port that had link loses it; in RUN a failed test of the retraining fails the port (R497, R619). -/
theorem exec_portLinkDown (hup : bitAt (s.dev.port n).up sub = true) (fail : Bool) {m : Mach}
    (hm : m = { s.mach with dev := s.dev.portDown (s.mach.und.st == .run) n (2 ^ sub) }) :
    exec (.portLinkDown n sub fail) s = .next (s.withMach (if (fail && s.mach.und.st == .run) = true then m.portFails n else m)) := by
  subst hm
  rw [State.dev] at hup
  show execPortLinkDown n sub fail s = _
  simp only [execPortLinkDown, State.run_next, Nat.not_le.2 hn, hup, decide_false, Bool.not_true, Bool.or_self, Bool.false_eq_true,
    if_false]
  rfl

end

/-! ### Frames received (spec/15 R497 to R503) -/

/-- What an Ethernet port drops of the frames whose FCS is right, in the order of its checks (R498 to R503). -/
abbrev Dev.DropsFrame (e : Dev) (f : Frame) : Prop :=
  (f.len < 64 ∨ 9216 < f.len) ∨ f.etype = 0x8808 ∨ e.tagOk f.port f.tag = false ∨ e.macMine f.port f.sub f.dst = false ∨
    e.ipDrop f = true ∨ 2 ^ 20 < (e.port f.port).waiting - SMap.get 0 (e.port f.port).buf (e.rxPrio f) + f.occ + f.len

section
variable {s : State} {f : Frame} (hn : f.port < 36) (hup : s.dev.ethUp f.port f.sub = true) (hmode : s.dev.portMode f.port ≠ 4)
  {e : Dev} (he : e = s.dev.bump .ETH_RXFRM [f.port])
include hn hup hmode he

theorem exec_ethFrameRx_met :
    exec (.ethFrameRx f) s = .next (s.withDev (if f.fcs = false then e.bump .ETH_FCSERR [f.port]
      else if e.DropsFrame f then e.bump .ETH_RXDROP [f.port]
      else if f.etype = 0x88B6 then (e.buffer f).testFrame f.port f else e.buffer f)) := by
  subst he
  have hnative : s.dev.nativeUp f.port = false := by simp only [Dev.nativeUp, beq_false_of_ne hmode, Bool.false_and]
  show execEthFrameRx f s = _
  simp only [execEthFrameRx, State.runDev_next, Nat.not_le.2 hn, hup, hnative, decide_false, Bool.false_and, Bool.false_or,
    Bool.not_eq_true', Bool.true_eq_false, Bool.false_eq_true, if_false, Dev.DropsFrame, ite_or]

theorem exec_ethFrameRx_badFcs (hfcs : f.fcs = false) : exec (.ethFrameRx f) s = .next (s.withDev (e.bump .ETH_FCSERR [f.port])) :=
  exec_next_congr (exec_ethFrameRx_met hn hup hmode he) (if_pos hfcs)

theorem exec_ethFrameRx_dropped (hfcs : f.fcs = true) (hdrop : e.DropsFrame f) :
    exec (.ethFrameRx f) s = .next (s.withDev (e.bump .ETH_RXDROP [f.port])) :=
  exec_next_congr (exec_ethFrameRx_met hn hup hmode he) ((if_neg (ne_false_of_eq_true hfcs)).trans (if_pos hdrop))

theorem exec_ethFrameRx_stands (hfcs : f.fcs = true) (hstays : ¬ e.DropsFrame f) :
    exec (.ethFrameRx f) s = .next (s.withDev (if f.etype = 0x88B6 then (e.buffer f).testFrame f.port f else e.buffer f)) :=
  exec_next_congr (exec_ethFrameRx_met hn hup hmode he) ((if_neg (ne_false_of_eq_true hfcs)).trans (if_neg hstays))

end

/-! ### Priority flow control (spec/15 R503) -/

theorem bitAt_setBits_one (v i : Nat) : bitAt (setBits v i 1 1) i = true := by
  have hhigh : setBits v i 1 1 = v % 2 ^ i + 2 ^ i * (1 + 2 * (v / 2 ^ (i + 1))) := by
    simp only [setBits, pow_succ]
    ring
  have hdiv : setBits v i 1 1 / 2 ^ i = 1 + 2 * (v / 2 ^ (i + 1)) := by
    rw [hhigh, Nat.add_mul_div_left _ _ (Nat.two_pow_pos i), Nat.div_eq_of_lt (Nat.mod_lt _ (Nat.two_pow_pos i)), Nat.zero_add]
  rw [bitAt, Nat.testBit_eq_decide_div_mod_eq, hdiv]
  exact decide_eq_true (by omega)

theorem Dev.port_modPort {d : Dev} (hports : SMap.wf {} d.net.ports = true) (n : Nat) (f : Port → Port) :
    (d.modPort n f).port n = f (d.port n) := SMap.get_put_same ({} : Port) d.net.ports n (f (d.port n)) hports

/-- A priority with flow control is paused by a pause time that is not 0. -/
theorem Dev.paused_pausePrio {d : Dev} {n b t : Nat} (hports : SMap.wf {} d.net.ports = true) (hon : d.pfcOn n (b % 8) = true)
    (ht : t ≠ 0) (now : Nat) : bitAt ((d.pausePrio now n b t).port n).paused b = true := by
  simp only [Dev.pausePrio, hon, ht, Bool.not_true, Bool.false_eq_true, if_false, Dev.port_modPort hports, bitAt_setBits_one]

theorem exec_pfcFrameRx_one {s : State} {n sub p : Nat} (hn : n < 36) (hup : s.dev.ethUp n sub = true) (hp : p < 8) (t : Nat) :
    exec (.pfcFrameRx n sub [(p, t)]) s =
      .next (s.withDev (((s.dev.bump .ETH_RXFRM [n]).bump .ETH_PFCRX [n]).pausePrio s.now n (8 * sub + p) t)) := by
  show execPfcFrameRx n sub [(p, t)] s = _
  simp only [execPfcFrameRx, State.runAt_next, Nat.not_le.2 hn, hup, decide_false, Bool.true_or, Bool.not_true, Bool.or_self,
    Bool.false_eq_true, if_false, List.foldl_cons, List.foldl_nil, Nat.mod_eq_of_lt hp]

/-- Settles O47: link gained and lost, a frame by the first check it fails, and a pause of one priority. -/
theorem portsAndFramesAct : Obligations.PortsAndFramesAct := by
  refine ⟨?links, ?frames⟩
  case links =>
    intro s n sub m hn
    refine ⟨fun hmay hsub hdown htrains => exec_portLinkUp hn hmay hsub hdown htrains rfl, fun hup => ?_⟩
    refine ⟨exec_portLinkDown hn hup false rfl, fun hrun => (exec_portLinkDown hn hup true rfl).trans ?_⟩
    rw [beq_iff_eq.2 hrun]
    rfl
  case frames =>
    intro s f d n e hn hup hmode
    have dropped := exec_ethFrameRx_dropped hn hup hmode (f := f) rfl
    refine ⟨exec_ethFrameRx_badFcs hn hup hmode rfl, fun hfcs hlen => dropped hfcs (.inl hlen),
      fun hfcs _ _ htype => dropped hfcs (.inr (.inl htype)),
      fun hfcs _ _ _ _ haddr => dropped hfcs (.inr (.inr (.inr (haddr.imp_right .inl)))),
      fun hfcs _ _ _ htag => dropped hfcs (.inr (.inr (.inl htag))),
      fun hfcs hmin hmax htype htag hmac hip => ⟨fun hfull => ?full, fun hroom => ?room⟩, fun p t ht hp => ?pause⟩
    case full => exact dropped hfcs (.inr (.inr (.inr (.inr (.inr hfull)))))
    case room =>
      refine exec_ethFrameRx_stands hn hup hmode rfl hfcs ?_
      rintro (hlen | h | h | h | h | h)
      · omega
      · exact htype h
      · exact ne_false_of_eq_true htag h
      · exact ne_false_of_eq_true hmac h
      · exact Bool.eq_false_iff.1 hip h
      · exact Nat.not_le.2 h hroom
    case pause =>
      have paused := exec_pfcFrameRx_one hn hup hp t
      refine ⟨paused, fun hon hports => ⟨_, paused, ?_⟩⟩
      have hprio : (8 * f.sub + p) % 8 = p := by rw [Nat.mul_add_mod, Nat.mod_eq_of_lt hp]
      have hpfc : (e.bump .ETH_PFCRX [n]).pfcOn n ((8 * f.sub + p) % 8) = true := hprio.symm ▸ hon
      exact Dev.paused_pausePrio (d := e.bump .ETH_PFCRX [n]) hports hpfc ht s.now

end Sys2Proof.Machine

/-! ## Proofs: every step, and the families of spec/16 to spec/20 -/

namespace Sys2Proof.Machine

/-! ### What an operation inside a command leaves of the module's state and its log (spec/17 R570, R594, R595, spec/18 R622, R625) -/

/-- The moves that an operation inside a command makes: none, into FAULT_HOLD, or those of a write of UND_CTL. -/
inductive MSt.Drifts : MSt → MSt → Prop where
  | stays (a : MSt) : Drifts a a
  | holds {a : MSt} : a ≠ .off → Drifts a .faultHold
  | drains : Drifts .run .drain
  | reboots : Drifts .recovery .boot

theorem MSt.Drifts.trans {a b c : MSt} (h : a.Drifts b) (h' : b.Drifts c) : a.Drifts c := by
  cases h' with
  | stays => exact h
  | holds hb => cases h with
    | stays => exact .holds hb
    | holds ha => exact .holds ha
    | drains => exact .holds nofun
    | reboots => exact .holds nofun
  | drains => cases h; exact .drains
  | reboots => cases h; exact .reboots

theorem MSt.ne_off_of_serves {a : MSt} (h : a.serves = true) : a ≠ .off := by
  rintro rfl
  exact Bool.false_ne_true h

@[simp] theorem Mach.enterBoot_evLog (m : Mach) : m.enterBoot.und.evLog = m.und.evLog := 
  (congrArg Und.evLog (Mach.alertEdge_und m _)).trans rfl

/-- An operation that makes no other move and keeps the log's bound. -/
def Mach.Keeps (m n : Mach) : Prop :=
  m.und.st.Drifts n.und.st ∧ (m.und.evLog.length ≤ 64 → n.und.evLog.length ≤ 64)

namespace Mach.Keeps

@[simp] theorem refl (m : Mach) : m.Keeps m := ⟨.stays _, id⟩

section
variable {m n : Mach}

theorem trans {l : Mach} (h : l.Keeps m) (h' : m.Keeps n) : l.Keeps n := ⟨h.1.trans h'.1, h'.2 ∘ h.2⟩

/-- What an operation keeps depends on the state and the log alone. -/
theorem of_eq (hst : n.und.st = m.und.st) (hlog : n.und.evLog = m.und.evLog) : m.Keeps n := by
  unfold Mach.Keeps
  rw [hst, hlog]
  exact refl m

theorem of_und (h : n.und = m.und) : m.Keeps n := of_eq (congrArg Und.st h) (congrArg Und.evLog h)

@[simp] theorem withDev (v : Nv) (d : Dev) : m.Keeps ⟨v, n.und, d⟩ ↔ m.Keeps n := Iff.rfl
@[simp] theorem onDev (f : Dev → Dev) : m.Keeps (n.onDev f) ↔ m.Keeps n := Iff.rfl
@[simp] theorem atTime (t : Nat) : m.Keeps (n.atTime t) ↔ m.Keeps n := Iff.rfl
@[simp] theorem emit (o : Out) : m.Keeps (n.emit o) ↔ m.Keeps n := Iff.rfl
@[simp] theorem leaveUnits (u : Units) : m.Keeps (n.leaveUnits u) ↔ m.Keeps n := Iff.rfl
@[simp] theorem regErr : m.Keeps n.regErr ↔ m.Keeps n := onDev _
@[simp] theorem mrecClear : m.Keeps n.mrecClear ↔ m.Keeps n := Iff.rfl
@[simp] theorem onRcv (f : Rcv → Rcv) : m.Keeps (n.onRcv f) ↔ m.Keeps n := Iff.rfl
@[simp] theorem onMgmt (f : Mgmt → Mgmt) : m.Keeps (n.onMgmt f) ↔ m.Keeps n := Iff.rfl
@[simp] theorem portsDown (p : Nat → Bool) : m.Keeps (n.portsDown p) ↔ m.Keeps n := onDev _
@[simp] theorem goOn : m.Keeps n.goOn ↔ m.Keeps n := onDev _

variable (h : m.Keeps n)
include h

theorem foldl {α : Type} {f : Mach → α → Mach} (hf : ∀ {n x}, m.Keeps n → m.Keeps (f n x)) (l : List α) : m.Keeps (l.foldl f n) :=
  List.foldlRecOn (motive := m.Keeps) l f h fun _ hn _ _ => hf hn

@[simp] theorem event (code sev unit data : Nat) : m.Keeps (n.event code sev unit data) :=
  ⟨(Mach.event_st n code sev unit data).symm ▸ h.1, fun _ => Mach.event_log ..⟩

theorem alertEdge (l : Mach) : m.Keeps (l.alertEdge n) := h.trans (of_und (Mach.alertEdge_und l n))

/-- FAULT_HOLD is entered, with its record, from any state but OFF. -/
theorem faultHold (hoff : n.und.st ≠ .off) (cause : Nat) : m.Keeps (n.faultHold cause) :=
  h.trans ⟨(Mach.faultHold_st n cause).symm ▸ .holds hoff, fun _ => Mach.event_log ..⟩

/-! #### Faults -/

@[simp] theorem mapOutCore (c : Nat) : m.Keeps (n.mapOutCore c) := by
  unfold Mach.mapOutCore
  dsimp only
  split_ifs with _ hserves
  · simp [h]
  · rw [Bool.and_eq_true] at hserves
    exact faultHold (by simp [h]) (MSt.ne_off_of_serves hserves.2) 9
  · simp [h]

@[simp] theorem countFault (c : Nat) : m.Keeps (n.countFault c) := by
  unfold Mach.countFault
  dsimp only
  split_ifs <;> simp [h]

@[simp] theorem coreFault (c j k : Nat) : m.Keeps (n.coreFault c j k) := by simp [Mach.coreFault, h]

@[simp] theorem sliceFault (k a : Nat) : m.Keeps (n.sliceFault k a) := by
  have hev := h.event 0x0201 2 (evUnit 3 k) a
  unfold Mach.sliceFault
  dsimp only
  split_ifs
  · refine event ?_ ..
    exact hev.trans (of_eq rfl rfl)
  · exact hev

@[simp] theorem reportErr (p : Nat × Nat) : m.Keeps (n.reportErr p) := by
  unfold Mach.reportErr
  split_ifs <;> simp [h]

@[simp] theorem flushReports : m.Keeps n.flushReports := foldl (m := m) ((onDev _).2 h) (fun hn => hn.reportErr _) _

@[simp] theorem faultInsn (c : Nat) (e : Eng) (x : QEnt) (k : Nat) : m.Keeps (n.faultInsn c e x k) := by
  simp [Mach.faultInsn, Mach.engFault, h]

@[simp] theorem canopyDetect (a : Nat) : m.Keeps (n.canopyDetect a).1 := by simp [Mach.canopyDetect, h]

@[simp] theorem breakSync (i : Nat) : m.Keeps (n.breakSync i) := by simp [Mach.breakSync, h]

@[simp] theorem mbError (c : Nat) (e : MbEnt) : m.Keeps (n.mbError c e) := by simp [Mach.mbError, h]

@[simp] theorem loadDetect (c s a : Nat) (det : Det) : m.Keeps (n.loadDetect c s a det).1 := by
  unfold Mach.loadDetect
  dsimp only
  split
  case h_1 => split_ifs <;> simp [h]
  case h_2 =>
    split
    case h_3 => exact h
    all_goals split_ifs <;> simp [h]

@[simp] theorem portFails (p : Nat) : m.Keeps (n.portFails p) := by
  unfold Mach.portFails
  split_ifs <;> simp [h]

@[simp] theorem lossHold (area : Option Nat) : m.Keeps (n.lossHold area) := by
  unfold Mach.lossHold
  split_ifs with hidle
  · exact h
  all_goals have hoff : n.und.st ≠ .off := MSt.ne_off_of_serves (by simpa using hidle)
  · exact h.faultHold hoff 9
  · split
    · refine faultHold ?_ ?_ 8
      · exact h.trans (of_eq rfl rfl)
      · exact hoff
    · exact h

/-! #### Registers -/

@[simp] theorem undCtl (v : Nat) : m.Keeps (n.undCtl v) := by
  refine h.trans ?_
  unfold Mach.undCtl
  split
  case h_1 hrun =>
    have drain (dst : DrainTo) : n.Keeps (n.startDrain dst) := ⟨hrun ▸ .drains, id⟩
    split_ifs
    · exact drain _
    · exact drain _
    · exact drain _
    · exact refl n
  case h_2 hrcv =>
    split_ifs
    · exact ⟨hrcv ▸ (Mach.enterBoot_st n).symm ▸ .reboots, fun hlog => (Mach.enterBoot_evLog n).symm ▸ hlog⟩
    · exact refl n
  case h_3 => exact refl n

@[simp] theorem qfeCtl (t v : Nat) : m.Keeps (n.qfeCtl t v) := by
  unfold Mach.qfeCtl
  split_ifs <;> simp [h]

@[simp] theorem evFlagWrite (v : Nat) : m.Keeps (n.evFlagWrite v) := alertEdge (n := n.onUnd _) h n

@[simp] theorem readClears (r : Reg) (ix : List Nat) (lo k : Nat) : m.Keeps (n.readClears r ix lo k) := by
  unfold Mach.readClears
  dsimp only
  split
  case h_4 => exact h
  all_goals split_ifs <;> exact h

@[simp] theorem readReg (vw : View) (by_ : Option Nat) (o size : Nat) : m.Keeps (n.readReg vw by_ o size).1 := by
  unfold Mach.readReg
  split_ifs
  · exact h
  · split
    · exact h
    · split_ifs <;> simp [h]

@[simp] theorem regAct (r : Reg) (ix : List Nat) (v : Nat) : m.Keeps (n.regAct r ix v) := by
  unfold Mach.regAct
  dsimp only
  split
  case h_2 => split_ifs <;> simp [h]
  case h_13 => split_ifs <;> simp [h]
  all_goals simp [h]

@[simp] theorem writeReg (vw : View) (by_ : Option Nat) (o size v : Nat) : m.Keeps (n.writeReg vw by_ o size v) := by
  unfold Mach.writeReg
  split_ifs
  · exact h
  · split
    · exact h
    · dsimp only
      split_ifs <;> simp [h]

@[simp] theorem readLine (vw : View) (off : Nat) : m.Keeps (n.readLine vw off).1 :=
  List.foldlRecOn (motive := fun p : Mach × List Byte => m.Keeps p.1) _ _ h fun p hp i _ => by
    dsimp only
    split_ifs <;> simp [hp]

@[simp] theorem writeLaneReg (vw : View) (off en : Nat) (bs : List Byte) : m.Keeps (n.writeLaneReg vw off en bs) := by
  unfold Mach.writeLaneReg
  split_ifs <;> simp [h]

@[simp] theorem writeLine (vw : View) (off mask : Nat) (bs : List Byte) : m.Keeps (n.writeLine vw off mask bs) :=
  foldl h (fun hn => hn.writeLaneReg ..) _

@[simp] theorem telWrite (r : Reg) (ix : List Nat) (v : Nat) : m.Keeps (n.telWrite r ix v) := by
  unfold Mach.telWrite
  split_ifs <;> simp [h]

@[simp] theorem i3cWrite (o v : Nat) : m.Keeps (n.i3cWrite o v) := by
  unfold Mach.i3cWrite
  split <;> simp [h]

@[simp] theorem i3cReg : m.Keeps n.i3cReg.1 := by simp [Mach.i3cReg, h]

@[simp] theorem i3cStd (addr k j : Nat) : m.Keeps (n.i3cStd addr k j) := by
  unfold Mach.i3cStd
  split <;> simp [h]

/-! #### Memory controllers -/

@[simp] theorem qualify (u c : Nat) : m.Keeps (n.qualify u c) := by
  unfold Mach.qualify
  dsimp only
  split_ifs <;> simp [h]

@[simp] theorem decodeAt (u b a : Nat) (res : Decoded) : m.Keeps (n.decodeAt u b a res) := by
  unfold Mach.decodeAt
  dsimp only
  split <;> split_ifs <;> simp [h]

@[simp] theorem decodeRead (a : Nat) (res : Decoded) : m.Keeps (n.decodeRead a res) := by
  unfold Mach.decodeRead
  split <;> simp [h]

@[simp] theorem returnReads (u : Nat) : m.Keeps (n.returnReads u) := foldl h (fun hn => by simp [hn]) _

theorem pumpReads (u k : Nat) : m.Keeps (n.pumpReads u k) := by
  induction k generalizing n with
  | zero => exact h
  | succ k ih => exact ih (by simp [h])

@[simp] theorem unitIssues (u : Nat) : m.Keeps (n.unitIssues u) := h.pumpReads u _

@[simp] theorem lastReads (u : Nat) : m.Keeps (n.lastReads u) := (onDev _).2 (foldl h (fun hn => by simp [hn]) _)

@[simp] theorem scrubLine (det : Det) (a b : Nat) : m.Keeps (n.scrubLine det a b) := by
  unfold Mach.scrubLine
  split <;> (dsimp only; split_ifs <;> simp [h])

@[simp] theorem scrubBlock (o : HOp) (bad : List (Nat × Nat)) : m.Keeps (n.scrubBlock o bad) := by
  unfold Mach.scrubBlock
  refine (onDev _).2 (foldl ?_ ?_ _)
  · split <;> simp [h]
  · intro l p hl
    split_ifs <;> simp [hl]

/-! #### Start-up and COMMIT -/

@[simp] theorem outEvents (k mask code kind data : Nat) : m.Keeps (n.outEvents k mask code kind data) :=
  foldl h (fun hn => by simp [hn]) _

@[simp] theorem testFail (u : Units) : m.Keeps (n.testFail u) := 
  outEvents (outEvents (outEvents (outEvents (outEvents ((leaveUnits _).2 h) ..) ..) ..) ..) ..

@[simp] theorem rcvArg (v : Word) : m.Keeps (n.rcvArg v) := by
  unfold Mach.rcvArg
  split_ifs <;> simp [h]

@[simp] theorem extend7 (l : List (Nat × List Byte)) : m.Keeps (n.extend7 l) := by
  unfold Mach.extend7
  split_ifs
  · exact h
  · exact h

@[simp] theorem commitCheck (c : Commit) : m.Keeps (n.commitCheck c) := by
  unfold Mach.commitCheck
  dsimp only
  split
  · exact h
  · split <;> simp [h]

@[simp] theorem commitNext (k : Nat) : m.Keeps (n.commitNext k) := by
  induction k generalizing n with
  | zero => exact h
  | succ k ih =>
    unfold Mach.commitNext
    split
    · split_ifs
      · exact h
      · exact ih (h.commitCheck _)
    · exact h

@[simp] theorem commitEnd (c : Commit) : m.Keeps (n.commitEnd c) := commitNext ((onDev _).2 h) _

/-- A sensor's shutdown limit holds the module only where it runs (R662). -/
@[simp] theorem takeSensor (t i : Nat) : m.Keeps (n.takeSensor t i) := by
  unfold Mach.takeSensor
  dsimp only
  generalize hk : n.onUnd _ = k
  have hread : m.Keeps k := hk ▸ h.trans (of_eq rfl rfl)
  split_ifs with _ hhot hhot
  · exact (hread.event ..).faultHold (fun hoff => by rw [hoff, Bool.and_false] at hhot; exact Bool.false_ne_true hhot) 5
  · exact hread.event ..
  · exact hread.faultHold (fun hoff => by rw [hoff, Bool.and_false] at hhot; exact Bool.false_ne_true hhot) 5
  · exact hread

/-! #### Sequencers, engines and the host -/

@[simp] theorem nxSync (q : Sq) (w : BitVec 32) (rs1 : Word) (op : Nat) (bad : Bool)
    (f : Dev → Nat → Nat → Option Nat → Nat → Dev) : m.Keeps (n.nxSync q w rs1 op bad f) := by
  unfold Mach.nxSync
  split_ifs
  · exact h
  · dsimp only
    refine (onDev _).2 ?_
    split <;> simp [h]

@[simp] theorem nxSyncWrite (q : Sq) (w : BitVec 32) (a v : Word) (op : Nat) (bad : Bool) : m.Keeps (n.nxSyncWrite q w a v op bad) :=
  h.nxSync ..

@[simp] theorem nxSyncWait (q : Sq) (w : BitVec 32) (a v : Word) (op : Nat) (bad : Bool) : m.Keeps (n.nxSyncWait q w a v op bad) :=
  h.nxSync ..

@[simp] theorem syncMsg (src tag : Nat) (body : List Byte) (op : Nat) (noresp bad : Bool) (f : Dev → Nat → Word → Dev) :
    m.Keeps (n.syncMsg src tag body op noresp bad f) := by
  unfold Mach.syncMsg
  dsimp only
  split_ifs <;> simp [h]

@[simp] theorem loadCached (c rd size : Nat) (sgn : Bool) (a : Nat) (det : Det) : m.Keeps (n.loadCached c rd size sgn a det) := by
  unfold Mach.loadCached
  dsimp only
  split_ifs <;> simp [h]

@[simp] theorem loadWin (q : Sq) (rd size : Nat) (sgn : Bool) (k off : Nat) (det : Det) : m.Keeps (n.loadWin q rd size sgn k off det) := by
  unfold Mach.loadWin
  dsimp only
  (repeat' split) <;> simp [h]

@[simp] theorem loadReg (q : Sq) (rd size : Nat) (sgn : Bool) (vw : View) (off : Nat) : m.Keeps (n.loadReg q rd size sgn vw off) := by
  unfold Mach.loadReg
  dsimp only
  split
  · exact h
  · split
    · split_ifs <;> simp [h]
    · simp [h]

@[simp] theorem loadHere (q : Sq) (rd size : Nat) (sgn : Bool) (a : Nat) (det : Det) : m.Keeps (n.loadHere q rd size sgn a det) := by
  unfold Mach.loadHere
  dsimp only
  split
  case h_1 | h_2 => split_ifs <;> simp [h]
  case h_3 =>
    split_ifs with hdet
    · rw [Bool.and_eq_true] at hdet
      exact h.faultHold (MSt.ne_off_of_serves hdet.2) 6
    · exact h
  all_goals simp [h]

@[simp] theorem storeDirect (q : Sq) (size a v : Nat) : m.Keeps (n.storeDirect q size a v) := by
  unfold Mach.storeDirect
  dsimp only
  split_ifs
  · exact h
  · split
    case h_1 => split_ifs <;> simp [h]
    all_goals simp [h]

@[simp] theorem storeHere (q : Sq) (size ga v : Nat) : m.Keeps (n.storeHere q size ga v) := by
  unfold Mach.storeHere
  dsimp only
  split
  case h_3 =>
    split
    case h_2 => split_ifs <;> simp [h]
    all_goals simp [h]
  case h_1 | h_2 | h_4 | h_5 => split_ifs <;> simp [h]
  all_goals simp [h]

@[simp] theorem runInsn (c : Nat) (ve : Bool) (det : Det) (mine : QEnt → Bool) (f : Dev → QEnt → EngOut) :
    m.Keeps (n.runInsn c ve det mine f) := by
  unfold Mach.runInsn
  dsimp only
  generalize (if ve = true then Eng.ve else Eng.me) = e
  generalize (if ve = true then 1 else 0) = k
  (repeat' split) <;> simp [h]

@[simp] theorem hostData (bs : List Byte) (poison flag : Bool) : m.Keeps (n.hostData bs poison flag) := by
  unfold Mach.hostData
  split <;> simp [h]

@[simp] theorem hostHole : m.Keeps n.hostHole := by simp [Mach.hostHole, h]

@[simp] theorem hostMemRead (a : Nat) (det : Det) : m.Keeps (n.hostMemRead a det) := by
  unfold Mach.hostMemRead
  dsimp only
  split_ifs <;> simp [h]

@[simp] theorem hostWinRead (c off : Nat) (det : Det) : m.Keeps (n.hostWinRead c off det) := by
  unfold Mach.hostWinRead
  dsimp only
  (repeat' split) <;> simp [h]

@[simp] theorem monitor (slot v : Nat) (whole : Bool) : m.Keeps (n.monitor slot v whole) := by
  unfold Mach.monitor
  split_ifs <;> simp [h]

@[simp] theorem cxlDown : m.Keeps n.cxlDown := by
  unfold Mach.cxlDown
  split_ifs <;> simp [h]

end

end Mach.Keeps

/-! ### What a command leaves of the module's state and its log -/

/-- The moves that one command makes between the module's states (R570): those of an operation inside it, the loss of 54 V, the rails going
down or 54 V arriving, and the states of start-up. -/
inductive MSt.Moves : MSt → MSt → Prop where
  | drifts {a b : MSt} : a.Drifts b → Moves a b
  | off {a : MSt} : Moves a .off
  | understory {a : MSt} : Moves a .understory
  | boot {a : MSt} : a = .understory ∨ a = .drain → Moves a .boot
  | recovery {a : MSt} : a = .boot ∨ a = .drain → Moves a .recovery
  | memtrain {a : MSt} : a = .boot ∨ a = .recovery → Moves a .memtrain
  | linkup : Moves .memtrain .linkup
  | run {a : MSt} : a = .memtrain ∨ a = .linkup → Moves a .run

/-- The bound of the event log is kept (R625). -/
def Mach.LogKept (m n : Mach) : Prop := m.und.evLog.length ≤ 64 → n.und.evLog.length ≤ 64

/-- A command's effect on the module's state and its log. -/
def Mach.Moves (m n : Mach) : Prop := m.und.st.Moves n.und.st ∧ m.LogKept n

theorem Mach.Keeps.moves {m n : Mach} (h : m.Keeps n) : m.Moves n := ⟨.drifts h.1, h.2⟩

theorem Mach.Moves.measured {m n : Mach} (h : m.Moves n) (l : List (List Byte)) : m.Moves { n with und := { n.und with meas := l } } := h

/-- An outcome is a next state with the queue of `s`, its fuses as they may have become, its state and its log as a command may leave them. -/
def State.Goes (s : State) (o : Out1) : Prop :=
  ∃ t, o = .next t ∧ t.pending = s.pending ∧ s.fuse.Keeps t.fuse ∧ s.mach.Moves t.mach

theorem Fuse.keeps_refl (f : Fuse) : f.Keeps f := ⟨le_rfl, fun _ h => h, rfl⟩

/-- The fuses after the entry to RUN of an image that runs from flash (R583). -/
theorem State.enterRun_fuse_flash {s : State} (h : s.mach.und.source ≠ 1) :
    s.enterRun.fuse = { s.fuse with
      svn := if bitAt (recNum s.mach.und.imgHdr 10 1) 0 = true ∧ s.fuse.svn < recNum s.mach.und.imgHdr 8 1 then
          recNum s.mach.und.imgHdr 8 1 else s.fuse.svn
      keyRev := if bitAt (recNum s.mach.und.imgHdr 10 1) 1 = true then
          s.fuse.keyRev ||| (2 ^ recNum s.mach.und.imgHdr 9 1 - 1) else s.fuse.keyRev } := by
  have hb : (s.mach.und.source != 1) = true := bne_iff_ne.2 h
  simp only [State.enterRun, hb, Bool.true_and, Bool.and_eq_true, decide_eq_true_eq]
  split_ifs <;> rfl

/-- An image staged in RECOVERY burns nothing (R583). -/
theorem State.enterRun_fuse_staged {s : State} (h : s.mach.und.source = 1) : s.enterRun.fuse = s.fuse := by
  have hb : (s.mach.und.source != 1) = false := by simp [h]
  simp only [State.enterRun, hb, Bool.false_and, Bool.false_eq_true, if_false]

theorem bitAt_or_low (v n i : Nat) : bitAt (v ||| (2 ^ n - 1)) i = (bitAt v i || decide (i < n)) := by
  simp [bitAt]

theorem State.fuse_keeps_enterRun (s : State) : s.fuse.Keeps s.enterRun.fuse := by
  by_cases h : s.mach.und.source = 1
  case pos => rw [State.enterRun_fuse_staged h]; exact s.fuse.keeps_refl
  case neg =>
    rw [State.enterRun_fuse_flash h]
    refine ⟨?svn, ?keys, rfl⟩
    case svn => dsimp only; split_ifs with hs <;> omega
    case keys =>
      intro i hi
      dsimp only
      split_ifs
      · rw [bitAt_or_low, hi, Bool.true_or]
      · exact hi

section
variable (s : State)

theorem State.goes_run {s : State} {f : Mach → Mach} (hf : ∀ m : Mach, m.Moves (f m)) : s.Goes (s.run f) :=
  ⟨_, rfl, rfl, s.fuse.keeps_refl, hf s.mach⟩

/-- A command made of operations that keep the state. -/
theorem State.goes_keeps {s : State} {f : Mach → Mach} (hf : ∀ m : Mach, m.Keeps (f m)) : s.Goes (s.run f) :=
  State.goes_run fun m => (hf m).moves

theorem State.goes_runDev (s : State) (f : Dev → Dev) : s.Goes (s.runDev f) :=
  ⟨_, rfl, rfl, s.fuse.keeps_refl, (Mach.Keeps.refl s.mach).moves⟩

theorem State.goes_runAt (s : State) (f : Nat → Dev → Dev) : s.Goes (s.runAt f) :=
  ⟨_, rfl, rfl, s.fuse.keeps_refl, (Mach.Keeps.refl s.mach).moves⟩

theorem MSt.Moves.linkup_from {a : MSt} (h : a.Moves .linkup) : a = .memtrain ∨ a = .linkup := by
  cases h with
  | drifts h => cases h; exact .inr rfl
  | linkup => exact .inl rfl

theorem Mach.linkup_of_runReady {m : Mach} (h : m.runReady = true) : m.und.st = .linkup := by
  simp only [Mach.runReady, Bool.and_eq_true, beq_iff_eq] at h
  exact h.1.1

/-- A command after which RUN may be entered enters it from LINKUP, which a command reaches from MEMTRAIN at most (R592). -/
theorem State.goes_runThen {s : State} {f : Mach → Mach} (hf : ∀ m : Mach, m.Moves (f m)) : s.Goes (s.runThen f) := by
  rw [State.runThen_next]
  split
  case isTrue hready =>
    refine ⟨_, rfl, rfl, (s.withMach (f s.mach)).fuse_keeps_enterRun, ?_, (hf s.mach).2⟩
    have hlink := (hf s.mach).1
    rw [Mach.linkup_of_runReady hready] at hlink
    exact .run hlink.linkup_from
  case isFalse => exact ⟨_, rfl, rfl, s.fuse.keeps_refl, hf s.mach⟩

end

theorem vRun_goes (opc c : Nat) (det : Det) (f : Nat → Nat → Det → Dev → QEnt → EngOut) (s : State) : s.Goes (vRun opc c det f s) := by
  unfold vRun
  exact State.goes_keeps fun m => (Mach.Keeps.refl m).runInsn ..

theorem Mach.Keeps.mailbox {m : Mach} {f : Mach → Mach} (hf : m.Keeps (f m)) : m.Keeps (m.mailbox f) := by
  unfold Mach.mailbox
  split_ifs <;> simp [hf]

theorem Mach.moves_mailbox {m : Mach} {f : Mach → Mach} (hf : m.und.st = .recovery → m.Moves (f m)) : m.Moves (m.mailbox f) := by
  unfold Mach.mailbox
  split_ifs with hrcv
  · exact (Mach.Keeps.refl m).moves
  · exact Mach.Keeps.moves (by simp)
  · exact hf (of_not_not hrcv)

/-- A verified image is taken into use from BOOT or from RECOVERY. -/
theorem Mach.moves_adoptImage {m n : Mach} (h : m.und.st = .boot ∨ m.und.st = .recovery) (hlog : n.und.evLog = m.und.evLog) (f : Fuse)
    (source : Nat) : m.Moves (n.adoptImage f source) := ⟨.memtrain h, fun hm => hlog ▸ hm⟩

theorem Mach.moves_enterBoot {m n : Mach} (h : m.und.st = .understory ∨ m.und.st = .drain) (hlog : m.LogKept n) : m.Moves n.enterBoot :=
  ⟨(Mach.enterBoot_st n).symm ▸ .boot h, fun hm => (Mach.enterBoot_evLog n).symm ▸ hlog hm⟩

theorem Mach.moves_toUnderstory {m n : Mach} (hlog : m.LogKept n) : m.Moves n.toUnderstory := ⟨.understory, hlog⟩

@[simp] theorem Mach.startRails_evLog (m : Mach) : m.startRails.und.evLog = m.und.evLog := by unfold Mach.startRails; split <;> rfl

theorem Mach.Moves.startRails {m n : Mach} (h : m.Moves n) : m.Moves n.startRails :=
  ⟨(Mach.startRails_st n).symm ▸ h.1, fun hm => (Mach.startRails_evLog n).symm ▸ h.2 hm⟩

/-- RECOVERY is entered from BOOT or from DRAIN, with a record (R588). -/
theorem Mach.moves_enterRecovery {m n : Mach} (h : m.und.st = .boot ∨ m.und.st = .drain) (cause : Nat) : m.Moves (n.enterRecovery cause) :=
  ⟨(Mach.enterRecovery_st n cause).symm ▸ .recovery h, fun _ => Mach.event_log ..⟩

theorem MSt.Drifts.ne_off {a b : MSt} (h : a.Drifts b) (ha : a ≠ .off) : b ≠ .off := by
  cases h with
  | stays => exact ha
  | holds | drains | reboots => nofun

@[simp] theorem Mach.outEvents_st (m : Mach) (k mask code kind data : Nat) : (m.outEvents k mask code kind data).und.st = m.und.st :=
  List.foldlRecOn (motive := fun n : Mach => n.und.st = m.und.st) _ _ rfl fun n hn _ _ => (Mach.event_st n ..).trans hn

@[simp] theorem Mach.testFail_st (m : Mach) (u : Units) : (m.testFail u).und.st = m.und.st := by
  simp [Mach.testFail, Mach.leaveUnits]

theorem Mach.moves_enterLinkup {m n : Mach} (h : m.und.st = .memtrain) (hn : m.Keeps n) (portFail : Nat) :
    m.Moves (n.enterLinkup portFail) := by
  refine ⟨?st, ?log⟩
  case st => 
    have hst : (n.enterLinkup portFail).und.st = .linkup := (Mach.testFail_st ..).trans rfl
    rw [hst, h]
    exact .linkup
  case log => 
    intro hm
    have hfail : (n.toState .linkup).Keeps (n.enterLinkup portFail) := by
      refine (Mach.Keeps.onDev _).2 (.testFail ?_ _)
      exact .of_eq rfl rfl
    exact hfail.2 (hn.2 hm)

/-- LINKUP is entered from MEMTRAIN, unless the module is held (R590, R591). -/
theorem Mach.moves_afterTrain {m n : Mach} (h : m.und.st = .memtrain) (hn : m.Keeps n) (ports portFail : Nat) :
    m.Moves (n.afterTrain ports portFail) := by
  unfold Mach.afterTrain
  split_ifs
  · exact (hn.faultHold (hn.1.ne_off (h ▸ nofun)) 1).moves
  · exact (hn.faultHold (hn.1.ne_off (h ▸ nofun)) 2).moves
  · split
    · refine (Mach.Keeps.faultHold ?_ ?_ 3).moves
      · exact hn.trans (.of_eq rfl rfl)
      · exact hn.1.ne_off (h ▸ nofun)
    · exact Mach.moves_enterLinkup h (n := n.onDev _) hn portFail

/-! #### The commands whose branches need a word -/

theorem goes_updout (tag status : Nat) (body : List Byte) (s : State) : s.Goes (execUpdout tag status body s) := by
  refine State.goes_keeps fun m => ?_
  dsimp only
  (repeat' split) <;> simp

theorem goes_adjacencyReadReturn (c id rd : Nat) (s : State) : s.Goes (execAdjacencyReadReturn c id rd s) := by
  refine State.goes_keeps fun m => ?_
  dsimp only
  (repeat' split) <;> simp

theorem goes_streamTransferComplete (c k ref : Nat) (s : State) : s.Goes (execStreamTransferComplete c k ref s) := by
  refine State.goes_keeps fun m => ?_
  dsimp only
  (repeat' split) <;> simp

theorem goes_seqLoad (q : Sq) (rd size : Nat) (sgn : Bool) (a : Nat) (det : Det) (s : State) :
    s.Goes (execSeqLoad q rd size sgn a det s) := by
  refine State.goes_keeps fun m => ?_
  dsimp only
  (repeat' split) <;> simp

theorem goes_seqStore (q : Sq) (size a : Nat) (v : Word) (det : Det) (s : State) : s.Goes (execSeqStore q size a v det s) := by
  refine State.goes_keeps fun m => ?_
  dsimp only
  (repeat' split) <;> simp

theorem Mach.Keeps.i3cRegs {m n : Mach} (h : m.Keeps n) (k : Nat) : m.Keeps (n.i3cRegs k).1 := by
  induction k generalizing n with
  | zero => exact h
  | succ k ih => exact ih h.i3cReg

theorem goes_i3cPrivateRead (addr n : Nat) (s : State) : s.Goes (execI3cPrivateRead addr n s) := by
  refine State.goes_keeps fun m => ?_
  split
  · exact .refl m
  · exact (Mach.Keeps.emit _).2 ((Mach.Keeps.refl m).i3cRegs _)

theorem goes_regulatorRefill (s : State) : s.Goes (execRegulatorRefill s) := by
  refine State.goes_keeps fun m => ?_
  split
  · exact .refl m
  · refine Mach.Keeps.flushReports (Mach.Keeps.goOn.2 ?_)
    refine Mach.Keeps.foldl (f := Mach.unitIssues) ?_ (fun hn => hn.unitIssues _) _
    simp

theorem goes_hostMemRead (h : Nat) (det : Det) (bad : Bool) (s : State) : s.Goes (execHostMemRead h det bad s) := by
  refine State.goes_keeps fun m => ?_
  split
  · exact .refl m
  split
  · simp
  next hserves =>
    have hoff : m.und.st ≠ .off := MSt.ne_off_of_serves (by simpa using hserves)
    split
    · exact .refl m
    · split
      case h_6 =>
        split
        · exact (Mach.Keeps.refl m).faultHold hoff 6
        · dsimp only
          split_ifs <;> simp
      all_goals (try split_ifs) <;> simp

theorem goes_hostMemWrite (h : Nat) (data : List Byte) (mask : Nat) (poison : Bool) (s : State) :
    s.Goes (execHostMemWrite h data mask poison s) := by
  refine State.goes_keeps fun m => ?_
  dsimp only
  (repeat' split) <;> simp

theorem goes_rd (src tag : Nat) (body : List Byte) (det : Det) (bad : Bool) (s : State) : s.Goes (execRd src tag body det bad s) := by
  refine State.goes_keeps fun m => ?_
  dsimp only
  split
  · simp
  split
  case h_3 =>
    split
    · simp
    · split
      next hdet =>
        rw [Bool.and_eq_true] at hdet
        exact (Mach.Keeps.refl m).faultHold (MSt.ne_off_of_serves hdet.2) 6
      next => split_ifs <;> simp
  case h_1 | h_2 => split_ifs <;> simp
  case h_4 => split_ifs <;> simp
  all_goals simp

theorem goes_patrolScrubRead (res : Nat) (det : Det) (s : State) : s.Goes (execPatrolScrubRead res det s) := by
  refine State.goes_keeps fun m => ?_
  dsimp only
  split_ifs with hdet
  · simp only [Bool.and_eq_true, bne_iff_ne] at hdet
    exact (Mach.Keeps.refl m).faultHold hdet.1.1.2 7
  · simp
  · (repeat' split) <;> simp

theorem MSt.Drifts.understory_from {a : MSt} (h : a.Drifts .understory) : a = .understory := by
  cases h
  rfl

theorem goes_sensorRead (temps : List Nat) (s : State) : s.Goes (execSensorRead temps s) := by
  refine State.goes_run fun m => ?_
  dsimp only
  split
  · exact (Mach.Keeps.refl m).moves
  generalize hn : List.foldl _ _ _ = n
  have hread : m.Keeps n := hn ▸ .foldl (by simp) (fun h => h.takeSensor ..) _
  split
  next hcool => exact Mach.moves_enterBoot (.inl (hcool.1 ▸ hread.1).understory_from) hread.2
  next => exact hread.moves

/-! #### Power, pins and rails -/

theorem goes_vinInRange (s : State) : s.Goes (execVinInRange s) := by
  refine State.goes_run fun m => ?_
  split
  · exact (Mach.Keeps.refl m).moves
  · exact Mach.Moves.startRails (n := Mach.fuseRegs _ _) ⟨.understory, fun _ => Nat.zero_le _⟩

theorem goes_vinOutOfRange (s : State) : s.Goes (execVinOutOfRange s) := by
  refine State.goes_run fun m => ?_
  split
  · exact (Mach.Keeps.refl m).moves
  · exact ⟨.off, fun _ => Nat.zero_le _⟩

theorem goes_pwrEnRise (s : State) : s.Goes (execPwrEnRise s) :=
  State.goes_run fun m => Mach.Moves.startRails (Mach.Keeps.refl m).moves

theorem goes_rstNHigh (s : State) : s.Goes (execRstNHigh s) :=
  State.goes_run fun m => Mach.Moves.startRails (Mach.Keeps.refl m).moves

theorem goes_pwrEnFall (s : State) : s.Goes (execPwrEnFall s) := by
  refine State.goes_run fun m => ?_
  dsimp only
  split
  case h_1 => exact (Mach.Keeps.refl m).moves
  case h_2 hrun => 
    refine ⟨?_, id⟩
    have hst : m.und.st = .run := hrun
    exact hst ▸ .drifts .drains
  case h_3 => exact (Mach.Keeps.refl m).moves
  case h_4 => exact Mach.moves_toUnderstory id

theorem goes_rstNLow (s : State) : s.Goes (execRstNLow s) := by
  refine State.goes_run fun m => ?_
  dsimp only
  split
  · exact (Mach.Keeps.refl m).moves
  · exact Mach.moves_toUnderstory id

theorem goes_railPowerGood (s : State) : s.Goes (execRailPowerGood s) := by
  refine State.goes_run fun m => ?_
  split
  · exact (Mach.Keeps.refl m).moves
  next hidle =>
    have hund : m.und.st = .understory := by_contra fun h => hidle (.inl h)
    unfold Mach.railsDone
    split_ifs
    · exact (Mach.Keeps.refl m).moves
    · exact Mach.moves_enterBoot (.inl hund) id
    · exact (Mach.Keeps.refl m).moves

theorem goes_railPgTimeout (s : State) : s.Goes (execRailPgTimeout s) := by
  refine State.goes_keeps fun m => ?_
  split
  · exact .refl m
  next hidle =>
    have hund : m.und.st = .understory := by_contra fun h => hidle (.inl h)
    refine Mach.Keeps.faultHold (by simp) ?_ 4
    exact hund ▸ nofun

theorem goes_railFault (s : State) : s.Goes (execRailFault s) := by
  refine State.goes_keeps fun m => ?_
  split
  case h_7 => exact .refl m
  all_goals exact (Mach.Keeps.refl m).faultHold (fun h => by simp_all) 4

/-! #### Start-up, DRAIN and the recovery mailbox -/

theorem goes_imageReadComplete (ok : Bool) (s : State) : s.Goes (execImageReadComplete ok s) := by
  refine State.goes_run fun m => ?_
  dsimp only
  generalize (if ok = true then imgCause m.nv.img s.fuse s.fuse.part else 1) = c
  split
  · exact (Mach.Keeps.refl m).moves
  next hboot =>
    rw [not_not] at hboot
    split
    · exact (Mach.moves_enterRecovery (.inl hboot) _).measured _
    · refine Mach.moves_adoptImage (.inl hboot) ?_ _ _
      rfl

theorem Mach.Keeps.trained {m n : Mach} (h : m.Keeps n) (built : Units) (clusterFail sliceFail : Nat) (quals : List Nat) :
    m.Keeps (n.trained built clusterFail sliceFail quals) := by
  refine (onDev _).2 (testFail ?_ _)
  exact h.trans (.of_eq rfl rfl)

theorem goes_memtrainComplete (clusterFail sliceFail : Nat) (quals : List Nat) (portFail : Nat) (s : State) :
    s.Goes (execMemtrainComplete clusterFail sliceFail quals portFail s) := by
  refine State.goes_runThen fun m => ?_
  split
  · exact (Mach.Keeps.refl m).moves
  next htrain => exact Mach.moves_afterTrain (not_not.1 htrain) ((Mach.Keeps.refl m).trained ..) _ _

theorem goes_linkupWaitExpire (i : Bool) (s : State) : s.Goes (execLinkupWaitExpire i s) := by
  refine State.goes_runThen fun m => Mach.Keeps.moves ?_
  split <;> simp

theorem goes_assign (x : Rx) (s : State) : s.Goes (execAssign x s) := State.goes_runThen fun m => (Mach.Keeps.refl m).moves

theorem goes_portLinkUp (n sub : Nat) (s : State) : s.Goes (execPortLinkUp n sub s) := by
  refine State.goes_runThen fun m => Mach.Keeps.moves ?_
  dsimp only
  split <;> simp

theorem goes_moduleDrainEnd (s : State) : s.Goes (execModuleDrainEnd s) := by
  refine State.goes_run fun m => ?_
  dsimp only
  split
  · exact (Mach.Keeps.refl m).moves
  next hidle =>
    have hdrain : m.und.st = .drain := by_contra fun h => hidle (.inl h)
    generalize hn : m.onDev _ = n
    have hlog : m.LogKept n := hn ▸ id
    split
    · exact Mach.moves_enterBoot (.inr hdrain) hlog
    · exact (Mach.moves_enterRecovery (.inr hdrain) 8).measured _
    · exact (Mach.moves_toUnderstory hlog).startRails
    · exact Mach.moves_toUnderstory hlog

theorem goes_rcvChunk (arg : Word) (s : State) : s.Goes (execRcvChunk arg s) := by
  refine State.goes_keeps fun m => ?_
  split
  · exact .refl m
  · refine ((Mach.Keeps.refl m).rcvArg arg).trans (.mailbox ?_)
    simp

theorem goes_rcvVerify (s : State) : s.Goes (execRcvVerify s) := by
  refine State.goes_keeps fun m => .mailbox ?_
  dsimp only
  split
  · simp
  · exact .of_eq rfl rfl

theorem goes_rcvBoot (s : State) : s.Goes (execRcvBoot s) := by
  refine State.goes_run fun m => Mach.moves_mailbox fun hrcv => ?_
  split
  · exact Mach.Keeps.moves (by simp)
  · refine Mach.moves_adoptImage (.inr hrcv) ?_ _ _
    rfl

theorem goes_rcvFlash (s : State) : s.Goes (execRcvFlash s) := by
  refine State.goes_keeps fun m => .mailbox ?_
  dsimp only
  split
  · simp
  · exact .of_eq rfl rfl

theorem goes_rcvFlashComplete (good : Bool) (s : State) : s.Goes (execRcvFlashComplete good s) := by
  refine State.goes_run fun m => ?_
  dsimp only
  generalize (if good = true then m.nv.flashImage m.und.rcv.img else m.nv.breakFlash) = n
  split
  · exact (Mach.Keeps.refl m).moves
  next hidle =>
    have hrcv : m.und.st = .recovery := by_contra fun h => hidle (.inl h)
    split
    · refine Mach.moves_adoptImage (.inr hrcv) ?_ _ _
      rfl
    · exact Mach.Keeps.moves (.of_eq rfl rfl)

/-- Every command goes on, and leaves the queue, the fuses, the module's state and its log as a command may. The cases are grouped by what
a command's body acts on, as for `exec_onward`. -/
theorem exec_goes (c : Instr) (s : State) : s.Goes (exec c s) := by
  cases c
  all_goals dsimp only [exec]
  case entry | loadrep | ethFrameRx | arpRequest | neighborSolicitation | icmpEchoRequest | answer | direct | hostSnoop
      | cdatRequest | ideCheckFail | hdmDecoderEnable | arpReply | neighborAdvertisement | prefetchFill =>
    exact State.goes_runDev _ _
  case drain | drainComplete | suspend | resume | cancel | jobSuspended | job | copy | tblLoad | tileLoad | scrub | erase
      | classSet | progLoad | maskSet | routeSet | queryFragment | queryMessage | nxIssueGe | engineQueueSpace | nxIssueMe
      | nxIssueVe | nxIssueMq | updpart | nxPark | nxTget | nxTgetPoll | nxSpawn | nxSend | nxDelay | nxEndThread | nxEndJob
      | jobEndDrained | amoadd | amoand | amoor | amoxor | amomin | amomax | amominu | amomaxu | amoswap | lr | sc | fence
      | fenceI | ecall | ebreak | atomAdd | atomFadd32 | atomFadd16 | atomMin | atomMax | atomMinu | atomMaxu | atomFmin32
      | atomFmax32 | atomAnd | atomOr | atomXor | atomSwap | atomCas | atomRma | pfcFrameRx | salrexData | salrexAck
      | salrexReset | rdr | wra | atomic | atr | rowRead | rowWrite | rowMerge | rowLmerge | syncr | nxIssueSe
      | illegalInstruction | nxpinWrite | cxlCacheResponse =>
    exact State.goes_runAt _ _
  case replaceRows | tblSet | shardSet | migrate | graphSet | update | updProgSet | updBindSet | layerSet | gather | nbr1
      | nbr2 | nseg | nlist | meRetire | veRetire | arm | rearm | disarm | chain | streamLoop | streamNext | streamLoad
      | streamGath | streamGbmp | streamStore | streamAdv | streamWait | streamSignal | streamEnd | ringProducerResume
      | gmergeRows | gmergeTiles | clusterSleep | clusterWake | clusterWakeComplete =>
    refine State.goes_keeps fun m => ?_
    simp
  case veSub | veMul | veFma | veMin | veMax | veAnd | veOr | veXor | veShl | veShr | veSra | veSel | veCvt | veExp2 | veRcp
      | veCmpeq | veCmpne | veCmplt | veCmple | veRsum | veRmax | veSmxs | veTopk | veCompress | veExpand | veMld | veMst
      | veMpfx =>
    exact vRun_goes _ _ _ _ _
  case mma | mpredPredict | mpredObserve | mout | mload | mseed | veAdd | nxSyncAdd | nxSyncSet | nxSyncWaitGe | nxSyncWaitEq | commit
      | loadWindowClose | nxSyncDecl | syncMsgAdd | syncMsgSet | syncMsgWaitGe | syncMsgWaitEq | cxlLinkDown | undShutdown | undReboot
      | undRecover | capWindow | hlatchGo | marginGo | getpid | getbcr | getdcr =>
    refine State.goes_keeps fun m => ?_
    simp
  case registerWrite | armWordWrite | drainTimeout | qfeCtlWrite | versionReadReturn | updatePartStart | monitorRetry
      | delayFire | deadlineFire | watchdogExpire | lrHoldExpire | errorWindowEnd | requestAgeLimit
      | lpdTempRead | neighborRevalidate | ackTimer | peerLost | pathPenaltyEnd | helloTimer | rowr | cxlLinkUp
      | moduleDrainTimeout | rcvWindowWrite | remoteMonitorAge | faultWindowEnd | mrecClear | powerCapStep
      | hlatchDone | mtgReadBw | mtgWriteCheck | ptgLanePrbs | ptgFrames | entdaa | setdasa | rstdaa
      | getstatus | vauxOvercurrent | cIntN =>
    refine State.goes_keeps fun m => ?_
    split <;> simp
  case clusterOff | coreAtomResRead | hello | rtoExpire | kernelWatchdogExpire | marginDwellEnd | mtgRunEnd | ptgRunEnd =>
    refine State.goes_keeps fun m => ?_
    dsimp only
    split <;> simp
  case i3cPrivateWrite =>
    refine State.goes_keeps fun m => ?_
    split_ifs <;> simp
  case hbmTempRead | portLinkDown =>
    refine State.goes_keeps fun m => ?_
    dsimp only
    split_ifs <;> simp
  case suspendTimeout | reassemblyExpire | keyHoldExpire | rowClaimRetry | rowWritesComplete | gatherGroupHoldExpire
      | rowReadReturn | lookupBackoffExpire | moveCopyStart | moveTimeout | layerReadersZero | mbDrainTimeout | memReadDecode =>
    refine State.goes_keeps fun m => ?_
    (repeat' split) <;> simp
  case commitAdopt | longOpBlockDone | rowClaimComplete | moveStart | moveSnap | moveReady
      | moveCommit | moveDiscard | moveBusy | leaseEnd | gradientSpaceWaitEnd | nxFnext | wr | threadBecomesUrgent =>
    refine State.goes_keeps fun m => ?_
    dsimp only
    (repeat' split) <;> simp
  case rd => exact goes_rd _ _ _ _ _ s
  case gatherAdmit | rehomeComplete =>
    refine State.goes_keeps fun m => ?_
    dsimp only
    split <;> exact Mach.Keeps.of_eq rfl rfl
  case cprsNChange =>
    refine State.goes_keeps fun m => ?_
    split_ifs <;> exact Mach.Keeps.of_eq rfl rfl
  case fabShareRefill | sdclkLoss | refclkReturn => exact State.goes_keeps fun m => Mach.Keeps.of_eq rfl rfl
  case unitMapoutComplete u =>
    refine State.goes_keeps fun m => ?_
    split
    · simp
    · exact (Mach.Keeps.event (by simp) ..).lossHold _
  case spdmRequest | mapoutRecordWrite | powerSample =>
    refine State.goes_keeps fun m => ?_
    dsimp only
    split
    · simp
    · exact Mach.Keeps.of_eq rfl rfl
  case tapInstruction =>
    refine State.goes_keeps fun m => ?_
    dsimp only
    split_ifs
    · simp
    · exact Mach.Keeps.of_eq rfl rfl
    · exact Mach.Keeps.of_eq rfl rfl
  case sdclkReturn => 
    refine State.goes_keeps fun m => ?_
    dsimp only
    split <;> exact Mach.Keeps.of_eq rfl rfl
  case refclkLoss =>
    refine State.goes_keeps fun m => Mach.Keeps.cxlDown ?_
    exact Mach.Keeps.of_eq rfl rfl
  case updout => exact goes_updout _ _ _ s
  case adjacencyReadReturn => exact goes_adjacencyReadReturn _ _ _ s
  case streamTransferComplete => exact goes_streamTransferComplete _ _ _ s
  case seqLoad => exact goes_seqLoad _ _ _ _ _ _ s
  case seqStore => exact goes_seqStore _ _ _ _ _ s
  case i3cPrivateRead => exact goes_i3cPrivateRead _ _ s
  case regulatorRefill => exact goes_regulatorRefill s
  case hostMemRead => exact goes_hostMemRead _ _ _ s
  case hostMemWrite => exact goes_hostMemWrite _ _ _ _ s
  case patrolScrubRead => exact goes_patrolScrubRead _ _ s
  case sensorRead => exact goes_sensorRead _ s
  case vinInRange => exact goes_vinInRange s
  case vinOutOfRange => exact goes_vinOutOfRange s
  case pwrEnRise => exact goes_pwrEnRise s
  case rstNHigh => exact goes_rstNHigh s
  case pwrEnFall => exact goes_pwrEnFall s
  case rstNLow => exact goes_rstNLow s
  case railPowerGood => exact goes_railPowerGood s
  case railPgTimeout => exact goes_railPgTimeout s
  case railFault => exact goes_railFault s
  case imageReadComplete => exact goes_imageReadComplete _ s
  case memtrainComplete => exact goes_memtrainComplete _ _ _ _ s
  case linkupWaitExpire => exact goes_linkupWaitExpire _ s
  case assign => exact goes_assign _ s
  case portLinkUp => exact goes_portLinkUp _ _ s
  case moduleDrainEnd => exact goes_moduleDrainEnd s
  case rcvChunk => exact goes_rcvChunk _ s
  case rcvVerify => exact goes_rcvVerify s
  case rcvBoot => exact goes_rcvBoot s
  case rcvFlash => exact goes_rcvFlash s
  case rcvFlashComplete => exact goes_rcvFlashComplete _ s

/-! ### Every step -/

/-- Settles O3. -/
theorem everyCommandAnswers : Obligations.EveryCommandAnswers := by
  unfold Obligations.EveryCommandAnswers
  intro c s
  obtain ⟨t, hnext, hqueue, -, -⟩ := exec_goes c s
  exact ⟨t, hnext, hqueue⟩

/-- Settles O1. -/
theorem stepRunsFrontCommand : Obligations.StepRunsFrontCommand := by
  unfold Obligations.StepRunsFrontCommand
  intro c rest s
  rfl

/-- A step is the tick, which touches the time and the ports, or the command at the front of the queue. -/
theorem step_moves {s t : State} (h : step s = .next t) : s.fuse.Keeps t.fuse ∧ s.mach.Moves t.mach := by
  unfold step at h
  split at h
  case h_1 =>
    cases h
    exact ⟨s.fuse.keeps_refl, (Mach.Keeps.of_eq rfl rfl).moves⟩
  case h_2 c rest _ =>
    obtain ⟨u, hnext, -, hfuse, hmoves⟩ := exec_goes c { s with pending := rest }
    cases hnext.symm.trans h
    exact ⟨hfuse, hmoves⟩

/-- Settles O6: an event recorded cuts the log to its bound, and nothing else lengthens it. -/
theorem eventLogKeepsItsBound : Obligations.EventLogKeepsItsBound := by
  unfold Obligations.EventLogKeepsItsBound
  intro s t h
  exact (step_moves h).2.2

/-- Settles O7: only the entry to RUN burns fuses. -/
theorem fusesOnlyMoveOneWay : Obligations.FusesOnlyMoveOneWay := by
  unfold Obligations.FusesOnlyMoveOneWay
  intro s t h
  exact (step_moves h).1

/-- Settles O8: the moves of `MSt.Moves` are those of the table. -/
theorem statesMoveByTheTable : Obligations.StatesMoveByTheTable := by
  unfold Obligations.StatesMoveByTheTable
  intro s t h
  have hmoves := (step_moves h).2.1
  dsimp only
  generalize s.mach.und.st = a at hmoves ⊢
  generalize t.mach.und.st = b at hmoves ⊢
  cases hmoves with
  | drifts hd =>
    cases hd with
    | stays => exact .inl rfl
    | holds ha => cases a <;> simp at ha ⊢
    | drains => simp
    | reboots => simp
  | off => simp
  | understory => cases a <;> simp
  | boot h => rcases h with rfl | rfl <;> simp
  | recovery h => rcases h with rfl | rfl <;> simp
  | memtrain h => rcases h with rfl | rfl <;> simp
  | linkup => simp
  | run h => rcases h with rfl | rfl <;> simp

/-! ### After reset, and the tick (spec/17 R569, R571, R574, log entry 3) -/

/-- Settles O4. -/
theorem resetLeavesTheModuleOff : Obligations.ResetLeavesTheModuleOff := by
  unfold Obligations.ResetLeavesTheModuleOff
  decide

theorem SMap.get_of_forall {α : Type} {P : α → Prop} {d : α} {m : SMap α} (hm : ∀ p ∈ m, P p.2) (hd : P d) (k : Nat) : P (m.get d k) := by
  induction m with
  | nil => exact hd
  | cons p r ih =>
    obtain ⟨hp, hr⟩ := List.forall_mem_cons.1 hm
    unfold SMap.get
    split
    · exact hp
    · exact ih hr

/-- A port that holds neither a pause nor bytes is as it was once time has passed (R503). -/
theorem Dev.portTime_idle {d : Dev} (h : ∀ p ∈ d.net.ports, p.2.buf = [] ∧ p.2.pauseEnd = []) (now : Nat) : d.portTime now = d := by
  refine List.foldlRecOn (motive := (· = d)) _ _ rfl fun e he n _ => ?_
  obtain ⟨hbuf, hpause⟩ : (d.port n).buf = [] ∧ (d.port n).pauseEnd = [] :=
    SMap.get_of_forall (P := fun p : Port => p.buf = [] ∧ p.pauseEnd = []) h ⟨rfl, rfl⟩ n
  have hends : d.endPauses now n = d := by simp [Dev.endPauses, hpause]
  rw [he, hends]
  simp [Dev.drainBuf, hbuf]

/-- Settles O2: the tick takes the ports on, which does nothing at a port that holds nothing. -/
theorem emptyQueueTicks : Obligations.EmptyQueueTicks := by
  unfold Obligations.EmptyQueueTicks
  intro s hqueue
  have hstep : step s = .next s.tick := by
    unfold step
    rw [hqueue]
  have htick : s.tick = s.later (s.now + 12000) (s.dev.portTime (s.now + 12000)) := by
    simp [State.tick, State.later, State.now, State.dev, Mach.atTime, Mach.onDev]
  refine ⟨hstep.trans (congrArg _ htick), fun hports _ => ?_⟩
  rw [hstep, htick, Dev.portTime_idle hports]
  simp [State.later, State.now, State.dev]

/-! ### The entry to RUN (spec/17 R583, R592) -/

theorem exec_linkupWaitExpire {s : State} (h : s.mach.und.st = .linkup) (id : Bool) {m : Mach}
    (hm : m = s.mach.atTime (s.mach.und.stateAt + s.dev.cfgF .UND_LINKCFG [] (if id then 16 else 0) 16 * msT)) (hready : m.runReady = true) :
    exec (.linkupWaitExpire id) s = .next (s.withMach m).enterRun := by
  show execLinkupWaitExpire id s = _
  subst hm
  simp only [execLinkupWaitExpire, State.runThen_next, h, ne_eq, not_true_eq_false, if_false]
  exact congrArg _ (if_pos hready)

/-- Settles O9. -/
theorem fusesAtEntryToRun : Obligations.FusesAtEntryToRun := by
  unfold Obligations.FusesAtEntryToRun
  intro s
  refine ⟨?enters, State.enterRun_fuse_staged, fun hsource => ⟨?svn, ?keys⟩, rfl⟩
  case enters =>
    intro hlink id m hready
    exact exec_linkupWaitExpire hlink id rfl hready
  case svn => rw [State.enterRun_fuse_flash hsource]
  case keys =>
    intro i
    rw [State.enterRun_fuse_flash hsource]
    dsimp only
    split_ifs with hrevoke
    · rw [bitAt_or_low, hrevoke, Bool.true_and]
    · rw [Bool.not_eq_true] at hrevoke
      rw [hrevoke, Bool.false_and, Bool.or_false]

/-! ### UND_CTL (spec/17 R594, R595) -/

section
variable {m : Mach}

theorem Mach.undCtl_run (h : m.und.st = .run) (v : Nat) : m.undCtl v =
    if bitAt v 0 then m.startDrain .shutdown else if bitAt v 1 then m.startDrain .reboot
    else if bitAt v 2 then m.startDrain .recover else m := by
  simp only [Mach.undCtl, h]

theorem Mach.undCtl_recovery (h : m.und.st = .recovery) (v : Nat) : m.undCtl v =
    if bitAt v 1 && !bitAt v 0 then { m.enterBoot with nv := m.nv.breakFlash } else m := by
  simp only [Mach.undCtl, h]

theorem Mach.undCtl_elsewhere (hrun : m.und.st ≠ .run) (hrcv : m.und.st ≠ .recovery) (v : Nat) : m.undCtl v = m := by
  unfold Mach.undCtl
  split
  · contradiction
  · contradiction
  · rfl

theorem setBits_zero_whole {w : Nat} (hw : w < 2 ^ 64) : setBits 0 0 64 w = w := by
  simp only [setBits, Nat.zero_mod, Nat.zero_div, Nat.mod_eq_of_lt hw]
  omega

/-- A write of UND_CTL's three bits acts at once: the register has no other field, and its write keeps nothing. -/
theorem Mach.writeReg_undCtl {v : Nat} (hv : v < 8) : m.writeReg .priv none (Reg.UND_CTL.off []) 8 v = m.undCtl v := by
  have hreg : regAt (Reg.UND_CTL.off []) = some (.UND_CTL, []) := by decide +kernel
  have hview : Reg.UND_CTL.row.view ≠ .shadow := by decide
  have hrw : Reg.UND_CTL.bitsOf .rw = 0 := by decide
  have hnamed : v &&& Reg.UND_CTL.named = v := by
    have : Reg.UND_CTL.named = 2 ^ 3 - 1 := by decide
    rw [this, Nat.and_two_pow_sub_one_eq_mod, Nat.mod_eq_of_lt hv]
  rw [Mach.writeReg_found (by decide) hreg (by decide), if_neg hview, hrw, Nat.and_zero]
  dsimp only
  rw [setBits_zero_whole (by omega), if_pos ⟨hnamed, rfl⟩]
  rfl

end

/-- Settles O10. -/
theorem undCtlPriority : Obligations.UndCtlPriority := by
  unfold Obligations.UndCtlPriority
  intro s v
  refine ⟨fun hrun => ⟨?shutdown, ?reboot, ?recover⟩, fun hrun hrcv => Mach.undCtl_elsewhere hrun hrcv v, fun hrcv => ⟨?boots, ?ignored⟩,
    rfl, rfl, rfl, ?write⟩
  case shutdown => intro h0; rw [Mach.undCtl_run hrun, if_pos h0]
  case reboot => intro h0 h1; simp [Mach.undCtl_run hrun, h0, h1]
  case recover => intro h0 h1 h2; simp [Mach.undCtl_run hrun, h0, h1, h2]
  case boots => intro h1 h0; simp [Mach.undCtl_recovery hrcv, h0, h1]
  case ignored => rintro (h | h) <;> simp [Mach.undCtl_recovery hrcv, h]
  case write =>
    intro w hrun hw
    rw [exec_registerWrite_serves _ _ (by rw [hrun]; rfl), Mach.writeReg_undCtl hw]

/-! ### The commands of the volatile part (spec/95) -/

/-- One module differs from another in its volatile part at most. -/
def Mach.SameButDev (m n : Mach) : Prop := n.nv = m.nv ∧ n.und = m.und

namespace Mach.SameButDev

@[simp] theorem refl (m : Mach) : m.SameButDev m := ⟨rfl, rfl⟩

section
variable {m n : Mach}

@[simp] theorem withDev (d : Dev) : m.SameButDev ⟨n.nv, n.und, d⟩ ↔ m.SameButDev n := Iff.rfl
@[simp] theorem onDev (f : Dev → Dev) : m.SameButDev (n.onDev f) ↔ m.SameButDev n := Iff.rfl
@[simp] theorem emit (o : Out) : m.SameButDev (n.emit o) ↔ m.SameButDev n := Iff.rfl
@[simp] theorem regErr : m.SameButDev n.regErr ↔ m.SameButDev n := Iff.rfl

variable (h : m.SameButDev n)
include h

@[simp] theorem i3cStd (addr k j : Nat) : m.SameButDev (n.i3cStd addr k j) := by
  unfold Mach.i3cStd
  split <;> simp [h]

@[simp] theorem qfeCtl (t v : Nat) : m.SameButDev (n.qfeCtl t v) := by
  unfold Mach.qfeCtl
  split <;> simp [h]

@[simp] theorem cxlDown : m.SameButDev n.cxlDown := by
  unfold Mach.cxlDown
  split <;> simp [h]

@[simp] theorem monitor (slot v : Nat) (whole : Bool) : m.SameButDev (n.monitor slot v whole) := by
  unfold Mach.monitor
  split_ifs <;> simp [h]

/-- A read that meets no error does nothing but in the volatile part. -/
theorem loadDetect_none (c k a : Nat) : m.SameButDev (n.loadDetect c k a .none).1 := by
  have hwin (k off : Nat) : n.dev.winDetect k off .none = (n.dev, false) := rfl
  unfold Mach.loadDetect
  split
  · simp only [hwin, Bool.false_eq_true, if_false]
    split_ifs <;> simp [h]
  · exact h

end

end Mach.SameButDev

/-- An outcome is a next state that differs from `s` in the volatile part at most. -/
def State.Volatile (s : State) (o : Out1) : Prop := ∃ t, o = .next t ∧ t.fuse = s.fuse ∧ t.pending = s.pending ∧ s.mach.SameButDev t.mach

theorem State.volatile_run {s : State} {f : Mach → Mach} (hf : ∀ m : Mach, m.SameButDev (f m)) : s.Volatile (s.run f) :=
  ⟨_, rfl, rfl, rfl, hf s.mach⟩

theorem State.volatile_runDev (s : State) (f : Dev → Dev) : s.Volatile (s.runDev f) := ⟨_, rfl, rfl, rfl, rfl, rfl⟩

theorem State.volatile_runAt (s : State) (f : Nat → Dev → Dev) : s.Volatile (s.runAt f) := ⟨_, rfl, rfl, rfl, rfl, rfl⟩

theorem volatile_adjacencyReadReturn (c id rd : Nat) (s : State) : s.Volatile (execAdjacencyReadReturn c id rd s) := by
  refine State.volatile_run fun m => ?_
  dsimp only
  (repeat' split) <;> simp

theorem volatile_updout (tag status : Nat) (body : List Byte) (s : State) : s.Volatile (execUpdout tag status body s) := by
  refine State.volatile_run fun m => ?_
  dsimp only
  (repeat' split) <;> simp

theorem volatile_streamTransferComplete {ref : Nat} (h : ref % 32 = 0) (c k : Nat) (s : State) :
    s.Volatile (execStreamTransferComplete c k ref s) := by
  refine State.volatile_run fun m => ?_
  have hread (n : Mach) (hn : m.SameButDev n) (a : Nat) : m.SameButDev (n.loadDetect c k a (Det.ofCode (ref % 32))).1 := by
    rw [h]
    exact hn.loadDetect_none ..
  dsimp only
  (repeat' split) <;> simp [hread]

/-- The commands of the volatile part, grouped as for `exec_goes`. -/
theorem exec_volatile {c : Instr} (h : volatileOnly c = true) (s : State) : s.Volatile (exec c s) := by
  cases c
  all_goals dsimp only [exec]
  case entry | loadrep | ethFrameRx | arpRequest | neighborSolicitation | icmpEchoRequest | answer | direct | hostSnoop
      | cdatRequest | ideCheckFail | hdmDecoderEnable | arpReply | neighborAdvertisement | prefetchFill =>
    exact State.volatile_runDev _ _
  case drain | drainComplete | suspend | resume | cancel | jobSuspended | job | copy | tblLoad | tileLoad | scrub | erase
      | classSet | progLoad | maskSet | routeSet | queryFragment | queryMessage | nxIssueGe | engineQueueSpace | nxIssueMe
      | nxIssueVe | nxIssueMq | updpart | nxPark | nxTget | nxTgetPoll | nxSpawn | nxSend | nxDelay | nxEndThread | nxEndJob
      | jobEndDrained | amoadd | amoand | amoor | amoxor | amomin | amomax | amominu | amomaxu | amoswap | lr | sc | fence
      | fenceI | ecall | ebreak | atomAdd | atomFadd32 | atomFadd16 | atomMin | atomMax | atomMinu | atomMaxu | atomFmin32
      | atomFmax32 | atomAnd | atomOr | atomXor | atomSwap | atomCas | atomRma | pfcFrameRx | salrexData | salrexAck
      | salrexReset | rdr | wra | atomic | atr | rowRead | rowWrite | rowMerge | rowLmerge | syncr | nxIssueSe
      | illegalInstruction | nxpinWrite | cxlCacheResponse =>
    exact State.volatile_runAt _ _
  case replaceRows | tblSet | shardSet | migrate | graphSet | update | updProgSet | updBindSet | layerSet | gather | nbr1
      | nbr2 | nseg | nlist | meRetire | veRetire | arm | rearm | disarm | chain | streamLoop | streamNext | streamLoad
      | streamGath | streamGbmp | streamStore | streamAdv | streamWait | streamSignal | streamEnd | ringProducerResume
      | gmergeRows | gmergeTiles | clusterSleep | clusterWake | clusterWakeComplete
      | cxlLinkDown | getpid | getbcr | getdcr =>
    refine State.volatile_run fun m => ?_
    simp
  case armWordWrite | qfeCtlWrite | versionReadReturn | updatePartStart | rowr | cxlLinkUp | getstatus | cIntN | rowWritesComplete
      | rowReadReturn | moveCopyStart | layerReadersZero =>
    refine State.volatile_run fun m => ?_
    (repeat' split) <;> simp
  case rowClaimComplete | moveStart | moveSnap | moveReady | moveCommit | moveDiscard | moveBusy | gradientSpaceWaitEnd | wr
      | gatherAdmit =>
    refine State.volatile_run fun m => ?_
    dsimp only
    (repeat' split) <;> simp
  case rehomeComplete =>
    refine State.volatile_run fun m => ?_
    dsimp only
    split <;> simp
  case updout => exact volatile_updout _ _ _ s
  case adjacencyReadReturn => exact volatile_adjacencyReadReturn _ _ _ s
  case streamTransferComplete => exact volatile_streamTransferComplete (beq_iff_eq.1 h) _ _ s
  all_goals exact absurd h Bool.false_ne_true

/-- Settles O11. -/
theorem volatileCommandsFrame : Obligations.VolatileCommandsFrame := by
  unfold Obligations.VolatileCommandsFrame
  intro c s t hvol hnext
  obtain ⟨u, hu, hfuse, hqueue, hnv, hund⟩ := exec_volatile hvol s
  cases hu.symm.trans hnext
  exact ⟨hfuse, hnv, hund, hqueue⟩

/-! ### A host write of a line of memory (spec/16 R543) -/

/-! #### What an access at its line's home leaves of the configuration in force -/

@[simp] theorem Dev.setPlace_conf (d : Dev) (u : Nat) (x : Place) : (d.setPlace u x).conf = d.conf := rfl
@[simp] theorem Dev.charge_conf (d : Dev) (u part n : Nat) : (d.charge u part n).conf = d.conf := rfl
@[simp] theorem Dev.bumpHi_conf (d : Dev) (r : Reg) (ix : List Nat) : (d.bumpHi r ix).conf = d.conf := rfl

@[simp] theorem Dev.memBytes_conf (d : Dev) (u part n : Nat) : (d.memBytes u part n).conf = d.conf := by
  unfold Dev.memBytes
  rw [Dev.charge_conf]
  split <;> rfl

@[simp] theorem Dev.issueAll_conf (u n : Nat) (d : Dev) : (d.issueAll u n).conf = d.conf := by
  induction n generalizing d with
  | zero => rfl
  | succ n ih =>
    unfold Dev.issueAll
    split
    · rw [ih, Dev.issueReq, Dev.memBytes_conf, Dev.setPlace_conf]
    · rfl

@[simp] theorem Dev.wbLine_conf (d : Dev) (b : Nat) (x : Det) : (d.wbLine b x).conf = d.conf := by
  unfold Dev.wbLine Dev.pumpUnit Dev.queueReq
  split
  · rfl
  · rw [Dev.issueAll_conf, Dev.setPlace_conf]
    dsimp only
    split
    · split <;> rfl
    · rfl

@[simp] theorem Dev.evict_conf (d : Dev) (l : Nat × CanLine) : (d.evict l).conf = d.conf := by
  unfold Dev.evict Dev.writeBack Dev.takeFind
  dsimp only
  split
  · rw [Dev.wbLine_conf]
    split <;> rfl
  · exact List.foldlRecOn (motive := fun e : Dev => e.conf = d.conf) _ _ rfl fun _ he _ _ => he

@[simp] theorem Dev.makeRoom_conf (d : Dev) (b : Nat) : (d.makeRoom b).conf = d.conf := by
  unfold Dev.makeRoom
  dsimp only
  split_ifs
  · rfl
  · split
    · rw [Dev.evict_conf, Dev.useFree_conf]
    · rfl

@[simp] theorem Dev.touchLine_conf (d : Dev) (a n : Nat) (x : Access) : (d.touchLine a n x).conf = d.conf := by
  unfold Dev.touchLine
  dsimp only
  split
  · rfl
  · (repeat' split) <;> simp
  · rfl

@[simp] theorem Dev.touch_conf (d : Dev) (a n : Nat) (x : Access) : (d.touch a n x).conf = d.conf :=
  List.foldlRecOn (motive := fun e : Dev => e.conf = d.conf) _ _ rfl fun e he _ _ => (Dev.touchLine_conf e ..).trans he

theorem Dev.storeNow_conf (d : Dev) (a : Nat) (bs : List Byte) (p : Bool) (part : Option Nat) (f : Bool) :
    (d.storeNow a bs p part f).conf = d.conf := by
  simp [Dev.storeNow, Dev.lineWritten]

/-- Where a byte is carried out depends on the regions in force alone (R464). -/
theorem Dev.cell_congr {d e : Dev} (h : e.conf = d.conf) (a : Nat) : e.cell a = d.cell a := by
  simp only [Dev.cell, Dev.placeOf, h]

/-! #### The runs of a mask -/

/-- A run of a mask over `n` bits covers enabled bits only. -/
theorem bitAt_of_mem_maskRuns {m lo n : Nat} {r : Nat × Nat} (hr : r ∈ maskRuns m lo n) :
    ∀ i, r.1 ≤ i → i < r.1 + r.2 → bitAt m i = true ∧ i < lo + n := by
  induction n generalizing r with
  | zero => simp [maskRuns] at hr
  | succ n ih =>
    have hold : r ∈ maskRuns m lo n → ∀ i, r.1 ≤ i → i < r.1 + r.2 → bitAt m i = true ∧ i < lo + (n + 1) :=
      fun h i h1 h2 => (ih h i h1 h2).imp_right (by omega)
    unfold maskRuns at hr
    dsimp only at hr
    split at hr
    · exact hold hr
    next hbit =>
      have hbit : bitAt m (lo + n) = true := by simpa using hbit
      have hnew (i : Nat) (h1 : lo + n ≤ i) (h2 : i < lo + n + 1) : bitAt m i = true ∧ i < lo + (n + 1) := by
        obtain rfl : i = lo + n := by omega
        exact ⟨hbit, by omega⟩
      split at hr
      next a k hlast =>
        have hmem : (a, k) ∈ maskRuns m lo n := List.mem_of_getLast? hlast
        split at hr
        next hjoin =>
          rcases List.mem_append.1 hr with h | h
          · exact hold (List.dropLast_subset _ h)
          · obtain rfl : r = (a, k + 1) := List.mem_singleton.1 h
            intro i h1 h2
            by_cases hi : i < a + k
            · exact (ih hmem i h1 hi).imp_right (by omega)
            · exact hnew i (by omega) (by omega)
        next =>
          rcases List.mem_append.1 hr with h | h
          · exact hold h
          · obtain rfl : r = (lo + n, 1) := List.mem_singleton.1 h
            exact hnew
      next =>
        obtain rfl : r = (lo + n, 1) := List.mem_singleton.1 hr
        exact hnew

/-! #### The bytes -/

theorem Dev.byte_markRange (d : Dev) (a n : Nat) (p : Bool) (c : Nat) : (d.markRange a n p).mem.byte c = d.mem.byte c :=
  Mem.byte_fold _ c (fun m g => Mem.byte_mark m (d.cell g) c p) _ _

/-- What a host write leaves of memory, while the slices hide no error: every byte but the enabled ones, and the canonical form. -/
structure Dev.LineWrite (d : Dev) (a mask : Nat) (e : Dev) : Prop where
  conf : e.conf = d.conf
  clean : e.linesClean
  other : ∀ c, (∀ i, i < 64 → bitAt mask i = true → c ≠ d.cell (a + i)) → e.mem.byte c = d.mem.byte c
  wf : d.mem.wf = true → e.mem.wf = true

theorem Dev.LineWrite.storeNow {d e : Dev} {a mask : Nat} (h : d.LineWrite a mask e) {r : Nat × Nat} (hr : r ∈ maskRuns mask 0 64)
    (bs : List Byte) (p : Bool) (part : Option Nat) : d.LineWrite a mask (e.storeNow (a + r.1) ((bs.drop r.1).take r.2) p part) where
  conf := (Dev.storeNow_conf ..).trans h.conf
  clean := (Dev.touch_clean _ _ _ (d := e.poke (a + r.1) ((bs.drop r.1).take r.2) p) h.clean).2
  other c hc := by
    refine (Dev.byte_storeNow_other e _ _ p part false c h.clean fun i hi => ?_).trans (h.other c hc)
    have hlen : i < r.2 := lt_of_lt_of_le hi (List.length_take_le _ _)
    obtain ⟨hbit, hlt⟩ := bitAt_of_mem_maskRuns hr (r.1 + i) (by omega) (by omega)
    rw [Dev.cell_congr h.conf, Nat.add_assoc]
    exact hc _ (by omega) hbit
  wf hd := Dev.wf_storeNow _ _ p part false (h.wf hd)

theorem Dev.lineWrite_hostMemWrite {d : Dev} (hclean : d.linesClean) {a : Nat} (hnow : d.writeWait d.hostPart a 64 = 0) (mask : Nat)
    (bs : List Byte) (poison : Bool) : d.LineWrite a mask (d.hostMemWrite a mask bs poison) := by
  have hnow' : (d.writeWait d.hostPart a 64 == 0) = true := beq_iff_eq.2 hnow
  have hbytes : d.LineWrite a mask ((maskRuns mask 0 64).foldl
      (fun e r => e.storeNow (a + r.1) ((bs.drop r.1).take r.2) poison (some e.hostPart)) d) :=
    List.foldlRecOn (motive := d.LineWrite a mask) _ _ ⟨rfl, hclean, fun _ _ => rfl, id⟩ fun e he r hr => he.storeNow hr ..
  simp only [Dev.hostMemWrite, hnow', if_true]
  split
  · exact ⟨hbytes.conf, hbytes.clean, fun c hc => (Dev.byte_markRange ..).trans (hbytes.other c hc), fun hd => Dev.wf_markRange _ _ true (hbytes.wf hd)⟩
  · exact hbytes

section
variable {s : State} {h a mask : Nat} {bs : List Byte} {poison : Bool}

theorem exec_hostMemWrite_noLink (hlink : s.mach.dev.host.link = false) : exec (.hostMemWrite h bs mask poison) s = .next s := by
  show execHostMemWrite h bs mask poison s = _
  simp only [execHostMemWrite, State.run_next, hlink, Bool.not_false, if_true]
  rfl

theorem exec_hostMemWrite_unserved (hlink : s.mach.dev.host.link = true) (hserves : s.mach.und.st.serves = false) :
    exec (.hostMemWrite h bs mask poison) s = .next (s.withDev ((s.dev.cxlFlag 3).emit .hostCmp)) := by
  show execHostMemWrite h bs mask poison s = _
  simp only [execHostMemWrite, State.run_next, hlink, hserves, Bool.not_false, Bool.not_true, Bool.false_eq_true, if_true, if_false]
  rfl

variable (hlink : s.mach.dev.host.link = true) (hserves : s.mach.und.st.serves = true) (hhdm : s.mach.dev.hdm (h / 64 * 64) = some a)
include hlink hserves hhdm

theorem exec_hostMemWrite_waits (hmem : (∃ u b, s.mach.dev.target a = .ext u b) ∨ (∃ k, s.mach.dev.target a = .clearing k))
    (hwait : s.mach.dev.writeWait s.mach.dev.hostPart a 64 ≠ 0) : exec (.hostMemWrite h bs mask poison) s = .next s := by
  show execHostMemWrite h bs mask poison s = _
  obtain ⟨u, b, ht⟩ | ⟨k, ht⟩ := hmem
  all_goals
    simp only [execHostMemWrite, State.run_next, hlink, hserves, hhdm, ht, bne_iff_ne.2 hwait, Bool.not_true, Bool.false_eq_true, if_true, if_false]
    rfl

/-- A host write of a line of memory that does not wait and holds no arm word (R543). -/
theorem exec_hostMemWrite_mem (hmem : (∃ u b, s.mach.dev.target a = .ext u b) ∨ (∃ k, s.mach.dev.target a = .clearing k))
    (hnow : s.mach.dev.writeWait s.mach.dev.hostPart a 64 = 0)
    (harm : (s.mach.onDev fun d => d.hostMemWrite a mask ((bs ++ zeros64).take 64) poison).dev.armSlot a = none) :
    exec (.hostMemWrite h bs mask poison) s =
      .next (s.withDev ((s.dev.hostMemWrite a mask ((bs ++ zeros64).take 64) poison).emit .hostCmp)) := by
  have hgo : (s.mach.dev.writeWait s.mach.dev.hostPart a 64 != 0) = false := by simp [hnow]
  show execHostMemWrite h bs mask poison s = _
  obtain ⟨u, b, ht⟩ | ⟨k, ht⟩ := hmem
  all_goals
    simp only [execHostMemWrite, State.run_next, hlink, hserves, hhdm, ht, hgo, harm, Bool.not_true, Bool.false_eq_true, if_false]
    rfl

end

/-- Settles O13: the bytes of the runs of the mask are written one after the other, each at its own places. -/
theorem hostWriteFrame : Obligations.HostWriteFrame := by
  unfold Obligations.HostWriteFrame
  intro s t h a mask bs poison hclean hhdm hmem harm hnext
  have hsame {d : Dev} (hd : d.mem = s.dev.mem) (ht : t = s.withDev d) : 
      (∀ c, (∀ i, i < 64 → bitAt mask i = true → c ≠ s.dev.cell (a + i)) → t.dev.mem.byte c = s.dev.mem.byte c) ∧
      (s.dev.mem.wf = true → t.dev.mem.wf = true) ∧ t.fuse = s.fuse ∧ t.mach.nv = s.mach.nv ∧ t.mach.und = s.mach.und := by
    subst ht
    have hd' : (s.withDev d).dev.mem = s.dev.mem := hd
    rw [hd']
    exact ⟨fun _ _ => rfl, id, rfl, rfl, rfl⟩
  cases hlink : s.mach.dev.host.link with
  | false =>
    cases (exec_hostMemWrite_noLink hlink).symm.trans hnext
    exact hsame (d := s.dev) rfl rfl
  | true =>
    cases hserves : s.mach.und.st.serves with
    | false =>
      cases (exec_hostMemWrite_unserved hlink hserves).symm.trans hnext
      exact hsame (d := (s.dev.cxlFlag 3).emit .hostCmp) rfl rfl
    | true =>
      by_cases hnow : s.mach.dev.writeWait s.mach.dev.hostPart a 64 = 0
      · cases (exec_hostMemWrite_mem hlink hserves hhdm hmem hnow harm).symm.trans hnext
        have hwrite := Dev.lineWrite_hostMemWrite hclean hnow mask ((bs ++ zeros64).take 64) poison
        exact ⟨hwrite.other, hwrite.wf, rfl, rfl, rfl⟩
      · cases (exec_hostMemWrite_waits hlink hserves hhdm hmem hnow).symm.trans hnext
        exact hsame (d := s.dev) rfl rfl

/-! ### Where a host read of a line goes (spec/16 R542, R543, R670) -/

section
variable {s : State} {h a : Nat} {det : Det} {bad : Bool} (hlink : s.mach.dev.host.link = true)
include hlink

theorem exec_hostMemRead_unserved (hserves : s.mach.und.st.serves = false) :
    exec (.hostMemRead h det bad) s = .next (s.withDev ((s.dev.cxlFlag 3).emit (.hostData zeros64 true))) := by
  show execHostMemRead h det bad s = _
  simp only [execHostMemRead, State.run_next, hlink, hserves, Bool.not_true, Bool.not_false, Bool.false_eq_true, if_true, if_false]
  rfl

variable (hserves : s.mach.und.st.serves = true) (hhdm : s.mach.dev.hdm (h / 64 * 64) = some a)
include hserves hhdm

theorem exec_hostMemRead_mem (hmem : (∃ u b, s.mach.dev.target a = .ext u b) ∨ (∃ k, s.mach.dev.target a = .clearing k)) :
    exec (.hostMemRead h det bad) s = .next (s.withMach (s.mach.hostMemRead a det)) := by
  show execHostMemRead h det bad s = _
  obtain ⟨u, b, ht⟩ | ⟨k, ht⟩ := hmem
  all_goals simp only [execHostMemRead, State.run_next, hlink, hserves, hhdm, ht, Bool.not_true, Bool.false_eq_true, if_false]

theorem exec_hostMemRead_hole (ht : s.mach.dev.target a = .hole ∨ s.mach.dev.target a = .noClear ∨ s.mach.dev.target a = .syncHole) :
    exec (.hostMemRead h det bad) s = .next (s.withDev ((s.dev.cxlFlag 3).emit (.hostData zeros64 true))) := by
  show execHostMemRead h det bad s = _
  obtain ht | ht | ht := ht
  all_goals
    simp only [execHostMemRead, State.run_next, hlink, hserves, hhdm, ht, Bool.not_true, Bool.false_eq_true, if_false]
    rfl

theorem exec_hostMemRead_syncFails {n o : Nat} (ht : s.mach.dev.target a = .syncObj n o) :
    exec (.hostMemRead h (.twice .syncUnit) bad) s = .next (s.withMach (s.mach.faultHold 6)) := by
  show execHostMemRead h (.twice .syncUnit) bad s = _
  simp only [execHostMemRead, State.run_next, hlink, hserves, hhdm, ht, Bool.not_true, Bool.false_eq_true, if_false, BEq.rfl, if_true]

theorem exec_hostMemRead_sync {n o : Nat} (ht : s.mach.dev.target a = .syncObj n o) (hdet : det ≠ .twice .syncUnit)
    (hgood : s.mach.dev.syncBroken n = false) :
    exec (.hostMemRead h det false) s = .next (s.withDev (s.dev.emit (.hostData (leBytes 64 (s.dev.syncVal n).toNat) false))) := by
  show execHostMemRead h det false s = _
  simp only [execHostMemRead, State.run_next, hlink, hserves, hhdm, ht, hgood, beq_eq_false_iff_ne.2 hdet, Bool.not_true, Bool.false_and,
    Bool.false_eq_true, if_false]
  rfl

theorem exec_hostMemRead_status {o : Nat} (ht : s.mach.dev.target a = .status o) :
    exec (.hostMemRead h det bad) s = .next (s.withDev (s.dev.emit (.hostData (s.dev.bytes a 64) false))) := by
  show execHostMemRead h det bad s = _
  simp only [execHostMemRead, State.run_next, hlink, hserves, hhdm, ht, Bool.not_true, Bool.false_eq_true, if_false]
  rfl

end

/-- A read of memory that meets no error and does not wait (R543). -/
theorem Mach.hostMemRead_none {m : Mach} {a : Nat} (hnow : m.dev.readWait m.dev.hostPart a 64 = 0) :
    m.hostMemRead a .none =
      let r := m.dev.touch a 64 { part := m.dev.hostPart }
      (m.onDev fun _ => r).hostData (r.bytes a 64) (r.poisoned a 64) (r.poisoned a 64) := by
  have hgo : (m.dev.readWait m.dev.hostPart a 64 != 0) = false := by simp [hnow]
  simp only [Mach.hostMemRead, hgo, Bool.false_eq_true, if_false]
  rfl

/-- Settles O16, target by target. -/
theorem hostReadAnswers : Obligations.HostReadAnswers := by
  unfold Obligations.HostReadAnswers
  intro s h a det bad hlink
  refine ⟨exec_hostMemRead_unserved hlink, fun hserves hhdm => ⟨?ext, ?clearing, exec_hostMemRead_hole hlink hserves hhdm, ?fails, ?sync, ?status⟩⟩
  case ext =>
    intro u b ht hnow
    exact (exec_hostMemRead_mem hlink hserves hhdm (.inl ⟨u, b, ht⟩)).trans (by rw [Mach.hostMemRead_none hnow]; rfl)
  case clearing =>
    intro k ht hnow
    exact (exec_hostMemRead_mem hlink hserves hhdm (.inr ⟨k, ht⟩)).trans (by rw [Mach.hostMemRead_none hnow]; rfl)
  case fails => rintro n o ht rfl; exact exec_hostMemRead_syncFails hlink hserves hhdm ht
  case sync => exact fun n o ht hdet hgood => exec_hostMemRead_sync hlink hserves hhdm ht hdet hgood
  case status => exact fun o ht => exec_hostMemRead_status hlink hserves hhdm ht

/-! ### Where a host write of a line goes (spec/16 R543, R551, R670) -/

section
variable {s : State} {h a mask : Nat} {bs : List Byte} {poison : Bool} (hlink : s.mach.dev.host.link = true)
  (hserves : s.mach.und.st.serves = true) (hhdm : s.mach.dev.hdm (h / 64 * 64) = some a)
include hlink hserves hhdm

theorem exec_hostMemWrite_hole (ht : s.mach.dev.target a = .hole ∨ s.mach.dev.target a = .noClear ∨ s.mach.dev.target a = .syncHole) :
    exec (.hostMemWrite h bs mask poison) s = .next (s.withDev ((s.dev.cxlFlag 3).emit .hostCmp)) := by
  show execHostMemWrite h bs mask poison s = _
  obtain ht | ht | ht := ht
  all_goals
    simp only [execHostMemWrite, State.run_next, hlink, hserves, hhdm, ht, Bool.not_true, Bool.false_eq_true, if_false]
    rfl

theorem exec_hostMemWrite_syncSet {n o : Nat} (ht : s.mach.dev.target a = .syncObj n o) (hmask : mask % 256 = 255) :
    exec (.hostMemWrite h bs mask poison) s =
      .next (s.withDev ((s.dev.syncSet s.now n (BitVec.ofNat 64 (leNat (((bs ++ zeros64).take 64).take 8)))).emit .hostCmp)) := by
  show execHostMemWrite h bs mask poison s = _
  simp only [execHostMemWrite, State.run_next, hlink, hserves, hhdm, ht, hmask, Bool.not_true, Bool.false_eq_true, if_true, if_false]
  rfl

theorem exec_hostMemWrite_syncPart {n o : Nat} (ht : s.mach.dev.target a = .syncObj n o) (hmask : mask % 256 ≠ 255) :
    exec (.hostMemWrite h bs mask poison) s = .next (s.withDev ((s.dev.bump .SYN_ERR [syncHome n]).emit .hostCmp)) := by
  show execHostMemWrite h bs mask poison s = _
  simp only [execHostMemWrite, State.run_next, hlink, hserves, hhdm, ht, hmask, Bool.not_true, Bool.false_eq_true, if_false]
  rfl

end

/-- A whole line is the data of its write. -/
theorem take_append_zeros64 {bs : List Byte} (h : bs.length = 64) : (bs ++ zeros64).take 64 = bs := List.take_left' h

/-- In RUN a write of an arm word stores it, then shows it to the command monitor (R551). -/
theorem exec_armWordWrite_run {s : State} {slot : Nat} (hrun : s.mach.und.st = .run) (hslot : slot < 4096) (v : Word) :
    exec (.armWordWrite slot v) s = .next (s.withDev
      ((s.dev.hostMemWrite (s.dev.cmdBase + 256 * slot) 255 (leBytes 64 v.toNat) false).armWord s.now slot v.toNat false)) := by
  have hbound : decide (4096 ≤ slot) = false := decide_eq_false (by omega)
  show execArmWordWrite slot v s = _
  simp only [execArmWordWrite, State.run_next, hrun, hbound, MSt.serves, Bool.not_true, Bool.or_self, Bool.false_eq_true, if_false]
  unfold Mach.monitor
  simp [Mach.onDev, hrun]
  rfl

/-- Settles O17, target by target; of an arm word, by the monitor's test. -/
theorem hostWritesStoreAndArm : Obligations.HostWritesStoreAndArm := by
  unfold Obligations.HostWritesStoreAndArm
  refine ⟨fun s h a mask bs poison hlen hlink hserves hhdm => ⟨?mem, ?hole, ?set, ?part⟩, fun s slot v hrun hslot => ⟨fun harms => ?arms, fun hdrop => ?drops⟩⟩
  case mem =>
    intro u b ht hnow harm
    have hline := take_append_zeros64 hlen
    rw [exec_hostMemWrite_mem hlink hserves hhdm (.inl ⟨u, b, ht⟩) hnow (by rw [hline]; exact harm), hline]
  case hole => exact exec_hostMemWrite_hole hlink hserves hhdm
  case set =>
    intro n o ht hmask
    rw [exec_hostMemWrite_syncSet hlink hserves hhdm ht hmask, take_append_zeros64 hlen]
  case part => exact fun n o ht hmask => exec_hostMemWrite_syncPart hlink hserves hhdm ht hmask
  case arms =>
    rw [exec_armWordWrite_run hrun hslot, Dev.armWord]
    exact congrArg (fun d => Host.Outcome.next (s.withDev d)) (if_pos harms)
  case drops =>
    rw [exec_armWordWrite_run hrun hslot, Dev.armWord]
    refine congrArg (fun d => Host.Outcome.next (s.withDev d)) (if_neg ?_)
    simp only [Bool.and_eq_true, bne_iff_ne, beq_iff_eq]
    rintro ⟨⟨⟨⟨⟨harm, hseq⟩, hreserved⟩, hnew⟩, howner⟩, hfree⟩
    obtain h | h | h | h | h | h := hdrop
    · exact Bool.false_ne_true (h.symm.trans harm)
    · exact hseq h
    · exact h hreserved
    · exact hnew h
    · exact Bool.false_ne_true ((Option.isSome_eq_false_iff.2 h).symm.trans howner)
    · exact Bool.false_ne_true ((Option.isNone_eq_false_iff.2 h).symm.trans hfree)

/-! ### Commands that pass their checks (spec/16 R552, R555, R558, R564) -/

/-- Settles O19: each command is its slot's operation taken, then what it starts with; a TILE_LOAD and a REPLACE_ROWS by where their source
lies. -/
theorem longCommandsStart : Obligations.LongCommandsStart := by
  unfold Obligations.LongCommandsStart
  intro s slot o
  refine ⟨fun h => ?copy, fun h => ?tblLoad, fun n h hmem hfound => ?tileHere, fun h hhost => ?tileHost, fun h => ?scrub, fun h => ?erase,
    fun h => ?drain, fun h hmem => ?rowsHere, fun h hhost => ?rowsHost⟩
  case copy => exact exec_next_congr (exec_takeCmd_accepted rfl h) rfl
  case tblLoad => exact exec_next_congr (exec_takeCmd_accepted rfl h) rfl
  case scrub => exact exec_next_congr (exec_takeCmd_accepted rfl h) rfl
  case erase => exact exec_next_congr (exec_takeCmd_accepted rfl h) rfl
  case drain => exact exec_next_congr (exec_takeCmd_accepted rfl h) rfl
  case tileHere =>
    refine exec_next_congr (exec_takeCmdR_accepted rfl h) ((if_neg (Bool.eq_false_iff.1 hmem)).trans ?_)
    have hfound' : s.mach.dev.tileFound (o.taken s.now) = .done n := hfound
    rw [hfound']
    rfl
  case tileHost => exact exec_next_congr (exec_takeCmdR_accepted rfl h) (if_pos hhost)
  case rowsHere => exact exec_next_congr (exec_takeCmd_accepted rfl h) (if_neg (Bool.eq_false_iff.1 hmem))
  case rowsHost => exact exec_next_congr (exec_takeCmd_accepted rfl h) (if_pos hhost)

/-- A command that writes the shadow of one table: the image its record names, the record's further bytes and the operation's handle go into
the shadow, and the command completes OK. -/
theorem exec_setCmd_accepted {c : Instr} {s : State} {slot opc idn top n al extra : Nat} {put : Tabs → Nat → List Byte → Tabs} {o : HOp}
    (hc : exec c s = .next (s.withDev (s.dev.setCmd s.now slot opc idn top n al extra put)))
    (h : s.dev.Accepts slot opc true (s.dev.setChecks idn top n al extra) o) :
    exec c s = .next (s.withDev (((s.dev.taken s.now o).onShad fun t =>
      put t (o.f 32 idn) (s.dev.bytes (o.f 40 8) n ++ (o.rcd.drop 48).take extra ++ leBytes 8 o.handle)).finish (o.taken s.now) sOk [])) :=
  exec_takeCmd_accepted hc h

/-- The UPD_PROG_SET of a slot writes as many bytes as its image says (R347). -/
theorem exec_updProgSet_queued {s : State} {slot : Nat} {o : HOp} (h : s.dev.queuedOp slot 0x0126 = some o) :
    exec (.updProgSet slot) s = .next (s.withDev (s.dev.setCmd s.now slot 0x0126 1 64 (8 + 8 * (s.dev.num (o.f 40 8) 1 % 64)) 8 0
      fun t i b => { t with upr := t.upr.put [] i b })) := by
  have h' : s.mach.dev.queuedOp slot 0x0126 = some o := h
  show execUpdProgSet slot s = _
  simp only [execUpdProgSet, State.run_next, h']
  rfl

/-- Settles O20: six of the commands are one command with its table; PROG_LOAD goes by where its image lies. -/
theorem setCommandsWriteTheShadow : Obligations.SetCommandsWriteTheShadow := by
  unfold Obligations.SetCommandsWriteTheShadow
  intro s slot o
  have hplain (l m : List Byte) : l ++ (o.rcd.drop 48).take 0 ++ m = l ++ m := by rw [List.take_zero, List.append_nil]
  refine ⟨fun h => ?classSet, fun h => ?tblSet, fun h => ?graphSet, fun h => ?updBindSet, fun h => ?layerSet, ?updProgSet,
    fun h hmem => ?progHere, fun h hhost hlen => ?progHost⟩
  case classSet => exact (exec_setCmd_accepted rfl h).trans (by rw [hplain])
  case tblSet => exact (exec_setCmd_accepted rfl h).trans (by rw [hplain])
  case graphSet => exact (exec_setCmd_accepted rfl h).trans (by rw [hplain])
  case updBindSet => exact (exec_setCmd_accepted rfl h).trans (by rw [hplain])
  case layerSet => exact exec_next_congr (exec_setCmd_accepted rfl h) rfl
  case updProgSet =>
    rintro n rfl h
    exact (exec_setCmd_accepted (exec_updProgSet_queued h.1) h).trans (by rw [hplain])
  case progHere =>
    refine exec_next_congr (exec_takeCmd_accepted rfl h) (if_neg fun hhost => ?_)
    exact Bool.false_ne_true (hmem.symm.trans hhost.1)
  case progHost => exact exec_next_congr (exec_takeCmd_accepted rfl h) (if_pos ⟨hhost, hlen⟩)

/-! ### SUSPEND, RESUME, CANCEL and JOB (spec/16 R555 to R558) -/

@[simp] theorem HOp.taken_f (o : HOp) (t a n : Nat) : (o.taken t).f a n = o.f a n := rfl
@[simp] theorem HOp.taken_ctx (o : HOp) (t : Nat) : (o.taken t).ctx = o.ctx := rfl
@[simp] theorem HOp.taken_handle (o : HOp) (t : Nat) : (o.taken t).handle = o.handle := rfl

/-- A SUSPEND, RESUME or CANCEL that is ready and passes its checks starts. -/
theorem exec_request_accepted {c : Instr} {s : State} {slot opc : Nat} {may : HOp → Bool} {go : Nat → Dev → HOp → Dev} {o : HOp}
    {a : Out1} (hc : exec c s = a) (ha : a = s.runAt fun now d =>
      if !d.reqReady slot opc then d else d.takeCmd now slot opc false (d.reqChecks may) (go now))
    (hr : s.dev.reqReady slot opc = true) (h : s.dev.Accepts slot opc false (s.dev.reqChecks may) o) :
    exec c s = .next (s.withDev (go s.now (s.dev.taken s.now o) (o.taken s.now))) := by
  refine exec_next_congr ?_ (Dev.takeCmd_accepts h)
  simp only [hc, ha, State.runAt_next, hr, Bool.not_true, Bool.false_eq_true, if_false]

section
variable {s : State} {slot : Nat} {o q : HOp}

theorem exec_job_created {n j : Nat} {d : Dev} (h : s.dev.Accepts slot 0x0110 false s.dev.jobChecks o)
    (hclu : (s.dev.taken s.now o).chooseCluster ((s.dev.taken s.now o).ctxClusters o.ctx (o.f 78 2)) 0 = some n)
    (hjob : (s.dev.taken s.now o).createJob s.now n
      { ctx := o.ctx, prio := (s.dev.taken s.now o).ctxPrio o.ctx (o.f 76 1), creator := .slot o.handle, entry := o.f 32 8,
        deadTick := if o.f 72 4 = 0 then none else some (tickCeil (s.now + o.f 72 4 * usT)) }
      ([o.f 40 8, o.f 48 8, o.f 56 8, o.f 64 8].map (BitVec.ofNat 64)) 4 = some (d, j)) :
    exec (.job slot) s = .next (s.withDev (d.modOp o.handle fun q => { q with job := some j })) := by
  have start := exec_takeCmd_accepted (c := .job slot) rfl h
  have hnow : s.mach.und.now = s.now := rfl
  simp only [HOp.taken_f, HOp.taken_ctx, HOp.taken_handle, hnow, hclu, hjob] at start
  exact start

section
variable (hr : s.dev.reqReady slot 0x0103 = true) (h : s.dev.Accepts slot 0x0103 false (s.dev.reqChecks HOp.maySuspend) o)
  (hq : (s.dev.taken s.now o).handleOp (o.f 32 4) = some q)
include hr h hq

theorem exec_suspend_op (hopc : q.opc ≠ 0x0110) : exec (.suspend slot) s =
    .next (s.withDev (((s.dev.taken s.now o).modOp q.handle fun x => { x with st := .suspending slot }).settle s.now)) := by
  refine exec_next_congr (exec_request_accepted (a := execSuspend slot s) rfl rfl hr h) ?_
  simp only [HOp.taken_f, hq]
  split
  · contradiction
  · rfl

theorem exec_suspend_job {j : Nat} (hopc : q.opc = 0x0110) (hjob : q.job = some j) : exec (.suspend slot) s =
    .next (s.withDev ((((((s.dev.taken s.now o).modOp q.handle fun x => { x with st := .suspending slot }).modJob j
      fun b => { b with halted := true }).unplace j).schedule s.now (j / 4096)))) := by
  refine exec_next_congr (exec_request_accepted (a := execSuspend slot s) rfl rfl hr h) ?_
  simp only [HOp.taken_f, hq, hopc, hjob]

end

end

/-- Settles O22. A CANCEL goes by what the operation it names is: a drain, a suspended operation, a job, or another. -/
theorem jobControlCommandsAct : Obligations.JobControlCommandsAct := by
  unfold Obligations.JobControlCommandsAct
  intro s slot o
  refine ⟨fun n d j h hclu hjob => exec_job_created h hclu hjob, fun q hr h hq hopc => exec_suspend_op hr h hq hopc,
    fun q j hr h hq hopc hjob => exec_suspend_job hr h hq hopc hjob, fun q hr h hq => ?_⟩
  have start := exec_request_accepted (c := .cancel slot) (a := execCancel slot s) rfl rfl hr h
  simp only [HOp.taken_f, hq] at start
  refine ⟨fun hopc hst => exec_next_congr start ?drain, fun hopc hst => exec_next_congr start ?covering,
    fun j hopc hst hjob => exec_next_congr start ?job, fun hdrain hopc hst => exec_next_congr start ?op,
    fun hdrain hst => exec_next_congr start ?suspended⟩
  case drain => rw [if_pos hopc, if_neg hst]
  case covering => rw [if_pos hopc, if_pos hst]
  case job => simp only [hopc, hst, hjob, Nat.reduceEqDiff, if_false]
  case op =>
    rw [if_neg hdrain, if_neg hst]
    split
    · contradiction
    · rfl
  case suspended => rw [if_neg hdrain, if_pos hst]

/-! ### RESUME and COMMIT (spec/16 R557, R558, R561) -/

/-- The only COMMIT that waits is checked, and no other after it (R561). -/
theorem Mach.commitNext_only {m : Mach} {c : Commit} (hc : m.dev.host.commits = [c]) (hnew : c.started = false) :
    m.commitNext m.dev.host.commits.length = m.commitCheck c := by
  simp only [hc, List.length_singleton, Mach.commitNext, hnew, Bool.false_eq_true, if_false]

/-- A COMMIT before which none waits takes its snapshot and is checked at once. -/
theorem exec_commit_first {s : State} {slot : Nat} {o : HOp} (h : s.dev.Accepts slot 0x0101 true commitChecks o)
    (hnone : s.dev.host.commits = []) {c : Commit} (hc : c = ⟨slot, o.ctx, bitAt (o.f 32 1) 0, s.dev.shad, false, []⟩) :
    exec (.commit slot) s = .next (s.withMach ((s.mach.onDev fun _ =>
      (s.dev.taken s.now o).onHost fun h => { h with commits := [c] }).commitCheck c)) := by
  subst hc
  have hnone' : (s.dev.taken s.now o).host.commits = [] := hnone
  have hstart := Dev.takeCmd_accepts (now := s.now) (go := fun d o => d.onHost fun h =>
    { h with commits := h.commits ++ [⟨slot, o.ctx, bitAt (o.f 32 1) 0, d.shad, false, []⟩] }) h
  simp only [Dev.onHost, hnone', List.nil_append] at hstart
  have hmach := congrArg (fun d => ({ s.mach with dev := d } : Mach)) hstart
  show execCommit slot s = _
  rw [execCommit, State.run_next]
  refine congrArg (fun m => Host.Outcome.next (s.withMach m)) ?_
  refine (congrArg (fun m : Mach => m.commitNext m.dev.host.commits.length) hmach).trans ?_
  exact Mach.commitNext_only rfl rfl

section
variable {m : Mach} {c : Commit} {o : HOp} (ho : m.dev.slotOp c.slot = some o)
include ho

theorem Mach.commitCheck_refused {f : Fail} (hf : m.dev.checkCommit c.conf c.slot = some f) :
    m.commitCheck c = m.onDev fun d => (d.onHost fun h => { h with commits := h.commits.drop 1 }).finish o f.status
      (commitRes (d.rd .CXL_EPOCH) (some f)) := by
  simp only [Mach.commitCheck, ho, hf]

theorem Mach.commitCheck_accepted (hgood : m.dev.checkCommit c.conf c.slot = none) :
    m.commitCheck c = (m.onDev fun d => ((d.bump64 .CXL_EPOCH).loadProgs c.conf (newProgs m.dev.conf.tab c.conf.tab)).onHost fun h =>
      { h with commits := { c with started := true } :: h.commits.drop 1 }).extend7 (newProgs m.dev.conf.tab c.conf.tab) := by
  simp only [Mach.commitCheck, ho, hgood]

end

/-- Settles O23, first what a RESUME goes on with, by the operation it names, then a COMMIT before which none waits. -/
theorem resumeAndCommitAct : Obligations.ResumeAndCommitAct := by
  unfold Obligations.ResumeAndCommitAct
  refine ⟨fun s slot o q hr h hq => ?resume, fun s slot o q h hnone => ?commit⟩
  case resume =>
    have start := exec_request_accepted (c := .resume slot) (a := execResume slot s) rfl rfl hr h
    simp only [HOp.taken_f, hq] at start
    intro r e
    refine ⟨fun hopc => exec_next_congr start ?block, fun j hopc hjob => exec_next_congr start ?job, fun hopc => exec_next_congr start ?rows,
      fun hopc => exec_next_congr start ?parts⟩
    case block => 
      obtain hopc | hopc | hopc | hopc | hopc := hopc
      all_goals simp only [e, r, hopc]; rfl
    case job => simp only [e, r, hopc, hjob]; rfl
    case rows => simp only [e, r, hopc]; rfl
    case parts =>
      obtain hopc | hopc := hopc
      all_goals simp only [e, r, hopc]; rfl
  case commit =>
    intro c d l hq
    rw [exec_commit_first h hnone rfl]
    exact ⟨fun f hf => congrArg (fun m => Host.Outcome.next (s.withMach m)) (Mach.commitCheck_refused hq hf),
      fun hgood => congrArg (fun m => Host.Outcome.next (s.withMach m)) (Mach.commitCheck_accepted hq hgood)⟩

/-! ### The events of operations (spec/16 R558, R562, R564) -/

section
variable {s : State} {h : Nat} {o : HOp}

theorem exec_drainComplete (ho : s.dev.waitingDrain h = some o)
    (hquiet : (if o.drainKind = 0 then s.dev.rangeBusy (o.f 40 8) (o.f 48 8) else s.dev.tableDrainBusy (o.f 34 2 % 4096)) = false) :
    exec (.drainComplete h) s = .next (s.withDev (s.dev.finish o sOk (o.results s.dev s.now) .covering)) := by
  show execDrainComplete h s = _
  simp only [execDrainComplete, State.runAt_next, ho, hquiet, Bool.false_eq_true, if_false]

theorem exec_drainTimeout (ho : s.dev.waitingDrain h = some o) {t : Nat} (ht : t = max s.now (o.at_ + o.f 36 4 * msT)) :
    exec (.drainTimeout h) s = .next (s.later (o.at_ + o.f 36 4 * msT) ((s.dev.finish o eBusy (o.results s.dev t)).settle t)) := by
  have ho' : s.mach.dev.waitingDrain h = some o := ho
  show execDrainTimeout h s = _
  simp only [execDrainTimeout, State.run_next, ho']
  subst ht
  rfl

theorem exec_jobSuspended {j b : Nat} (ho : s.dev.handleOp h = some o) (hopc : o.opc = 0x0110) (hjob : o.job = some j)
    (hst : o.st = .suspending b) (hstill : s.dev.jobStill j = true) :
    exec (.jobSuspended h) s =
      .next (s.withDev (((s.dev.finish o eSuspended (o.results s.dev s.now) .suspended).finishReq b sOk).freezeJob j)) := by
  show execJobSuspended h s = _
  simp only [execJobSuspended, State.runAt_next, ho, hopc, hjob, hst, hstill, OpSt.suspending?, Bool.and_self, if_true,
    Dev.stopSuspended]

theorem exec_suspendTimeout {j b : Nat} {q : HOp} (ho : s.dev.handleOp h = some o) (hopc : o.opc = 0x0110) (hjob : o.job = some j)
    (hst : o.st = .suspending b) (hq : s.dev.slotOp b = some q) {t : Nat} (ht : t = max s.now (q.at_ + 100 * msT)) :
    exec (.suspendTimeout h) s = .next (s.later (q.at_ + 100 * msT) ((((s.dev.modOp h fun x => { x with st := .running }).finishReq b eBusy).modJob j
      fun x => { x with halted := false }).schedule t (j / 4096))) := by
  have ho' : s.mach.dev.handleOp h = some o := ho
  have hq' : s.mach.dev.slotOp b = some q := hq
  show execSuspendTimeout h s = _
  simp only [execSuspendTimeout, State.run_next, ho', hopc, hst, hjob, hq', Option.map_some, Option.getD_some]
  subst ht
  rfl

/-- A unit at its safe point adopts the COMMIT in progress; the last one completes it (R562). -/
theorem exec_commitAdopt {c : Commit} {r : List Commit} {u : CUnit} (hc : s.dev.host.commits = c :: r) (hgo : c.started = true)
    (hunit : s.dev.adopters.contains u = true) (hnew : c.done.contains u = false) :
    let c' : Commit := { c with done := c.done ++ [u] }
    let d := (s.dev.adoptUnit s.now c.conf u (s.dev.rd .CXL_EPOCH)).onHost fun h => { h with commits := c' :: r }
    exec (.commitAdopt u) s = .next (if (d.adopters.all fun x => c'.done.contains x) = true then
      s.withMach (({ s.mach with dev := d } : Mach).commitEnd c') else s.withDev d) := by
  have hc' : s.mach.dev.host.commits = c :: r := hc
  have hunit' : s.mach.dev.adopters.contains u = true := hunit
  obtain ⟨slot, ctx, release, conf, started, done⟩ := c
  cases hgo
  show execCommitAdopt u s = _
  simp only [execCommitAdopt, State.run_next, hc', hunit', hnew, Bool.not_false, Bool.and_self, if_true]
  exact congrArg _ (apply_ite s.withMach _ _ _)

end

/-- Settles O25. -/
theorem operationEventsAct : Obligations.OperationEventsAct := by
  unfold Obligations.OperationEventsAct
  intro s h o
  refine ⟨fun ho hkind hquiet => exec_drainComplete ho (by rw [if_pos hkind, hquiet]), fun ho hkind hquiet => exec_drainComplete ho (by rw [if_neg hkind, hquiet]),
    fun ho => ?timeout, fun j b ho hopc hjob hst hstill => exec_jobSuspended ho hopc hjob hst hstill, fun j b q ho hopc hjob hst hq => ?suspend,
    fun c r u hc hgo hunit hnew => ?adopt⟩
  case timeout => exact exec_drainTimeout ho rfl
  case suspend => exact exec_suspendTimeout ho hopc hjob hst hq rfl
  case adopt =>
    intro c' d
    have hadopt := exec_commitAdopt hc hgo hunit hnew
    refine ⟨fun hmore => hadopt.trans (congrArg _ (if_neg ?_)), fun hlast => hadopt.trans (congrArg _ (if_pos hlast))⟩
    exact fun hlast => Bool.false_ne_true (hmore.symm.trans hlast)

/-! ### The host's link and its mailboxes (spec/16 R540 to R543, R565, spec/17 R574, R599) -/

section
variable {s : State}

theorem exec_cxlLinkUp {w : Nat} (fast lopt ide : Bool) (hmay : s.mach.cxlMay = true) (hlink : s.dev.host.link = false)
    (hw : w = 4 ∨ w = 8 ∨ w = 16) : exec (.cxlLinkUp w fast lopt ide) s = .next (s.withDev (s.dev.onHost fun h =>
      { h with link := true, linkReg := w + (if fast then 2 ^ 5 else 0) + (if lopt then 2 ^ 6 else 0) + if ide then 2 ^ 7 else 0 })) := by
  have hlink' : s.mach.dev.host.link = false := hlink
  have hlanes : (w == 4 || w == 8 || w == 16) = true := by simpa [or_assoc] using hw
  show execCxlLinkUp w fast lopt ide s = _
  simp only [execCxlLinkUp, State.run_next, hmay, hlink', hlanes, Bool.not_true, Bool.or_self, Bool.false_eq_true, if_false]
  rfl

variable (hlink : s.dev.host.link = true)
include hlink

/-- The link's loss is flagged; without CXL.cache requests no command ends with it. -/
theorem exec_cxlLinkDown (hidle : s.dev.host.cacheReqs = []) :
    exec .cxlLinkDown s = .next (s.withDev ((s.dev.onHost fun h => { h with link := false, linkReg := 0 }).cxlFlag 0)) := by
  have hlink' : s.mach.dev.host.link = true := hlink
  have hidle' : s.mach.dev.host.cacheReqs = [] := hidle
  show execCxlLinkDown s = _
  simp only [execCxlLinkDown, State.run_next, Mach.cxlDown, Mach.onDev, hlink', hidle', Bool.not_true, Bool.false_eq_true, if_false, List.map_nil, List.foldl_nil]
  rfl

theorem exec_hdmDecoder {n base size : Nat} {on : Bool} (hn : n < 8)
    (hon : on = true → size % 2 ^ 28 = 0 ∧ 2 ^ 28 ≤ size ∧ size ≤ 2 ^ 40 ∧ base % 2 ^ 28 = 0) :
    exec (.hdmDecoderEnable n on base size) s = .next (s.withDev (s.dev.onHost fun h =>
      { h with decs := h.decs.put {} n (if on then ⟨true, base, size⟩ else {}) })) := by
  have hlegal : (on && !(size % 2 ^ 28 == 0 && inRange (2 ^ 28) (2 ^ 40) size && base % 2 ^ 28 == 0)) = false := by
    cases on with
    | false => rfl
    | true =>
      obtain ⟨hsize, hlo, hhi, hbase⟩ := hon rfl
      rw [Bool.true_and, Bool.not_eq_false']
      simp only [inRange, Bool.and_eq_true, beq_iff_eq, decide_eq_true_eq]
      exact ⟨⟨hsize, hlo, hhi⟩, hbase⟩
  have hbound : decide (8 ≤ n) = false := decide_eq_false (by omega)
  show execHdmDecoderEnable n on base size s = _
  simp only [execHdmDecoderEnable, State.runDev_next, hlink, hbound, hlegal, Bool.not_true, Bool.or_self, Bool.false_eq_true, if_false]

theorem exec_ideCheckFail : exec .ideCheckFail s = .next (s.withDev (s.dev.cxlFlag 1)) := by
  show execIdeCheckFail s = _
  simp only [execIdeCheckFail, State.runDev_next, hlink, if_true]

theorem exec_hostSnoop : exec .hostSnoop s = .next (s.withDev (s.dev.emit .snoopMiss)) := by
  show execHostSnoop s = _
  simp only [execHostSnoop, State.runDev_next, hlink, if_true]

theorem exec_spdmRequest (req : List Byte) : exec (.spdmRequest req) s = .next { s with mach := { s.mach with
    und := { s.mach.und with spdm := min 4 (Config.spdmSessions s.mach.und.spdm req) }
    dev := s.dev.emit (.doe (Config.spdmAnswer s.mach.und.spdm s.mach.und.meas req)) } } := by
  have hlink' : s.mach.dev.host.link = true := hlink
  show execSpdmRequest req s = _
  simp only [execSpdmRequest, State.run_next, hlink', Bool.not_true, Bool.false_eq_true, if_false]
  rfl

theorem exec_cdatRequest (req : List Byte) : exec (.cdatRequest req) s =
    .next (s.withDev (s.dev.emit (.doe (Config.cdatAnswer (s.dev.pres.hbms + s.dev.pres.lpds * 2 ^ 8) req)))) := by
  show execCdatRequest req s = _
  simp only [execCdatRequest, State.runDev_next, hlink, if_true]

end

/-! ### Blocks of long operations, and the answers of CXL.cache (spec/16 R540, R554, R555, R558) -/

section
variable {s : State} {slot : Nat} {req : CacheReq} (hreq : (s.dev.host.cacheReqs.find? fun q => q.slot == slot) = some req)
include hreq

theorem exec_cxlCacheResponse_failed (data : List Byte) (pm : Nat) :
    exec (.cxlCacheResponse slot false data pm) s = .next (s.withDev (s.dev.cacheFail s.now slot)) := by
  show execCxlCacheResponse slot false data pm s = _
  simp only [execCxlCacheResponse, State.runAt_next, hreq, Bool.not_false, if_true]

/-- An answer of the length asked for reaches the operation that its slot still holds. -/
theorem exec_cxlCacheResponse_answered {o : HOp} {data : List Byte} (pm : Nat)
    (ho : (s.dev.onHost fun h => { h with cacheReqs := h.cacheReqs.erase req }).slotOp slot = some o) (hlen : data.length = req.len) :
    exec (.cxlCacheResponse slot true data pm) s =
      .next (s.withDev ((s.dev.onHost fun h => { h with cacheReqs := h.cacheReqs.erase req }).cacheAnswer s.now o req data pm)) := by
  have hdata : (data ++ List.replicate req.len 0).take req.len = data := List.take_left' hlen
  show execCxlCacheResponse slot true data pm s = _
  simp only [execCxlCacheResponse, State.runAt_next, hreq, ho, hdata, Bool.not_true, Bool.false_eq_true, if_false]

end

/-- Settles O26, command by command; a block goes by its operation's code. -/
theorem hostLinkAndBlocksAct : Obligations.HostLinkAndBlocksAct := by
  unfold Obligations.HostLinkAndBlocksAct
  refine ⟨fun s => ⟨fun w fast lopt ide => exec_cxlLinkUp fast lopt ide, exec_cxlLinkDown, exec_ideCheckFail, ?decoder, ?noDecoder,
    exec_hostSnoop, fun req hlink => exec_spdmRequest hlink req, fun req hlink => exec_cdatRequest hlink req⟩,
    fun s h slot o => ⟨?blocks, fun req data pm hreq => ⟨exec_cxlCacheResponse_failed hreq data pm, fun ho hlen hopc => ⟨?read, ?write⟩⟩⟩⟩
  case decoder => exact fun n base size hlink hn hsize hlo hhi hbase => exec_hdmDecoder hlink hn fun _ => ⟨hsize, hlo, hhi, hbase⟩
  case noDecoder => exact fun n base size hlink hn => exec_hdmDecoder hlink hn nofun
  case blocks =>
    intro ho hrun hgo hasked hsrc
    have ho' : s.mach.dev.handleOp h = some o := ho
    have hgo' : s.mach.dev.opWaits o = false := hgo
    have hasked' : (s.mach.dev.host.cacheReqs.any fun q => q.slot == o.slot) = false := hasked
    have hst : (o.st == .running) = true := beq_iff_eq.2 hrun
    have start (bad : List (Nat × Nat)) : exec (.longOpBlockDone h bad) s = execLongOpBlockDone h bad s := rfl
    simp only [execLongOpBlockDone, State.run_next, ho', hst, hgo', hasked', hsrc, Bool.true_or, Bool.not_true, Bool.false_and, Bool.or_self,
      Bool.false_eq_true, if_false] at start
    refine ⟨fun bad hopc => (start bad).trans ?copy, fun bad hopc => (start bad).trans ?table, fun bad hopc htotal => (start bad).trans ?tile,
      fun bad hopc => (start bad).trans ?scrub, fun bad hopc => (start bad).trans ?erase⟩
    case tile => simp only [hopc, htotal, if_false]; rfl
    case scrub => simp only [hopc]
    all_goals simp only [hopc]; rfl
  case read =>
    intro hread
    rw [exec_cxlCacheResponse_answered hreq pm ho hlen]
    simp only [Dev.cacheAnswer, hopc, hread, Bool.false_eq_true, if_false]
    rfl
  case write =>
    intro hwrite
    rw [exec_cxlCacheResponse_answered hreq pm ho hlen]
    simp only [Dev.cacheAnswer, hopc, hwrite, if_true]
    rfl

/-! ### Power and pins (spec/17 R569 to R572, spec/20 R654) -/

section
variable {s : State}

theorem exec_vinInRange (hoff : s.mach.und.st = .off) : exec .vinInRange s = .next (s.withMach
    (({ s.mach with und := { s.mach.und.bare true with meas := measureNone s.fuse } } : Mach).fuseRegs s.fuse).startRails) := by
  show execVinInRange s = _
  rw [execVinInRange, State.run_next, if_neg (not_not.2 hoff)]

theorem exec_vinOutOfRange (hon : s.mach.und.st ≠ .off) : exec .vinOutOfRange s = .next (s.withMach ⟨s.mach.nv.breakFlash, s.mach.und.bare false,
    { host := { link := false, linkReg := 0 }, fresh := s.mach.dev.fresh, out := s.mach.dev.out }⟩) := by
  show execVinOutOfRange s = _
  rw [execVinOutOfRange, State.run_next, if_neg hon]

theorem exec_pwrEnFall_run (hrun : s.mach.und.st = .run) :
    exec .pwrEnFall s = .next (s.withMach (({ s.mach with und := { s.mach.und with pwrEn := false } } : Mach).startDrain .pwrEn)) := by
  show execPwrEnFall s = _
  simp only [execPwrEnFall, State.run_next, hrun]

/-- Elsewhere the rails go down, but in OFF, where none is up, and in DRAIN, which comes to an end first. -/
theorem exec_pwrEnFall_elsewhere (hoff : s.mach.und.st ≠ .off) (hrun : s.mach.und.st ≠ .run) (hdrain : s.mach.und.st ≠ .drain) :
    exec .pwrEnFall s = .next (s.withMach ({ s.mach with und := { s.mach.und with pwrEn := false } } : Mach).toUnderstory) := by
  show execPwrEnFall s = _
  rw [execPwrEnFall, State.run_next]
  dsimp only
  split
  · contradiction
  · contradiction
  · contradiction
  · rfl

theorem exec_rstNLow (hon : s.mach.und.st ≠ .off) :
    exec .rstNLow s = .next (s.withMach ({ s.mach with und := { s.mach.und with rstN := false } } : Mach).toUnderstory) := by
  show execRstNLow s = _
  rw [execRstNLow, State.run_next]
  exact congrArg (fun m => Host.Outcome.next (s.withMach m)) (if_neg hon)

section
variable (hund : s.mach.und.st = .understory) (hlo : 1 ≤ s.mach.und.rails) (hhi : s.mach.und.rails ≤ 5)
include hund hlo hhi

/-- A rail is awaited while the first five come up (R572). -/
theorem Mach.rails_awaited : ¬(s.mach.und.st ≠ .understory ∨ s.mach.und.rails = 0 ∨ 6 ≤ s.mach.und.rails) := by
  rintro (h | h | h)
  · exact h hund
  · omega
  · omega

theorem exec_railPowerGood : exec .railPowerGood s = .next (s.withMach (
    if s.mach.und.rails = 5 then s.mach.railsDone
    else { s.mach with und := { s.mach.und with rails := s.mach.und.rails + 1, railAt := s.mach.und.now } })) := by
  show execRailPowerGood s = _
  rw [execRailPowerGood, State.run_next, if_neg (Mach.rails_awaited hund hlo hhi)]

theorem exec_railPgTimeout :
    exec .railPgTimeout s = .next (s.withMach ((s.later (s.mach.und.railAt + 5 * msT) s.mach.dev).mach.faultHold 4)) := by
  show execRailPgTimeout s = _
  rw [execRailPgTimeout, State.run_next, if_neg (Mach.rails_awaited hund hlo hhi)]
  rfl

end

theorem exec_railFault (hup : s.mach.und.st = .boot ∨ s.mach.und.st = .memtrain ∨ s.mach.und.st = .linkup ∨ s.mach.und.st = .run ∨
    s.mach.und.st = .drain ∨ s.mach.und.st = .recovery) : exec .railFault s = .next (s.withMach (s.mach.faultHold 4)) := by
  show execRailFault s = _
  obtain h | h | h | h | h | h := hup
  all_goals simp only [execRailFault, State.run_next, h]

end

/-- Settles O54, pin by pin. -/
theorem powerAndPinsAct : Obligations.PowerAndPinsAct := by
  unfold Obligations.PowerAndPinsAct
  intro s
  refine ⟨exec_vinInRange, exec_vinOutOfRange, rfl, rfl, exec_pwrEnFall_run, exec_pwrEnFall_elsewhere, exec_rstNLow,
    fun hund hlo hhi => ?next, fun hund hlast hcool => ?boot, fun hund hlast hhot => ?hot, fun hund hlo hhi => exec_railPgTimeout hund hlo hhi,
    exec_railFault⟩
  case next => rw [exec_railPowerGood hund hlo (by omega), if_neg (by omega)]
  case boot =>
    rw [exec_railPowerGood hund (by omega) (by omega), if_pos hlast, Mach.railsDone, if_neg (Bool.eq_false_iff.1 hcool)]
  case hot => rw [exec_railPowerGood hund (by omega) (by omega), if_pos hlast, Mach.railsDone, if_pos hhot]

/-! ### From BOOT to RUN, and DRAIN (spec/17 R582, R588 to R595) -/

section
variable {s : State}

/-- BOOT goes on with the cause that the image's check finds, 1 where the flash did not answer (R582, R588). -/
theorem exec_imageReadComplete (hboot : s.mach.und.st = .boot) (ok : Bool) {c : Nat}
    (hc : (if ok then imgCause s.mach.nv.img s.fuse s.fuse.part else 1) = c) : exec (.imageReadComplete ok) s = .next (s.withMach (
    if c ≠ 0 then { s.mach.enterRecovery c with und := { (s.mach.enterRecovery c).und with meas := measureNone s.fuse } }
    else s.mach.adoptImage s.fuse 0)) := by
  subst hc
  show execImageReadComplete ok s = _
  rw [execImageReadComplete, State.run_next, if_neg (not_not.2 hboot)]

theorem exec_memtrainComplete (htrain : s.mach.und.st = .memtrain) (cf sf : Nat) (quals : List Nat) (pf : Nat) :
    exec (.memtrainComplete cf sf quals pf) s =
      .next (s.withMach ((s.mach.trained s.fuse.built cf sf quals).afterTrain s.fuse.built.ports pf)).tryRun := by
  show execMemtrainComplete cf sf quals pf s = _
  rw [execMemtrainComplete, State.runThen, if_neg (not_not.2 htrain)]
  rfl

section
variable {m : Mach} {ports pf : Nat}

theorem Mach.afterTrain_noCluster (h : m.dev.pres.clusters = 0) : m.afterTrain ports pf = m.faultHold 1 := by
  rw [Mach.afterTrain, if_pos h]

variable (hclu : m.dev.pres.clusters ≠ 0)
include hclu

theorem Mach.afterTrain_noStack (h : m.dev.pres.hbms = 0) : m.afterTrain ports pf = m.faultHold 2 := by
  rw [Mach.afterTrain, if_neg hclu, if_pos h]

variable (hhbm : m.dev.pres.hbms ≠ 0)
include hhbm

theorem Mach.afterTrain_badConf {f : Fail} (h : m.dev.checkBoot (Conf.ofImage m.image) ports = some f) :
    m.afterTrain ports pf = ({ m with und := { m.und with cfgFailAt := f.at_, cfgFailKind := f.kind } } : Mach).faultHold 3 := by
  rw [Mach.afterTrain, if_neg hclu, if_neg hhbm, h]

theorem Mach.afterTrain_good (h : m.dev.checkBoot (Conf.ofImage m.image) ports = none) :
    m.afterTrain ports pf = ({ m with dev := m.dev.bootImage m.und.now m.image } : Mach).enterLinkup pf := by
  rw [Mach.afterTrain, if_neg hclu, if_neg hhbm, h]
  rfl

end

theorem exec_linkupWaitExpire_try (hlink : s.mach.und.st = .linkup) (id : Bool) : exec (.linkupWaitExpire id) s =
    .next (s.later (s.mach.und.stateAt + s.mach.dev.cfgF .UND_LINKCFG [] (if id then 16 else 0) 16 * msT) s.mach.dev).tryRun := by
  show execLinkupWaitExpire id s = _
  rw [execLinkupWaitExpire, State.runThen, if_neg (not_not.2 hlink)]
  rfl

theorem exec_moduleDrainTimeout (hdrain : s.mach.und.st = .drain) {t : Nat} (ht : t = s.mach.und.stateAt + s.mach.dev.cfgF .UND_LINKCFG [] 32 16 * msT) :
    exec .moduleDrainTimeout s = .next (s.later t (s.mach.dev.cancelAll (max s.mach.und.now t))) := by
  subst ht
  show execModuleDrainTimeout s = _
  rw [execModuleDrainTimeout, State.run_next, if_neg (not_not.2 hdrain)]
  rfl

/-- The end of DRAIN, once nothing is in progress: the ports are down, and the module goes where the drain leads. -/
theorem exec_moduleDrainEnd (hdrain : s.mach.und.st = .drain) (hquiet : s.mach.dev.allQuiet = true) {e : Mach}
    (he : e = s.mach.onDev fun d => (List.range 36).foldl (fun d n => d.modPort n fun _ => {}) d) :
    (s.mach.und.drainTo = some .reboot → exec .moduleDrainEnd s = .next (s.withMach e.enterBoot)) ∧
    (s.mach.und.drainTo = some .shutdown → exec .moduleDrainEnd s = .next (s.withMach e.toUnderstory)) ∧
    (s.mach.und.drainTo = some .pwrEn → exec .moduleDrainEnd s = .next (s.withMach e.toUnderstory.startRails)) ∧
    (s.mach.und.drainTo = some .recover → exec .moduleDrainEnd s = .next (s.withMach
      { e.enterRecovery 8 with und := { (e.enterRecovery 8).und with meas := measureNone s.fuse } })) := by
  have hto : e.und.drainTo = s.mach.und.drainTo := he ▸ rfl
  have hgo : ¬(s.mach.und.st ≠ .drain ∨ (!s.mach.dev.allQuiet) = true) := by
    rintro (h | h)
    · exact h hdrain
    · rw [hquiet] at h
      exact Bool.false_ne_true h
  have start : exec .moduleDrainEnd s = execModuleDrainEnd s := rfl
  rw [execModuleDrainEnd, State.run_next, if_neg hgo] at start
  simp only [← he] at start
  refine ⟨fun h => ?_, fun h => ?_, fun h => ?_, fun h => ?_⟩
  all_goals
    rw [start, hto, h]

end

/-- Settles O55, state by state. -/
theorem moduleStatesAct : Obligations.ModuleStatesAct := by
  unfold Obligations.ModuleStatesAct
  intro s
  refine ⟨fun hboot => ⟨fun hgood => ?good, fun c hbad hc => ?bad, ?silent⟩, fun htrain cf sf quals pf => ?train,
    exec_linkupWaitExpire_try, fun hready => if_pos hready, fun hwait => if_neg (Bool.eq_false_iff.1 hwait), fun hrun => ?ctl,
    fun hdrain => exec_moduleDrainTimeout hdrain rfl, fun hdrain hquiet => exec_moduleDrainEnd hdrain hquiet rfl⟩
  case good => exact (exec_imageReadComplete hboot true hgood).trans (by rw [if_neg (not_not.2 rfl)])
  case bad => exact (exec_imageReadComplete hboot true hc).trans (by rw [if_pos hbad])
  case silent => exact (exec_imageReadComplete hboot false (c := 1) rfl).trans (by rw [if_pos Nat.one_ne_zero])
  case train =>
    rw [exec_memtrainComplete htrain]
    refine ⟨fun hclu => ?_, fun hclu hhbm => ?_, fun f hclu hhbm hconf => ?_, fun hclu hhbm hconf => ?_⟩
    · rw [Mach.afterTrain_noCluster hclu]
    · rw [Mach.afterTrain_noStack hclu hhbm]
    · rw [Mach.afterTrain_badConf hclu hhbm hconf]
    · rw [Mach.afterTrain_good hclu hhbm hconf]
  case ctl =>
    obtain ⟨-, -, -, hshutdown, hreboot, hrecover, -⟩ := undCtlPriority s 0
    rw [hshutdown, hreboot, hrecover, Mach.undCtl_run hrun, Mach.undCtl_run hrun, Mach.undCtl_run hrun]
    exact ⟨rfl, rfl, rfl⟩

/-! ### The recovery mailbox (spec/17 R584 to R587) -/

/-- The mailbox's registers and storage replaced. -/
def Mach.putRcv (m : Mach) (x : Rcv) : Mach := m.onUnd fun u => { u with rcv := x }

theorem Mach.onRcv_putRcv (m : Mach) (x : Rcv) (f : Rcv → Rcv) : (m.putRcv x).onRcv f = m.putRcv (f x) := rfl

theorem Mach.onRcv_eq (m : Mach) (f : Rcv → Rcv) : m.onRcv f = m.putRcv (f m.und.rcv) := rfl

section
variable {m : Mach} {f : Mach → Mach}

theorem Mach.mailbox_idle (hrcv : m.und.st = .recovery) (hidle : m.und.rcv.busy = 0) : m.mailbox f = f m := by
  rw [Mach.mailbox, if_neg (not_not.2 hrcv), if_neg (not_not.2 hidle)]

theorem Mach.mailbox_busy (hrcv : m.und.st = .recovery) (hbusy : m.und.rcv.busy ≠ 0) :
    m.mailbox f = m.putRcv { m.und.rcv with status := eBusy } := by
  rw [Mach.mailbox, if_neg (not_not.2 hrcv), if_pos hbusy]
  rfl

theorem Mach.mailbox_elsewhere (h : m.und.st ≠ .recovery) : m.mailbox f = m := by
  rw [Mach.mailbox, if_pos h]

end

/-- An argument that CHUNK takes (R585). -/
abbrev legalArg (v : Word) : Prop :=
  bitsOf v.toNat 27 5 = 0 ∧ v.toNat < 2 ^ 48 ∧ 1 ≤ bitsOf v.toNat 32 16 ∧ bitsOf v.toNat 32 16 ≤ 32768

theorem Mach.rcvArg_legal {v : Word} (h : legalArg v) (m : Mach) : m.rcvArg v = m.putRcv { m.und.rcv with arg := v } := by
  obtain ⟨hres, hlt, hlo, hhi⟩ := h
  have hno : (bitsOf v.toNat 27 5 != 0 || decide (2 ^ 48 ≤ v.toNat) || !inRange 1 32768 (bitsOf v.toNat 32 16)) = false := by
    simp only [inRange, Bool.or_eq_false_iff, bne_eq_false_iff_eq, decide_eq_false_iff_not, Bool.not_eq_false', Bool.and_eq_true,
      decide_eq_true_eq, not_le]
    exact ⟨⟨hres, hlt⟩, hlo, hhi⟩
  rw [Mach.rcvArg, hno, if_neg Bool.false_ne_true, Mach.onRcv_eq]

theorem Mach.rcvArg_illegal {v : Word} (h : ¬legalArg v) (m : Mach) : m.rcvArg v = m.onDev fun d => d.bump .TEL_REGERR := by
  have hyes : (bitsOf v.toNat 27 5 != 0 || decide (2 ^ 48 ≤ v.toNat) || !inRange 1 32768 (bitsOf v.toNat 32 16)) = true := by
    by_contra hno
    rw [Bool.not_eq_true] at hno
    simp only [inRange, Bool.or_eq_false_iff, bne_eq_false_iff_eq, decide_eq_false_iff_not, Bool.not_eq_false', Bool.and_eq_true,
      decide_eq_true_eq, not_le] at hno
    exact h ⟨hno.1.1, hno.1.2, hno.2.1, hno.2.2⟩
  rw [Mach.rcvArg, if_pos hyes]

theorem Mach.rcvArg_mailbox (m : Mach) (v : Word) : (m.rcvArg v).und.st = m.und.st ∧ (m.rcvArg v).und.rcv.busy = m.und.rcv.busy := by
  unfold Mach.rcvArg
  split <;> exact ⟨rfl, rfl⟩

section
variable {s : State}

theorem exec_rcvWindowWrite_dropped {off : Nat} {bs : List Byte}
    (h : s.mach.und.st ≠ .recovery ∨ s.mach.und.rcv.busy ≠ 0 ∨ 0x200000 < off + bs.length) : exec (.rcvWindowWrite off bs) s = .next s := by
  show execRcvWindowWrite off bs s = _
  rw [execRcvWindowWrite, State.run_next, if_pos h]
  rfl

theorem exec_rcvWindowWrite_taken {off : Nat} {bs : List Byte} (hrcv : s.mach.und.st = .recovery) (hidle : s.mach.und.rcv.busy = 0)
    (hin : off + bs.length ≤ 0x200000) : exec (.rcvWindowWrite off bs) s = .next (s.withMach (s.mach.putRcv { s.mach.und.rcv with
      window := (List.range bs.length).foldl (fun w i => SMap.put 0 w (off + i) (bs.getD i 0)) s.mach.und.rcv.window })) := by
  show execRcvWindowWrite off bs s = _
  have hgo : ¬(s.mach.und.st ≠ .recovery ∨ s.mach.und.rcv.busy ≠ 0 ∨ 0x200000 < off + bs.length) := by
    rintro (h | h | h)
    · exact h hrcv
    · exact h hidle
    · omega
  rw [execRcvWindowWrite, State.run_next, if_neg hgo]
  rfl

end

/-- CHUNK, once its argument is there: checked, then the window goes to the staged image (R585). -/
def Rcv.chunk (r : Rcv) : Rcv :=
  let at_ := bitsOf r.arg.toNat 0 27
  let len := bitsOf r.arg.toNat 32 16
  if at_ % 64 ≠ 0 then { r with status := eAlign }
  else if imgMax < at_ + 64 * len then { r with status := eRange }
  else { r with status := sOk, verified := false,
                staged := (List.range (64 * len)).foldl (fun m i => SMap.put 0 m (at_ + i) (SMap.get 0 r.window i)) r.staged }

theorem refusal_align_range (a b : Bool) : refusal [(a, eAlign), (b, eRange)] = if a then eAlign else if b then eRange else sOk := by
  cases a <;> cases b <;> rfl

section
variable {s : State}

theorem exec_rcvChunk (hrcv : s.mach.und.st = .recovery) (arg : Word) :
    exec (.rcvChunk arg) s = .next (s.withMach ((s.mach.rcvArg arg).mailbox fun m => m.onRcv Rcv.chunk)) := by
  show execRcvChunk arg s = _
  rw [execRcvChunk, State.run_next, if_neg (not_not.2 hrcv)]
  refine congrArg (fun f => Host.Outcome.next (s.withMach ((s.mach.rcvArg arg).mailbox f))) (funext fun m => ?_)
  simp only [Mach.onRcv_eq, Rcv.chunk, refusal_align_range, decide_eq_true_eq, bne_iff_ne]
  by_cases halign : bitsOf m.und.rcv.arg.toNat 0 27 % 64 ≠ 0
  · rw [if_pos halign, if_pos halign]
    rfl
  rw [if_neg halign, if_neg halign]
  by_cases hrange : imgMax < bitsOf m.und.rcv.arg.toNat 0 27 + 64 * bitsOf m.und.rcv.arg.toNat 32 16
  · rw [if_pos hrange, if_pos hrange]
    rfl
  · rw [if_neg hrange, if_neg hrange]
    rfl

theorem exec_rcvChunk_idle (hrcv : s.mach.und.st = .recovery) (hidle : s.mach.und.rcv.busy = 0) (arg : Word) :
    exec (.rcvChunk arg) s = .next (s.withMach ((s.mach.rcvArg arg).onRcv Rcv.chunk)) := by
  obtain ⟨hst, hbusy⟩ := s.mach.rcvArg_mailbox arg
  rw [exec_rcvChunk hrcv, Mach.mailbox_idle (hst.trans hrcv) (hbusy.trans hidle)]

theorem exec_rcvChunk_busy (hrcv : s.mach.und.st = .recovery) (hbusy : s.mach.und.rcv.busy ≠ 0) (arg : Word) :
    exec (.rcvChunk arg) s = .next (s.withMach ((s.mach.rcvArg arg).onRcv fun r => { r with status := eBusy })) := by
  obtain ⟨hst, hsame⟩ := s.mach.rcvArg_mailbox arg
  rw [exec_rcvChunk hrcv, Mach.mailbox_busy (hst.trans hrcv) (hsame ▸ hbusy), Mach.onRcv_eq]

theorem exec_rcvVerify (hrcv : s.mach.und.st = .recovery) (hidle : s.mach.und.rcv.busy = 0) :
    exec .rcvVerify s = .next (s.withMach (
      if imgCause s.mach.und.rcv.img s.fuse s.fuse.part = 0 then s.mach.putRcv { s.mach.und.rcv with verified := true, status := sOk }
      else s.mach.onUnd fun u => { u with rcv := { u.rcv with verified := false, status := eArg },
                                          rcvCause := imgCause s.mach.und.rcv.img s.fuse s.fuse.part })) := by
  show execRcvVerify s = _
  rw [execRcvVerify, State.run_next, Mach.mailbox_idle hrcv hidle]
  rfl

theorem exec_rcvBoot (hrcv : s.mach.und.st = .recovery) (hidle : s.mach.und.rcv.busy = 0) :
    exec .rcvBoot s = .next (s.withMach (
      if s.mach.und.rcv.verified = true then (s.mach.putRcv { s.mach.und.rcv with status := sOk }).adoptImage s.fuse 1
      else s.mach.putRcv { s.mach.und.rcv with status := eState })) := by
  show execRcvBoot s = _
  rw [execRcvBoot, State.run_next, Mach.mailbox_idle hrcv hidle]
  cases s.mach.und.rcv.verified <;> rfl

theorem exec_rcvFlash (hrcv : s.mach.und.st = .recovery) (hidle : s.mach.und.rcv.busy = 0) :
    exec .rcvFlash s = .next (s.withMach (
      if s.mach.und.rcv.verified = true then
        { s.mach.putRcv { s.mach.und.rcv with busy := 4 } with nv := { s.mach.nv with flashBusy := true } }
      else s.mach.putRcv { s.mach.und.rcv with status := eState })) := by
  show execRcvFlash s = _
  rw [execRcvFlash, State.run_next, Mach.mailbox_idle hrcv hidle]
  cases s.mach.und.rcv.verified <;> rfl

/-- The end of FLASH: what reads back as written, and passes its check, is booted (R586). -/
theorem exec_rcvFlashComplete (hrcv : s.mach.und.st = .recovery) (hbusy : s.mach.und.rcv.busy = 4) (good : Bool) {n : Nv}
    (hn : n = if good = true then s.mach.nv.flashImage s.mach.und.rcv.img else s.mach.nv.breakFlash) :
    exec (.rcvFlashComplete good) s = .next (s.withMach (
      if good = true ∧ imgCause n.img s.fuse s.fuse.part = 0 then
        (({ s.mach with nv := n } : Mach).onRcv fun r => { r with busy := 0, status := sOk }).adoptImage s.fuse 2
      else ({ s.mach with nv := n } : Mach).onRcv fun r => { r with busy := 0, status := eFault })) := by
  have hgo : ¬(s.mach.und.st ≠ .recovery ∨ s.mach.und.rcv.busy ≠ 4) := by simp [hrcv, hbusy]
  subst hn
  show execRcvFlashComplete good s = _
  rw [execRcvFlashComplete, State.run_next, if_neg hgo]
  refine congrArg (fun m => Host.Outcome.next (s.withMach m)) (if_congr ?_ rfl rfl)
  rw [Bool.and_eq_true, beq_iff_eq]

/-- A command while one runs (R585). -/
theorem exec_mailbox_busy (hrcv : s.mach.und.st = .recovery) (hbusy : s.mach.und.rcv.busy ≠ 0) :
    exec .rcvVerify s = .next (s.withMach (s.mach.putRcv { s.mach.und.rcv with status := eBusy })) ∧
    exec .rcvBoot s = .next (s.withMach (s.mach.putRcv { s.mach.und.rcv with status := eBusy })) ∧
    exec .rcvFlash s = .next (s.withMach (s.mach.putRcv { s.mach.und.rcv with status := eBusy })) := by
  refine ⟨?verify, ?boot, ?flash⟩
  case verify => exact congrArg (fun m => Host.Outcome.next (s.withMach m)) (Mach.mailbox_busy hrcv hbusy)
  case boot => exact congrArg (fun m => Host.Outcome.next (s.withMach m)) (Mach.mailbox_busy hrcv hbusy)
  case flash => exact congrArg (fun m => Host.Outcome.next (s.withMach m)) (Mach.mailbox_busy hrcv hbusy)

end

/-- Settles O56: with the mailbox idle, with FLASH or a command running, and outside RECOVERY. -/
theorem recoveryMailboxActs : Obligations.RecoveryMailboxActs := by
  unfold Obligations.RecoveryMailboxActs
  intro s off bs arg good
  refine ⟨fun hrcv hidle => ⟨?window, ?chunk, ?verify, ?boot, ?flash⟩, fun hrcv hbusy => ?complete, fun hrcv hbusy => ?busy, fun helse => ?elsewhere⟩
  case verify => exact exec_rcvVerify hrcv hidle
  case boot => exact exec_rcvBoot hrcv hidle
  case flash => exact exec_rcvFlash hrcv hidle
  case complete => exact exec_rcvFlashComplete hrcv hbusy good rfl
  case window =>
    by_cases hin : off + bs.length ≤ 0x200000
    · rw [exec_rcvWindowWrite_taken hrcv hidle hin, if_pos hin]
      rfl
    · rw [exec_rcvWindowWrite_dropped (.inr (.inr (not_le.1 hin))), if_neg hin]
      rfl
  case chunk =>
    rw [exec_rcvChunk_idle hrcv hidle]
    by_cases hlegal : legalArg arg
    · simp only [if_pos hlegal, Mach.rcvArg_legal hlegal, Mach.onRcv_putRcv]
      rfl
    · simp only [if_neg hlegal, Mach.rcvArg_illegal hlegal, Mach.onRcv_eq]
      rfl
  case busy =>
    obtain ⟨hverify, hboot, hflash⟩ := exec_mailbox_busy hrcv hbusy
    refine ⟨exec_rcvWindowWrite_dropped (.inr (.inl hbusy)), hverify, hboot, hflash, fun hlegal => ?_⟩
    rw [exec_rcvChunk_busy hrcv hbusy, Mach.rcvArg_legal hlegal]
    rfl
  case elsewhere =>
    intro c hc
    simp only [List.mem_cons, List.not_mem_nil, or_false] at hc
    obtain rfl | rfl | rfl | rfl | rfl | rfl := hc
    · exact exec_rcvWindowWrite_dropped (.inl helse)
    · exact congrArg (fun m => Host.Outcome.next (s.withMach m)) (if_pos helse)
    · exact congrArg (fun m => Host.Outcome.next (s.withMach m)) (Mach.mailbox_elsewhere helse)
    · exact congrArg (fun m => Host.Outcome.next (s.withMach m)) (Mach.mailbox_elsewhere helse)
    · exact congrArg (fun m => Host.Outcome.next (s.withMach m)) (Mach.mailbox_elsewhere helse)
    · exact congrArg (fun m => Host.Outcome.next (s.withMach m)) (if_pos (.inl helse))

/-! ### Scrubbing, watchdogs, fault windows and the map-out record (spec/18 R613 to R617, R620, R622) -/

section
variable {s : State}

theorem exec_patrolScrubRead_ext {res a u b : Nat} (hserves : s.mach.und.st.serves = true) (hon : s.mach.dev.cfgF .UND_SCRUB [] 0 8 ≠ 0)
    (hnext : s.mach.dev.scrubNext s.mach.dev.tel.scrubAt = some a) (hgo : s.mach.dev.scrubWaits a = false) {e : Dev}
    (he : e = s.mach.dev.onTel fun t => { t with scrubAt := a + 64 }) (ht : e.target a = .ext u b) (hodd : a % 128 ≠ 0) :
    exec (.patrolScrubRead res .none) s = .next (s.withMach (({ s.mach with dev := e.memBytes u e.maintPart 64 } : Mach).decodeAt u b a res)) := by
  subst he
  have hon' : (s.mach.dev.cfgF .UND_SCRUB [] 0 8 == 0) = false := beq_eq_false_iff_ne.2 hon
  have ht' : (s.mach.onDev fun d => d.onTel fun t => { t with scrubAt := a + 64 }).dev.target a = .ext u b := ht
  have hdet : (Det.none == Det.twice .understory) = false := rfl
  show execPatrolScrubRead res .none s = _
  simp only [execPatrolScrubRead, State.run_next, hdet, hserves, hon', hnext, hgo, ht', hodd, Bool.false_and, Bool.not_true, Bool.or_self,
    Bool.false_eq_true, if_false]
  rfl

theorem exec_patrolScrubRead_understory {res : Nat} (hoff : s.mach.und.st ≠ .off) (hund : s.mach.und.st ≠ .understory)
    (hhold : s.mach.und.st ≠ .faultHold) : exec (.patrolScrubRead res (.twice .understory)) s = .next (s.withMach (s.mach.faultHold 7)) := by
  show execPatrolScrubRead res (.twice .understory) s = _
  rw [execPatrolScrubRead, State.run_next]
  refine congrArg (fun m => Host.Outcome.next (s.withMach m)) (if_pos ?_)
  simp [hoff, hund, hhold]

/-- A core whose sequencer stayed in M too long: its job ends, it is recorded, started again, and the fault counted (R615). -/
theorem exec_kernelWatchdogExpire {c : Nat} (hhere : s.mach.dev.coreHere c = true) (hon : (s.mach.dev.clu (cluOfCore c)).pst = 0)
    (hm : (s.mach.dev.core c).sq.user = false) (hrun : (s.mach.dev.core c).sq.gated = none) {now : Nat}
    (hnow : now = max s.mach.und.now ((s.mach.dev.core c).sq.mAt + s.mach.dev.cfgF .UND_FLTCFG [] 40 8 * msT)) {e : Dev}
    (he : e = (s.mach.dev.modSq c fun q => { q with mb := [] }).l1Clear c) {t : Mach}
    (ht : t = (s.later now ((match s.mach.dev.lastJob c with | some j => e.endJob now j .watchdog | none => e).bump .CORE_KWDOG [c])).mach.event
      0x0304 2 (evUnit 1 c) ((s.mach.dev.lastJob c).getD 0 % 4096)) :
    exec (.kernelWatchdogExpire c) s = .next (s.withMach (({ t with dev := t.dev.restartSeq now c } : Mach).countFault c)) := by
  have hgo : (!s.mach.dev.coreHere c || (s.mach.dev.clu (cluOfCore c)).pst != 0 || (s.mach.dev.core c).sq.user ||
      (s.mach.dev.core c).sq.gated.isSome) = false := by
    simp [hhere, hon, hm, hrun]
  show execKernelWatchdogExpire c s = _
  simp only [execKernelWatchdogExpire, State.run_next, hgo, Bool.false_eq_true, if_false]
  have hlater (d : Dev) : s.later now d = s.later ((s.mach.dev.core c).sq.mAt + s.mach.dev.cfgF .UND_FLTCFG [] 40 8 * msT) d := by
    rw [hnow]
    exact State.later_max ..
  rw [ht, hlater, he, hnow]
  rfl

theorem exec_remoteMonitorAge {n i : Nat} {o : Mon} (hi : s.mach.dev.sync.mons.findIdx? (Mon.farAt n) = some i)
    (ho : s.mach.dev.sync.mons[i]? = some o) : exec (.remoteMonitorAge n) s =
      .next (s.later (o.at_ + s.mach.dev.cfgF .UND_FLTCFG [] 48 16 * 1000 * msT)
        ((s.mach.dev.onSync fun x => { x with mons := x.mons.eraseIdx i }).bump .SFX_MONFREE)) := by
  show execRemoteMonitorAge n s = _
  simp only [execRemoteMonitorAge, State.run_next, hi, ho, Option.map_some, Option.getD_some]
  rfl

theorem exec_faultWindowEnd {u t : Nat} {r : List Nat} (h : SMap.get [] s.mach.dev.fltWin.seen u = t :: r) :
    exec (.faultWindowEnd u) s = .next (s.later (t + s.mach.dev.cfgF .UND_FLTCFG [] 8 16 * 1000 * msT)
      { s.mach.dev with fltWin := ⟨s.mach.dev.fltWin.seen.put [] u []⟩ }) := by
  show execFaultWindowEnd u s = _
  simp only [execFaultWindowEnd, State.run_next, h, List.head?_cons]
  rfl

theorem exec_mapoutRecordWrite (hoff : s.mach.und.st ≠ .off) (hnew : s.mach.und.newOut ≠ {}) :
    exec .mapoutRecordWrite s = .next (s.withMach
      { s.mach with nv := { s.mach.nv with mapOut := s.mach.nv.mapOut.or s.mach.und.newOut }, und := { s.mach.und with newOut := {} } }) := by
  show execMapoutRecordWrite s = _
  rw [execMapoutRecordWrite, State.run_next, if_neg (not_or.2 ⟨hoff, hnew⟩)]

theorem exec_mrecClear (hoff : s.mach.und.st ≠ .off) : exec .mrecClear s = .next (s.withMach s.mach.mrecClear) := by
  show execMrecClear s = _
  rw [execMrecClear, State.run_next, if_neg hoff]

end

/-- Settles O57, service by service. -/
theorem faultServicesAct : Obligations.FaultServicesAct := by
  unfold Obligations.FaultServicesAct
  intro s
  refine ⟨fun res a u b hserves hon hnext hgo ht hodd => ?scrub, fun res => exec_patrolScrubRead_understory,
    fun c hhere hon hm hrun => ?watchdog, fun n i o => exec_remoteMonitorAge, fun u t r => exec_faultWindowEnd,
    exec_mapoutRecordWrite, exec_mrecClear⟩
  case scrub => exact exec_patrolScrubRead_ext hserves hon hnext hgo rfl ht hodd
  case watchdog => exact exec_kernelWatchdogExpire hhere hon hm hrun rfl rfl rfl

/-! ### Sensors, rail power and the power cap (spec/19 R635 to R638, spec/20 R662, R663) -/

section
variable {v mean l : Nat} {warm : Bool}

/-- Above CAP_W the level rises, to 7 at most (R638). -/
theorem capNext_above (hon : bitAt v 0 = true) (h : bitsOf v 1 11 * 10 < mean) : capNext v mean l warm = min 7 (l + 1) := by
  simp only [capNext, hon, Bool.not_true, Bool.false_eq_true, if_false, if_pos h]

/-- Below 15/16 of CAP_W, with no sensor warm, the level falls, and one of 0 stays. -/
theorem capNext_below (hon : bitAt v 0 = true) (h : mean * 16 < bitsOf v 1 11 * 10 * 15) : capNext v mean l false = l - 1 := by
  have hnot : ¬bitsOf v 1 11 * 10 < mean := by omega
  simp only [capNext, hon, Bool.not_true, Bool.false_eq_true, if_false, if_neg hnot, h, decide_true, Bool.true_and, bne_iff_ne]
  split
  case isTrue => rfl
  case isFalse hl => omega

theorem capNext_le (hl : l ≤ 7) : capNext v mean l warm ≤ 7 := by
  simp only [capNext]
  split_ifs <;> omega

end

section
variable {s : State}

theorem exec_sensorRead (hoff : s.mach.und.st ≠ .off) {temps : List Nat} {m0 m : Mach}
    (h0 : m0 = (s.later (roundUp s.now (100 * usT)) s.dev).mach)
    (hm : m = (List.range 17).foldl (fun m i => m.takeSensor (m0.sensorNow temps i) i) m0) :
    exec (.sensorRead temps) s = .next (s.withMach
      (if m.und.st = .understory ∧ m.und.rails = 6 ∧ m.und.inletHot = false then m.enterBoot else m)) := by
  show execSensorRead temps s = _
  rw [execSensorRead, State.run_next, if_neg hoff]
  subst hm h0
  simp only [Bool.not_eq_true']
  rfl

theorem exec_powerSample (hoff : s.mach.und.st ≠ .off) (watts : List Nat) :
    exec (.powerSample watts) s = .next (s.withMach ((s.later (roundUp s.now (10 * usT)) s.dev).mach.onUnd fun u => { u with
      power := (List.range 6).foldl (fun p i =>
        p.mod {} i fun x => ⟨(watts.getD i 0 % 65536 :: x.samples).take 100, max x.peak (watts.getD i 0 % 65536)⟩) u.power })) := by
  show execPowerSample watts s = _
  rw [execPowerSample, State.run_next, if_neg hoff]
  rfl

theorem exec_powerCapStep (hoff : s.mach.und.st ≠ .off) {mean l l' : Nat} (hl : l = s.dev.rd .TEL_PCAPST)
    (hl' : l' = capNext (s.dev.cfg .TEL_PCAP) mean l
      ((List.range 17).any fun i => decide (sensorWarn i < (SMap.get {} s.mach.und.sensors i).temp))) :
    exec (.powerCapStep mean) s = .next (s.later (roundUp s.now (100 * usT))
      (if l' = l then s.dev else (s.dev.wr .TEL_PCAPST [] l').bump .TEL_PCAPSTEP)) := by
  show execPowerCapStep mean s = _
  rw [execPowerCapStep, State.run_next, if_neg hoff, hl', hl]
  rfl

theorem exec_capWindow (s : State) :
    exec .capWindow s = .next (s.later (roundUp s.now (2400 * clkT))
      ((if s.dev.tel.capWait = true then s.dev.bump .TEL_PCAPWIN else s.dev).onTel fun t => { t with capUsed := [], capWait := false })) := rfl

end

/-- Settles O58: one lemma per service, and the three facts of the next cap level. -/
theorem sensorsPowerAndCap : Obligations.SensorsPowerAndCap := by
  unfold Obligations.SensorsPowerAndCap
  intro s hoff
  refine ⟨fun temps => exec_sensorRead hoff rfl rfl, exec_powerSample hoff, fun mean => exec_powerCapStep hoff rfl rfl, exec_capWindow s,
    fun v mean l warm hon hl => ⟨capNext_above hon, capNext_below hon, capNext_le hl⟩⟩

/-! ### Latches, margining, traffic generators and the TAP (spec/19 R632, R639 to R643) -/

/-- A state that serves registers takes a write that starts a test service. -/
theorem Mach.telWrite_serves {m : Mach} (h : m.und.st.serves = true) (r : Reg) (ix : List Nat) (v : Nat) :
    m.telWrite r ix v = m.writeReg .priv none (r.off ix) 8 v := by
  rw [Mach.telWrite, h, Bool.true_or, if_pos rfl]

section
variable {s : State}

theorem exec_hlatchGo (h : s.mach.und.st.serves = true) (cls : Nat) :
    exec (.hlatchGo cls) s = .next (s.withMach (s.mach.writeReg .priv none (Reg.off .TEL_HLATCH []) 8 (cls % 256 + 256))) := by
  show execHlatchGo cls s = _
  rw [execHlatchGo, State.run_next, Mach.telWrite_serves h]

theorem exec_marginGo (h : s.mach.und.st.serves = true) (v : Word) :
    exec (.marginGo v) s = .next (s.withMach (s.mach.writeReg .priv none (Reg.off .TEL_MGCTL []) 8 (setBits v.toNat 36 1 1))) := by
  show execMarginGo v s = _
  rw [execMarginGo, State.run_next, Mach.telWrite_serves h]

theorem exec_mtgReadBw (h : s.mach.und.st.serves = true) {g : Nat} (hg : g < 40) (v : Word) : exec (.mtgReadBw g v) s =
    .next (s.withMach (s.mach.writeReg .priv none (Reg.off .TEL_MTG_CTL [g]) 8 (setBits (setBits v.toNat 0 2 1) 5 1 1))) := by
  show execMtgReadBw g v s = _
  rw [execMtgReadBw, State.run_next, if_pos hg, Mach.telWrite_serves h]

theorem exec_mtgWriteCheck (h : s.mach.und.st.serves = true) {g : Nat} (hg : g < 40) (v : Word) : exec (.mtgWriteCheck g v) s =
    .next (s.withMach (s.mach.writeReg .priv none (Reg.off .TEL_MTG_CTL [g]) 8 (setBits (setBits v.toNat 0 2 2) 5 1 1))) := by
  show execMtgWriteCheck g v s = _
  rw [execMtgWriteCheck, State.run_next, if_pos hg, Mach.telWrite_serves h]

theorem exec_ptgLanePrbs (h : s.mach.und.st.serves = true) {n : Nat} (hn : n < 36) (v : Word) : exec (.ptgLanePrbs n v) s =
    .next (s.withMach (s.mach.writeReg .priv none (Reg.off .TEL_PTG_CTL [n]) 8 (setBits (setBits v.toNat 0 2 1) 5 1 1))) := by
  show execPtgLanePrbs n v s = _
  rw [execPtgLanePrbs, State.run_next, if_pos hn, Mach.telWrite_serves h]

theorem exec_ptgFrames (h : s.mach.und.st.serves = true) {n : Nat} (hn : n < 36) (v : Word) : exec (.ptgFrames n v) s =
    .next (s.withMach (s.mach.writeReg .priv none (Reg.off .TEL_PTG_CTL [n]) 8 (setBits (setBits v.toNat 0 2 2) 5 1 1))) := by
  show execPtgFrames n v s = _
  rw [execPtgFrames, State.run_next, if_pos hn, Mach.telWrite_serves h]

theorem exec_hlatchDone (h : s.mach.dev.tel.latchAt ≠ 0) : exec .hlatchDone s = .next (s.later s.mach.dev.tel.latchAt
    ((s.mach.dev.wr .TEL_HLATCH [] (setBits (s.mach.dev.rd .TEL_HLATCH) 9 1 1)).onTel fun t => { t with latchAt := 0 })) := by
  show execHlatchDone s = _
  rw [execHlatchDone, State.run_next, if_neg h]
  rfl

theorem exec_marginDwellEnd {v : Nat} (hv : v = s.mach.dev.rd .TEL_MGCTL) (hbusy : bitAt v 37 = true) (errors bits : Nat) :
    exec (.marginDwellEnd errors bits) s = .next (s.later (s.mach.dev.tel.mgAt + bitsOf v 20 16 * usT)
      (if s.mach.dev.mgHere (bitsOf v 0 2) (bitsOf v 2 11) = true then
        (s.mach.dev.mgScramble (bitsOf v 0 2) (bitsOf v 2 11)).mgEnd sOk errors bits
       else s.mach.dev.mgEnd eState errors bits)) := by
  show execMarginDwellEnd errors bits s = _
  simp only [execMarginDwellEnd, State.run_next, ← hv, hbusy, Bool.not_true, Bool.false_eq_true, if_false]
  rfl

/-- What a memory run leaves when it ends: the units moved, its status and errors, the first granule that failed, and no BUSY. -/
def Dev.mtgEnd (d : Dev) (g units errors firstBad v : Nat) : Dev :=
  let e := d.memBytes g d.maintPart (units * 64)
  let e := (e.wr .TEL_MTG_RES [g] units).wr .TEL_MTG_ERR [g] (errors + (if e.unitHere g = true then sOk else eState) * 2 ^ 32)
  (e.wr .TEL_MTG_ERRADDR [g] firstBad).wr .TEL_MTG_CTL [g] (setBits v 6 1 0)

section
variable {g v : Nat} (hg : g < 40) (hv : v = s.mach.dev.rd .TEL_MTG_CTL [g]) (hbusy : bitAt v 6 = true)
include hg hv hbusy

theorem exec_mtgRunEnd_read (hread : bitsOf v 0 2 ≠ 2) (units errors addr : Nat) : exec (.mtgRunEnd g units errors addr) s =
    .next (s.later (SMap.get 0 s.mach.dev.tel.mtgAt g + bitsOf v 7 25 * usT) (s.mach.dev.mtgEnd g units 0 0 v)) := by
  have hgo : ¬40 ≤ g := by omega
  show execMtgRunEnd g units errors addr s = _
  simp only [execMtgRunEnd, State.run_next, ← hv, hbusy, Bool.not_true, Bool.false_eq_true, or_false, if_neg hgo,
    beq_eq_false_iff_ne.2 hread, if_false, if_true]
  rfl

theorem exec_mtgRunEnd_check (hcheck : bitsOf v 0 2 = 2) {errors : Nat} (herr : errors < 2 ^ 32) (units addr : Nat) :
    exec (.mtgRunEnd g units errors addr) s = .next (s.later (SMap.get 0 s.mach.dev.tel.mtgAt g + bitsOf v 7 25 * usT)
      ((s.mach.dev.scrambleChans g (s.mach.dev.mtgRange g).1 (s.mach.dev.mtgRange g).2 (s.mach.dev.rd .TEL_MTG_CH [g])).mtgEnd g units
        errors (if errors = 0 then 0 else addr % 2 ^ 44) v)) := by
  have hgo : ¬40 ≤ g := by omega
  have hmin : min errors (2 ^ 32 - 1) = errors := by omega
  show execMtgRunEnd g units errors addr s = _
  simp only [execMtgRunEnd, State.run_next, ← hv, hbusy, Bool.not_true, Bool.false_eq_true, or_false, if_neg hgo, beq_iff_eq.2 hcheck, if_true, hmin]
  rfl

end

/-- The bit errors of a lane that a port run compared; a lane left out has none (R642). -/
def ptgLane (v : Nat) (errs : List Nat) (l : Nat) : Nat := if bitAt v (8 + l) = true then errs.getD l 0 % 2 ^ 32 else 0

section
variable {n v : Nat} (hn : n < 36) (hv : v = s.mach.dev.rd .TEL_PTG_CTL [n]) (hbusy : bitAt v 6 = true)
include hn hv hbusy

theorem exec_ptgRunEnd_frames (hframes : bitsOf v 0 2 ≠ 1) (count : Nat) (errs : List Nat) : exec (.ptgRunEnd n count errs) s =
    .next (s.later (SMap.get 0 s.mach.dev.tel.ptgAt n + bitsOf v 16 32 * usT)
      ((((s.mach.dev.wr .TEL_PTG_CTL [n] (setBits v 6 1 0)).wr .TEL_PTG_RES [n, 0] count).bump .ETH_TXFRM [n] count).emit
        (.test 0x88B6 (leBytes 4 n ++ leBytes 4 count)))) := by
  have hgo : ¬36 ≤ n := by omega
  show execPtgRunEnd n count errs s = _
  simp only [execPtgRunEnd, State.run_next, ← hv, hbusy, Bool.not_true, Bool.false_eq_true, or_false, if_neg hgo, if_neg hframes]
  rfl

theorem exec_ptgRunEnd_lanes (hlanes : bitsOf v 0 2 = 1) (count : Nat) (errs : List Nat) : exec (.ptgRunEnd n count errs) s =
    .next (s.later (SMap.get 0 s.mach.dev.tel.ptgAt n + bitsOf v 16 32 * usT)
      (((s.mach.dev.wr .TEL_PTG_CTL [n] (setBits v 6 1 0)).wr .TEL_PTG_RES [n, 0] count).onTel fun t => { t with
        laneErr := (List.range 4).foldl (fun l i => l.put 0 (n * 4 + i) (ptgLane v errs (2 * i) + ptgLane v errs (2 * i + 1) * 2 ^ 32))
          t.laneErr })) := by
  have hgo : ¬36 ≤ n := by omega
  show execPtgRunEnd n count errs s = _
  simp only [execPtgRunEnd, State.run_next, ← hv, hbusy, Bool.not_true, Bool.false_eq_true, or_false, if_neg hgo, if_pos hlanes]
  rfl

end

/-- A TAP instruction that only reads (R643). -/
abbrev tapReads (t : Tap) : Prop := t = .bypass ∨ t = .idcode ∨ t = .sample ∨ t = .sensors

theorem exec_tapInstruction_granted (hoff : s.mach.und.st ≠ .off) {t : Tap} (h : s.mach.und.st = .recovery ∨ tapReads t) :
    exec (.tapInstruction t) s =
      .next (s.withMach (s.mach.onUnd fun u => { u with mgmt := { u.mgmt with tap := tapCode t } })) := by
  show execTapInstruction t s = _
  unfold execTapInstruction
  refine congrArg (fun m => Host.Outcome.next (s.withMach m)) ((if_neg hoff).trans (if_pos ?_))
  obtain hrcv | rfl | rfl | rfl | rfl := h
  · rw [hrcv, beq_self_eq_true, Bool.true_or]
  all_goals exact Bool.or_true _

theorem exec_tapInstruction_denied (hoff : s.mach.und.st ≠ .off) {t : Tap} (hrcv : s.mach.und.st ≠ .recovery) (ht : ¬tapReads t) :
    exec (.tapInstruction t) s = .next (s.withMach { s.mach.onUnd fun u => { u with mgmt := { u.mgmt with tap := tapCode .bypass } } with
      dev := s.mach.dev.bump .TEL_JTAGDENY }) := by
  show execTapInstruction t s = _
  unfold execTapInstruction
  refine congrArg (fun m => Host.Outcome.next (s.withMach m)) ((if_neg hoff).trans (if_neg ?_))
  rw [beq_eq_false_iff_ne.2 hrcv, Bool.false_or]
  cases t with
  | bypass | idcode | sample | sensors => simp [tapReads] at ht
  | extest | scan | wrappers | margin | traffic | other => exact Bool.false_ne_true

end

/-- Settles O59, service by service. -/
theorem testServicesAct : Obligations.TestServicesAct := by
  unfold Obligations.TestServicesAct
  intro s
  refine ⟨fun h => ⟨exec_hlatchGo h, exec_marginGo h, fun g v hg => ⟨exec_mtgReadBw h hg v, exec_mtgWriteCheck h hg v⟩,
      fun n v hn => ⟨exec_ptgLanePrbs h hn v, exec_ptgFrames h hn v⟩⟩,
    exec_hlatchDone,
    fun errors bits hbusy => exec_marginDwellEnd rfl hbusy errors bits,
    fun g units errors addr hg hbusy hread => exec_mtgRunEnd_read hg rfl hbusy hread units errors addr,
    fun g units errors addr hg hbusy hcheck herr => exec_mtgRunEnd_check hg rfl hbusy hcheck herr units addr,
    fun n count errs hn hbusy hframes => exec_ptgRunEnd_frames hn rfl hbusy hframes count errs,
    fun n count errs hn hbusy hlanes => exec_ptgRunEnd_lanes hn rfl hbusy hlanes count errs,
    fun t hoff => ⟨exec_tapInstruction_granted hoff, fun hrcv hbypass hidcode hsample hsensors => ?denied⟩⟩
  case denied => exact exec_tapInstruction_denied hoff hrcv (not_or.2 ⟨hbypass, not_or.2 ⟨hidcode, not_or.2 ⟨hsample, hsensors⟩⟩⟩)

/-! ### I3C management, connectors and clocks (spec/20 R651 to R660) -/

/-- The management part replaced. -/
def Mach.putMgmt (m : Mach) (x : Mgmt) : Mach := m.onUnd fun u => { u with mgmt := x }

theorem Mach.onMgmt_eq (m : Mach) (f : Mgmt → Mgmt) : m.onMgmt f = m.putMgmt (f m.und.mgmt) := rfl

section
variable {s : State}

section
variable {addr : Nat} (hmine : s.mach.i3cMine addr = true)
include hmine

theorem exec_i3cPrivateWrite {bs : List Byte} (hlen : 2 ≤ bs.length) {w : Mach}
    (hw : w = s.mach.putMgmt { s.mach.und.mgmt with i3cPtr := recNum bs 0 2 }) : exec (.i3cPrivateWrite addr bs) s =
    .next (s.withMach (if bs.length = 10 then w.i3cWrite (i3cOff (recNum bs 0 2)) (recNum bs 2 8) else w)) := by
  show execI3cPrivateWrite addr bs s = _
  simp only [execI3cPrivateWrite, State.run_next, hmine, decide_eq_false (Nat.not_lt.2 hlen), Bool.not_true, Bool.or_self, Bool.false_eq_true,
    if_false, Mach.onMgmt_eq, hw]

theorem exec_i3cPrivateRead (n : Nat) : exec (.i3cPrivateRead addr n) s =
    .next (s.withMach ((s.mach.i3cRegs (ceilDiv n 8)).1.emit (.i3c ((s.mach.i3cRegs (ceilDiv n 8)).2.take n)))) := by
  show execI3cPrivateRead addr n s = _
  simp only [execI3cPrivateRead, State.run_next, hmine, Bool.not_true, Bool.false_eq_true, if_false]

/-- A read that the I3C standard gives the target is answered at its address. -/
theorem Mach.i3cStd_mine (k n : Nat) :
    s.mach.i3cStd addr k n = s.mach.emit (.i3c ((List.range n).map fun i => Config.i3cStdByte (k + i))) := by
  rw [Mach.i3cStd, if_pos hmine]

theorem exec_getpid : exec (.getpid addr) s = .next (s.withMach (s.mach.emit (.i3c ((List.range 6).map fun i => Config.i3cStdByte (0 + i))))) := by
  show execGetpid addr s = _
  rw [execGetpid, State.run_next, Mach.i3cStd_mine hmine]

theorem exec_getbcr : exec (.getbcr addr) s = .next (s.withMach (s.mach.emit (.i3c ((List.range 1).map fun i => Config.i3cStdByte (6 + i))))) := by
  show execGetbcr addr s = _
  rw [execGetbcr, State.run_next, Mach.i3cStd_mine hmine]

theorem exec_getdcr : exec (.getdcr addr) s = .next (s.withMach (s.mach.emit (.i3c ((List.range 1).map fun i => Config.i3cStdByte (7 + i))))) := by
  show execGetdcr addr s = _
  rw [execGetdcr, State.run_next, Mach.i3cStd_mine hmine]

theorem exec_getstatus : exec (.getstatus addr) s = .next (s.withDev
    ((s.mach.dev.emit (.i3c [Config.freeByte s.mach.dev.fresh, Config.freeByte (s.mach.dev.fresh + 1)])).useFree 2)) := by
  show execGetstatus addr s = _
  simp only [execGetstatus, State.run_next, hmine, Bool.not_true, Bool.false_eq_true, if_false]
  rfl

end

section
variable {addr : Nat} (hoff : s.mach.und.st ≠ .off) (hnone : s.mach.und.mgmt.i3cAddr = 0) (hlo : 0 < addr) (hhi : addr < 128)
include hoff hnone hlo hhi

theorem exec_entdaa : exec (.entdaa addr) s = .next (s.withMach (s.mach.putMgmt { s.mach.und.mgmt with i3cAddr := addr })) := by
  have hgo : ¬(s.mach.und.st = .off ∨ s.mach.und.mgmt.i3cAddr ≠ 0 ∨ addr = 0 ∨ 128 ≤ addr) := by
    rintro (h | h | h)
    · exact hoff h
    · exact h hnone
    · omega
  show execEntdaa addr s = _
  rw [execEntdaa, State.run_next, if_neg hgo, Mach.onMgmt_eq]

theorem exec_setdasa : exec (.setdasa s.mach.und.mgmt.static addr) s =
    .next (s.withMach (s.mach.putMgmt { s.mach.und.mgmt with i3cAddr := addr })) := by
  have hgo : ¬(s.mach.und.st = .off ∨ s.mach.und.mgmt.i3cAddr ≠ 0 ∨ s.mach.und.mgmt.static ≠ s.mach.und.mgmt.static ∨ addr = 0 ∨
      128 ≤ addr) := by
    rintro (h | h | h | h)
    · exact hoff h
    · exact h hnone
    · exact h rfl
    · omega
  show execSetdasa s.mach.und.mgmt.static addr s = _
  rw [execSetdasa, State.run_next, if_neg hgo, Mach.onMgmt_eq]

end

theorem exec_rstdaa (hoff : s.mach.und.st ≠ .off) :
    exec .rstdaa s = .next (s.withMach (s.mach.putMgmt { s.mach.und.mgmt with i3cAddr := 0 })) := by
  show execRstdaa s = _
  rw [execRstdaa, State.run_next, if_neg hoff, Mach.onMgmt_eq]

section
variable {k : Nat} (hconn : s.fuse.conn k = true)
include hconn

theorem exec_cprsNChange_inserted :
    exec (.cprsNChange k true) s = .next (s.withMach (s.mach.putMgmt { s.mach.und.mgmt with cprs := setBits s.mach.und.mgmt.cprs k 1 1 })) := by
  show execCprsNChange k true s = _
  simp only [execCprsNChange, State.run_next, hconn, Bool.not_true, Bool.false_eq_true, if_false, if_true, Mach.onMgmt_eq]

theorem exec_cprsNChange_removed : exec (.cprsNChange k false) s = .next (s.withMach
    ((s.mach.putMgmt { s.mach.und.mgmt with cprs := setBits s.mach.und.mgmt.cprs k 1 0 }).portsDown fun n => n / 4 == k)) := by
  show execCprsNChange k false s = _
  simp only [execCprsNChange, State.run_next, hconn, Bool.not_true, Bool.false_eq_true, if_false, Mach.onMgmt_eq]

theorem exec_vauxOvercurrent (hvaux : s.mach.vauxOn k = true) : exec (.vauxOvercurrent k) s = .next (s.withMach
    ((s.mach.putMgmt { s.mach.und.mgmt with vauxOff := setBits s.mach.und.mgmt.vauxOff k 1 1 }).portsDown fun n => n / 4 == k)) := by
  show execVauxOvercurrent k s = _
  simp only [execVauxOvercurrent, State.run_next, hconn, hvaux, Bool.not_true, Bool.or_self, Bool.false_eq_true, if_false, Mach.onMgmt_eq]

theorem exec_cIntN (hvaux : s.mach.vauxOn k = true) {j : Nat} (hj : j < 4) (hmode : s.mach.dev.portMode (4 * k + j) ≠ 0)
    (hcmis : s.mach.dev.cfgF .ETH_PORT [4 * k + j] 3 1 = 1) :
    exec (.cIntN k) s = .next (s.withMach (s.mach.emit (.test 0xC315 (leBytes 1 k)))) := by
  have hmodule : (List.range 4).any (fun j => s.mach.dev.portMode (4 * k + j) != 0 && s.mach.dev.cfgF .ETH_PORT [4 * k + j] 3 1 == 1) = true :=
    List.any_eq_true.2 ⟨j, List.mem_range.2 hj, Bool.and_eq_true_iff.2 ⟨bne_iff_ne.2 hmode, beq_iff_eq.2 hcmis⟩⟩
  show execCIntN k s = _
  rw [execCIntN, State.run_next, hconn, hvaux, hmodule, Bool.and_self, Bool.and_self, if_pos rfl]

end

theorem exec_sdclkLoss (s : State) :
    exec .sdclkLoss s = .next (s.withMach (({ s.mach with und := { s.mach.und with sdclk := false } } : Mach).portsDown fun _ => true)) := rfl

theorem exec_sdclkReturn (h : s.mach.und.st.serves = true) :
    exec .sdclkReturn s = .next (s.withMach ⟨s.mach.nv, { s.mach.und with sdclk := true },
      (List.range 36).foldl (fun d n => if (d.portMode n != 0 && (d.port n).up == 0) = true then
        d.modPort n fun p => { p with training := true } else d) s.mach.dev⟩) := by
  show execSdclkReturn s = _
  rw [execSdclkReturn, State.run_next]
  exact congrArg (fun m => Host.Outcome.next (s.withMach m)) (if_pos h)

theorem exec_refclkLoss (s : State) :
    exec .refclkLoss s = .next (s.withMach ({ s.mach with und := { s.mach.und with refclk := false } } : Mach).cxlDown) := rfl

theorem exec_refclkReturn (s : State) :
    exec .refclkReturn s = .next (s.withMach { s.mach with und := { s.mach.und with refclk := true } }) := rfl

end

/-- Settles O60: one lemma per transfer, pin and clock. -/
theorem managementAndConnectorsAct : Obligations.ManagementAndConnectorsAct := by
  unfold Obligations.ManagementAndConnectorsAct
  refine ⟨fun s addr hoff => ⟨fun hmine => ?target, fun hnone hlo hhi => ⟨exec_entdaa hoff hnone hlo hhi, exec_setdasa hoff hnone hlo hhi⟩,
      exec_rstdaa hoff⟩,
    fun s k => ⟨fun hconn => ?connector, exec_sdclkLoss s, exec_sdclkReturn, exec_refclkLoss s, exec_refclkReturn s⟩⟩
  case target =>
    exact ⟨fun bs hlen => exec_i3cPrivateWrite hmine hlen rfl, exec_i3cPrivateRead hmine, exec_getpid hmine, exec_getbcr hmine,
      exec_getdcr hmine, exec_getstatus hmine⟩
  case connector =>
    exact ⟨exec_cprsNChange_inserted hconn, exec_cprsNChange_removed hconn, exec_vauxOvercurrent hconn,
      fun j hvaux hj hmode hcmis => exec_cIntN hconn hvaux hj hmode hcmis⟩

end Sys2Proof.Machine
